-- ==== Sys2Proof/Word.lean ====
section
/-! DEFINITION. The byte and word types of the model. -/
namespace Sys2Proof

/-- One byte of a frame, a record or a stored string. -/
abbrev Byte := BitVec 8

/-- A byte string, in the order it travels (R7). -/
abbrev Bytes := List Byte

/-- A furrow word or scalar register: 24 bits (R314, R319). -/
abbrev Word24 := BitVec 24

/-- A scratch register of a Caddy thread: 32 bits (R367). -/
abbrev Word32 := BitVec 32

end Sys2Proof
end

