-- ==== Sys2Proof/Syntax.lean ====
section
/-! DEFINITION. The commands the block takes: one constructor of Instr per row of spec/opcode_table.json, with its
operands. Numbers the spec gives as identifiers (fields, ports, tags, handles) are Nat; WellFormed states their ranges. -/
namespace Sys2Proof

/-- How a record or frame reached the part: host port, source address, 802.1Q tag control word if any (PCP, DEI, VID),
and the MACsec SCI it was validated under if any (R19, R91, R410). -/
structure Ctx where
  port : Nat
  src : Nat
  tci : Option Nat
  sci : Option Nat
deriving DecidableEq, Repr, Inhabited

/-- A physical fault that strikes while a command runs, as R485 lists the checks that find one, and the Granary
read-back failure of R134, R201, R412 and R460. It comes from outside the block's logic (log entry 10). -/
inductive Hit where
  | none      -- no fault
  | twin      -- the twin check fails (R110, R487)
  | tally     -- a Tally pair that is neither pass nor fail (R110)
  | blob      -- the wrap or tag of a blob fails (R127)
  | desc (k : Nat)   -- the DMAC of the descriptor of the k-th handle it names fails (R126)
  | result    -- the RSA result check or the on-curve check fails (R229, R233)
  | stream    -- the McEliece stream tag differs (R219)
  | granary   -- a Granary record fails its read-back three times
  | loop      -- no signature after 1,024 iterations (R171), or r = 0 or s = 0 with DET 0 (R230)
deriving DecidableEq, Repr

/-- A Drill command record (R70) with what its frame gave it. admitted says that a request frame has already admitted
the record, so that this step carries on from step 7 of the command checks; otherwise the step makes steps 1 to 6 too. -/
structure CmdRec where
  inst : Nat
  tag : Nat
  expert : Bool
  flags : Nat
  params : Bytes
  seq : Nat
  pos : Nat
  prio : Nat
  ordered : Bool
  ctx : Ctx
  admitted : Bool
  hit : Hit
deriving DecidableEq, Repr

/-- The MACsec SecTAG of a received frame, whether its ICV is right (R93, R95), and the frame's bytes behind its addresses and 802.1Q tag
as they stand on the wire, from the SecTAG to the ICV. -/
structure SecTag where
  sci : Nat
  an : Nat
  pn : Nat
  encrypted : Bool
  icvOk : Bool
  wire : Bytes := []
deriving DecidableEq, Repr

/-- A frame as a host port receives it (R65): len counts from the destination address through the FCS; body holds every
byte after the EtherType and before the FCS (under MACsec, the secure data). -/
structure RxFrame where
  port : Nat
  fcsOk : Bool
  len : Nat
  dst : Nat
  src : Nat
  tci : Option Nat
  ethertype : Nat
  sec : Option SecTag
  body : Bytes
deriving DecidableEq, Repr

/-- The Ethernet forms of R524. -/
inductive EthForm where
  | kr1 | cr1 | kr2 | cr2 | kr4 | cr4
deriving DecidableEq, Repr

/-- Furrow number within its field (R4). -/
structure FurrowRef where
  field : Nat
  furrow : Nat
deriving DecidableEq, Repr

/-- What SEC-DED finds while an instruction runs (R321, R336): its own word in instruction memory is beyond repair; words it reads
that are corrected; words it reads that are not. It comes from outside the block's logic (log entry 10). -/
structure Ecc where
  imem : Bool := false
  fixed : List Nat := []
  bad : List Nat := []
deriving DecidableEq, Repr, Inhabited

/-- The fields of a 48-bit Saivo instruction below OP (R341), and what SEC-DED finds. -/
structure SaivoFields where
  t : Nat
  l : Nat
  m : Nat
  d : Nat
  a : Nat
  b : Nat
  q : Nat
  f : Nat
  c : Nat
  ecc : Ecc := {}
deriving DecidableEq, Repr

/-- A Caddy thread of a field (R366). -/
structure ThreadRef where
  field : Nat
  thread : Nat
deriving DecidableEq, Repr

/-- A thread at a KEY gate, and the fault that strikes its descriptor or blob, if one does. -/
structure GateRef where
  thread : ThreadRef
  hit : Hit := .none
deriving DecidableEq, Repr

/-- The fields of a microword other than NXT and PAR (R369); rest holds bits [98:0]. -/
structure Micro where
  addr : Nat
  cond : Nat
  atom : Bool
  xop : Nat
  xd : Nat
  xa : Nat
  xb : Nat
  imm : Nat
  rest : Nat
deriving DecidableEq, Repr

/-- What the power and reset manager measures (R544), in milliwatts: the window average, the estimate after ungating the
next field, and the estimate at each set point (MHz) it could raise the dispatchable fields to (R545). -/
structure PowerReading where
  average : Nat
  ungateEstimate : Nat
  raiseEstimates : List (Nat × Nat)
deriving DecidableEq, Repr

/-- How the retries of a failed burst end (R450). -/
inductive EdcEnd where
  | retried (n : Nat)   -- a retry succeeds
  | retrained           -- the retry after the retraining succeeds
  | final               -- that retry fails too
deriving DecidableEq, Repr

/-- A burst whose EDC check fails (R450), with the command whose access it belongs to. -/
structure EdcFault where
  field : Nat
  channel : Nat
  page : Nat
  write : Bool
  outcome : EdcEnd
  inst : Nat
  tag : Nat
deriving DecidableEq, Repr

/-- What the test access port is asked for (R476). -/
inductive JtagOp where
  | idcode
  | bypass
  | furrowReg (u : FurrowRef) (r : Nat)
  | furrowWord (u : FurrowRef) (addr : Nat)
  | caddyReg (t : ThreadRef) (r : Nat)
  | islandSetPoint (field : Nat)
  | sealedState (field : Nat)   -- Silo array, key registers, Steep, leaf streams, Granary write port, fuse controller
deriving DecidableEq, Repr

/-- The commands of the block, in the order of spec/opcode_table.json. -/
inductive Instr where
  | powerUp (strap : BitVec 6)
  | resetNAssert (longEnough : Bool)
  | powerDown
  | resetNRelease
  | selfTestComplete (failed : List Nat)
  | selfTestTimeout (field : Nat)
  | bootstrapLinkUp
  | hostLinkUp (port : Nat) (partner : List EthForm)
  | hostLinkDown (port : Nat)
  | refclkSdStop
  | refclkSysStop
  | requestFrame (f : RxFrame)
  | dataSegment (f : RxFrame)
  | segGapExpiry (inst xfer : Nat)
  | creditQuery (f : RxFrame)
  | creditUpdateTimer (inst : Nat)
  | mailboxFrame (f : RxFrame)
  | mboxDoorbellRepeat (tenant : Nat) (toTenant : Bool)
  | pauseFrameRx (port : Nat) (prios : BitVec 8) (on : Bool)
  | replyRelease (inst tag : Nat)
  | padExpiry (inst tag : Nat)
  | pending (inst tag : Nat)
  | rngWaitExpiry (inst tag : Nat)
  | eventSend (inst : Nat)
  | identify (r : CmdRec)
  | enable (r : CmdRec)
  | reset (r : CmdRec)
  | resetExecute
  | instanceReset (r : CmdRec)
  | fallow (r : CmdRec)
  | fallowDrainDone
  | wake (r : CmdRec)
  | recover (r : CmdRec)
  | recoverDrainTimeout
  | echo (r : CmdRec)
  | modeSet (r : CmdRec)
  | macsecSa (r : CmdRec)
  | keyGenerate (r : CmdRec)
  | keyLoad (r : CmdRec)
  | keyLoadPublic (r : CmdRec)
  | keyUnwrap (r : CmdRec)
  | keyWrap (r : CmdRec)
  | keyDerive (r : CmdRec)
  | keyDestroy (r : CmdRec)
  | keyNarrow (r : CmdRec)
  | keyInfo (r : CmdRec)
  | keyExportPublic (r : CmdRec)
  | siloSlotsFree (field : Nat)
  | mlkemKeygen (r : CmdRec)
  | mlkemEncaps (r : CmdRec)
  | mlkemDecaps (r : CmdRec)
  | hybridEncaps (r : CmdRec)
  | hybridDecaps (r : CmdRec)
  | mldsaSign (r : CmdRec)
  | mldsaVerify (r : CmdRec)
  | hybridSign (r : CmdRec)
  | hybridVerify (r : CmdRec)
  | slhdsaSign (r : CmdRec)
  | slhdsaVerify (r : CmdRec)
  | statefulKeygen (r : CmdRec)
  | statefulSign (r : CmdRec)
  | leafReservationDone (handle : Nat) (ok : Bool)
  | statefulVerify (r : CmdRec)
  | statefulStatus (r : CmdRec)
  | statefulSetBlock (r : CmdRec)
  | cacheRebuildDone (handle : Nat)
  | mceEncaps (r : CmdRec)
  | mceDecaps (r : CmdRec)
  | rsaEncrypt (r : CmdRec)
  | rsaDecrypt (r : CmdRec)
  | rsaSign (r : CmdRec)
  | rsaVerify (r : CmdRec)
  | ecdsaSign (r : CmdRec)
  | ecdsaVerify (r : CmdRec)
  | ecAgree (r : CmdRec)
  | eddsaSign (r : CmdRec)
  | eddsaVerify (r : CmdRec)
  | digest (r : CmdRec)
  | macGen (r : CmdRec)
  | macVerify (r : CmdRec)
  | digestCompare (r : CmdRec)
  | contextSaveDone (field ctx : Nat)
  | contextRestoreDone (field ctx : Nat) (wrapOk : Bool)
  | winnowContextFree (field : Nat)
  | aeadSeal (r : CmdRec)
  | aeadOpen (r : CmdRec)
  | saInstall (r : CmdRec)
  | saRetire (r : CmdRec)
  | saInfo (r : CmdRec)
  | cmacGen (r : CmdRec)
  | cmacVerify (r : CmdRec)
  | hostPortInlineFrame (f : RxFrame)
  | linePortFrame (f : RxFrame)
  | saLifetimeScan
  | randomGenerate (r : CmdRec)
  | rngHealth (r : CmdRec)
  | rngConfig (r : CmdRec)
  | seedbedStartupDone (field : Nat)
  | healthFailure (field source : Nat) (apt : Bool)
  | seedbedHealthWindow (field source ones : Nat) (ac : List Int)
  | steepReseed (field : Nat)
  | leafSeedRequest (field acre : Nat)
  | leafSwitchPoint (field acre : Nat)
  | programLoad (r : CmdRec)
  | programRun (r : CmdRec)
  | programUnload (r : CmdRec)
  | programInfo (r : CmdRec)
  | acreFreeRunStart (field acre : Nat)
  | furrowWatchdog (u : FurrowRef)
  | li (u : FurrowRef) (i : SaivoFields)
  | alu (u : FurrowRef) (i : SaivoFields)
  | alui (u : FurrowRef) (i : SaivoFields)
  | ld (u : FurrowRef) (i : SaivoFields)
  | st (u : FurrowRef) (i : SaivoFields)
  | br (u : FurrowRef) (i : SaivoFields)
  | jmp (u : FurrowRef) (i : SaivoFields)
  | jal (u : FurrowRef) (i : SaivoFields)
  | jr (u : FurrowRef) (i : SaivoFields)
  | loop (u : FurrowRef) (i : SaivoFields)
  | barrier (u : FurrowRef) (i : SaivoFields)
  | halt (u : FurrowRef) (i : SaivoFields)
  | retry (u : FurrowRef) (i : SaivoFields)
  | abort (u : FurrowRef) (i : SaivoFields)
  | frec (u : FurrowRef) (i : SaivoFields)
  | qld (u : FurrowRef) (i : SaivoFields)
  | tread (u : FurrowRef) (i : SaivoFields)
  | mop (u : FurrowRef) (i : SaivoFields)
  | mset (u : FurrowRef) (i : SaivoFields)
  | mget (u : FurrowRef) (i : SaivoFields)
  | vmov (u : FurrowRef) (i : SaivoFields)
  | vbcast (u : FurrowRef) (i : SaivoFields)
  | vext (u : FurrowRef) (i : SaivoFields)
  | vins (u : FurrowRef) (i : SaivoFields)
  | valu (u : FurrowRef) (i : SaivoFields)
  | valui (u : FurrowRef) (i : SaivoFields)
  | vcmp (u : FurrowRef) (i : SaivoFields)
  | qadd (u : FurrowRef) (i : SaivoFields)
  | qsub (u : FurrowRef) (i : SaivoFields)
  | qmulh (u : FurrowRef) (i : SaivoFields)
  | qrshr (u : FurrowRef) (i : SaivoFields)
  | modadd (u : FurrowRef) (i : SaivoFields)
  | modsub (u : FurrowRef) (i : SaivoFields)
  | modmul (u : FurrowRef) (i : SaivoFields)
  | barrett (u : FurrowRef) (i : SaivoFields)
  | compress (u : FurrowRef) (i : SaivoFields)
  | decompress (u : FurrowRef) (i : SaivoFields)
  | p2round (u : FurrowRef) (i : SaivoFields)
  | decompose (u : FurrowRef) (i : SaivoFields)
  | vld (u : FurrowRef) (i : SaivoFields)
  | vst (u : FurrowRef) (i : SaivoFields)
  | ld2Ld4 (u : FurrowRef) (k : Nat) (i : SaivoFields)
  | st2St4 (u : FurrowRef) (k : Nat) (i : SaivoFields)
  | gather (u : FurrowRef) (i : SaivoFields)
  | scatter (u : FurrowRef) (i : SaivoFields)
  | shuf (u : FurrowRef) (i : SaivoFields)
  | shmask (u : FurrowRef) (i : SaivoFields)
  | shadd (u : FurrowRef) (i : SaivoFields)
  | shsub (u : FurrowRef) (i : SaivoFields)
  | shpub (u : FurrowRef) (i : SaivoFields)
  | shmul (u : FurrowRef) (i : SaivoFields)
  | srefresh (u : FurrowRef) (i : SaivoFields)
  | sa2b (u : FurrowRef) (i : SaivoFields)
  | sb2a (u : FurrowRef) (i : SaivoFields)
  | scmp (u : FurrowRef) (i : SaivoFields)
  | ssel (u : FurrowRef) (i : SaivoFields)
  | recomb (u : FurrowRef) (i : SaivoFields)
  | shst (u : FurrowRef) (i : SaivoFields)
  | shld (u : FurrowRef) (i : SaivoFields)
  | ucodeVersion (r : CmdRec)
  | ucodePatchStore (r : CmdRec)
  | openLoad (r : CmdRec)
  | openClear (r : CmdRec)
  | customerOpcode (opcode : Nat) (r : CmdRec)
  | caddyThreadFree (field : Nat)
  | nextWord (t : ThreadRef) (w : Micro)
  | jumpWord (t : ThreadRef) (w : Micro)
  | callWord (t : ThreadRef) (w : Micro)
  | retWord (t : ThreadRef) (w : Micro)
  | branchWord (t : ThreadRef) (w : Micro)
  | endWord (t : ThreadRef) (w : Micro)
  | yieldWord (t : ThreadRef) (w : Micro)
  | waitWord (t : ThreadRef) (w : Micro)
  | dispatchWord (t : ThreadRef) (w : Micro)
  | trapWord (t : ThreadRef) (w : Micro)
  | gateKey (g : GateRef)
  | gateQuota (t : ThreadRef)
  | gateDraw (t : ThreadRef)
  | gateProgram (t : ThreadRef)
  | gateDigest (t : ThreadRef)
  | gateTally (t : ThreadRef)
  | gateNewkey (t : ThreadRef)
  | gateResult (t : ThreadRef)
  | microcodeRunLimit (t : ThreadRef)
  | parityError (field word : Nat)
  | controlStoreReloadDone (field : Nat)
  | controlStoreScrub (field : Nat) (bad : Bool)
  | tkOpen (r : CmdRec)
  | tkStep (r : CmdRec)
  | tkDecide (r : CmdRec)
  | tkSend (r : CmdRec)
  | tkClose (r : CmdRec)
  | tkIdleExpiry (handle : Nat)
  | sheafSign (r : CmdRec)
  | sheafVerify (r : CmdRec)
  | attest (r : CmdRec)
  | instanceCreate (r : CmdRec)
  | instanceDestroy (r : CmdRec)
  | shareSet (r : CmdRec)
  | instanceInfo (r : CmdRec)
  | instanceBind (r : CmdRec)
  | instanceList (r : CmdRec)
  | mboxStatus (r : CmdRec)
  | settingGet (r : CmdRec)
  | settingSet (r : CmdRec)
  | storeSettings (r : CmdRec)
  | lifecycleStatus (r : CmdRec)
  | attestBoot (r : CmdRec)
  | debugUnlock (r : CmdRec)
  | lcAdvance (r : CmdRec)
  | ownerSet (r : CmdRec)
  | identityInfo (r : CmdRec)
  | gleanRead (r : CmdRec)
  | logRead (r : CmdRec)
  | alarmRead (r : CmdRec)
  | timeGet (r : CmdRec)
  | timeCtl (r : CmdRec)
  | gleanCtl (r : CmdRec)
  | pageMeta (r : CmdRec)
  | diagRun (r : CmdRec)
  | diagWord (r : CmdRec)
  | diagResume (r : CmdRec)
  | telemetryPeriod
  | ptpSyncRx (port : Nat) (offset : Int)
  | ptpSyncTimeout
  | ppsInEdge
  | ppsInMissed
  | ppsOutSecond
  | fieldAliveFall (field : Nat)
  | headlandFailover
  | plolysCrcFail (field port : Nat)
  | plolysLinkDown (field port : Nat)
  | sensorTrip (field cls island detail : Nat)
  | alarmLineReceived (field source : Nat)
  | tamperMismatch (input : Nat)
  | tempSensorReading (field sensor : Nat) (celsius : Int)
  | thermalShutdown (field : Nat)
  | powerWindow (m : PowerReading)
  | cappedGateDrained (field : Nat)
  | powerReversalStep (m : PowerReading)
  | brownNLow
  | brownNHigh
  | gddr6Refresh (field channel : Nat)
  | gddr6TemperatureRead (field : Nat) (celsius : Int)
  | retrainDue (field : Nat) (queued : Bool)
  | retrainDeferLimit (field : Nat)
  | edcFailure (e : EdcFault)
  | harrowVisit (field symbols : Nat) (verifyBad : Bool)
  | pageRetirement (field page : Nat) (spareBad recordBad : Bool)
  | mergeIdleTimer (field page : Nat)
  | whiskRequestPromotion (field : Nat)
  | serviceBufferSpaceFree
  | lcAdvanceDrainTimeout
  | refclkSdReturn
  | refclkSysReturn
  | vddCoreBelow075V (field : Nat)
  | vppFuseVoltageOutsideTest (field : Nat)
  | jtagTapAccess (j : JtagOp)
  | pauseRefresh (port prio : Nat)
  | pauseTimerExpiry (port prio : Nat)
deriving DecidableEq, Repr

end Sys2Proof
end

