-- ==== Sys2Proof/Decode.lean ====
section
/-! DEFINITION. Decoding of table words. The table gives no row any bits, so no word spells a command. -/
namespace Sys2Proof

/-- The command a word of the opcode table spells: none, because spec/opcode_table.json gives no row a bit (log entry 15). -/
def decodeTableWord (_nbits _w : Nat) : Option Instr := none

end Sys2Proof
end

