-- ==== Sys2Proof/Config.lean ====
section
/-! DEFINITION. What the model leaves open: functions the spec fixes only by citing a standard, and values nobody can
predict. Every one is opaque: nothing in Lean can evaluate it (log entries 7 and 11). -/
namespace Sys2Proof.Config

/-- The functions of cited standards that the part computes (log entry 11). The arguments are byte strings in the order
the rule that uses the function gives them. -/
inductive Std where
  | aesCmac | aesKeyWrap | aesKeyUnwrap | sha2 (alg : Nat) | keccakF | pkStream
  | aeadSeal (mode : Nat) | aeadOpen (mode : Nat) | aeadState (mode : Nat) | kemKeygen (set : Nat) | kemEncaps (set : Nat) | kemDecaps (set : Nat)
  | mldsaKeygen (set : Nat) | mldsaSign (set : Nat) | slhKeygen (set : Nat) | slhSign (set : Nat)
  | statefulKeygen (oid : Nat) | statefulSign (oid : Nat) | mceKeygen (set : Nat) | mceEncaps (set : Nat)
  | mceDecaps (set : Nat) | rsaKeygen (bits : Nat) | rsaEncrypt (pad : Nat) | rsaDecrypt (pad : Nat) | rsaSign (pad : Nat)
  | ecPublic (curve : Nat) | ecdsaSign (curve : Nat) | ecAgree (curve : Nat) | eddsaSign (curve : Nat)
  | ikeOctets (own : Bool) | ikeKeymat | ikeSeal | ikeOpen
  | tamperPattern | hashState (op : Nat)
deriving DecidableEq, Repr

/-- The verdicts of cited standards: a verification passes, a decoding is well formed (log entry 11). -/
inductive Test where
  | keyUnwrap | aeadTag (mode : Nat) | mldsa (set : Nat) | slh (set : Nat)
  | stateful (type : Nat) | rsaPadding (pad : Nat) | rsaVerify (pad : Nat) | ecdsa (curve : Nat) | eddsa (curve : Nat)
  | ikeIntegrity
deriving DecidableEq, Repr

/-- The byte string a standard's function gives. -/
opaque std (f : Std) (args : List Bytes) : Bytes

/-- The verdict a standard's check gives. -/
opaque test (f : Test) (args : List Bytes) : Bool

/-- A number a standard's function gives (a message's type, a count). -/
opaque num (f : Std) (args : List Bytes) : Nat

/-- The byte at place i of the free value with this serial number: random output, and every other value the spec leaves
open (log entry 7). -/
opaque fresh (serial : Nat) (i : Nat) : Byte

/-- The association number R274 takes from NEXT; the spec does not say how (log entry 24). -/
opaque an (next : Nat) : Fin 4

/-- The flow control a host port runs once ENABLE has configured it: 0 none, 1 802.3x pause, 2 PFC. No setting chooses it
(log entry 44). -/
opaque flowControl (port : Nat) : Fin 3

/-- ORDERED and PRIO in the header of a frame the part sends, by its instance and tag; the spec gives them a meaning in host frames
alone (log entry 88). -/
opaque sentClass (inst seq : Nat) : Fin 16

/-- The label of the key a descriptor's DMAC is computed under; the spec names none (log entry 100). -/
opaque dmacLabel : Bytes

/-- The raw bit a noise source of a field delivers at a time in nanoseconds (R295; log entry 86). -/
opaque noise (field source time : Nat) : Bool

/-- The masking share of a sealed slot's contents, by field, index and stamp of the use that wrote it (R136, log entry 7). -/
opaque slotShare (f index stamp : Nat) : Nat → Byte

/-- The Nimvoat keys in ROM: the ML-DSA key and the P-384 key that check images, or tokens (R328, R464, R472; log entry 1). -/
opaque vendorKey (token classical : Bool) : Bytes

/-- A microword of the control-store ROM (R384; log entry 121). -/
opaque romWord (address : Nat) : Nat

/-- PACKAGE_ROOT of the modelled part (R461). -/
opaque packageRoot : Bytes

/-- FIELD_ROOT of a field (R461). -/
opaque fieldRoot (f : Nat) : Bytes

/-- IDENTITY of the modelled part: the two public halves, then CERTLEN and the certificate (R465, R467). -/
opaque identity : Bytes

/-- The test program DIAG_RUN runs for a TEST (R523), laid out as an image: Nimvoat's, not in the spec. -/
opaque testImage (test : Nat) : Bytes

end Sys2Proof.Config
end

