-- ==== Sys2Proof/Machine/Bytes.lean ====
section
/-! DEFINITION. Byte strings, bit fields and the header CRC. -/
namespace Sys2Proof.Machine

/-- The number n bytes spell, big-endian (R7). -/
def beNat (bs : Bytes) : Nat := bs.foldl (fun a b => a * 256 + b.toNat) 0

/-- The number n bytes spell, little-endian. -/
def leNat (bs : Bytes) : Nat := beNat bs.reverse

/-- A number in n bytes, big-endian (R7). -/
def toBE : Nat → Nat → Bytes
  | 0, _ => []
  | n + 1, v => toBE n (v / 256) ++ [BitVec.ofNat 8 v]

/-- A number in n bytes, little-endian. -/
def toLE (n v : Nat) : Bytes := (toBE n v).reverse

/-- Bytes off to off + n - 1; bytes past the end are absent. -/
def slice (bs : Bytes) (off n : Nat) : Bytes := (bs.drop off).take n

/-- The big-endian number in bytes off to off + n - 1; bytes past the end read as zero. -/
def num (bs : Bytes) (off n : Nat) : Nat := beNat (slice bs off n ++ List.replicate (n - (slice bs off n).length) 0)

/-- One byte as a number. -/
def byteAt (bs : Bytes) (off : Nat) : Nat := (bs.getD off 0).toNat

/-- A byte string cut or padded with zeros to n bytes. -/
def fit (n : Nat) (bs : Bytes) : Bytes := bs.take n ++ List.replicate (n - bs.length) 0

/-- Every byte is zero. -/
def allZero (bs : Bytes) : Bool := bs.all (· == 0)

/-- Bit i of a number. -/
def bit (v i : Nat) : Bool := v.testBit i

/-- Bits [hi:lo] of a number (R5). -/
def bits (v hi lo : Nat) : Nat := (v / 2 ^ lo) % 2 ^ (hi + 1 - lo)

/-- A number clipped at a maximum: saturation (R517). -/
def sat (max v : Nat) : Nat := if v > max then max else v

/-- The least number of units of k that hold n. -/
def ceilDiv (n k : Nat) : Nat := (n + k - 1) / k

/-- A signed number in n bytes, two's complement, big-endian. -/
def toBEInt (n : Nat) (v : Int) : Bytes := toBE n (v % (2 ^ (8 * n) : Int)).toNat

/-- A standard's function with a result of n bytes. -/
def std (n : Nat) (f : Config.Std) (args : List Bytes) : Bytes := fit n (Config.std f args)

/-- ASCII bytes of a label. -/
def ascii (s : String) : Bytes := s.toList.map (fun c => BitVec.ofNat 8 c.toNat)

/-- One bit of the CRC-32C division (R68). -/
def crcBit (c : BitVec 32) : BitVec 32 := if c.getLsbD 0 then (c >>> 1) ^^^ 0x82F63B78#32 else c >>> 1

/-- One byte of the CRC-32C division (R68). -/
def crcByte (c : BitVec 32) (b : Byte) : BitVec 32 :=
  crcBit (crcBit (crcBit (crcBit (crcBit (crcBit (crcBit (crcBit (c ^^^ b.setWidth 32))))))))

/-- CRC-32C: reflected polynomial 0x82F6_3B78, initial value and final XOR all ones (R68). -/
def crc32c (bs : Bytes) : BitVec 32 := bs.foldl crcByte 0xFFFFFFFF#32 ^^^ 0xFFFFFFFF#32

/-- Tag a is later than tag b in 32-bit serial arithmetic (R83). -/
def later (a b : Nat) : Bool := decide (1 ≤ (a + 2 ^ 32 - b % 2 ^ 32) % 2 ^ 32 ∧ (a + 2 ^ 32 - b % 2 ^ 32) % 2 ^ 32 ≤ 2 ^ 31 - 1)

/-- The first failing check of an ordered list (R72, R101). -/
def firstFail {α : Type} (cs : List (Bool × α)) : Option α := (cs.find? (·.1)).map (·.2)

/-- SP 800-108 counter mode with AES-256-CMAC as R286 fixes it: n bytes. -/
def kdfCounter (key label ctx : Bytes) (n : Nat) : Bytes :=
  fit n ((List.range (ceilDiv n 16)).flatMap fun i =>
    std 16 .aesCmac [key, toBE 4 (i + 1) ++ label ++ [0] ++ ctx ++ toBE 4 (8 * n)])

/-- The blocks of SP 800-108 feedback mode (R286): K(i) from K(i - 1). -/
def kdfFeedbackBlocks (key label ctx : Bytes) (n : Nat) : Nat → Bytes → Nat → List Bytes
  | 0, _, _ => []
  | k + 1, prev, i =>
    let blk := std 16 .aesCmac [key, prev ++ toBE 4 i ++ label ++ [0] ++ ctx ++ toBE 4 (8 * n)]
    blk :: kdfFeedbackBlocks key label ctx n k blk (i + 1)

/-- SP 800-108 feedback mode (R286): n bytes. -/
def kdfFeedback (key label ctx : Bytes) (n : Nat) : Bytes :=
  fit n (kdfFeedbackBlocks key label ctx n (ceilDiv n 16) [] 1).flatten

end Sys2Proof.Machine
end

