-- ==== Sys2Proof/Machine/Digests.lean ====
section
/-! DEFINITION. The functions of Winnow (R239 to R245): padding, prefixes, HMAC, KMAC and HKDF over the compression functions of SHA-2
and the permutation of Keccak, which are the standards' (log entry 11). -/
namespace Sys2Proof.Machine

/-- A row of *Winnow functions*: the compression's ALG, block, output (0 for an extendable one) and the padding suffix (0 for
SHA-2). -/
structure HashFn where
  alg : Nat
  block : Nat
  out : Nat
  suffix : Nat
deriving DecidableEq, Repr, Inhabited

/-- *Winnow functions*, unkeyed (R239). -/
def hashFns : List HashFn :=
  [⟨0x01, 64, 28, 0⟩, ⟨0x02, 64, 32, 0⟩, ⟨0x03, 128, 48, 0⟩, ⟨0x04, 128, 64, 0⟩, ⟨0x05, 128, 28, 0⟩, ⟨0x06, 128, 32, 0⟩,
   ⟨0x11, 144, 28, 0x06⟩, ⟨0x12, 136, 32, 0x06⟩, ⟨0x13, 104, 48, 0x06⟩, ⟨0x14, 72, 64, 0x06⟩,
   ⟨0x21, 168, 0, 0x1F⟩, ⟨0x22, 136, 0, 0x1F⟩, ⟨0x31, 168, 0, 0x04⟩, ⟨0x32, 136, 0, 0x04⟩]

/-- The unkeyed function of an ALG. -/
def hashFn? (alg : Nat) : Option HashFn := hashFns.find? (fun f => f.alg == alg)

/-- The unkeyed function of an ALG, or SHA-256. -/
def hashFn (alg : Nat) : HashFn := (hashFn? alg).getD ⟨0x02, 64, 32, 0⟩

/-- The function is a SHA-2 one. -/
def HashFn.sha2 (f : HashFn) : Bool := f.suffix == 0

/-- Bytes of a chaining state. -/
def HashFn.width (f : HashFn) : Nat := if f.sha2 then f.block / 2 else 200

/-- XOR of byte strings; the longer one's tail stands. -/
def xorBytes : Bytes → Bytes → Bytes
  | a :: as, b :: bs => (a ^^^ b) :: xorBytes as bs
  | [], bs => bs
  | as, [] => as

/-- The chaining state before the first block. -/
def HashFn.init (f : HashFn) : Bytes := if f.sha2 then std f.width (.sha2 f.alg) [] else List.replicate 200 0

/-- One block absorbed. -/
def HashFn.compress (f : HashFn) (st blk : Bytes) : Bytes :=
  if f.sha2 then std f.width (.sha2 f.alg) [st, blk] else std 200 .keccakF [xorBytes st blk]

/-- k whole blocks absorbed. -/
def HashFn.absorb (f : HashFn) : Nat → Bytes → Bytes → Bytes
  | 0, st, _ => st
  | k + 1, st, m => HashFn.absorb f k (f.compress st (m.take f.block)) (m.drop f.block)

/-- A message of whole blocks absorbed. -/
def HashFn.absorbAll (f : HashFn) (st m : Bytes) : Bytes := f.absorb (m.length / f.block) st m

/-- The output squeezed from a Keccak state, one rate of bytes at a time. -/
def HashFn.squeeze (f : HashFn) : Nat → Bytes → Bytes
  | 0, _ => []
  | k + 1, st => st.take f.block ++ HashFn.squeeze f k (std 200 .keccakF [st])

/-- n bytes of output from a final state. -/
def HashFn.output (f : HashFn) (n : Nat) (st : Bytes) : Bytes :=
  if f.sha2 then fit n st else (f.squeeze (ceilDiv n f.block) st).take n

/-- The padding after a message whose total length, what is absorbed already included, is total (R240). A cSHAKE with no N and
no S ends as SHAKE does, so the suffix is given. -/
def HashFn.padding (f : HashFn) (suffix total : Nat) : Bytes :=
  if f.sha2 then
    let l := f.block / 8
    [0x80] ++ List.replicate ((2 * f.block - (total + 1 + l) % f.block) % f.block) 0 ++ toBE l (8 * total)
  else
    match f.block - total % f.block with
    | 1 => [BitVec.ofNat 8 (suffix + 0x80)]
    | n => [BitVec.ofNat 8 suffix] ++ List.replicate (n - 2) 0 ++ [0x80]

/-- The rest of a computation from a chaining state that holds count bytes. -/
def HashFn.finish (f : HashFn) (n suffix : Nat) (st : Bytes) (count : Nat) (m : Bytes) : Bytes :=
  f.output n (f.absorbAll st (m ++ f.padding suffix (count + m.length)))

/-- A whole unkeyed computation of n bytes. -/
def digestOf (alg n : Nat) (m : Bytes) : Bytes :=
  let f := hashFn alg
  f.finish n f.suffix f.init 0 m

/-! ### SP 800-185 encodings -/

/-- Bytes a number needs, at least one. -/
def byteLen (x : Nat) : Nat := if x < 2 ^ 8 then 1 else if x < 2 ^ 16 then 2 else if x < 2 ^ 24 then 3 else 4

/-- left_encode. -/
def leftEncode (x : Nat) : Bytes := toBE 1 (byteLen x) ++ toBE (byteLen x) x

/-- right_encode. -/
def rightEncode (x : Nat) : Bytes := toBE (byteLen x) x ++ toBE 1 (byteLen x)

/-- encode_string. -/
def encodeString (b : Bytes) : Bytes := leftEncode (8 * b.length) ++ b

/-- bytepad. -/
def bytepad (b : Bytes) (w : Nat) : Bytes :=
  let x := leftEncode w ++ b
  x ++ List.replicate ((w - x.length % w) % w) 0

/-! ### Keyed functions (R245) -/

/-- The hash under an HMAC ALG. -/
def hmacHash (alg : Nat) : Nat := alg - 0x40

/-- The ALG is an HMAC one. -/
def isHmac (alg : Nat) : Bool := [0x41, 0x42, 0x43, 0x44, 0x52, 0x53, 0x54].contains alg

/-- The ALG is KMAC or KMACXOF. -/
def isKmac (alg : Nat) : Bool := [0x61, 0x62, 0x63, 0x64].contains alg

/-- The function a keyed or unkeyed ALG, raw or not, runs on. -/
def winnowFn? (alg : Nat) : Option HashFn :=
  if alg ≥ 0x80 then hashFn? (alg - 0x80)
  else if isHmac alg then hashFn? (hmacHash alg)
  else if isKmac alg then hashFn? (if alg % 2 == 1 then 0x31 else 0x32)
  else hashFn? alg

/-- K0 of FIPS 198-1. -/
def hmacKey (f : HashFn) (k : Bytes) : Bytes :=
  fit f.block (if k.length > f.block then digestOf f.alg f.out k else k)

/-- Bytes XORed with one byte. -/
def xorByte (b : Byte) (k : Bytes) : Bytes := k.map (· ^^^ b)

/-- cSHAKE with N and S both empty, which ends as SHAKE (R239). -/
def plainShake (alg : Nat) (n s : Bytes) : Bool := (alg == 0x31 || alg == 0x32) && n.isEmpty && s.isEmpty

/-- The whole blocks that precede the message: K0 ⊕ ipad, or the cSHAKE and KMAC prefixes. -/
def winnowPrefix (alg : Nat) (key n s : Bytes) : Bytes :=
  let f := (winnowFn? alg).getD default
  if alg ≥ 0x80 then []
  else if isHmac alg then xorByte 0x36 (hmacKey f key)
  else if isKmac alg then bytepad (encodeString (ascii "KMAC") ++ encodeString s) f.block ++ bytepad (encodeString key) f.block
  else if (alg == 0x31 || alg == 0x32) && !plainShake alg n s then bytepad (encodeString n ++ encodeString s) f.block
  else []

/-- What KMAC appends to the message. -/
def winnowTail (alg outlen : Nat) : Bytes :=
  if alg == 0x61 || alg == 0x62 then rightEncode (8 * outlen) else if isKmac alg then rightEncode 0 else []

/-- Finish from a chaining state that holds count bytes: padding unless raw, and the outer pass of HMAC. -/
def winnowFinish (alg n : Nat) (plain : Bool) (key st : Bytes) (count : Nat) (m : Bytes) : Bytes :=
  let f := (winnowFn? alg).getD default
  if alg ≥ 0x80 then f.output n (f.absorbAll st m)
  else if isHmac alg then
    fit n (digestOf f.alg f.out (xorByte 0x5C (hmacKey f key) ++ f.finish f.out f.suffix st count m))
  else
    f.finish n (if plain then 0x1F else f.suffix) st count (m ++ winnowTail alg n)

/-- A whole computation: n bytes of the function of an ALG. -/
def winnow (alg n : Nat) (key name s m : Bytes) : Bytes :=
  let f := (winnowFn? alg).getD default
  let p := winnowPrefix alg key name s
  winnowFinish alg n (plainShake alg name s) key (f.absorbAll f.init p) p.length m

/-- HMAC of a hash. -/
def hmac (hash : Nat) (key m : Bytes) : Bytes := winnow (hash + 0x40) (hashFn hash).out key [] [] m

/-- The blocks of HKDF-Expand. -/
def hkdfBlocks (hash : Nat) (prk info : Bytes) : Nat → Nat → Bytes → Bytes
  | 0, _, _ => []
  | k + 1, i, prev =>
    let t := hmac hash prk (prev ++ info ++ toBE 1 i)
    t ++ hkdfBlocks hash prk info k (i + 1) t

/-- HKDF (R287): n bytes. -/
def hkdf (hash : Nat) (salt ikm info : Bytes) (n : Nat) : Bytes :=
  (hkdfBlocks hash (hmac hash salt ikm) info (ceilDiv n (hashFn hash).out) 1 []).take n

end Sys2Proof.Machine
end

