-- ==== Sys2Proof/Machine/Status.lean ====
section
/-! DEFINITION. Status codes, verdicts, run states and the other closed sets of names of the spec. -/
namespace Sys2Proof.Machine

/-- *Status codes* (R113). OK and VERDICT_FAIL take reply flags (R112). -/
inductive Status where
  | ok | pending | badOpcode | badLength | lengthShort | lengthLong | badParameter | queueFull | shareExhausted | pinClaimed
  | fieldUnavailable | transfersFull | keyNotFound | usageDenied | keyExhausted | keyQuarantined | verdictFail | seqOutOfWindow
  | transferAborted | destPoisoned | sourcePoisoned | entropyPending | rngFault | faultDetected | alarmErased | machineCheck
  | stateForbids | tokenRejected | programFault | imageRejected | instanceReset | notManager | noSuchInstance | internalError
deriving DecidableEq, Repr, Inhabited

/-- The code of a status, reply flags aside (R113). -/
def Status.code : Status → Nat
  | .ok => 0x0000 | .pending => 0x1001 | .badOpcode => 0x2001 | .badLength => 0x2002 | .lengthShort => 0x2003
  | .lengthLong => 0x2004 | .badParameter => 0x2005 | .queueFull => 0x3001 | .shareExhausted => 0x3002 | .pinClaimed => 0x3003
  | .fieldUnavailable => 0x3004 | .transfersFull => 0x3005 | .keyNotFound => 0x4001 | .usageDenied => 0x4002
  | .keyExhausted => 0x4003 | .keyQuarantined => 0x4004 | .verdictFail => 0x5000 | .seqOutOfWindow => 0x6001
  | .transferAborted => 0x6002 | .destPoisoned => 0x7001 | .sourcePoisoned => 0x7002 | .entropyPending => 0x8001
  | .rngFault => 0x8002 | .faultDetected => 0x9001 | .alarmErased => 0x9002 | .machineCheck => 0x9003 | .stateForbids => 0xA001
  | .tokenRejected => 0xA002 | .programFault => 0xB001 | .imageRejected => 0xB002 | .instanceReset => 0xC001
  | .notManager => 0xC002 | .noSuchInstance => 0xC003 | .internalError => 0xF001

/-- Bits [15:12] of a status (R112). -/
def Status.cls (s : Status) : Nat := s.code / 0x1000

/-- The verdict pair of a reply (R110). -/
inductive Verdict where
  | none | pass | fail
deriving DecidableEq, Repr, Inhabited

/-- The verdict byte and its complement (R110). -/
def Verdict.bytes : Verdict → Bytes
  | .none => [0x00, 0x00]
  | .pass => [0x5A, 0xA5]
  | .fail => [0x3C, 0xC3]

/-- The six run states (R43). -/
inductive RunState where
  | inert | bootstrap | operational | fallow | recovery | lockdown
deriving DecidableEq, Repr, Inhabited

/-- The code IDENTIFY reports (R99). -/
def RunState.code : RunState → Nat
  | .inert => 0 | .bootstrap => 1 | .operational => 2 | .fallow => 3 | .recovery => 4 | .lockdown => 5

/-- The life-cycle states (R461). -/
inductive LcState where
  | blank | test | production | endOfLife
deriving DecidableEq, Repr, Inhabited

/-- State code (R461). -/
def LcState.code : LcState → Nat
  | .blank => 0x1 | .test => 0x3 | .production => 0x7 | .endOfLife => 0xF

/-- Fuse count a state implies (R461). -/
def LcState.count : LcState → Nat
  | .blank => 0 | .test => 1 | .production => 2 | .endOfLife => 3

/-- The state a fuse count fixes (R461). -/
def LcState.ofCount : Nat → LcState
  | 0 => .blank
  | 1 => .test
  | 2 => .production
  | _ => .endOfLife

/-- The state of a code, if it is one (R461). -/
def LcState.ofCode (c : Nat) : Option LcState :=
  [LcState.blank, .test, .production, .endOfLife].find? (fun s => s.code == c)

/-- The states of a field's Seedbed (R312). -/
inductive SeedState where
  | starting | ready | restarting | latched | stopped
deriving DecidableEq, Repr, Inhabited

/-- The STATE byte of RNG_HEALTH (R312). -/
def SeedState.code : SeedState → Nat
  | .starting => 0 | .ready => 1 | .restarting => 2 | .latched => 3 | .stopped => 4

/-- State of a Plolys port: 0 off, 1 up, 2 down in GLEAN_READ (R520). -/
inductive LinkState where
  | off | up | down
deriving DecidableEq, Repr, Inhabited

/-- The byte GLEAN_READ reports (R520). -/
def LinkState.code : LinkState → Nat
  | .off => 0 | .up => 1 | .down => 2

/-- What a reply record carries (R70) besides opcode and tag; cleared handles are the places R118 replaces. -/
structure Reply where
  status : Status
  verdict : Verdict := .none
  results : Bytes := []
deriving DecidableEq, Repr, Inhabited

/-- Where an outstanding command stands (R101, R107). -/
inductive Stage where
  | receiving     -- its inbound transfer is open and the command is not dispatched (R80)
  | dispatched    -- placed on its field, or with Headland; steps 7 to 13 come next
  | waitThread    -- no free microcode thread (R366)
  | waitSlots     -- sealed slots (R136)
  | waitRng (since : Nat)   -- held at step 13 (R104)
  | waitWhisk     -- its request in Whisk's queue (R284)
  | waitPool      -- Steep waits for the pool before a reseed (R302)
  | waitLeaf      -- suspended for a leaf stream (R305, R482)
  | waitCache     -- a traversal cache or a leaf reservation (R197, R209)
  | waitCtx       -- a Winnow context (R250)
  | waitSpace     -- Thresher buffer space (R388)
  | waitAcre      -- an acre for its run (R330)
  | running       -- its furrow run, its open routine or its drain is in progress
  | done (r : Reply)   -- its reply is staged
deriving DecidableEq, Repr, Inhabited

end Sys2Proof.Machine
end

