-- ==== Sys2Proof/Machine/State.lean ====
section
/-! DEFINITION. The state of the block: everything the spec gives it, as plain data, and the state after reset. -/
namespace Sys2Proof.Machine

/-- The stops. A row of the table whose operation cannot be made, because the unit it needs is absent or the event cannot
occur in the state, leaves the state as it is (log entry 4); so one fault remains. -/
inductive Fault where
  | noSuchUnit   -- raised by no meaning: kept for an access the spec says does not exist. Safe.
deriving DecidableEq, Repr

/-- Refusals. -/
inductive Refusal where
  | notModelled (mnemonic : String)   -- raised by a row not reached yet. Safe.
deriving DecidableEq, Repr

/-! ### What fuses and ROM hold (log entry 1) -/

/-- The fuse banks and ROM versions (R1, R18, R99, R461, R462). -/
structure Fuses where
  fields : Nat := 2
  stepping : Nat := 0xB0
  deviceId : Nat := 0
  station : Nat := 0
  ucodeBase : Nat := 0
  packageRoot : Bytes := []
  fieldRoots : List Bytes := []
  romCost : List (Nat × Nat × Nat × Nat) := []   -- OPCODE, SELOFF, SELVAL, WEIGHT (R382)
deriving DecidableEq, Repr, Inhabited

/-! ### Keys -/

/-- Leaf state of a consumable key (R196 to R209). -/
structure Leaf where
  life : Nat := 0
  next : Nat := 0
  hwm : Nat := 0
  block : Nat := 0
  wseq : Nat := 0
  w90 : Bool := false
  w99 : Bool := false
  cacheReady : Bool := true
  cache : Nat := 0          -- bytes of the traversal cache (R209)
  cachePage : Nat := 0      -- its first page
  midBuilt : Nat := 0       -- the leaf whose new middle-level tree has been built (R209)
  reserving : Bool := false
  nextHwm : Nat := 0        -- the HWM the reservation in progress will set
deriving DecidableEq, Repr, Inhabited

/-- A handle-table entry: the descriptor of R125 and, with it, its blob as GDDR6 holds it and what the blob wraps (log entry 8). -/
structure Key where
  handle : Nat
  type : Nat
  quarantined : Bool := false
  dbg : Bool := false
  attr : Nat := 0
  origin : Nat := 0
  size : Nat := 0
  created : Nat := 0
  pair : Nat := 0
  ext : Bytes := []         -- descriptor bytes 38 to 55
  body : Bytes := []        -- the standard encoding
  pubx : Bytes := []        -- public values the owning chapter adds to a public half's blob (R127)
  pages : List Nat := []    -- GDDR6 pages of the blob in the home field
  descPage : Nat := 0
  sealed : Bytes := []      -- the body of its blob: the wrap of a secret, or a public half with its tag (R127)
  dmac : Bytes := []        -- descriptor bytes 56 to 63 (R125)
  leaf : Option Leaf := none
deriving DecidableEq, Repr, Inhabited

/-- One slot of a key's leaf record (R198); torn: its MAC fails, as its write failed (R201). -/
structure LeafRec where
  hwm : Nat
  block : Nat := 0
  wseq : Nat := 1
  w90 : Bool := false
  w99 : Bool := false
  mac : Bytes := []
  torn : Bool := false
deriving DecidableEq, Repr, Inhabited

/-- A copy of a persistent key in its home field's Granary key region (R134), with the slots of its leaf record that have been
written, by number, and the slot the next write goes to (R198). -/
structure Stored where
  key : Key
  slots : List (Nat × LeafRec) := []
  nextSlot : Nat := 0
deriving DecidableEq, Repr, Inhabited

/-! ### Security associations, IKE SAs, images and runs -/

/-- An SA entry (R271 to R281). -/
structure Sa where
  handle : Nat
  field : Nat
  kind : Nat
  cipher : Nat
  esn : Bool
  outerV6 : Bool
  key : Nat
  spi : Nat
  salt : Bytes
  sci : Nat
  next : Nat
  sel : Nat
  window : Nat
  softS : Nat
  hardS : Nat
  softB : Nat
  hardB : Nat
  tmpl : Bytes
  state : Nat := 0          -- 0 active, 1 soft-expired, 2 hard-expired
  packets : Nat := 0
  octets : Nat := 0
  replay : Nat := 0
  icvFail : Nat := 0
  seen : List Nat := []     -- accepted numbers inside the replay window
  first : Nat := 1          -- NEXT as installed: the lowest number a receive SA accepts
  ipId : Nat := 0           -- IPv4 Identification (R277)
  installed : Nat := 0      -- time of installation
  keyMaterial : Bytes := [] -- the key the sealed key opens to
  sealed : Bytes := []      -- the sealed key the entry holds (R272)
  ofTk : Nat := 0           -- the IKE SA that installed it, or null
deriving DecidableEq, Repr, Inhabited

/-- A child of an IKE SA: handles and SPIs (*Child record*, R396). A handle its owner has retired by itself is null. -/
structure Child where
  hIn : Nat
  hOut : Nat
  spiIn : Nat
  spiOut : Nat
deriving DecidableEq, Repr, Inhabited

/-- An IKE SA (R390 to R401). image holds what its state image is made from, the draws and the messages of the exchange; sealed is that
image as it lies in GDDR6, wrapped (R391). -/
structure Ike where
  handle : Nat
  field : Nat
  state : Nat := 1
  params : Bytes := []      -- the TK_OPEN block: policy, identities, templates, selectors
  pair : Option Nat := none -- the upper field of the twin pair of the TK_OPEN
  order : Nat := 1
  pages : List Nat := []    -- GDDR6 pages of the state image
  spiI : Bytes := []
  spiR : Bytes := []
  image : List Bytes := []
  sealed : Bytes := []
  ivs : Nat := 0            -- SK-protected messages sent
  sendId : Nat := 0         -- message ID of the outstanding request, or of the next one
  recvId : Nat := 0         -- message ID the next request of the peer carries
  response : Bytes := []    -- the stored response (R397)
  request : Bytes := []     -- the outstanding request, empty for none
  asked : Nat := 0          -- exchange type of the outstanding request
  pfs : Bool := false       -- the outstanding rekeying uses PFS
  awaiting : Bool := false  -- the request recvId awaits TK_DECIDE
  mids : Nat := 0           -- IKE_INTERMEDIATE exchanges done
  auths : Nat := 0          -- own AUTH payloads built
  peerAuths : Nat := 0      -- peer AUTH payloads accepted
  peer : List (Nat × Bytes) := []   -- payloads of the peer's message under decision: type and whole payload
  offer : Bytes := []       -- body of the peer's SAi2
  ts : Bytes := []          -- the TS payloads a responder returned
  spiIn : Nat := 0          -- the inbound SPI of a child in the making, or 0
  children : List Child := []
  chargedG6 : Nat := 0
  chargedSas : Nat := 0
  chargedKeys : Nat := 0
  lastCmd : Nat := 0
deriving DecidableEq, Repr, Inhabited

/-- A program image in the table (R326 to R329). -/
structure Image where
  handle : Nat
  header : Bytes
  instrs : List Nat         -- 48-bit instructions
  dinit : List Word24
  bytes : Nat               -- charged length
  unloading : Bool := false
deriving DecidableEq, Repr, Inhabited

/-- A sparse memory of 24-bit words: addresses strictly rising, no zero word listed; an unlisted word reads zero (R330). -/
abbrev WMem := List (Nat × Word24)

/-- A program run (R330 to R333). -/
structure Run where
  id : Nat
  inst : Nat
  tag : Nat
  field : Nat
  acre : Option Nat := none    -- none while it waits for an acre
  furrows : List Nat := []     -- by rank
  image : Image
  order : Nat := 1
  keys : List (Bytes × Nat) := []   -- input keys: bytes and handle
  draw : Bytes := []
  input : Bytes := []
  outMax : Nat := 0
  outAttr : Nat := 0
  a1 : WMem := []
  a2 : WMem := []
  poison : List Nat := []      -- poisoned words of A1 and A2
  since : Nat := 0             -- arrival number among waiting runs
  test : Bool := false         -- a run of DIAG_RUN (R523)
  restarts : Nat := 0          -- restarts so far (R337, R338)
  thread : Option Nat := none  -- the Caddy thread whose PROGRAM gate started it (R376)
deriving DecidableEq, Repr, Inhabited

/-! ### Instances -/

/-- The share dimensions (R413); none is "no ceiling". -/
structure Shares where
  qslots : Nat := 0
  fweight : Nat := 100
  lweight : Nat := 100
  wctx : Option Nat := none
  keys : Option Nat := none
  sas : Option Nat := none
  gddr6 : Option Nat := none
deriving DecidableEq, Repr, Inhabited

/-- What the instance table records of an instance (R412). -/
structure Binding where
  id : Nat
  flags : Nat := 0
  vid : Nat := 0
  srcmac : Nat := 0
  shares : Shares := {}
deriving DecidableEq, Repr, Inhabited

/-- The request window (R84). seen lists the accepted tags among the 4,096 from h. -/
structure Window where
  h : Option Nat := none
  seen : List Nat := []
deriving DecidableEq, Repr, Inhabited

/-- A raised event (R70). -/
structure Event where
  code : Nat
  time : Nat
  data : Bytes
deriving DecidableEq, Repr, Inhabited

/-- A mailbox queue (R428 to R430). -/
structure Mbox where
  msgs : List (Nat × Bytes) := []
  next : Nat := 1
  delivered : Nat := 0
  pulled : Bool := false     -- the receiver has pulled since the queue became non-empty (R432)
deriving DecidableEq, Repr, Inhabited

/-- Per-instance statistics (R520). -/
structure Stats where
  admitted : Nat := 0
  classes : List Nat := List.replicate 16 0
  octIn : Nat := 0
  octOut : Nat := 0
  discarded : Nat := 0
deriving DecidableEq, Repr, Inhabited

/-- An instance (R409). -/
structure Inst where
  bind : Binding
  window : Window := {}
  replyTag : Nat := 0
  nextXfer : Nat := 1
  lastRx : Option (Nat × Nat) := none   -- port and source of the most recently accepted frame (R557)
  heldSent : Nat := 0
  evq : List Event := []
  evLost : Nat := 0
  stats : Stats := {}
  vtime : List Nat := []                -- per field (R416)
  toMgr : Mbox := {}
  fromMgr : Mbox := {}
  resetting : Option (Nat × Nat) := none   -- issuer and tag of the INSTANCE_RESET or INSTANCE_DESTROY that awaits its reply
deriving DecidableEq, Repr, Inhabited

/-! ### Commands in the part -/

/-- An outstanding command (R31, R36, R100). -/
structure Cmd where
  inst : Nat
  tag : Nat
  op : Nat                  -- the opcode as sent
  flags : Nat := 0
  params : Bytes := []
  ctx : Ctx
  seq : Nat := 0
  pos : Nat := 0
  prio : Nat := 0
  ordered : Bool := false
  pad : Bool := false
  modes : Nat := 0          -- the mode word in force at admission (R54)
  runAt : RunState := .operational   -- the package run state at admission (R49)
  hardOrder : Nat := 2      -- HARD_ORDER at admission (R62)
  leafBlock : Nat := 64     -- LEAF_BLOCK at admission (R62)
  shares : Shares := {}     -- shares in force at admission (R418)
  field : Option Nat := none    -- executing field; none when Headland carries it out (R26)
  field2 : Option Nat := none   -- the upper field of a twin pair
  twinned : Bool := false
  twinLocal : Bool := false
  weight : Nat := 1
  stage : Stage := .dispatched
  held : Bool := false
  corrected : Bool := false
  keyLoaded : Bool := false
  twinPassed : Bool := false
  pendingSent : Bool := false
  padDone : Bool := false
  xfer : Option Nat := none
  drawn : Bytes := []
  keys : List Key := []     -- the named keys as read at steps 9 and 10 (R151)
  order : Nat := 1          -- the masking order its steps run at, fixed when it has passed its checks (R178, R388)
  made : List (Nat × Nat) := []     -- place in the results and handle of each object it created
  durable : Bool := false   -- its commit made a change that survives INSTANCE_RESET (R118)
  reset : Bool := false     -- an INSTANCE_RESET has come to it past its commit point (R117)
  at0 : Nat := 0            -- time of dispatch
  number : Nat := 0         -- arrival number
  started : Bool := false   -- it holds a microcode thread (R366)
  checked : Bool := false   -- it has passed steps 7 to 12
  begun : Bool := false     -- it has started: step 13 and any key load are behind it (R180)
  aux : Nat := 0            -- what its multi-step execution waits for
  out : Nat := 0            -- how far its output is staged (R267)
  queued : Nat := 0         -- the place of its draw in the queue for Steep's pool (R302), or 0
  pipes : List (Nat × Nat) := []      -- field and number of the Thresher pipelines its message runs on (R260, R268)
  image : Bytes := []       -- the wrapped chaining state a gated field has saved (R269)
  imgPages : List (Nat × Nat) := []   -- field and number of the pages reserved for images (R252, R269)
  outPages : List (Nat × Nat) := []   -- field and number of the STAGE pages of its output
  whiskAt : Nat := 0        -- the kind of its next request of Whisk, those below it being served (R284)
  crossed : Bytes := []     -- its draw as it crosses to the upper field of a twin pair (R303)
  acres : List (Nat × Nat) := []      -- field and number of the acres on which it hashes, once it has had to wait there (R250)
  hashAt : Nat := 0         -- where the message begins that it hashes as its segments arrive (R250, R251)
  hashBlock : Nat := 0      -- the block of that hash, in bytes; 0 for a command that absorbs none of its segments
deriving DecidableEq, Repr, Inhabited

/-- An open inbound transfer (R76 to R80). -/
structure Xfer where
  inst : Nat
  id : Nat
  tag : Nat
  tlen : Nat
  got : Nat
  nextSeg : Nat
  staged : Bytes
  port : Nat
  last : Nat                -- time of the last segment
  field : Nat := 0          -- whose GDDR6 stages it: the one that held Headland (R78)
  pages : List Nat := []    -- its STAGE pages
deriving DecidableEq, Repr, Inhabited

/-! ### Ports and frames -/

/-- An SA of a host port's SecY (R94). -/
structure SecSa where
  tx : Bool
  an : Nat
  sci : Nat
  pkg : Bool
  bind : Nat
  key : Nat
  ssci : Nat
  salt : Bytes
  nextPn : Nat
  keyReg : Bytes := []      -- the SecY key register
  warned : Bool := false    -- the PN threshold event has been raised
deriving DecidableEq, Repr, Inhabited

/-- The counters of silent discards (R72, R276, R281). -/
structure Drops where
  mac : Nat := 0
  secy : Nat := 0
  addr : Nat := 0
  hcrc : Nat := 0
  type : Nat := 0
  binding : Nat := 0
  dup : Nat := 0
  segment : Nat := 0
  line : Nat := 0
  miss : Nat := 0
  sa : Nat := 0
deriving DecidableEq, Repr, Inhabited

/-- What flow control runs on a host port (R89): nothing, 802.3x pause of the whole port, or 802.1Qbb PFC. -/
inductive FlowCtl where
  | off | pause | pfc
deriving DecidableEq, Repr, Inhabited

/-- A host port (R526, R527). -/
structure Port where
  form : Option EthForm := none    -- configured form; none: no lanes
  firstLane : Nat := 0
  forced : Bool := false
  bootstrap : Bool := false
  up : Bool := false
  macsec : Bool := false           -- MACsec on, or pending
  pendingSa : Bool := false        -- R96
  sas : List SecSa := []
  flow : FlowCtl := .off           -- none on the bootstrap lane (R507)
  paused : BitVec 8 := 0           -- priorities the host pauses (R90)
  occupancy : List Nat := List.replicate 8 0   -- ingress bytes of each priority (R89)
  xoff : List Bool := List.replicate 8 false
  drops : Drops := {}
deriving DecidableEq, Repr, Inhabited

/-- A frame the part sends (R65, R67). seq counts within its instance (R85). -/
structure Frame where
  port : Nat
  dst : Nat
  tci : Option Nat
  sci : Option Nat          -- the transmit SC it leaves under
  ty : Nat
  more : Bool
  inst : Nat
  seq : Nat
  flen : Nat
  tlen : Nat
  segIdx : Nat
  xfer : Nat
  payload : Bytes
  cause : Option Nat := none   -- the port of the received frame that caused it (R96)
deriving DecidableEq, Repr, Inhabited

/-- Everything that leaves the part by a port or an output pin (log entry 9). -/
inductive Sent where
  | frame (f : Frame) (drill : Bytes)                           -- drill: its header and payload, as they leave (R67, R68)
  | packet (port : Nat) (tci : Option Nat) (bytes : Bytes)     -- INLINE traffic
  | pause (port prio : Nat) (on : Bool)                         -- PFC of a priority; 8 is 802.3x pause of the port
  | pulse (pin : Nat)                                           -- 1 µs on an MF pin
deriving DecidableEq, Repr

/-! ### Field blocks -/

/-- The health tests of a source as they run (R297). -/
structure SourceTests where
  last : Option Bool := none        -- the last raw bit
  run : Nat := 0                    -- length of the current run of identical bits
  aptBit : Bool := false            -- first bit of the current window of 1,024
  aptSeen : Nat := 0                -- bits of it so far
  aptCount : Nat := 0               -- occurrences of its first bit
  seen : Nat := 0                   -- bits of the current window of 4,096
  ones : Nat := 0
  ac : List Int := [0, 0, 0, 0]
  tail : List Bool := []            -- the last four bits of that window, latest first
deriving DecidableEq, Repr, Inhabited

/-- A noise source of a Seedbed (R295 to R297, R312). -/
structure Source where
  samples : Nat := 0
  rctFail : Nat := 0
  aptFail : Nat := 0
  ones : Nat := 0
  ac : List Int := [0, 0, 0, 0]
  drift : Nat := 0
  tests : SourceTests := {}
  half : Option Bool := none        -- the first raw bit of a pair (R296)
  bits : Nat := 0                   -- conditioned bits that have still to enter the pool
  pooled : Nat := 0                 -- its bits in the pool
deriving DecidableEq, Repr, Inhabited

/-- The limits a Seedbed runs with (R296, R297). -/
structure SeedLimits where
  cond : Nat := 1
  rct : Nat := 41
  apt : Nat := 792
  bias : Nat := 700
  ac : Nat := 600
deriving DecidableEq, Repr, Inhabited

/-- Seedbed and Steep of a field (R295 to R303). -/
structure Seedbed where
  state : SeedState := .starting
  lim : SeedLimits := {}
  fails : List Nat := []            -- times of health failures since reset
  starts : Nat := 1
  sources : List Source := [{}, {}]
  seeded : Bool := false            -- Steep is instantiated
  reqs : Nat := 0
  reseeds : Nat := 0
  since : Nat := 0                  -- when its start-up began (R299)
  pids : Bytes := []                -- personalisation string of the last instantiation
  fixed : Bool := false             -- the limits are those of an RNG_CONFIG and hold until reset (R313)
  prior : Option SeedLimits := none -- the limits in force before an RNG_CONFIG whose start-up has still to complete (R313)
deriving DecidableEq, Repr, Inhabited

/-- A leaf-stream generator (R304, R305). -/
structure LeafGen where
  running : Bool := false
  nextSeed : Bool := false
  asked : Nat := 0          -- the place of its request for a seed behind a reseed of Steep (R302), or 0
  seeded : Bool := false    -- it has had its first seed since reset
  reseeds : Nat := 0
deriving DecidableEq, Repr, Inhabited

/-- A key resident in a field's sealed slots (R136, R137). -/
structure Resident where
  index : Nat
  first : Nat := 0     -- its first slot
  slots : Nat
  used : Nat           -- order of last use
  heldBy : List (Nat × Nat) := []  -- once its key is destroyed or narrowed: the commands in flight that reserved it and still use it (R151)
  shares : Bytes × Bytes := ([], [])   -- its contents, two masking shares
deriving DecidableEq, Repr, Inhabited

/-- A modulus register (R316); all zero is invalid. -/
structure Modulus where
  q : Word24 := 0
  qinv : Word24 := 0
  mu : Word24 := 0
  r2 : Word24 := 0
deriving DecidableEq, Repr, Inhabited

/-- The fields of a fault record (R337). -/
structure FaultRec where
  mode : Bool := false
  retry : Nat := 0
  addr : Nat := 0
  pc : Nat := 0
  cause : Nat := 0
  idx : Nat := 0
deriving DecidableEq, Repr, Inhabited

/-- A furrow (R314 to R325, R331, R334, R337). -/
structure Furrow where
  s : List Word24 := List.replicate 32 0
  v : List (List Word24) := List.replicate 16 (List.replicate 8 0)
  w : List (List Word24) := List.replicate 32 (List.replicate 64 0)
  m : List (BitVec 64) := BitVec.allOnes 64 :: List.replicate 7 0
  q : List Modulus := List.replicate 4 {}
  pc : Nat := 0
  frec : FaultRec := {}
  inHandler : Bool := false
  sealedSets : List Bool := List.replicate 8 false
  tally : Word24 := 0
  o64 : List Nat := List.range 64     -- lane order of the last long SHUF (R360)
  o8 : List Nat := List.range 8
  dmem : WMem := []
  poison : List Nat := []             -- poisoned words of local data memory, rising
  seals : List Nat := []              -- sealed words (R358), rising
  dwsize : Nat := 32768
  cycles : Nat := 0
  run : Option Nat := none
  rank : Nat := 0
  atBarrier : Bool := false
  halted : Bool := false
  held : Option (Nat × SaivoFields) := none   -- the instruction whose fault is held in RECOVERY: OP and fields (R523)
  waitLeaf : Bool := false            -- an instruction waits for leaf-stream bits (R325)
  imem : List (Nat × Nat) := []       -- resident images: handle and instruction count, last run first (R330)
deriving DecidableEq, Repr, Inhabited

/-- A Winnow context in use or saved (R250 to R254), or the two of a command whose twins run on one field; id is the arrival number of its
command. -/
structure WCtx where
  id : Nat
  inst : Nat
  tag : Nat
  core : Nat
  core2 : Option Nat := none   -- the core of the second execution of a TWIN_LOCAL command
  keyed : Bool
  state : Nat := 0      -- 0 occupied, 1 waiting, 2 saving, 3 saved, 4 restoring
  idleAt : Nat := 0     -- order in which it last went idle
  page : Nat := 0       -- the page reserved for its image (R252)
  again : Bool := false -- a segment has arrived during its save
  count : Nat := 0      -- bytes absorbed
  image : Bytes := []   -- the image of its last save, as GDDR6 holds it
deriving DecidableEq, Repr, Inhabited

/-- A Caddy microcode thread (R366 to R371, R376 to R378). -/
structure Thread where
  busy : Bool := false
  inst : Nat := 0
  tag : Nat := 0
  x : List Word32 := List.replicate 32 0
  stack : List Nat := []
  zero : Bool := false
  neg : Bool := false
  gateOk : Bool := false
  atom : Bool := false        -- no boundary has come since its last word (R368)
  resting : Bool := false     -- it gives up one issue round (YIELD)
  pc : Nat := 0
  drawMade : Bool := false
  drawBuf : Bytes := []
  buf : Bytes := []
  verdict : Verdict := .none
  slots : List Nat := []      -- handles reserved, by slot reference
  sets : List Bytes := []     -- output sets of its last program, by set; empty where not selected
  made : List Nat := []       -- handles of new keys
  results : Bytes := []
  words : Nat := 0
deriving DecidableEq, Repr, Inhabited

/-- The metadata of an allocated or touched GDDR6 page (R439) and the symbol errors its codeword carries (R440). -/
structure Page where
  page : Nat
  poison : Bool := false
  strength : Nat := 1
  region : Nat := 0
  version : Nat := 0
  owner : Nat := 0
  errors : Nat := 0        -- symbols in error
  badNumber : Bool := false -- an error in a page-number symbol
  due : Bool := false      -- it must be retired (R452)
  retry : Bool := false    -- its retirement failed in Granary: the next Harrow visit calls for it again (R452)
  drop : Bool := false     -- no good spare remains: it is withdrawn when freed (R454)
deriving DecidableEq, Repr, Inhabited

/-- A merge image (R445). -/
structure Merge where
  page : Nat
  valid : Nat              -- bytes valid
  writers : List (Nat × Nat)   -- instance and tag, last writer last
  order : Nat
deriving DecidableEq, Repr, Inhabited

/-- An error-log entry (R518). -/
structure LogEntry where
  seq : Nat
  time : Nat
  island : Nat
  kind : Nat
  inst : Nat
  detail : Bytes
deriving DecidableEq, Repr, Inhabited

/-- The error ring of a field (R518). -/
structure ErrLog where
  ring : List LogEntry := []    -- oldest first
  next : Nat := 0
  lost : Nat := 0
  read : Nat := 0               -- SEQ after the last entry a LOG_READ returned
deriving DecidableEq, Repr, Inhabited

/-- A Plolys port (R15, R17). -/
structure Link where
  state : LinkState := .off
  retries : Nat := 0
  downs : Nat := 0
  trainFails : Nat := 0
deriving DecidableEq, Repr, Inhabited

/-- The open image in the control stores (R379). -/
structure OpenImage where
  ident : Nat
  entries : List Bytes              -- 16-byte opcode entries
  words : List Nat                  -- microwords
  data : Bytes
deriving DecidableEq, Repr, Inhabited

/-- One field. -/
structure FieldSt where
  run : RunState := .recovery
  lost : Bool := false
  cut : Bool := false               -- it can no longer reach Headland, which treats it as lost (R35)
  mcheck : Bool := false            -- in machine check (R372)
  gating : Bool := false            -- being gated by CAPPED: no admission, commands finish (R47)
  gated : Bool := false             -- gated by CAPPED
  testFailed : Bool := false        -- failed boot self-test
  setPoint : Nat := 1200            -- furrow and Winnow set point, MHz
  fullPoint : Nat := 1200           -- set point in force before scaling
  coreLow : Bool := false           -- VDD_CORE below 0.75 V
  sysHeld : Bool := false           -- calibration held, REFCLK_SYS stopped
  links : List Link := [{}, {}, {}]
  seed : Seedbed := {}
  leaf : List LeafGen := List.replicate 4 {}
  kek : List Bytes := []            -- the KEK register of each Whisk engine, where it is loaded (R283)
  slots : List Resident := []
  nextUse : Nat := 0                -- stamp of the next use of a resident key (R137)
  descCache : List Nat := []        -- indices of cached descriptors
  lastIndex : Nat := 524287         -- last handle-table index allocated, within the field: before the first, the top of the range
  uses : List (Nat × Nat) := []     -- USE of each index allocated in the boot epoch
  lastSa : Nat := 1048575
  saUses : List (Nat × Nat) := []
  lastIke : Nat := 65535
  ikeUses : List (Nat × Nat) := []
  threads : List Thread := List.replicate 64 {}
  scrubAt : Nat := 0
  lastThread : Nat := 63            -- the thread that issued last (R366)
  store : List (Nat × Nat) := []    -- control-store words that patches and the open image have written: address and word (R375)
  openCopy : Option OpenImage := none   -- the copy of the open image in its program region (R385)
  patch : Nat := 0                  -- patch level in force
  faults : List Nat := []           -- times of fault events (R486)
  furrows : List Furrow := List.replicate 16 {}
  ctxs : List WCtx := []
  ctxWait : List (Nat × Nat) := []  -- commands waiting for a context, oldest first
  keyCache : List (List Nat) := List.replicate 4 []   -- SA and key handles cached by each pipeline (R260)
  saKey : Option Bytes := none      -- the SA table key, where it is loaded (R272)
  whisk : List (Nat × Nat × Nat) := []  -- waiting requests: class, instance and tag, 2^32 added to the tag for a context image (R284)
  pages : List Page := []           -- pages that differ from a zero-encoded free page
  remap : List (Nat × Nat) := []    -- retired page, spare slot (R452)
  deadSpares : List Nat := []
  withdrawn : List Nat := []
  draining : List (Nat × List Nat) := []   -- destroyed keys whose blobs are still being read: handle and blob pages (R151, R223)
  sparesEvent : Bool := false
  merge : List Merge := []
  refreshDoubled : Bool := false
  refreshes : List Nat := [0, 0]    -- refreshes of each channel (R447)
  trainedAt : Nat := 0              -- when the channels were last trained (R449)
  retrainDeferred : Bool := false   -- a retraining is due and deferred
  sweep : Nat := 0
  sweepAt : Nat := 0
  alarm : BitVec 32 := 0            -- alarm-cause register (R497)
  log : ErrLog := {}
  ops : Nat := 0
  padOverrun : Nat := 0
  saves : Nat := 0
  restores : Nat := 0
  corrected : Nat := 0
  temps : List Nat := List.replicate 8 0       -- last reading of each sensor: 0 at most 120 °C, 1 at most 125 °C, 2 above (R537)
  outside : List Bool := List.replicate 8 false -- sensors whose last reading was beyond the alarm limits
  thermal : Bool := false           -- thermal shutdown since RESET_N
  entered : Bool := false           -- it entered OPERATIONAL at ENABLE (R536)
deriving DecidableEq, Repr, Inhabited

/-! ### Granary -/

/-- A state copy (R466). -/
structure StateCopy where
  state : Nat := 0
  count : Nat := 0
  wseq : Nat := 0
  macOk : Bool := true
deriving DecidableEq, Repr, Inhabited

/-- LIFECYCLE of a field: copies A, B and C and the intent record (R466), with its fuses (R461). -/
structure LcRec where
  fuses : Nat := 0
  copies : List StateCopy := []
  intentFrom : Nat := 0
  intentTo : Nat := 0
  intentWseq : Nat := 0
  intentMac : Bool := true
deriving DecidableEq, Repr, Inhabited

/-- A setting's value: the number its bytes spell, by identifier and scope; none is the package (R458). -/
abbrev Values := List (Nat × Option Nat × Nat)

/-- A two-slot record: the contents in force and their sequence number (R383, R385, R477). -/
structure Slot where
  data : Bytes := []
  seq : Nat := 0
deriving DecidableEq, Repr, Inhabited

/-- What Granary keeps (R456). Records that fields 0 and 1 hold alike are held once (log entry 12). -/
structure Granary where
  lc : List LcRec := []
  identity : Option Bytes := none   -- IDENTITY: public halves, CERTLEN and certificate
  epochs : List Nat := []           -- boot epoch of each field
  patches : List (List Slot) := []  -- the two patch slots of each field (R383)
  owner : Option Slot := none
  opens : List (List Slot) := []    -- the two open-image slots of each field (R385)
  stored : Values := []
  storeSeq : Nat := 0
  table : List Binding := []        -- the tenants
  keys : List Stored := []
  retired : List (Nat × Nat × Nat) := []   -- field, page, spare slot (R453)
deriving DecidableEq, Repr, Inhabited

/-! ### The package -/

/-- Why admission is stopped on every instance (R558). -/
inductive AdmStop where
  | reset | recover | lcAdvance
deriving DecidableEq, Repr

/-- What comes to the part during a Headland failover and waits for its end (R38): a frame, or a record of a row of its own with the basic
opcode it is for (log entry 5). -/
inductive Held where
  | frame (f : RxFrame)
  | record (op : Nat) (r : CmdRec)
deriving DecidableEq, Repr

/-- An INLINE packet in Thresher's packet buffer: the frame, and the field whose buffer holds it. -/
structure Packet where
  field : Nat
  frame : RxFrame
deriving DecidableEq, Repr

/-- Time base (R513 to R515). -/
structure Clock where
  time : Nat := 0
  source : Nat := 0
  port : Nat := 0
  base : Nat := 0
  locked : Bool := false
  holdover : Bool := false
  offset : Int := 0
  slew : Int := 0                   -- nanoseconds of correction still to be slewed (R515)
  phase : Nat := 0                  -- nanoseconds since the last nanosecond slewed
deriving DecidableEq, Repr, Inhabited

/-- Power management of the package (R544 to R546). -/
structure Power where
  average : Nat := 0
  throttle : Bool := false
  scaled : Bool := false
deriving DecidableEq, Repr, Inhabited

/-- Owners of the four timer channels (R57). -/
inductive TimerUse where
  | ppsOut | telemetry | saScan
deriving DecidableEq, Repr

/-- Package state that is not a field's, a port's or an instance's. -/
structure Pkg where
  run : RunState := .inert
  modes : BitVec 16 := 0
  railsUp : Bool := true
  resetN : Bool := true
  strapPins : BitVec 6 := 0
  straps : BitVec 6 := 0
  refSys : Bool := true
  refSd : Bool := true
  brownLow : Bool := false
  headland : Nat := 0
  failover : Bool := false          -- field 0 is gone and field 1 has not taken over yet (R38)
  buffered : List Held := []        -- what came during the failover
  stops : List AdmStop := []        -- what has stopped admission (R558)
  modeSetAt : Nat := 0              -- arrival number of the last expert MODE_SET that took effect (R53)
  resetPending : Bool := false
  enableFailed : Bool := false      -- an ENABLE ended with INTERNAL_ERROR (R511)
  dnonce : Bytes := List.replicate 32 0
  dnonceDue : Bool := false         -- DNONCE waits for Steep (R473)
  unlocked : Bool := false
  repaired : Bool := false
  tamperArmed : Bool := false
  alarmLine : List (Nat × Nat) := []   -- fields the alarm line has still to reach, with the source field (R492)
  thermN : Bool := false            -- THERM_N driven low
  alertN : Bool := false            -- ALERT_N driven low
  outputs : Bool := false           -- ALERT_N and THERM_N released from R502
  pulses : Nat := 0                 -- EVENT pulses pending (R536)
  telemetry : Nat := 0              -- PERIOD in ms
  timers : List TimerUse := []
  packets : List Packet := []       -- INLINE packets that wait in Thresher's packet buffer, oldest first (R281)
  pausing : Bool := false           -- both ports are paused for throttling, or until a part of that buffer is free (R55, R58)
  openImg : Option OpenImage := none
  openRejected : Option Nat := none -- identity of a persisted image that failed (R384)
  cost : List (Nat × Nat × Nat × Nat) := []
  rotate : Nat := 0                 -- rotating start position (R24)
  imageGens : List (Nat × Nat) := []   -- generation of each program-table index
  nextRun : Nat := 0
  arrivals : Nat := 0
  jtag : Bytes := []                -- what the TAP last shifted out
  refused : BitVec 16 := 0
deriving DecidableEq, Repr, Inhabited

/-- The whole block. -/
structure State where
  fuses : Fuses
  gran : Granary
  pkg : Pkg
  clock : Clock := {}
  power : Power := {}
  working : Values := []            -- working values set since reset release, else the stored value
  inForce : Values := []            -- settings that take effect at reset or ENABLE (R458)
  ports : List Port := [{}, {}]
  insts : List Inst := []
  cmds : List Cmd := []
  xfers : List Xfer := []
  keys : List Key := []
  sas : List Sa := []
  ikes : List Ike := []
  images : List Image := []
  runs : List Run := []
  fields : List FieldSt := []
  tx : List Sent := []
  txq : List Frame := []            -- frames that wait for a port or for the end of a pause
  free : Nat := 0                   -- the model's own: serial number of the next free value (log entry 7)
  pending : List Instr := []        -- the model's own: the commands that wait
deriving DecidableEq, Repr

/-- One field of the modelled part right after reset release (R504): the control store is loaded, the field is in RECOVERY
and its self-test, Seedbed start-up and GDDR6 power-up have begun. Port 0 is the one Plolys port an IXN-2 uses (R15). -/
def FieldSt.start : FieldSt := { links := [{ state := .up }, {}, {}] }

/-- A life-cycle record in Production: two fuses, three agreeing copies, the intent record clear (R461, R466). -/
def LcRec.production : LcRec :=
  { fuses := 2, copies := [{ state := 0x7, count := 2 }, { state := 0x7, count := 2 }, { state := 0x7, count := 2 }] }

/-- The fuses and ROM of the modelled part: an IXN-2, stepping B0, with the identities of the spec's worked example
(log entry 1; DESIGN CHOICE). The roots are opaque. -/
def Fuses.factory : Fuses :=
  { fields := 2, stepping := 0xB0, deviceId := 0x4E490B1700002C4D, station := 0x0A1C3500082E, ucodeBase := 0x020301,
    packageRoot := Config.packageRoot, fieldRoots := [Config.fieldRoot 0, Config.fieldRoot 1], romCost := [] }

/-- Granary as the part leaves the factory in Production: IDENTITY recorded, nothing else (log entry 1; DESIGN CHOICE). -/
def Granary.factory : Granary :=
  { lc := [LcRec.production, LcRec.production], identity := some Config.identity, epochs := [0, 0],
    patches := [[{}, {}], [{}, {}]], opens := [[{}, {}], [{}, {}]] }

/-- Instance 0 with empty windows, reply tag zero and its factory weights (R86, R409, R414). -/
def Inst.manager : Inst := { bind := { id := 0 } }

/-- The machine right after the release of RESET_N (R45, R502, R504, R513): package INERT, mode word zero, time zero. The
values the spec does not give are those of log entries 1 and 2. -/
def State.reset : State :=
  { fuses := Fuses.factory, gran := Granary.factory, pkg := {}, insts := [Inst.manager],
    fields := [FieldSt.start, FieldSt.start] }

end Sys2Proof.Machine
end

