-- ==== Sys2Proof/Machine/Opcodes.lean ====
section
/-! DEFINITION. The opcode pages (R97, R98 and the opcode tables of the owning chapters) and what Headland judges from an
opcode and its parameters alone. -/
namespace Sys2Proof.Machine

/-- What a chapter declares of an opcode. -/
inductive OpFlag where
  | mgr        -- issuer 0 only, judged at step 3
  | headland   -- carried out by Headland itself (R26)
  | stream     -- streaming (R80)
  | long       -- long-running (R109)
  | rng        -- draws from Steep, or runs a masked step for some key it may name (R307)
  | home       -- placed on the home field of the object it names first (R133, R390, R196)
deriving DecidableEq, Repr

/-- One basic opcode: its number, its flags and the offsets of the key, SA or IKE SA handles in its block. -/
structure OpInfo where
  op : Nat
  flags : List OpFlag
  keyAt : List Nat := []
deriving DecidableEq, Repr

/-- Control, key and KEM pages (R98, R141, R152, R215). -/
def opPages0to2 : List OpInfo :=
  [⟨0x0001, [.headland], []⟩, ⟨0x0002, [.mgr, .headland], []⟩, ⟨0x0003, [.mgr, .headland], []⟩,
   ⟨0x0004, [.headland], []⟩, ⟨0x0005, [.mgr, .headland], []⟩, ⟨0x0006, [.mgr, .headland], []⟩,
   ⟨0x0007, [.mgr, .headland], []⟩, ⟨0x0008, [.headland], []⟩, ⟨0x0010, [.mgr, .headland], []⟩,
   ⟨0x0020, [.mgr, .headland], [12]⟩,
   ⟨0x0101, [.rng], []⟩, ⟨0x0102, [], []⟩, ⟨0x0103, [.stream], []⟩, ⟨0x0104, [.rng], [0]⟩, ⟨0x0105, [.rng], [0, 6]⟩,
   ⟨0x0106, [.rng], [0]⟩, ⟨0x0107, [.home], [0]⟩, ⟨0x0108, [.home], [0]⟩, ⟨0x0109, [], [0]⟩, ⟨0x010A, [], [0]⟩,
   ⟨0x0201, [.rng], []⟩, ⟨0x0202, [.rng], [2]⟩, ⟨0x0203, [.rng], [2]⟩, ⟨0x0210, [.rng], [2, 8]⟩,
   ⟨0x0211, [.rng], [2, 8]⟩, ⟨0x0220, [.rng], [2]⟩, ⟨0x0221, [.rng], [2]⟩]

/-- Signature and classical pages (R152, R183, R215). -/
def opPages3to4 : List OpInfo :=
  [⟨0x0301, [.rng], [0]⟩, ⟨0x0302, [], [0]⟩, ⟨0x0310, [.rng, .stream], [0, 6]⟩, ⟨0x0311, [.stream], [0, 6]⟩,
   ⟨0x0320, [.rng], [0]⟩, ⟨0x0321, [.stream], [0]⟩,
   ⟨0x0401, [.rng], [0]⟩, ⟨0x0402, [.rng], [0]⟩, ⟨0x0403, [.rng, .stream], [0]⟩, ⟨0x0404, [.stream], [0]⟩,
   ⟨0x0410, [.rng, .stream], [0]⟩, ⟨0x0411, [.stream], [0]⟩, ⟨0x0412, [.rng], [0, 8]⟩, ⟨0x0420, [.rng], [0]⟩,
   ⟨0x0421, [.stream], [0]⟩]

/-- Symmetric, digest, random and stateful pages (R183, R242, R262, R310). -/
def opPages5to8 : List OpInfo :=
  [⟨0x0501, [.stream], [0]⟩, ⟨0x0502, [.stream], [0]⟩, ⟨0x0510, [], [4]⟩, ⟨0x0511, [.home], [0]⟩,
   ⟨0x0512, [.home], [0]⟩, ⟨0x0520, [.rng], [0]⟩, ⟨0x0521, [.rng], [0]⟩,
   ⟨0x0601, [.stream], [0]⟩, ⟨0x0602, [.rng, .stream], [0]⟩, ⟨0x0603, [.rng, .stream], [0]⟩, ⟨0x0604, [.stream], [0]⟩,
   ⟨0x0701, [.rng], []⟩, ⟨0x0702, [], []⟩, ⟨0x0710, [.mgr], []⟩,
   ⟨0x0801, [.rng, .long], []⟩, ⟨0x0802, [.rng, .long, .home], [0]⟩, ⟨0x0803, [.stream], [0]⟩, ⟨0x0804, [.home], [0]⟩,
   ⟨0x0805, [.home], [0]⟩]

/-- Service, program, settings, life-cycle, diagnostics and instance pages (R326, R382, R386, R421, R459, R467, R519). -/
def opPages9toE : List OpInfo :=
  [⟨0x0901, [.rng], [8, 14]⟩, ⟨0x0902, [.rng, .home], [0]⟩, ⟨0x0903, [.rng, .home], [0]⟩, ⟨0x0904, [.rng, .home], [0]⟩,
   ⟨0x0905, [.home], [0]⟩, ⟨0x0910, [.rng, .stream, .long], [0]⟩, ⟨0x0911, [.stream], [0]⟩, ⟨0x0920, [.rng], [32]⟩,
   ⟨0x0A01, [.headland, .stream], []⟩, ⟨0x0A02, [.rng, .long], [6, 12, 18, 24]⟩, ⟨0x0A03, [.headland], []⟩,
   ⟨0x0A04, [], []⟩, ⟨0x0A10, [.headland], []⟩, ⟨0x0A11, [.mgr, .headland, .stream, .long], []⟩,
   ⟨0x0A12, [.mgr, .headland, .stream, .long], []⟩, ⟨0x0A13, [.mgr, .headland], []⟩,
   ⟨0x0B01, [.headland], []⟩, ⟨0x0B02, [.headland], []⟩, ⟨0x0B03, [.headland], []⟩,
   ⟨0x0C01, [.headland], []⟩, ⟨0x0C02, [.headland, .rng], []⟩, ⟨0x0C03, [.mgr, .headland], []⟩,
   ⟨0x0C10, [.mgr, .headland], []⟩, ⟨0x0C11, [.mgr, .headland, .stream], []⟩, ⟨0x0C12, [.headland], []⟩,
   ⟨0x0D01, [.headland], []⟩, ⟨0x0D02, [.mgr, .headland], []⟩, ⟨0x0D03, [.mgr, .headland], []⟩,
   ⟨0x0D04, [.headland], []⟩, ⟨0x0D05, [.mgr, .headland], []⟩, ⟨0x0D06, [.mgr, .headland], []⟩,
   ⟨0x0D10, [.mgr, .headland], []⟩, ⟨0x0D20, [.mgr, .headland], []⟩, ⟨0x0D21, [.mgr, .headland], []⟩,
   ⟨0x0D22, [.mgr, .headland], []⟩,
   ⟨0x0E01, [.mgr, .headland], []⟩, ⟨0x0E02, [.mgr, .headland, .long], []⟩, ⟨0x0E03, [.mgr, .headland], []⟩,
   ⟨0x0E04, [.headland], []⟩, ⟨0x0E05, [.mgr, .headland], []⟩, ⟨0x0E06, [.mgr, .headland], []⟩, ⟨0x0E20, [.headland], []⟩]

/-- Every basic opcode a chapter assigns. -/
def opTable : List OpInfo := opPages0to2 ++ opPages3to4 ++ opPages5to8 ++ opPages9toE

/-- The opcode is a customer opcode (R60). -/
def isCustomer (op : Nat) : Bool := decide (0xE000 ≤ op ∧ op ≤ 0xEFFF)

/-- The basic opcode of an opcode of pages 0x00 to 0x0E (R60). -/
def basicOp (op : Nat) : Nat := if isCustomer op then op else if op % 0x100 ≥ 0x80 then op - 0x80 else op

/-- The opcode is an expert opcode (R60). -/
def isExpert (op : Nat) : Bool := !isCustomer op && decide (op % 0x100 ≥ 0x80)

/-- The table's row of an opcode, basic or expert. -/
def opInfo (op : Nat) : Option OpInfo := opTable.find? (fun i => i.op == basicOp op)

/-- A flag of an opcode's row. -/
def opHas (op : Nat) (f : OpFlag) : Bool := ((opInfo op).map (fun i => i.flags.contains f)).getD false

/-- The opcode entry of the loaded open image (R379). -/
def customerEntry (s : State) (op : Nat) : Option Bytes :=
  s.pkg.openImg.bind fun im => im.entries.find? (fun e => num e 0 2 == op)

/-- Step 1: the opcode is assigned (R97). -/
def opAssigned (s : State) (op : Nat) : Bool :=
  if isCustomer op then (customerEntry s op).isSome else op < 0xE000 && (opInfo op).isSome

/-- Headland carries the command out itself (R26). -/
def opHeadland (op : Nat) : Bool := opHas op .headland

/-- The command is streaming (R80). MLDSA_SIGN and MLDSA_VERIFY are streaming in forms 0 and 1 only (R152): FORM is byte 6
of the one block and byte 7 of the other; a command whose segment 0 does not hold it is dispatched at its last segment, as its form is
not known before. -/
def opStreaming (s : State) (op : Nat) (params : Bytes) : Bool :=
  if isCustomer op then ((customerEntry s op).map (fun e => bit (byteAt e 10) 1)).getD false
  else if basicOp op == 0x0301 then 6 < params.length && bits (byteAt params 6) 1 0 < 2
  else if basicOp op == 0x0302 then 7 < params.length && bits (byteAt params 7) 1 0 < 2
  else opHas op .stream

/-- The command is long-running (R109): KEY_GENERATE is for class 5 and for RSA of 6,144 bits or more (R141). -/
def opLong (s : State) (op : Nat) (params : Bytes) : Bool :=
  if isCustomer op then ((customerEntry s op).map (fun e => bit (byteAt e 10) 2)).getD false
  else if basicOp op == 0x0101 then
    bits (byteAt params 0) 6 4 == 5 || (bits (byteAt params 0) 6 4 == 6 && num params 6 2 ≥ 6144)
  else opHas op .long

/-- R307, first and second cases: the opcode draws from Steep or counts as running a masked step. -/
def opRandom (s : State) (op : Nat) : Bool :=
  if isCustomer op then ((customerEntry s op).map (fun e => bit (byteAt e 10) 3 || byteAt e 11 != 0)).getD false
  else opHas op .rng

/-- R307, first and second cases, of a record: an AEAD_SEAL that generates its IV draws too. -/
def opNeedsRng (s : State) (op : Nat) (params : Bytes) : Bool :=
  opRandom s op || (basicOp op == 0x0501 && bit (byteAt params 7) 0)

/-- The opcode runs furrow programs or Winnow contexts (R13, R245): the work R482 suspends under HARDENED. -/
def opAcre (op : Nat) : Bool :=
  let b := basicOp op
  !isCustomer op && ([0x02, 0x03, 0x04, 0x06].contains (b / 0x100) ||
    [0x0106, 0x0801, 0x0802, 0x0803, 0x0901, 0x0902, 0x0903, 0x0904, 0x0910, 0x0911, 0x0920].contains b)

/-- The handles of keys, SAs and IKE SAs the parameters name, null handles left out, in block order. -/
def namedHandles (op : Nat) (params : Bytes) : List Nat :=
  (((opInfo op).map (·.keyAt)).getD [] |>.map (fun o => num params o 6)).filter (· != 0)

/-- The handles an expert suffix names: SEED of MLKEM_KEYGEN (R159), and the seed handle that ends the blocks of MLKEM_ENCAPS,
MLDSA_SIGN, HYBRID_SIGN and SLHDSA_SIGN (R161, R169, R173, R186). -/
def tailHandles (op : Nat) (params : Bytes) : List Nat :=
  if !isExpert op then []
  else if basicOp op == 0x0201 then [num params 10 6].filter (· != 0)
  else if [0x0202, 0x0301, 0x0310, 0x0320].contains (basicOp op) then [num params (params.length - 6) 6].filter (· != 0)
  else []

/-- *Commands admitted by run state* (R49), with the finer state columns of R98, R421, R459, R467 and R519 judged where
their commands are refused with STATE_FORBIDS at step 10. -/
def stateAdmits (r : RunState) (op : Nat) : Bool :=
  let b := basicOp op
  match r with
  | .inert => false
  | .bootstrap => [0x0001, 0x0C01, 0x0C02, 0x0002, 0x0003, 0x0C03].contains b
  | .operational => true
  | .fallow => !isCustomer op && (b / 0x100 == 0x00 || b / 0x100 == 0x0D || b == 0x0C01 || b == 0x0E20)
  | .recovery => !isCustomer op && ([0x0001, 0x0C01, 0x0003, 0x0C03].contains b || b / 0x100 == 0x0D)
  | .lockdown => [0x0001, 0x0C01, 0x0D01, 0x0D02, 0x0D03, 0x0D04, 0x0003].contains b

end Sys2Proof.Machine
end

