-- ==== Sys2Proof/Machine/Ops.lean ====
section
/-! DEFINITION. The named operations over State: reading and writing its parts, settings, events, logs, handles, pages,
shares, alarms. -/
namespace Sys2Proof.Machine

/-! ### Parts of the state -/

/-- Field count N (R4). -/
def State.n (s : State) : Nat := s.fuses.fields

/-- A field; an absent number reads as a field at its defaults that is lost. -/
def State.field (s : State) (f : Nat) : FieldSt := s.fields.getD f { lost := true }

/-- Change one field. -/
def State.modField (s : State) (f : Nat) (g : FieldSt → FieldSt) : State := { s with fields := s.fields.modify f g }

/-- Change every field. -/
def State.modFields (s : State) (g : FieldSt → FieldSt) : State := { s with fields := s.fields.map g }

/-- Change the package record. -/
def State.modPkg (s : State) (g : Pkg → Pkg) : State := { s with pkg := g s.pkg }

/-- Change Granary. -/
def State.modGran (s : State) (g : Granary → Granary) : State := { s with gran := g s.gran }

/-- Change one host port. -/
def State.modPort (s : State) (p : Nat) (g : Port → Port) : State := { s with ports := s.ports.modify p g }

/-- A host port. -/
def State.port (s : State) (p : Nat) : Port := s.ports.getD p {}

/-- An instance, if it exists. -/
def State.inst? (s : State) (i : Nat) : Option Inst := s.insts.find? (fun x => x.bind.id == i)

/-- The instance exists (R409). -/
def State.hasInst (s : State) (i : Nat) : Bool := (s.inst? i).isSome

/-- An instance, or one at its defaults. -/
def State.inst (s : State) (i : Nat) : Inst := (s.inst? i).getD { bind := { id := i } }

/-- Change one instance. -/
def State.modInst (s : State) (i : Nat) (g : Inst → Inst) : State :=
  { s with insts := s.insts.map (fun x => if x.bind.id == i then g x else x) }

/-- The outstanding command of an instance with a tag (R105). -/
def State.cmd? (s : State) (i t : Nat) : Option Cmd := s.cmds.find? (fun c => c.inst == i && c.tag == t)

/-- Change the outstanding command of an instance with a tag. -/
def State.modCmd (s : State) (i t : Nat) (g : Cmd → Cmd) : State :=
  { s with cmds := s.cmds.map (fun c => if c.inst == i && c.tag == t then g c else c) }

/-- Fields of the part, by number. -/
def State.fieldNums (s : State) : List Nat := List.range s.n

/-- The next free value: n bytes, and the state after it is used (log entry 7). -/
def State.fresh (s : State) (n : Nat) : Bytes × State :=
  ((List.range n).map (Config.fresh s.free), { s with free := s.free + 1 })

/-! ### Furrow and acre memories (R319, R330): sparse, addresses rising, no zero word listed -/

/-- Read a word; an unlisted word is zero. -/
def WMem.read : WMem → Nat → Word24
  | [], _ => 0
  | (b, w) :: m, a => if a == b then w else WMem.read m a

/-- Put a word where it belongs in the order, or take a zero word out. -/
def WMem.write : WMem → Nat → Word24 → WMem
  | [], a, w => if w == 0 then [] else [(a, w)]
  | (b, v) :: m, a, w =>
    if a < b then (if w == 0 then (b, v) :: m else (a, w) :: (b, v) :: m)
    else if a == b then (if w == 0 then m else (a, w) :: m)
    else (b, v) :: WMem.write m a w

/-- The canonical form. -/
def WMem.wf : WMem → Bool
  | [] => true
  | [(_, w)] => w != 0
  | (a, w) :: (b, v) :: m => w != 0 && decide (a < b) && WMem.wf ((b, v) :: m)

/-- Put an address into a rising list of addresses, once. -/
def addAddr : List Nat → Nat → List Nat
  | [], a => [a]
  | b :: l, a => if a < b then a :: b :: l else if a == b then b :: l else b :: addAddr l a

/-! ### Life cycle -/

/-- The life-cycle state: that of field 0 (R461, R471). -/
def State.lc (s : State) : LcState := LcState.ofCount ((s.gran.lc.getD 0 {}).fuses)

/-- The DEBUG bit in force (R461). -/
def State.debugBit (s : State) : Bool := s.lc != .production || s.pkg.unlocked

/-- The root of the KEK in the present state, for a field (R461, R462). -/
def State.kekRoot (s : State) (f : Nat) : Bytes :=
  match s.lc with
  | .blank => []
  | .test => digestOf 0x12 32 (ascii "IXAIN TEST ROOT")
  | .production => s.fuses.packageRoot
  | .endOfLife => kdfCounter (s.fuses.fieldRoots.getD f []) (ascii "IXN ANALYSIS") [] 32

/-- The KEK a field's Whisk engines hold (R283). -/
def State.kek (s : State) (f : Nat) : Bytes := (s.field f).kek.headD []

/-- The value of the KEK in the present state (R462). -/
def State.kekValue (s : State) (f : Nat) : Bytes :=
  kdfCounter (s.kekRoot f) (ascii "IXN KEK") (toBE 1 s.lc.code ++ toBE 1 s.debugBit.toNat) 32

/-! ### Settings -/

/-- A row of *Settings* (R458): identifier, package scope, instance scope, length, and when it takes effect. -/
structure SettingInfo where
  id : Nat
  pkg : Bool
  inst : Bool
  len : Nat
deriving DecidableEq, Repr

/-- *Settings* (R458). -/
def settingTable : List SettingInfo :=
  [⟨0x01, true, false, 2⟩, ⟨0x02, true, false, 2⟩, ⟨0x03, true, false, 1⟩, ⟨0x04, true, false, 2⟩, ⟨0x05, true, false, 2⟩,
   ⟨0x06, true, false, 1⟩, ⟨0x07, true, true, 2⟩, ⟨0x08, true, false, 2⟩, ⟨0x09, true, false, 1⟩, ⟨0x0A, true, false, 1⟩,
   ⟨0x0B, true, false, 2⟩, ⟨0x0C, true, false, 2⟩, ⟨0x0D, true, false, 2⟩, ⟨0x0E, true, true, 2⟩, ⟨0x0F, true, false, 1⟩,
   ⟨0x10, true, false, 16⟩, ⟨0x11, true, false, 16⟩, ⟨0x12, true, false, 4⟩, ⟨0x13, true, false, 8⟩, ⟨0x14, true, false, 1⟩,
   ⟨0x15, true, false, 2⟩, ⟨0x16, true, false, 2⟩, ⟨0x17, true, false, 14⟩, ⟨0x18, true, false, 1⟩, ⟨0x19, true, false, 4⟩,
   ⟨0x40, false, true, 2⟩, ⟨0x41, false, true, 1⟩, ⟨0x42, false, true, 2⟩]

/-- The row of a setting. -/
def settingInfo (id : Nat) : Option SettingInfo := settingTable.find? (fun r => r.id == id)

/-- Maximum power of the part in units of 0.5 W, the top of its ceiling range (R2). -/
def ceilMax (n : Nat) : Nat := if n == 2 then 68 else if n == 4 then 128 else 236

/-- Bottom of the ceiling range in units of 0.5 W (R2). -/
def ceilMin (n : Nat) : Nat := if n == 2 then 24 else 40

/-- Factory default of a setting, as the number its bytes spell (R458). MEM_STRENGTH follows *Regions* (R437). -/
def settingDefault (n id : Nat) : Nat :=
  match id with
  | 0x01 => 0x88B5
  | 0x03 => 2
  | 0x04 => ceilMax n
  | 0x05 => ceilMin n
  | 0x07 => 10
  | 0x08 => 20
  | 0x09 => 1
  | 0x0A => 41
  | 0x0B => 792
  | 0x0C => 700
  | 0x0D => 600
  | 0x0E => 64
  | 0x0F => 32
  | 0x10 => beNat [0, 2, 2, 2, 1, 2, 0, 0, 0, 0, 0, 0, 0, 0, 0, 0]
  | 0x11 => beNat [0, 1, 1, 1, 1, 1, 0, 0, 0, 0, 0, 0, 0, 0, 0, 0]
  | 0x12 => 12
  | 0x13 => beNat [8, 8, 8, 8, 8, 8, 8, 8]
  | 0x15 => 1518
  | 0x16 => 30
  | 0x17 => 0xC000000000000000
  | 0x18 => 0x04
  | 0x40 => 1518
  | _ => 0

/-- A value in a table of settings. -/
def Values.get? (v : Values) (id : Nat) (sc : Option Nat) : Option Nat :=
  (v.find? (fun e => e.1 == id && e.2.1 == sc)).map (·.2.2)

/-- Set a value in a table of settings. -/
def Values.set (v : Values) (id : Nat) (sc : Option Nat) (x : Nat) : Values :=
  (id, sc, x) :: v.filter (fun e => !(e.1 == id && e.2.1 == sc))

/-- Remove a value from a table of settings. -/
def Values.erase (v : Values) (id : Nat) (sc : Option Nat) : Values := v.filter (fun e => !(e.1 == id && e.2.1 == sc))

/-- Working package value of a setting (R458). -/
def State.setting (s : State) (id : Nat) : Nat := (s.working.get? id none).getD (settingDefault s.n id)

/-- The value that governs an instance's commands: its own, else the package's (R62). -/
def State.settingI (s : State) (inst id : Nat) : Nat := (s.working.get? id (some inst)).getD (s.setting id)

/-- The value in force of a setting that takes effect at reset or ENABLE (R458). -/
def State.settingF (s : State) (id : Nat) : Nat := (s.inForce.get? id none).getD (settingDefault s.n id)

/-- Byte k of a setting of len bytes. -/
def settingByte (len v k : Nat) : Nat := v / 256 ^ (len - 1 - k) % 256

/-- A mode bit of a mode word (R51). -/
inductive Mode where
  | partitioned | inline | service | twinned | hardened | capped
deriving DecidableEq, Repr

/-- Position of a mode in the mode word (R51). -/
def Mode.pos : Mode → Nat
  | .partitioned => 0 | .inline => 1 | .service => 2 | .twinned => 3 | .hardened => 4 | .capped => 5

/-- The mode word as it reads (R51): zero outside OPERATIONAL. -/
def State.modeWord (s : State) : Nat := if s.pkg.run == .operational then s.pkg.modes.toNat else 0

/-- A mode is on (R51): the word has no effect outside OPERATIONAL. -/
def State.mode (s : State) (m : Mode) : Bool := s.modeWord.testBit m.pos

/-! ### Events, log and counters -/

/-- Raise an event for an instance (R516). -/
def State.raise (s : State) (inst code : Nat) (data : Bytes) : State :=
  s.modInst inst fun i =>
    if i.evq.length < 64 then { i with evq := i.evq ++ [{ code := code, time := s.clock.time, data := data }] }
    else { i with evLost := sat (2 ^ 32 - 1) (i.evLost + 1) }

/-- The instance has state (R38, R119): it exists and has had a frame accepted, or owns something. -/
def State.hasState (s : State) (i : Inst) : Bool :=
  i.window.h.isSome || i.bind.id != 0 || s.cmds.any (fun c => c.inst == i.bind.id) ||
    s.keys.any (fun k => bits k.handle 47 40 == i.bind.id)

/-- Append to a field's error ring (R518). -/
def ErrLog.add (l : ErrLog) (e : LogEntry) : ErrLog :=
  if l.ring.length < 4096 then { l with ring := l.ring ++ [{ e with seq := l.next }], next := l.next + 1 }
  else
    { l with ring := l.ring.tail ++ [{ e with seq := l.next }], next := l.next + 1,
             lost := if (l.ring.head?.map (·.seq)).getD 0 ≥ l.read then sat (2 ^ 32 - 1) (l.lost + 1) else l.lost }

/-- Write an error-log entry (R518); the island is the field's local number (R11). -/
def State.log (s : State) (f island kind inst : Nat) (detail : Bytes) : State :=
  s.modField f fun x =>
    { x with log := x.log.add { seq := 0, time := s.clock.time, island := 64 * f + island, kind := kind, inst := inst,
                                detail := fit 12 detail } }

/-- A CORRECTED event of a field (R520). -/
def State.countCorrected (s : State) (f : Nat) : State := s.modField f fun x => { x with corrected := x.corrected + 1 }

/-- Change an instance's statistics. -/
def State.stat (s : State) (i : Nat) (g : Stats → Stats) : State := s.modInst i fun x => { x with stats := g x.stats }

/-- A 48-bit statistic saturates (R517). -/
def sat48 (v : Nat) : Nat := sat (2 ^ 48 - 1) v

/-! ### Fields -/

/-- The field is in OPERATIONAL, not in machine check, not gated and not lost (before R21). -/
def State.dispatchable (s : State) (f : Nat) : Bool :=
  let x := s.field f
  x.run == .operational && !x.mcheck && !x.gating && !x.gated && !x.lost

/-- Headland can place a command on the field (R21). In FALLOW only commands admitted before it still come to be placed, when the last
segment of their transfer arrives (R47): the fields take them as before. -/
def State.placeable (s : State) (f : Nat) : Bool :=
  s.dispatchable f ||
    (let x := s.field f
     s.pkg.run == .fallow && x.run == .fallow && !x.mcheck && !x.gating && !x.gated && !x.lost)

/-- The field is lost, or Headland treats it as lost because it is cut off (R32, R35). -/
def FieldSt.gone (x : FieldSt) : Bool := x.lost || x.cut

/-- The field is lost or in LOCKDOWN, so that what it homes is unavailable (R33, R494). -/
def State.unavailable (s : State) (f : Nat) : Bool := (s.field f).lost || (s.field f).run == .lockdown

/-- The run state of a field: a field follows the package but for the cases of R44. -/
def State.fieldRun (s : State) (f : Nat) : RunState := (s.field f).run

/-- Commands outstanding on a field (R22). -/
def State.outstanding (s : State) (f : Nat) : Nat :=
  (s.cmds.filter (fun c => c.field == some f || c.field2 == some f)).length

/-- Load of a field (R24). -/
def State.load (s : State) (f : Nat) : Nat :=
  ((s.cmds.filter (fun c => c.field == some f || c.field2 == some f)).map (·.weight)).sum

/-- Microcode threads taken on a field (R366). -/
def State.threadsUsed (s : State) (f : Nat) : Nat :=
  (s.cmds.filter (fun c => c.started && (c.field == some f || c.field2 == some f) &&
    !(match c.stage with | .done _ => true | _ => false))).length

/-! ### Handles (R120 to R123) -/

/-- The owner of a handle. -/
def hInst (h : Nat) : Nat := bits h 47 40

/-- The handle-table index of a key handle. -/
def hIndex (h : Nat) : Nat := bits h 39 18

/-- The home field of a key handle. -/
def hHome (h : Nat) : Nat := bits h 39 37

/-- The entry at a handle's index, whatever its generation (R126). -/
def State.keyAt (s : State) (h : Nat) : Option Key := s.keys.find? (fun k => hIndex k.handle == hIndex h)

/-- The key a valid handle names (R122, R126): owner, generation and debug state match. -/
def State.key? (s : State) (inst h : Nat) : Option Key :=
  (s.keyAt h).filter fun k => k.handle == h && hInst h == inst && k.dbg == s.debugBit && h != 0 && hHome h < s.n

/-- Change a key entry by handle. -/
def State.modKey (s : State) (h : Nat) (g : Key → Key) : State :=
  { s with keys := s.keys.map (fun k => if k.handle == h then g k else k) }

/-- Boot epoch of a field (R123). -/
def State.epoch (s : State) (f : Nat) : Nat := s.gran.epochs.getD f 0

/-- Times an index has been allocated in this epoch. -/
def useOf (us : List (Nat × Nat)) (i : Nat) : Nat := ((us.find? (·.1 == i)).map (·.2)).getD 0

/-- Count one allocation of an index. -/
def useBump (us : List (Nat × Nat)) (i : Nat) : List (Nat × Nat) :=
  (i, useOf us i + 1) :: us.filter (·.1 != i)

/-- The first free index after the last one allocated, wrapping within a range of size entries (R121, R271). -/
def nextFree (last size limit : Nat) (uses : List (Nat × Nat)) (taken : List Nat) : Option Nat :=
  ((List.range (min size (taken.length + uses.length + 1))).map (fun k => (last + 1 + k) % size)).find?
    (fun i => !taken.contains i && useOf uses i < limit)

/-- Table entries a field homes (R121). -/
def homeEntries : Nat := 524288

/-- Local indices taken on a field. -/
def State.takenKeys (s : State) (f : Nat) : List Nat :=
  (s.keys.filter (fun k => hHome k.handle == f)).map (fun k => hIndex k.handle % homeEntries)

/-- The handle the next key of an instance homed on a field takes (R120, R121, R123). -/
def State.newHandle (s : State) (inst f : Nat) : Option (Nat × Nat) :=
  (nextFree (s.field f).lastIndex homeEntries 0xFFF (s.field f).uses (s.takenKeys f)).map fun i =>
    (inst * 2 ^ 40 + (f * homeEntries + i) * 2 ^ 18 + s.epoch f % 64 * 2 ^ 12 + (useOf (s.field f).uses i + 1), i)

/-! ### Keys: attributes (R128 to R131) -/

/-- Positions of the attribute bits. -/
def aEncrypt := 0
def aDecrypt := 1
def aWrap := 2
def aUnwrap := 3
def aDerive := 4
def aSign := 5
def aVerify := 6
def aEncap := 7
def aDecap := 8
def aAgree := 9
def aMacGen := 10
def aMacVerify := 11
def aExportable := 12
def aTwinRequired := 13
def aConsumable := 14
def aPersistent := 15
def aSingleField := 19

/-- MIN_MASK_ORDER of an attribute word as an order (R128): 0 and 1 are order 1. -/
def attrOrder (a : Nat) : Nat := max 1 (bits a 18 16)

/-- Class of a type code (R124). -/
def tClass (t : Nat) : Nat := bits t 6 4

/-- Set of a type code (R124). -/
def tSet (t : Nat) : Nat := bits t 3 0

/-- The type code is a public half (R124). -/
def tPublic (t : Nat) : Bool := bit t 7

/-- The use bits a type may carry (R129). -/
def usePermitted (t : Nat) : Nat :=
  match tPublic t, tClass t with
  | false, 0 => if tSet t ≤ 2 then 0xC1F else if tSet t == 3 then 0x003 else 0xC10
  | false, 1 => 0x100
  | false, 5 => 0x100
  | true, 1 => 0x080
  | true, 5 => 0x080
  | false, 2 => 0x020
  | false, 3 => 0x020
  | false, 4 => 0x020
  | true, 2 => 0x040
  | true, 3 => 0x040
  | true, 4 => 0x040
  | false, 6 => 0x022
  | true, 6 => 0x041
  | false, _ => if tSet t ≤ 2 then 0x220 else if tSet t ≤ 4 then 0x200 else 0x020
  | true, _ => if tSet t ≤ 2 then 0x240 else if tSet t ≤ 4 then 0x200 else 0x040

/-- The default use bits at the basic level (R129). -/
def useDefault (t : Nat) : Nat :=
  match tPublic t, tClass t with
  | false, 0 => if tSet t ≤ 3 then 0x003 else 0x010
  | false, 6 => 0x020
  | true, 6 => 0x040
  | false, 7 => if tSet t ≤ 2 then 0x020 else usePermitted t
  | true, 7 => if tSet t ≤ 2 then 0x040 else usePermitted t
  | _, _ => usePermitted t

/-- The attribute word obeys R128, R129 and R135 for its type: reserved bits, MIN_MASK_ORDER, use bits, EXPORTABLE,
CONSUMABLE and PERSISTENT. -/
def attrOk (t a : Nat) : Bool :=
  a < 2 ^ 20 && bits a 18 16 ≤ 3 && (bits a 11 0 &&& usePermitted t) == bits a 11 0 &&
  !(bit a aExportable && (tPublic t || tClass t == 4)) &&
  (bit a aConsumable == (tClass t == 4 && !tPublic t)) &&
  !(tClass t == 4 && !tPublic t && !bit a aPersistent)

/-- The attributes a key inherits from its inputs (R131): TWIN_REQUIRED, SINGLE_FIELD and the highest MIN_MASK_ORDER. -/
def attrInherit (base : Nat) (inputs : List Key) : Nat :=
  let o := inputs.foldl (fun m k => max m (bits k.attr 18 16)) (bits base 18 16)
  let tw := bit base aTwinRequired || inputs.any (fun k => bit k.attr aTwinRequired)
  let sf := bit base aSingleField || inputs.any (fun k => bit k.attr aSingleField)
  (base &&& (2 ^ 24 - 1 - 7 * 2 ^ 16 - 2 ^ 13 - 2 ^ 19)) + o * 2 ^ 16 + tw.toNat * 2 ^ 13 + sf.toNat * 2 ^ 19

/-- A requested attribute word obeys R131 against its input keys. -/
def attrBounded (a : Nat) (inputs : List Key) : Bool :=
  inputs.all fun k =>
    (!bit k.attr aTwinRequired || bit a aTwinRequired) && (!bit k.attr aSingleField || bit a aSingleField) &&
    bits k.attr 18 16 ≤ bits a 18 16 && (!bit a aExportable || tPublic k.type || bit k.attr aExportable)

/-- A change of attributes narrows (R130). -/
def attrNarrows (old new : Nat) : Bool :=
  (bits new 11 0 &&& bits old 11 0) == bits new 11 0 && (!bit new aExportable || bit old aExportable) &&
  (bit new aTwinRequired || !bit old aTwinRequired) && (bit new aSingleField || !bit old aSingleField) &&
  bits old 18 16 ≤ bits new 18 16 && bit new aPersistent == bit old aPersistent &&
  bit new aConsumable == bit old aConsumable

/-! ### GDDR6 pages (R435 to R442) -/

/-- First page after the handle table, the SA table and the program region (log entry 13; DESIGN CHOICE). -/
def heapBase (n : Nat) : Nat := 16384 + 65536 / n + 8192

/-- A page lies in the traversal cache of a key (R209). -/
def Key.cachesPage (k : Key) (p : Nat) : Bool :=
  k.leaf.any fun l => l.cachePage ≤ p && p < l.cachePage + ceilDiv l.cache 2048

/-- Region and owner of a page that is not listed, by its place: handle table, SA table, program region, a traversal cache, or free
(R437; log entry 13). -/
def State.regionAt (s : State) (f p : Nat) : Nat × Nat :=
  if p < 16384 then (1, 0)
  else if p < 16384 + 65536 / s.n then (2, 0)
  else if p < heapBase s.n then (3, 0)
  else
    match s.keys.find? fun k => hHome k.handle == f && k.cachesPage p with
    | some k => (5, hInst k.handle)
    | none => (0, 0)

/-- MEM_STRENGTH of a region (R437); a free page has S1. -/
def State.regionStrength (s : State) (r : Nat) : Nat := if r == 0 then 1 else settingByte 16 (s.settingF 0x10) r

/-- The recorded state of a page; an unlisted page is as zero-encoding leaves it in its region. -/
def State.pageOf (s : State) (f p : Nat) : Page :=
  ((s.field f).pages.find? (·.page == p)).getD
    { page := p, region := (s.regionAt f p).1, owner := (s.regionAt f p).2, strength := s.regionStrength (s.regionAt f p).1 }

/-- Symbols a strength corrects (R438). -/
def strengthT (st : Nat) : Nat := if st == 1 then 8 else if st == 2 then 16 else 32

/-- How a read of a page ends (R440). -/
inductive PageRead where
  | clean | correctable (symbols : Nat) | uncorrectable | poisoned
deriving DecidableEq, Repr

/-- A page read (R440). -/
def Page.read (p : Page) : PageRead :=
  if p.badNumber || p.errors > strengthT p.strength then .uncorrectable
  else if p.poison then .poisoned
  else if p.errors > 0 then .correctable p.errors
  else .clean

/-- Replace the record of a page. -/
def FieldSt.putPage (x : FieldSt) (p : Page) : FieldSt :=
  { x with pages := p :: x.pages.filter (·.page != p.page) }

/-- What a foreground read does to one page (R441, R452): repair, or POISON, the log entry, and the call for retirement. -/
def State.readPage (s : State) (f p : Nat) : PageRead × State :=
  let pg := s.pageOf f p
  match pg.read with
  | .correctable e =>
    (.correctable e, ((s.modField f fun x => x.putPage { pg with errors := 0, due := pg.due || e > strengthT pg.strength / 2 }).log f 45 1 0xFF
      (toBE 4 p ++ toBE 1 e)).countCorrected f)
  | .uncorrectable =>
    (.uncorrectable, (s.modField f fun x => x.putPage { pg with errors := 0, badNumber := false, poison := true, due := true }).log f 45 2 0xFF
      (toBE 4 p ++ toBE 1 0))
  | r => (r, s)

/-- Give out k pages of a region to an instance: the ones after the highest in use (log entry 13). -/
def State.allocPages (s : State) (f k region owner : Nat) : List Nat × State :=
  let x := s.field f
  let base := x.withdrawn.foldl (fun m p => max m (p + 1)) (x.pages.foldl (fun m p => max m (p.page + 1)) (heapBase s.n))
  let ps := (List.range k).map (base + ·)
  let st := settingByte 16 (s.settingF 0x10) region
  (ps, s.modField f fun x => { x with pages := ps.map (fun p =>
    { page := p, strength := st, region := region, version := 1, owner := owner }) ++ x.pages })

/-- Give out k consecutive pages without listing each: the first and the last are recorded (log entry 13). -/
def State.allocRange (s : State) (f k region owner : Nat) : Nat × State :=
  if k == 0 then (0, s) else
  match s.allocPages f 1 region owner with
  | (b :: _, s) =>
    (b, s.modField f fun x => if k == 1 then x else x.putPage
      { page := b + k - 1, strength := settingByte 16 (s.settingF 0x10) region, region := region, version := 1, owner := owner })
  | (_, s) => (0, s)

/-- Withdraw pages from allocation; the first withdrawal raises MEM_SPARES_EXHAUSTED (R454). -/
def State.withdraw (s : State) (f : Nat) (ps : List Nat) : State :=
  if ps.isEmpty then s
  else
    let first := !(s.field f).sparesEvent
    let s := s.modField f fun x => { x with withdrawn := x.withdrawn ++ ps, sparesEvent := true }
    if first then s.raise 0 0x0403 (toBE 1 f) else s

/-- Free pages: they are zero-encoded (R437); one that could not be retired is withdrawn (R454). -/
def State.freePages (s : State) (f : Nat) (ps : List Nat) : State :=
  let gone := (s.field f).pages.filter fun p => ps.contains p.page && p.drop
  (s.modField f fun x => { x with pages := x.pages.filter (fun p => !ps.contains p.page) }).withdraw f (gone.map (·.page))

/-- Free the pages of a key's traversal cache (R209). -/
def State.freeCache (s : State) (k : Key) : State :=
  s.freePages (hHome k.handle) (((s.field (hHome k.handle)).pages.map (·.page)).filter k.cachesPage)

/-- Pages of a byte string. -/
def pagesFor (len : Nat) : Nat := ceilDiv len 2048

/-! ### Key lengths (R127, R134, R136) -/

/-- Length of the encoded secret, or of the public encoding with the values its chapter adds. -/
def Key.len (k : Key) : Nat := k.body.length + k.pubx.length

/-- BLOB_LEN: the header and the body of R127. -/
def Key.blobLen (k : Key) : Nat :=
  if tPublic k.type then 16 + k.len + 16 else 16 + 8 + 8 * ceilDiv k.body.length 8

/-- Sealed slots a secret takes; a public half takes none (R136). -/
def Key.slots (k : Key) : Nat := if tPublic k.type then 0 else ceilDiv k.body.length 256

/-- Bytes a persistent key takes in the Granary key region (R134). -/
def Key.granaryBytes (k : Key) : Nat := 64 * ceilDiv (64 + k.blobLen) 64

/-! ### Descriptors and blobs (R125, R127) -/

/-- Descriptor byte 7. -/
def Key.flagsByte (k : Key) : Nat := 1 + k.quarantined.toNat * 2 + k.dbg.toNat * 4

/-- Descriptor bytes 0 to 15. -/
def Key.descHead (k : Key) : Bytes :=
  toBE 6 k.handle ++ toBE 1 k.type ++ toBE 1 k.flagsByte ++ toBE 3 k.attr ++ toBE 1 k.origin ++ toBE 2 k.size ++ [0, 0]

/-- Descriptor bytes 0 to 55. -/
def Key.descBytes (k : Key) : Bytes :=
  k.descHead ++ toBE 4 k.blobLen ++ toBE 4 (k.pages.headD 0) ++ toBE 8 k.created ++ toBE 6 k.pair ++ fit 18 k.ext

/-- The header of a blob: *External blob* bytes 0 to 15 (R127, R145). -/
def Key.blobHead (k : Key) (format : Nat) : Bytes :=
  toBE 1 format ++ toBE 1 k.type ++ toBE 3 k.attr ++ [0] ++ toBE 2 k.size ++ toBE 4 k.body.length ++ [0, 0, 0, 0]

/-- K_b of a key (R127). -/
def State.blobKey (s : State) (k : Key) : Bytes := kdfCounter (s.kek (hHome k.handle)) (ascii "SILO BLOB") k.descHead 32

/-- The DMAC of a descriptor (R125). -/
def State.dmacOf (s : State) (k : Key) : Bytes :=
  (std 16 .aesCmac [kdfCounter (s.kek (hHome k.handle)) Config.dmacLabel [] 32, k.descBytes]).take 8

/-- What the tag of a public half's blob covers: its body (R127), or for class 5 the blob's header and the digest D (R219). -/
def Key.tagged (k : Key) : Bytes :=
  if tClass k.type == 5 then k.blobHead 0 ++ digestOf 0x22 32 k.body else k.body ++ k.pubx

/-- Whisk seals a key's blob and descriptor (R125, R127). -/
def State.sealKey (s : State) (k : Key) : Key :=
  let kb := s.blobKey k
  let k := { k with sealed := if tPublic k.type then k.body ++ k.pubx ++ std 16 .aesCmac [kb, k.tagged]
                              else std (8 + 8 * ceilDiv k.body.length 8) .aesKeyWrap [kb, k.body] }
  { k with dmac := s.dmacOf k }

/-- Mark an entry QUARANTINED: the descriptor is written anew (R125, R126). -/
def State.quarantine (s : State) (h : Nat) : State :=
  s.modKey h fun k => let q := { k with quarantined := true }; { q with dmac := s.dmacOf q }

/-- The place of an index's descriptor in the handle table of its home field: 32 to a page (R125). -/
def descPageOf (h : Nat) : Nat := hIndex h % homeEntries / 32

/-! ### Shares (R413 to R415) -/

/-- Slots an instance holds (R31). -/
def State.held (s : State) (i : Nat) : Nat := (s.cmds.filter (fun c => c.inst == i)).length

/-- QSLOTS in force; instance 0 has what the tenants leave (R414). -/
def State.qslots (s : State) (i : Nat) : Nat :=
  if i == 0 then 4096 * s.n - ((s.insts.filter (fun x => x.bind.id != 0)).map (fun x => x.bind.shares.qslots)).sum
  else (s.inst i).bind.shares.qslots

/-- A bit of FLAGS of the TK_OPEN block (R394): 0 INSTALL, 1 ESN, 2 DUALAUTH. -/
def Ike.flag (k : Ike) (i : Nat) : Bool := bit (byteAt k.params 1) i

/-- The key is a child of an IKE SA that installs none, whose charge covers it (R392). -/
def State.isChildKey (s : State) (h : Nat) : Bool := s.ikes.any fun k => !k.flag 0 && k.children.any fun x => x.hIn == h || x.hOut == h

/-- Key handles an instance uses, IKE charges included (R392). -/
def State.usedKeys (s : State) (i : Nat) : Nat :=
  (s.keys.filter (fun k => hInst k.handle == i && !s.isChildKey k.handle)).length + ((s.ikes.filter (fun k => hInst k.handle == i)).map (·.chargedKeys)).sum

/-- SAs an instance uses, IKE charges included (R392). -/
def State.usedSas (s : State) (i : Nat) : Nat :=
  (s.sas.filter (fun a => hInst a.handle == i && a.ofTk == 0)).length +
    ((s.ikes.filter (fun k => hInst k.handle == i)).map (·.chargedSas)).sum

/-- Commands of page 0x06xx that an inbound transfer carries, until they end (R254). -/
def State.winnowXfers (s : State) (i : Nat) : List Cmd :=
  s.cmds.filter fun c => c.inst == i && c.xfer.isSome && basicOp c.op / 0x100 == 0x06 && !(match c.stage with | .done _ => true | _ => false)

/-- Staging space of the AEAD commands past step 12: MLEN + TAGLEN + IVLEN (R267). -/
def State.aeadStaging (s : State) (i : Nat) : Nat :=
  ((s.cmds.filter fun c => c.inst == i && c.checked && (basicOp c.op == 0x0501 || basicOp c.op == 0x0502) &&
    !(match c.stage with | .done _ => true | _ => false)).map fun c => num c.params 12 3 + byteAt c.params 9 + byteAt c.params 8).sum

/-- GDDR6 bytes the part holds for an instance (R415). -/
def State.usedG6 (s : State) (i : Nat) : Nat :=
  ((s.keys.filter (fun k => hInst k.handle == i)).map (fun k => k.blobLen + (k.leaf.map (·.cache)).getD 0)).sum +
  ((s.xfers.filter (fun x => x.inst == i)).map (·.got)).sum +
  ((s.ikes.filter (fun k => hInst k.handle == i)).map (·.chargedG6)).sum +
  ((s.images.filter (fun m => hInst m.handle == i)).map (·.bytes)).sum +
  512 * (s.winnowXfers i).length + s.aeadStaging i

/-- Winnow contexts an instance's share counts (R254): its commands of page 0x06xx that an inbound transfer carries. -/
def State.usedWctx (s : State) (i : Nat) : Nat :=
  (s.winnowXfers i).length

/-- Room under a ceiling that was in force at admission (R418). -/
def roomFor (ceiling : Option Nat) (used more : Nat) : Bool :=
  match ceiling with
  | none => true
  | some c => decide (used + more ≤ c)

/-- Step 12 for k keys of an instance on a field, with b blob bytes (R142). -/
def State.roomKeys (s : State) (c : Cmd) (f k b : Nat) : Bool :=
  roomFor c.shares.keys (s.usedKeys c.inst) k && roomFor c.shares.gddr6 (s.usedG6 c.inst) b &&
  decide ((s.takenKeys f).length + k ≤ homeEntries)

/-- Room in a field's Granary key region for keys (R134). -/
def State.roomPersistent (s : State) (f : Nat) (ks : List Nat) : Bool :=
  let mine := s.gran.keys.filter (fun k => hHome k.key.handle == f)
  decide (mine.length + ks.length ≤ 4096 ∧ (mine.map (·.key.granaryBytes)).sum + ks.sum ≤ 2 * 1024 * 1024)

/-! ### What a command reads of its block (R101 steps 7 to 12) -/

/-- The key of a handle as the command read it at steps 9 and 10. -/
def Cmd.key (c : Cmd) (h : Nat) : Key := (c.keys.find? (fun k => k.handle == h)).getD { handle := 0, type := 0 }

/-- A mode at the command's admission (R54). -/
def Cmd.mode (c : Cmd) (m : Mode) : Bool := c.modes.testBit m.pos

/-- Effective minimum masking order (R64): HARDENED's order and the MIN_MASK_ORDER of the named keys. -/
def Cmd.minOrder (c : Cmd) (ks : List Key) : Nat :=
  ks.foldl (fun m k => max m (attrOrder k.attr)) (if c.mode .hardened then c.hardOrder else 1)

/-- The order a MASK field gives (R64): the effective minimum, raised to MASK. -/
def Cmd.raised (c : Cmd) (ks : List Key) (mask : Nat) : Nat := max (c.minOrder ks) mask

/-- MASK is out of range (step 8). -/
def badMask (mask : Nat) : Bool := mask > 3

/-- MASK asks for less than the effective minimum (R64, step 10). -/
def Cmd.maskLow (c : Cmd) (ks : List Key) (mask : Nat) : Bool := mask != 0 && mask < c.minOrder ks

/-- A parameter field. -/
def Cmd.p (c : Cmd) (off len : Nat) : Nat := num c.params off len

/-- Length of the parameters. -/
def Cmd.len (c : Cmd) : Nat := c.params.length

/-- The field a command executes on. -/
def Cmd.fld (c : Cmd) : Nat := c.field.getD 0

/-- The command is the expert form (R61). -/
def Cmd.expert (c : Cmd) : Bool := isExpert c.op

/-- The last bytes of the parameters, where the expert suffix of len bytes lies: off bytes from its start. -/
def Cmd.tail (c : Cmd) (len off n : Nat) : Nat := num c.params (c.params.length - len + off) n

/-- The secret keys among the keys a command names. -/
def Cmd.secretKeys (c : Cmd) : List Key := c.keys.filter fun k => !tPublic k.type

/-- The MASK field of an expert block, where the opcode's suffix has one; 0 for the effective minimum. -/
def Cmd.maskField (c : Cmd) : Nat :=
  let b := basicOp c.op
  if !c.expert then 0
  else if b == 0x0101 then c.p 11 1
  else if b == 0x0201 then c.p 9 1
  else if b == 0x0202 then c.tail 10 3 1
  else if [0x0203, 0x0220, 0x0221, 0x0412].contains b then c.tail 4 3 1
  else if b == 0x0210 || b == 0x0211 then c.tail 6 4 1
  else if [0x0301, 0x0310, 0x0320].contains b then c.tail 8 0 1
  else if b == 0x0402 then c.tail 5 0 1
  else if [0x0403, 0x0410, 0x0420, 0x0802, 0x0901, 0x0910, 0x0920, 0x0A02].contains b then c.tail 2 0 1
  else 0

/-- A command that names an IKE SA (R393). -/
def Cmd.onIke (c : Cmd) : Bool := [0x0902, 0x0903, 0x0904, 0x0905].contains (basicOp c.op)

/-- An IKE SA sees a command that names it: when it is admitted and when it ends, whatever its end (R393; log entry 129). -/
def State.touchIke (s : State) (c : Cmd) : State :=
  if !c.onIke then s
  else { s with ikes := s.ikes.map fun (x : Ike) => if x.handle == c.p 0 6 && hInst x.handle == c.inst then { x with lastCmd := s.clock.time } else x }

/-- The masking order of a command's steps (R178, R388): the effective minimum over the secret keys it names, raised to MASK, and for a command
on an IKE SA no lower than the order fixed at TK_OPEN. -/
def State.orderOf (s : State) (c : Cmd) : Nat :=
  let o := c.raised c.secretKeys c.maskField
  if c.onIke then s.ikes.foldl (fun o (k : Ike) => if k.handle == c.p 0 6 then max o k.order else o) o
  else o

end Sys2Proof.Machine
end

