-- ==== Sys2Proof/Machine/Frames.lean ====
section
/-! DEFINITION. Frames the part sends: routing, MACsec, segmentation, replies, credit updates, frame statuses, events. -/
namespace Sys2Proof.Machine

/-- A host port that is up; under INLINE port 1 is the line port and no host port (R18, R531). -/
def State.hostUp (s : State) (p : Nat) : Bool := (s.port p).up && !(p == 1 && s.mode .inline)

/-- The lowest-numbered host port that is up (R19). -/
def State.lowestUp (s : State) : Option Nat := (List.range 2).find? s.hostUp

/-- The port R19 gives: the one the request came on, else the lowest-numbered that is up, else (none is up) the first. -/
def State.replyPort (s : State) (p : Nat) : Nat := if s.hostUp p then p else s.lowestUp.getD p

/-- Priority of a frame, from its 802.1Q tag; an untagged frame has priority 0 (log entry 14; PRESUMED). -/
def tciPrio (tci : Option Nat) : Nat := (tci.map (fun t => bits t 15 13)).getD 0

/-- The transmit SA a frame to an instance leaves under (R95): its own where the instance is bound to an SC of the port, else the
package's. Of several installed for one SC, the one installed last (log entry 89; DESIGN CHOICE). -/
def State.txSa (s : State) (p inst : Nat) : Option SecSa :=
  let own := (s.port p).sas.filter fun a => !a.pkg && a.bind == inst
  if own.isEmpty then (s.port p).sas.find? (fun a => a.tx && a.pkg) else own.find? (·.tx)

/-- The port can send a frame to an instance now: it is up, the priority is not paused (R90) and MACsec lets it out (R95,
R96, R495); nothing leaves without power (R100), nor until field 1 has taken over from a field 0 that is gone (R38). While MACsec is
pending only what instance 0's frames on this port cause leaves (R96). ty is the frame type, cause the port of the frame that caused it. -/
def State.canSend (s : State) (p inst prio ty : Nat) (cause : Option Nat) : Bool :=
  let pt := s.port p
  s.pkg.railsUp && !s.pkg.failover && s.hostUp p && !pt.paused.getLsbD prio &&
    (!pt.macsec || (if pt.pendingSa then ty != 2 && ty != 4 && inst == 0 && cause == some p
                    else (s.txSa p inst).any (fun a => a.keyReg != [])))

/-- Bytes of a frame besides its Drill payload: addresses, tag, EtherType, header, FCS, and the SecTAG and ICV of a
protected frame (R65, R66). -/
def frameOverhead (tagged secured : Bool) : Nat := 42 + (if tagged then 4 else 0) + (if secured then 32 else 0)

/-- Length of a frame on the wire, FCS included; the MAC pads a short one (R66). -/
def Frame.len (f : Frame) : Nat := max 64 (frameOverhead f.tci.isSome f.sci.isSome + f.payload.length)

/-- The SC's next PN advances by one with each frame; at the PN threshold the event goes to the manager once (R93). -/
def State.bumpPn (s : State) (p inst : Nat) : State :=
  match s.txSa p inst with
  | none => s
  | some a =>
    let th := s.settingF 0x17 % 2 ^ 64
    let hit := a.nextPn + 1 ≥ th && !a.warned
    let s := s.modPort p fun x => { x with sas := x.sas.map (fun b =>
      if b == a then { b with nextPn := b.nextPn + 1, warned := b.warned || hit } else b) }
    if hit then s.raise 0 0x0306 (toBE 1 p ++ toBE 1 (0x80 + a.an) ++ toBE 8 (a.nextPn + 1)) else s

/-- The header of a frame the part sends (R67, R68): VERSION 1, ACK_REQ clear, reserved bits zero; ORDERED and PRIO are open values
(log entry 88). -/
def Frame.header (f : Frame) : Bytes :=
  let k := (Config.sentClass f.inst f.seq).val
  let b := toBE 1 (16 + f.ty) ++ toBE 1 (f.more.toNat * 128 + k / 8 * 32) ++ toBE 1 f.inst ++ toBE 1 (k % 8 * 32) ++ toBE 4 f.seq ++
    toBE 3 f.flen ++ toBE 3 f.tlen ++ toBE 2 f.segIdx ++ toBE 4 f.xfer
  b ++ toBE 4 (crc32c b).toNat

/-- *Credit update payload* (R87). -/
def State.creditPayload (s : State) (inst : Nat) (ack : Option Nat) : Bytes :=
  let i := s.inst inst
  toBE 4 (i.window.h.getD 0) ++ toBE 4 (ack.getD 0) ++ toBE 1 (i.window.h.isSome.toNat * 2 + ack.isSome.toNat) ++ [0] ++
    toBE 2 (s.qslots inst) ++ toBE 2 (s.held inst) ++ [0, 0]

/-- The SCI a frame to an instance leaves under on a port, if the port protects it. -/
def State.txSci (s : State) (p inst : Nat) : Option Nat :=
  if (s.port p).macsec && !(s.port p).pendingSa then (s.txSa p inst).map (·.sci) else none

/-- A frame as it leaves: under the SC its port uses now (R95), and a credit update with the counts of this moment (R87). -/
def State.freshenFrame (s : State) (f : Frame) : Frame :=
  { f with sci := s.txSci f.port f.inst,
           payload := if f.ty == 5 then
               s.creditPayload f.inst (if bit (byteAt f.payload 8) 0 then some (num f.payload 4 4) else none)
             else f.payload }

/-- A frame fits TX_FRAME_MAX as it would leave now: longer ones are a mailbox frame with a single message alone (R66). Any other that does
not fit stays until the setting lets it (log entry 90; DESIGN CHOICE). -/
def State.fitsMax (s : State) (f : Frame) : Bool :=
  (s.freshenFrame f).len ≤ s.settingI f.inst 0x40 || (f.ty == 4 && f.payload.length == 72)

/-- A frame can leave now. -/
def State.canLeave (s : State) (f : Frame) : Bool :=
  s.canSend f.port f.inst (tciPrio f.tci) f.ty f.cause && s.fitsMax f

/-- Pass a frame to the MAC, or keep it until its port can send (R66, R90, R508). The HELD that a credit update carries is the one the next
is compared with (R88). -/
def State.emit (s : State) (f : Frame) : State :=
  if s.canLeave f then
    let f := s.freshenFrame f
    let held := s.held f.inst
    let s := s.stat f.inst fun t => { t with octOut := sat48 (t.octOut + f.len) }
    let s := if f.ty == 5 then s.modInst f.inst fun i => { i with heldSent := held } else s
    let s := if f.sci.isSome then s.bumpPn f.port f.inst else s
    { s with tx := s.tx ++ [.frame f (f.header ++ f.payload)] }
  else { s with txq := s.txq ++ [f] }

/-- An instance's turn of the deficit round robin (R417): its frames in order, as far as its deficit allows; an instance with no more
frames keeps no deficit. The answer is what leaves, what waits and the deficit left. -/
def drrTurn : Nat → List Frame → List Frame × List Frame × Nat
  | _, [] => ([], [], 0)
  | d, f :: fs =>
    if f.len ≤ d then
      let (out, rest, e) := drrTurn (d - f.len) fs
      (f :: out, rest, e)
    else ([], f :: fs, d)

/-- Rounds of the deficit round robin (R417): each waiting instance in turn adds LWEIGHT × 64 bytes to its deficit. A queue is an
instance, its deficit and its frames; the fuel bounds the rounds. -/
def State.drrRounds (s : State) : Nat → List (Nat × Nat × List Frame) → List Frame
  | 0, qs => qs.flatMap (·.2.2)
  | fuel + 1, qs =>
    if qs.isEmpty then []
    else
      let turns := qs.map fun (i, d, fs) => (i, drrTurn (d + (s.inst i).bind.shares.lweight * 64) fs)
      turns.flatMap (·.2.1) ++ s.drrRounds fuel (turns.filterMap fun (i, _, fs, d) => if fs.isEmpty then none else some (i, d, fs))

/-- The order in which waiting frames leave (R417): for each port and priority by deficit round robin over their instances, the one
that has waited longest first, and the frames of one instance in their order. -/
def State.drrOrder (s : State) (fs : List Frame) : List Frame :=
  let key := fun (f : Frame) => (f.port, tciPrio f.tci)
  ((fs.map key).eraseDups).flatMap fun k =>
    let mine := fs.filter fun f => key f == k
    s.drrRounds (mine.map (·.len)).sum (((mine.map (·.inst)).eraseDups).map fun i => (i, 0, mine.filter fun f => f.inst == i))

/-- Send what has waited for a port or a pause and can go now (R417). -/
def State.flushTx (s : State) : State :=
  let (ready, held) := s.txq.partition s.canLeave
  (s.drrOrder ready).foldl State.emit { s with txq := held }

/-- Cut a byte string into pieces of k bytes; fuel is its length. -/
def chunks : Nat → Nat → Bytes → List Bytes
  | 0, _, _ => []
  | fuel + 1, k, bs => if bs.length ≤ k then [bs] else bs.take k :: chunks fuel k (bs.drop k)

/-- Largest payload of a frame to an instance under TX_FRAME_MAX, on a MACsec port with room for the SecTAG and ICV (R66). Where
TX_FRAME_MAX leaves a protected frame no payload at all, records are cut byte by byte, and wait (State.fitsMax; log entry 90; DESIGN
CHOICE). -/
def State.maxPayload (s : State) (p inst : Nat) (tci : Option Nat) : Nat :=
  max 1 (s.settingI inst 0x40 - frameOverhead tci.isSome (s.port p).macsec)

/-- One frame of an outbound message, with the instance's next reply tag (R85); cause is the port of the frame that caused it. -/
def State.sendOne (s : State) (p dst inst : Nat) (tci cause : Option Nat) (ty : Nat) (more : Bool) (tlen segIdx xfer : Nat)
    (payload : Bytes) : State :=
  let f : Frame := { port := p, dst := dst, tci := tci, sci := s.txSci p inst, ty := ty, more := more, inst := inst,
                     seq := (s.inst inst).replyTag, flen := payload.length, tlen := tlen, segIdx := segIdx, xfer := xfer,
                     payload := payload, cause := cause }
  (s.modInst inst fun i => { i with replyTag := (i.replyTag + 1) % 2 ^ 32 }).emit f

/-- The segments of an outbound transfer (R82): the first frame has the record's type, the rest are data segments. -/
def State.sendSegs (s : State) (p dst inst : Nat) (tci cause : Option Nat) (ty tlen xfer : Nat) : Nat → List Bytes → State
  | _, [] => s
  | k, b :: bs =>
    (s.sendOne p dst inst tci cause (if k == 0 then ty else 3) (!bs.isEmpty) tlen k xfer b).sendSegs p dst inst tci cause ty tlen xfer
      (k + 1) bs

/-- Outbound transfers of an instance with segments that have not been passed to the MAC. -/
def State.outTransfers (s : State) (i : Nat) : List Nat :=
  ((s.txq.filter (fun f => f.inst == i && f.xfer != 0)).map (·.xfer)).eraseDups

/-- The first XFER value from x on that is neither zero nor of a transfer still open (R82). -/
def freeXfer (taken : List Nat) (x : Nat) : Nat :=
  (((List.range (taken.length + 1)).map fun k => (x - 1 + k) % (2 ^ 32 - 1) + 1).find? fun v => !taken.contains v).getD x

/-- Send a record: whole if it fits one frame, else as an outbound transfer (R71, R82, R516). -/
def State.sendRecord (s : State) (p dst inst : Nat) (tci cause : Option Nat) (ty : Nat) (payload : Bytes) : State :=
  if payload.length ≤ s.maxPayload p inst tci then s.sendOne p dst inst tci cause ty false payload.length 0 0 payload
  else
    let x := freeXfer (s.outTransfers inst) (s.inst inst).nextXfer
    let s := s.modInst inst fun i => { i with nextXfer := if x + 1 == 2 ^ 32 then 1 else x + 1 }
    s.sendSegs p dst inst tci cause ty payload.length x 0 (chunks payload.length (s.maxPayload p inst tci) payload)

/-- The status field of a reply record (R112): OK and VERDICT_FAIL carry the reply flags. -/
def statusField (st : Status) (flags : Nat) : Nat :=
  match st with
  | .ok => st.code + flags
  | .verdictFail => st.code + flags
  | _ => st.code

/-- A reply record (R70). -/
def replyRecord (op tag flags : Nat) (r : Reply) : Bytes :=
  toBE 2 op ++ toBE 2 (statusField r.status flags) ++ r.verdict.bytes ++ toBE 3 r.results.length ++ toBE 4 tag ++ r.results

/-- Reply flags of an outstanding command (R112). -/
def Cmd.replyFlags (c : Cmd) (padded : Bool) : Nat :=
  c.held.toNat * 32 + c.corrected.toNat * 16 + c.keyLoaded.toNat * 8 + padded.toNat * 4 +
    (c.twinned && c.twinLocal && c.twinPassed).toNat * 2 + (c.twinned && c.twinPassed).toNat

/-- Count a completion by status class (R520). -/
def State.countClass (s : State) (i : Nat) (st : Status) : State :=
  s.stat i fun t => { t with classes := t.classes.modify st.cls (fun v => sat48 (v + 1)) }

/-- Release a reply at once, for a record that never held a slot (R103). -/
def State.replyNow (s : State) (inst : Nat) (ctx : Ctx) (op tag : Nat) (r : Reply) : State :=
  (s.countClass inst r.status).sendRecord (s.replyPort ctx.port) ctx.src inst ctx.tci (some ctx.port) 1 (replyRecord op tag 0 r)

/-- A frame that checks 7 to 11 turn away counts in DISCARDED of its instance (R520). -/
def State.countTurned (s : State) (inst : Nat) : State := s.stat inst fun t => { t with discarded := sat48 (t.discarded + 1) }

/-- A frame status (R73). -/
def State.frameStatus (s : State) (inst : Nat) (ctx : Ctx) (st : Status) (seq xfer : Nat) : State :=
  (s.countTurned inst).sendRecord (s.replyPort ctx.port) ctx.src inst ctx.tci (some ctx.port) 1
    (replyRecord 0 0 0 { status := st, results := toBE 4 seq ++ toBE 4 xfer })

/-- The 802.1Q tag of events, mailbox frames and credit updates: EVENT_TAG (R91, R458). -/
def State.eventTci (s : State) (inst : Nat) : Option Nat :=
  let v := s.settingI inst 0x42
  if v % 4096 == 0 then none else some v

/-- Port and address of a frame no received frame caused (R557). With no host port up there is none: an event waits in its queue, and a
credit update is not sent (log entry 91; DESIGN CHOICE). -/
def State.eventRoute (s : State) (inst : Nat) : Option (Nat × Nat) :=
  let i := s.inst inst
  let port := (i.lastRx.bind (fun l => if s.hostUp l.1 then some l.1 else none)).or s.lowestUp
  let dst := if i.bind.srcmac != 0 then some i.bind.srcmac else i.lastRx.map (·.2)
  port.bind fun p => dst.map fun d => (p, d)

/-- Send a credit update on a given route, in one frame whatever TX_FRAME_MAX is (R82, R88). -/
def State.sendCredit (s : State) (inst p dst : Nat) (cause ack : Option Nat) : State :=
  s.sendOne p dst inst (s.eventTci inst) cause 5 false 16 0 0 (s.creditPayload inst ack)

/-- A credit update of an instance waits to leave. It will carry the counts of the moment it leaves (R87). -/
def State.creditWaits (s : State) (inst : Nat) : Bool := s.txq.any fun f => f.inst == inst && f.ty == 5

/-- A credit update that no received frame caused; not sent to an instance without an address (R557), nor on a port where MACsec is
pending (R96), nor beside one that still waits. -/
def State.creditUncaused (s : State) (inst : Nat) : State :=
  match s.eventRoute inst with
  | none => s
  | some (p, d) =>
    if (s.port p).macsec && (s.port p).pendingSa || s.creditWaits inst then s else s.sendCredit inst p d none none

/-- Instance 0's LIMIT is what its tenants' shares leave (R418): it is told when that changes (R88). -/
def State.limitZero (old s : State) : State := if s.qslots 0 != old.qslots 0 then s.creditUncaused 0 else s

/-- An MF pin function is assigned (R536): 1 PPS_IN, 2 PPS_OUT, 3 POWER_GOOD, 4 EVENT. -/
def State.mfPin (s : State) (code : Nat) : Option Nat :=
  if s.pkg.run == .operational || s.pkg.run == .fallow then
    (List.range 4).find? (fun k => s.setting 0x19 / 256 ^ k % 256 == code)
  else none

/-- POWER_GOOD (R536): the package is in OPERATIONAL or FALLOW, and so is every field that entered OPERATIONAL at ENABLE. -/
def State.powerGood (s : State) : Bool :=
  let up := fun (r : RunState) => r == .operational || r == .fallow
  up s.pkg.run && s.fields.all fun x => !x.entered || (!x.lost && up x.run)

/-- Level of an MF pin outside its pulses (R502, R536): none is high impedance, as of an unassigned pin or an input. -/
def State.mfLevel (s : State) (k : Nat) : Option Bool :=
  if s.mfPin 2 == some k then some false
  else if s.mfPin 3 == some k then some s.powerGood
  else if s.mfPin 4 == some k then some true
  else none

/-- A pulse of the EVENT pin for an event sent to instance 0; no more than 64 may be pending (R536). -/
def State.eventPulse (s : State) : State :=
  match s.mfPin 4 with
  | some k => if s.pkg.pulses < 64 then { s with tx := s.tx ++ [.pulse k], pkg := { s.pkg with pulses := s.pkg.pulses + 1 } } else s
  | none => s

/-- Take the event at the head of an instance's queue and send it; EVENTS_LOST follows when there is room (R516). -/
def State.eventSend (s : State) (inst : Nat) : State :=
  match (s.inst inst).evq, s.eventRoute inst with
  | e :: rest, some (p, d) =>
    if s.canSend p inst (tciPrio (s.eventTci inst)) 2 none then
      let s := s.modInst inst fun i => { i with evq := rest }
      let s := s.sendRecord p d inst (s.eventTci inst) none 2
        (toBE 2 e.code ++ [0] ++ toBE 3 e.data.length ++ toBE 8 e.time ++ e.data)
      let s := if inst == 0 then s.eventPulse else s
      if (s.inst inst).evLost == 0 then s
      else (s.raise inst 0x0108 (toBE 4 (s.inst inst).evLost)).modInst inst fun i => { i with evLost := 0 }
    else s
  | _, _ => s

end Sys2Proof.Machine
end

