-- ==== Sys2Proof/Machine/Buffer.lean ====
section
/-! DEFINITION. Thresher's packet buffer (R55, R58, R281): the INLINE packets that wait in it, SERVICE's part of it, and the pause that the
part asserts for them. -/
namespace Sys2Proof.Machine

/-- A silent discard, counted on its port (R72). -/
def State.drop (s : State) (p : Nat) (g : Drops → Drops) : State := s.modPort p fun x => { x with drops := g x.drops }

/-- The pause a port asserts, as it is sent: the priority's own under PFC, one for the whole port under 802.3x, none without. -/
def Port.pauses (x : Port) (pr : Nat) : List Nat :=
  match x.flow with
  | .off => []
  | .pause => [8]
  | .pfc => [pr]

/-- The pause of a whole port (R55): every priority under PFC, 802.3x pause where PFC is off. -/
def Port.allPauses (x : Port) : List Nat := if x.flow == .pfc then List.range 8 else [8]

/-- Bytes of the packets that wait on a field. -/
def State.packetsOn (s : State) (f : Nat) : Nat := ((s.pkg.packets.filter (·.field == f)).map (·.frame.len)).sum

/-- INLINE's part of the packet buffer on a field: 4 MiB, or seven eighths of it beside SERVICE (R55, R281). -/
def State.inlinePart (s : State) : Nat := 524288 * if s.mode .service then 7 else 8

/-- Bytes of the packet buffer SERVICE may use on a field (R55, R58). -/
def State.servicePart (s : State) : Nat := 524288 * if s.mode .inline then 1 else 8

/-- The inbound message of a TK command. -/
def tkInLen (c : Cmd) : Nat := if basicOp c.op == 0x0901 then num c.params 56 3 else if basicOp c.op == 0x0902 then num c.params 8 3 else 0

/-- The commands whose messages are staged. -/
def isTk (op : Nat) : Bool := [0x0901, 0x0902, 0x0903, 0x0904].contains (basicOp op)

/-- The TK commands of a field whose messages are staged there, until their replies are released (R388). -/
def State.tkOn (s : State) (f : Option Nat) : List Cmd :=
  s.cmds.filter fun d => isTk d.op && d.field == f && d.checked && d.stage != .waitSpace

/-- The bytes of its messages, in and out. -/
def Cmd.tkBytes (d : Cmd) : Nat :=
  tkInLen d + match d.stage with
    | .done r => num r.results 12 3
    | _ => 0

/-- INLINE and SERVICE are both on, and one of them still holds more than its part (R58). -/
def State.partsFull (s : State) : Bool :=
  s.mode .inline && s.mode .service && [0, 1].any fun f =>
    decide (s.packetsOn f > s.inlinePart) || decide (((s.tkOn (some f)).map Cmd.tkBytes).sum > s.servicePart)

/-- Both ports are to be paused: for throttling under INLINE and CAPPED (R55), or until a part of the packet buffer is free (R58). -/
def State.mustPause (s : State) : Bool := (s.mode .inline && s.mode .capped && s.power.throttle) || s.partsFull

/-- Assert or end that pause. -/
def State.settlePause (s : State) : State :=
  let on := s.mustPause
  if on == s.pkg.pausing then s
  else
    { s.modPkg fun p => { p with pausing := on } with
        tx := s.tx ++ (List.range 2).flatMap fun p => if (s.port p).up then (s.port p).allPauses.map fun q => Sent.pause p q on else [] }

/-- INLINE goes off: the packets in Thresher are dropped and counted, each on the port it came by (R54). -/
def State.dropPackets (s : State) : State :=
  s.pkg.packets.foldl (fun s k => s.drop k.frame.port fun d => { d with sa := d.sa + 1 }) (s.modPkg fun p => { p with packets := [] })

end Sys2Proof.Machine
end

