-- ==== Sys2Proof/Machine/Alarm.lean ====
section
/-! DEFINITION. How commands end, and what machine checks, alarms and the loss of a field do (R33 to R42, R372, R485 to
R498). -/
namespace Sys2Proof.Machine

/-- The command's reply is staged. -/
def Cmd.isDone (c : Cmd) : Bool := match c.stage with | .done _ => true | _ => false

/-- Stop a run's furrows and zeroise them (R340): registers, local memory and seals return to their start values. -/
def Furrow.stop (u : Furrow) : Furrow := { ({} : Furrow) with imem := u.imem }

/-- Furrow-cycles of a run so far (R416). -/
def State.runCycles (s : State) (r : Run) : Nat :=
  (((s.field r.field).furrows.filter (fun u => u.run == some r.id)).map (·.cycles)).sum

/-- An instance's virtual time on a field advances by furrow-cycles over FWEIGHT (R416). -/
def State.chargeTime (s : State) (inst field cycles : Nat) : State :=
  let d := cycles * 1000 / max 1 (s.inst inst).bind.shares.fweight
  s.modInst inst fun i =>
    { i with vtime := s.fieldNums.map fun f => i.vtime.getD f 0 + if f == field then d else 0 }

/-- When a run ends, its instance is charged (R416). -/
def State.chargeRun (s : State) (r : Run) : State := s.chargeTime r.inst r.field (s.runCycles r)

/-- A field with no run on it is at a quiescent point (R14). -/
def State.quiescent (s : State) (f : Nat) : Bool := !s.runs.any (fun r => r.field == f && r.acre.isSome)

/-- Set points held at no more than 1.0 GHz on a field whose VDD_CORE is low, from its next quiescent point (R542). -/
def State.limitPoints (s : State) : State :=
  { s with fields := s.fields.zipIdx.map fun (x, f) =>
    if x.coreLow && s.quiescent f then { x with setPoint := min 1000 x.setPoint, fullPoint := min 1000 x.fullPoint } else x }

/-- End the runs of a command: their cycles are charged, their furrows stop and are zeroised (R340). -/
def State.endRuns (s : State) (i t : Nat) : State :=
  let mine := s.runs.filter (fun r => r.inst == i && r.tag == t)
  let ids := mine.map (·.id)
  let s := mine.foldl State.chargeRun s
  State.limitPoints { s with
    runs := s.runs.filter (fun r => !(r.inst == i && r.tag == t)),
    fields := s.fields.map fun x => { x with furrows := x.furrows.map fun u =>
      if (u.run.map (fun k => ids.contains k)).getD false then u.stop else u } }

/-- Free what a command held on its field besides its slot: thread, Winnow context, waits, merge images it alone wrote. -/
def State.freeEngines (s : State) (i t : Nat) : State :=
  s.modFields fun x =>
    { x with ctxs := x.ctxs.filter (fun w => !(w.inst == i && w.tag == t)),
             ctxWait := x.ctxWait.filter (fun w => !(w.1 == i && w.2 == t)),
             whisk := x.whisk.filter (fun w => !(w.2.1 == i && w.2.2 % 2 ^ 32 == t)),
             threads := x.threads.map fun h => if h.busy && h.inst == i && h.tag == t then {} else h }

/-- Admission stops on every instance (R558). -/
def State.stopAdmission (s : State) (a : AdmStop) : State :=
  s.modPkg fun p => { p with stops := a :: p.stops.filter (· != a) }

/-- Admission is given back as far as a stop of this kind holds it (R558). -/
def State.admitAgain (s : State) (a : AdmStop) : State := s.modPkg fun p => { p with stops := p.stops.filter (· != a) }

/-- A RECOVER or LC_ADVANCE in progress that ends without OK gives admission back (R558). One that was refused had stopped nothing. -/
def State.unblock (s : State) (c : Cmd) (st : Status) : State :=
  if st == .ok || c.stage != .running then s
  else
    match basicOp c.op with
    | 0x0007 => s.admitAgain .recover
    | 0x0C10 => s.admitAgain .lcAdvance
    | _ => s

/-- The commands that wait behind a signing command of a consumable key they name try again when it ends (R196). -/
def State.wakeBehind (s : State) (c : Cmd) : State :=
  if basicOp c.op != 0x0802 then s
  else { s with cmds := s.cmds.map fun d =>
    if d.stage == .waitCache && d.keys.any (fun k => k.handle == num c.params 0 6) then { d with stage := .dispatched } else d }

/-- A command past step 10 has still to read the blob of a key it names (R151, R223): one that has not begun loads it; that of a class 5
public half is read to the command's end. KEY_DESTROY reads none. -/
def State.readsKey (s : State) (h : Nat) : Bool :=
  s.cmds.any fun c => c.checked && !c.isDone && basicOp c.op != 0x0107 && c.keys.any fun k => k.handle == h && (!c.begun || k.type / 0x10 == 0xD)

/-- The pages reserved for a command's images become free when it ends (R252, R269). -/
def State.freeImages (s : State) (c : Cmd) : State := c.imgPages.foldl (fun s p => s.freePages p.1 [p.2]) s

/-- The fields a command executes on. -/
def Cmd.fields (c : Cmd) (s : State) : List Nat := (c.field.getD s.pkg.headland) :: c.field2.toList

/-- The fields on which a command that executes on fs seats a key: a SINGLE_FIELD key is loaded on its home field alone (R133, log entry
102). -/
def Key.seatsOn (k : Key) (fs : List Nat) : List Nat := if bit k.attr aSingleField then [hHome k.handle] else fs

/-- A command in flight has slots reserved: its keys are seated, and it does not wait for slots of another (R136). -/
def Cmd.reserves (c : Cmd) : Bool := c.begun && !c.isDone && c.stage != .waitSlots

/-- The handle-table indices whose slots a command has reserved on a field (R136). -/
def Cmd.reservedOn (c : Cmd) (s : State) (f : Nat) : List Nat :=
  (c.keys.filter fun k => !tPublic k.type && (k.seatsOn (c.fields s)).contains f).map fun k => hIndex k.handle

/-- The key in these slots is destroyed or narrowed: they serve only the commands that had reserved them (R151). -/
def Resident.dead (r : Resident) : Bool := !r.heldBy.isEmpty

/-- What is left of a resident: a destroyed or narrowed key's slots are zeroised when the last command that reserved them has ended
(R151). -/
def Resident.left (r : Resident) (s : State) : Option Resident :=
  if r.dead then
    let hs := r.heldBy.filter fun w => s.cmds.any fun c => c.inst == w.1 && c.tag == w.2 && c.reserves
    if hs.isEmpty then none else some { r with heldBy := hs }
  else some r

/-- The slots of destroyed and narrowed keys that no command uses any more are zeroised (R151). -/
def State.freeDead (s : State) : State := s.modFields fun x => { x with slots := x.slots.filterMap fun r => r.left s }

/-- The commands in flight that have an index's slots on a field reserved. -/
def State.holders (s : State) (f index : Nat) : List (Nat × Nat) :=
  (s.cmds.filter fun c => c.reserves && (c.reservedOn s f).contains index).map fun c => (c.inst, c.tag)

/-- A key leaves the slots of a field, but where commands in flight have them reserved (R150, R151). -/
def FieldSt.unseat (x : FieldSt) (index : Nat) (hs : List (Nat × Nat)) : FieldSt :=
  { x with slots := x.slots.filterMap fun r =>
      if r.index != index || r.dead then some r else if hs.isEmpty then none else some { r with heldBy := hs } }

/-- A key leaves the slots of every field, but where commands in flight have them reserved (R150, R151). -/
def State.unseat (s : State) (index : Nat) : State :=
  { s with fields := s.fields.zipIdx.map fun (x, f) => x.unseat index (s.holders f index) }

/-- The blob pages of a destroyed key become free when the last command that reads them has ended (R151, R223). -/
def State.freeDrained (s : State) : State :=
  s.fieldNums.foldl (fun s f => (((s.field f).draining.filter fun e => !s.readsKey e.1)).foldl (fun s e =>
    (s.freePages f e.2).modField f fun x => { x with draining := x.draining.filter (· != e) }) s) s

/-- STAGE pages that no open transfer and no command's output holds are freed, and merge images of freed pages are discarded (R79, R267,
R437, R445). -/
def State.freeStage (s : State) : State :=
  s.fieldNums.foldl (fun s f =>
    let idle := (s.field f).pages.filter fun p => p.region == 4 && !(s.xfers.any fun x => x.field == f && x.pages.contains p.page) &&
      !s.cmds.any fun c => !c.isDone && c.outPages.contains (f, p.page)
    (s.freePages f (idle.map (·.page))).modField f fun x =>
      { x with merge := x.merge.filter fun m => x.pages.any fun p => p.page == m.page }) s

/-- Null every handle of an object that no longer exists in the results of a command that made it (R118). -/
def State.nullHandles (s : State) (made : List (Nat × Nat)) (results : Bytes) : Bytes :=
  made.foldl (fun b (o, h) =>
    if s.keys.any (fun k => k.handle == h) || s.sas.any (fun a => a.handle == h) then b
    else b.take o ++ List.replicate 6 0 ++ b.drop (o + 6)) results

/-- What a command whose reply would be r replies under INSTANCE_RESET (R116, R118), as the objects stand now. -/
def State.resetReply (s : State) (c : Cmd) (r : Reply) : Reply :=
  { status := .instanceReset, results := if r.status == .ok && c.durable then s.nullHandles c.made r.results else [] }

/-- Stage a command's reply: it gives back its engines and its transfer closes (R79). A command whose reply is already staged keeps it; one
that an INSTANCE_RESET has come to past its commit point reports that (R117, R118). -/
def State.setDone (s : State) (i t : Nat) (r : Reply) : State :=
  match s.cmd? i t with
  | none => s
  | some c =>
    if c.isDone then s
    else
      let s := (s.endRuns i t).freeEngines i t
      let s := { s with xfers := s.xfers.filter (fun x => !(x.inst == i && x.tag == t)) }
      let s := match c.field with
        | none => s
        | some f => s.modField f fun x => { x with ops := x.ops + 1 }
      let s := s.touchIke c
      let r := if c.reset then s.resetReply c r else r
      (((((s.unblock c r.status).wakeBehind c).modCmd i t fun c => { c with stage := .done r, drawn := [] }).freeImages c).freeDrained).freeDead.freeStage

/-- End every command of a set that has no staged reply. -/
def State.endAll (s : State) (cs : List Cmd) (st : Status) : State :=
  cs.foldl (fun s c => s.setDone c.inst c.tag { status := st }) s

/-- A command has part of its staged output on a field: one that CAPPED has moved away (R269, R290; log entry 110). -/
def State.stagesOn (s : State) (f : Nat) : List Cmd :=
  s.cmds.filter fun c => !c.isDone && c.outPages.any fun p => p.1 == f

/-- A run of the command is on the field. -/
def State.hasRun (s : State) (c : Cmd) (f : Nat) : Bool := s.runs.any fun r => r.inst == c.inst && r.tag == c.tag && r.field == f

/-- Commands executing on a field; Headland's own belong to the field that holds it, and to that of a furrow run they have (R340, R523). -/
def State.onField (s : State) (f : Nat) : List Cmd :=
  s.cmds.filter fun c => !c.isDone &&
    (c.field == some f || c.field2 == some f || (c.field == none && c.stage != .receiving && s.pkg.headland == f) || s.hasRun c f)

/-- Release every resource held under *Owned resources* and clear the mode word (R50). -/
def Pkg.leaveService (p : Pkg) : Pkg :=
  { p with modes := 0, timers := [], telemetry := 0 }

/-- Zeroise a field's key state (R493 at 800 ns, R475): slots, Whisk, Thresher caches, SecY registers, Steep, leaf streams. -/
def FieldSt.zeroKeys (x : FieldSt) : FieldSt :=
  { x with slots := [], kek := [], whisk := [], keyCache := List.replicate 4 [], saKey := none,
           seed := { x.seed with seeded := false, sources := x.seed.sources.map fun y => { y with bits := 0, pooled := 0 } },
           leaf := x.leaf.map fun g => { g with running := false, nextSeed := false, asked := 0 } }

/-- Zeroise the rest (R493 at 5 µs): furrows, acre SRAM, Winnow contexts, merge images, descriptor caches, threads. -/
def FieldSt.zeroRest (x : FieldSt) : FieldSt :=
  { x with furrows := List.replicate 16 {}, ctxs := [], ctxWait := [], merge := [], descCache := [],
           threads := List.replicate 64 {} }

/-- Ports whose SecY is the field's (R526, R527): port 0 is field 0's, port 1 field 1's. -/
def State.zeroSecy (s : State) (f : Nat) : State :=
  s.modPort f fun p => { p with sas := p.sas.map fun a => { a with keyReg := [] } }

/-- 3,600 s in nanoseconds (R308). -/
def latchWindow : Nat := 3600000000000

/-- Health failures within the last 3,600 s (R308, R312). -/
def State.recentFails (s : State) (f : Nat) : List Nat :=
  (s.field f).seed.fails.filter fun t => s.clock.time < t + latchWindow

/-- Runs of diagnostics that are held on a field go with it (R339, R340). -/
def State.dropHeld (s : State) (f : Nat) : State := { s with runs := s.runs.filter fun r => !(r.field == f && r.inst == 256) }

/-- Zeroise a field and leave it in LOCKDOWN, its Seedbed stopped with the counts it has (R312, R493). -/
def State.zeroise (s : State) (f : Nat) : State :=
  ((s.zeroSecy f).dropHeld f).modField f fun x =>
    { x.zeroKeys.zeroRest with run := .lockdown, mcheck := false, gating := false, gated := false,
                               seed := { x.zeroKeys.seed with state := .stopped, fails := s.recentFails f } }

/-- A host port goes down. -/
def State.portDown (s : State) (p : Nat) : State := s.modPort p fun x => { x with up := false, paused := 0 }

/-- Every command of the outstanding ones whose inbound transfer is open (R80). -/
def State.withXfer (s : State) : List Cmd := s.cmds.filter fun c => !c.isDone && c.xfer.isSome

/-- The port's host link is a 400G bond of lanes 0 to 3 (R524, R526). -/
def Port.bonded (p : Port) : Bool := p.form == some .kr4 || p.form == some .cr4

/-- The form two lanes of a bonded port take (R40). -/
def Port.halved (p : Port) : EthForm := if p.form == some .kr4 then .kr2 else .cr2

/-- The host lanes of field 1 go down with it (R35, R42, R494). A 400G bond goes down whole; field 0 negotiates again on its own lanes, as
R40 has field 1 do (log entry 95). -/
def State.dropLanes (s : State) (f : Nat) : State :=
  if f != 1 then s
  else
    let s := s.portDown 1
    if (s.port 0).bonded then s.modPort 0 fun p => { p with form := some p.halved, up := false, paused := 0 } else s

/-- ALERT_N and THERM_N follow R537: ALERT_N is low while any field is in LOCKDOWN or lost; THERM_N from a reading above 125 °C
until every sensor reads 120 °C or below, and from a thermal shutdown on. They are driven once released (R502). -/
def State.syncAlert (s : State) : State :=
  let low := s.fieldNums.any fun f => (s.field f).run == .lockdown || (s.field f).lost
  let live := s.fields.filter fun x => !x.lost
  let hot := s.fields.any (·.thermal) || live.any (fun x => x.temps.contains 2) ||
    (s.pkg.thermN && live.any fun x => x.temps.contains 1)
  s.modPkg fun p => { p with alertN := p.outputs && low, thermN := p.outputs && hot }

/-- The whole package enters LOCKDOWN (R45, R495). Before self-test ends the package stays in INERT (R491). -/
def State.packageLock (s : State) : State :=
  if s.pkg.run == .inert then s else (s.dropPackets.modPkg fun p => { p.leaveService with run := .lockdown }).settlePause

/-- No Headland remains, or the last fields cannot reach one (R42): every remaining field zeroises and locks, no command
receives a reply, and only RESET_N returns the part. -/
def State.noHeadland (s : State) : State :=
  let s := s.fieldNums.foldl (fun s f => if (s.field f).lost then s else s.zeroise f) s.dropPackets
  let dead := fun (p : Port) => { p with form := none, bootstrap := false }
  let s := (((s.portDown 0).portDown 1).modPort 0 dead).modPort 1 dead
  ({ s with cmds := [], xfers := [], runs := [], txq := [] }.modPkg fun p =>
    { p.leaveService with run := .lockdown, failover := false, buffered := [], pausing := false, resetPending := false }).syncAlert

/-- Field 0 has gone while Headland ran on it: field 1 will take over, or nothing can (R38, R42). -/
def State.headlandGone (s : State) : State :=
  if s.unavailable 1 then s.noHeadland
  else (s.portDown 0).modPkg fun p => { p with failover := true }

/-- A port of a field is in use (R15). -/
def State.portInUse (s : State) (f p : Nat) : Bool := f < s.n && 2 ^ p < s.n

/-- The link of a port is up at both ends. -/
def State.linkUp (s : State) (f p : Nat) : Bool :=
  ((s.field f).links.getD p {}).state == .up && ((s.field (f ^^^ 2 ^ p)).links.getD p {}).state == .up

/-- Fields one hop from any of a list over links that are up and fields that are not lost. -/
def State.hop (s : State) (fs : List Nat) : List Nat :=
  s.fieldNums.filter fun g =>
    fs.contains g || (!(s.field g).lost && (List.range 3).any fun p =>
      s.portInUse g p && s.linkUp g p && fs.contains (g ^^^ 2 ^ p))

/-- Fields within k hops. -/
def State.reach (s : State) : Nat → List Nat → List Nat
  | 0, fs => fs
  | k + 1, fs => s.reach k (s.hop fs)

/-- The fields that can no longer reach the active Headland (R35). -/
def State.cutOff (s : State) : List Nat :=
  let r := s.reach s.n [if s.pkg.failover then 1 else s.pkg.headland]
  s.fieldNums.filter fun f => !r.contains f && !s.unavailable f

/-- No standby Headland remains (R42). -/
def State.noStandby (s : State) : Bool := s.unavailable 1 || s.unavailable 0

/-- A field can no longer reach the active Headland (R35): it zeroises and enters LOCKDOWN, and Headland treats it as lost. -/
def State.isolate (s : State) (f : Nat) : State :=
  if (s.field f).lost then s
  else
    let cs := s.cmds.filter fun c => !c.isDone && (c.field == some f || c.field2 == some f || s.hasRun c f)
    let s := ((s.zeroise f).modField f fun x => { x with cut := true }).endAll (cs ++ s.stagesOn f) .machineCheck
    if f == s.pkg.headland || (f == 1 && s.pkg.failover) then s.noHeadland
    else ((s.dropLanes f).raise 0 0x0103 (toBE 1 f ++ toBE 1 s.noStandby.toNat)).syncAlert

/-- Isolate every field that is cut off (R35); on an IXN-2 the two fields are then isolated from each other and nothing remains
(R42). -/
def State.isolateCut (s : State) : State :=
  if s.n == 2 && !s.cutOff.isEmpty then s.noHeadland else s.cutOff.foldl State.isolate s

/-- What follows when a field is no longer usable for good: its lanes, its Headland role (R38, R42, R494), the fields that it
leaves cut off from Headland (R35). lostEv: raise FIELD_LOST, which R33 gives every field but the one Headland runs on. -/
def State.fieldGone (s : State) (f : Nat) (lostEv : Bool) : State :=
  let s := s.dropLanes f
  let s := if lostEv && f != s.pkg.headland then s.raise 0 0x0103 (toBE 1 f ++ toBE 1 s.noStandby.toNat) else s
  let s := if f == s.pkg.headland && f == 0 then s.headlandGone
    else if f == s.pkg.headland || (f == 1 && s.pkg.failover) then s.noHeadland else s
  s.isolateCut.syncAlert

/-- The alarm-cause register (R497). -/
def alarmWord (cls island detail source : Nat) : BitVec 32 :=
  BitVec.ofNat 32 (2 ^ 31 + cls * 2 ^ 24 + island * 2 ^ 16 + detail * 2 ^ 8 + source)

/-- A field's response to an alarm (R493, R496): the cause is latched once, a later alarm goes to the log, the field's
commands end with ALARM_ERASED and the field is in LOCKDOWN. -/
def State.alarmField (s : State) (f cls island detail source : Nat) : State :=
  let w := alarmWord cls island detail source
  let first := !(s.field f).alarm.getLsbD 31
  let s := if first then s.modField f fun x => { x with alarm := w } else s.log f 59 11 0xFF (toBE 4 w.toNat)
  if (s.field f).run == .lockdown || (s.field f).lost then s
  else if s.pkg.run == .inert then s.modField f fun x => { x with testFailed := true }
  else
    let cs := s.onField f ++ s.stagesOn f
    ((s.zeroise f).endAll cs .alarmErased).raise 0 0x0104 (toBE 4 ((s.field f).alarm).toNat)

/-- An alarm on a field under the scope of R492: the field alone, or the package, the alarm line carrying it to every other
field. -/
def State.alarm (s : State) (f cls island detail : Nat) : State :=
  let wide := cls == 6 || s.setting 0x06 == 0
  let s := s.alarmField f cls island detail f
  if s.pkg.run == .inert then s
  else if wide then
    let others := s.fieldNums.filter fun g => g != f && !(s.field g).lost
    (s.packageLock.modPkg fun p => { p with alarmLine := others.map fun g => (g, f) }).syncAlert
  else s.fieldGone f false

/-- Count a fault event of a field over the sliding 60 s window; the fourth locks the field as an alarm of class 7 (R486). -/
def State.countFault (s : State) (f : Nat) : State :=
  let ts := ((s.field f).faults.filter (fun t => s.clock.time < t + 60000000000)) ++ [s.clock.time]
  let s := s.modField f fun x => { x with faults := ts }
  if ts.length ≥ 4 && (s.field f).run != .lockdown then s.alarm f 7 59 (min 255 ts.length) else s

/-- Fault events of a field within the window (R486). -/
def State.faultCount (s : State) (f : Nat) : Nat :=
  ((s.field f).faults.filter (fun t => s.clock.time < t + 60000000000)).length

/-- End a command: its reply is staged, INTERNAL_ERROR is logged (R518) and FAULT_DETECTED counts toward LOCKDOWN (R486). A
failed twin check counts one on each field of the pair. -/
def State.complete (s : State) (i t : Nat) (r : Reply) (twin : Bool := false) : State :=
  match s.cmd? i t with
  | none => s
  | some c =>
    if c.isDone then s
    else
      let f := c.field.getD s.pkg.headland
      let s := s.setDone i t r
      let s := if r.status == .internalError then s.log f (if c.field.isSome then 32 else 33) 10 i (toBE 2 c.op ++ toBE 4 t) else s
      if r.status != .faultDetected then s
      else
        let s := s.countFault f
        match (if twin && !c.twinLocal then c.field2 else none) with
        | none => s
        | some g => s.countFault g

/-- A field's alive line falls (R32, R33): it is lost; its commands whose replies have not reached Headland end with
MACHINE_CHECK. -/
def State.loseField (s : State) (f : Nat) : State :=
  if (s.field f).lost || f ≥ s.n then s
  else
    let cs := s.cmds.filter fun c => !c.isDone && (c.field == some f || c.field2 == some f || s.hasRun c f)
    let s := (s.dropHeld f).modField f fun x => { x.zeroKeys.zeroRest with lost := true, mcheck := false, gating := false, gated := false }
    (s.endAll (cs ++ s.stagesOn f) .machineCheck).fieldGone f true

end Sys2Proof.Machine
end

