-- ==== Sys2Proof/Machine/Admit.lean ====
section
/-! DEFINITION. Headland's part of a command: steps 1 to 6 of *Command checks* (R101) and the choice of the executing field
(R21 to R26, R307, R488). -/
namespace Sys2Proof.Machine

/-- A record as Headland sees it, with what its frame gave it. -/
structure Rec where
  inst : Nat
  tag : Nat
  op : Nat
  flags : Nat
  params : Bytes
  ctx : Ctx
  seq : Nat
  pos : Nat
  prio : Nat
  ordered : Bool
  whole : Bool := true      -- params hold the whole block, not segment 0's part of it
deriving DecidableEq, Repr

/-- The handles a record names, as far as its block has arrived. -/
def Rec.handles (r : Rec) : List Nat := namedHandles r.op r.params ++ if r.whole then tailHandles r.op r.params else []

/-- The record of a row of the table: its basic opcode, raised to the expert one where the row says so (R60). -/
def Rec.of (op : Nat) (r : CmdRec) : Rec :=
  { inst := r.inst, tag := r.tag, op := if r.expert && !isCustomer op then op + 0x80 else op, flags := r.flags,
    params := r.params, ctx := r.ctx, seq := r.seq, pos := r.pos, prio := r.prio, ordered := r.ordered }

/-- Step 3 for opcodes whose issuer rule reads the parameters: INSTANCE_RESET (R115), the settings commands (R459), GLEAN_READ
(R519) and INSTANCE_INFO (R421); instance 0 may issue every command. A byte the block does not reach reads as 0 here, as step 7 has
not judged the length yet: a tenant's INSTANCE_RESET or INSTANCE_INFO without a TARGET is refused as one that names instance 0 (log
entry 92; DESIGN CHOICE). -/
def issuerOk (op inst : Nat) (p : Bytes) : Bool :=
  inst == 0 ||
  (!opHas op .mgr &&
    match basicOp op with
    | 0x0004 => byteAt p 0 == inst
    | 0x0B01 => byteAt p 2 == 1 && byteAt p 3 == inst && num p 0 2 != 0x41 || 1 < byteAt p 2
    | 0x0B02 => byteAt p 2 == 1 && byteAt p 3 == inst && num p 0 2 != 0x41 || 1 < byteAt p 2
    | 0x0B03 => byteAt p 0 == 1 && byteAt p 1 == inst || 1 < byteAt p 0
    | 0x0D01 => byteAt p 0 == inst && !bit (byteAt p 1) 1
    | 0x0E04 => byteAt p 0 == inst
    | _ => true)

/-- An ENABLE is in progress: admitted in BOOTSTRAP and not refused, until its reply is released (R509, R510). -/
def State.enabling (s : State) : Bool :=
  !s.pkg.enableFailed && s.cmds.any fun c => basicOp c.op == 0x0002 && c.runAt == .bootstrap &&
    match c.stage with
    | .done r => r.status == .ok
    | _ => true

/-- Step 2: the run state, a stop of admission, ENABLE in progress, a pending port and a change of the open region let the
record (R49, R96, R385, R509, R558). What a frame holds behind an INSTANCE_RESET of its own instance meets that instance's stop of admission
(R116; log entry 113). -/
def State.stateOk (s : State) (r : Rec) : Bool :=
  let b := basicOp r.op
  stateAdmits s.pkg.run r.op && s.pkg.stops.isEmpty && (s.inst r.inst).resetting.isNone &&
  !(s.enabling && ! [0x0001, 0x0C01, 0x0003].contains b) &&
  !((s.port r.ctx.port).pendingSa && ! [0x0001, 0x0C01, 0x0003, 0x0020].contains b) &&
  !(isCustomer r.op && s.cmds.any (fun c => basicOp c.op == 0x0A12 || basicOp c.op == 0x0A13))

/-- Steps 1 to 5 in their order; the results of a refusal are those of R105. Within step 4 the flag bits come before the tag (log entry
93; DESIGN CHOICE). -/
def State.admission (s : State) (r : Rec) : Option Reply :=
  firstFail
    [(!opAssigned s r.op, { status := .badOpcode }),
     (!s.stateOk r, { status := .stateForbids }),
     (!issuerOk r.op r.inst r.params, { status := .notManager }),
     (r.flags ≥ 4, { status := .badParameter }),
     (r.tag == 0, { status := .badParameter, results := [0x02] }),
     ((s.cmd? r.inst r.tag).isSome, { status := .badParameter, results := [0x01] }),
     (basicOp r.op != 0x0004 && s.held r.inst ≥ s.qslots r.inst, { status := .queueFull })]

/-! ### Dispatch -/

/-- Home field of the SA or IKE SA a handle's index names (R271, R390). -/
def saHome (n h : Nat) : Nat := bits h 39 20 * n / 2 ^ 20

/-- Home field of an IKE SA handle (R390). -/
def ikeHome (h : Nat) : Nat := bits h 39 20 / 65536

/-- Home field of a handle named by an opcode (R33): SA_RETIRE and SA_INFO name an SA, the TK commands an IKE SA. -/
def homeOf (n op h : Nat) : Nat :=
  match basicOp op with
  | 0x0511 => saHome n h
  | 0x0512 => saHome n h
  | 0x0902 => ikeHome h
  | 0x0903 => ikeHome h
  | 0x0904 => ikeHome h
  | 0x0905 => ikeHome h
  | _ => hHome h

/-- A key is resident in a field's slots; a class 5 public half counts as resident on its home field alone (R25, R218). -/
def State.residentOn (s : State) (h f : Nat) : Bool :=
  if (s.keyAt h).any (fun k => k.type / 0x10 == 0xD) then hHome h == f
  else (s.field f).slots.any (fun r => r.index == hIndex h && !r.dead)

/-- The fields on which a named handle is resident (R25). -/
def State.residency (s : State) (h : Nat) : List Nat := s.fieldNums.filter (s.residentOn h)

/-- The named keys, in block order (R23). -/
def State.namedKeys (s : State) (r : Rec) : List Key := r.handles.filterMap (s.key? r.inst)

/-- R307: the command needs randomness on a field. -/
def State.needsRng (s : State) (r : Rec) (f : Nat) : Bool :=
  opNeedsRng s r.op r.params || (s.namedKeys r).any (fun k => !tPublic k.type && !s.residentOn k.handle f)

/-- The field of least load among those given; ties go to the first at or after the rotating start (R24). -/
def State.leastLoaded (s : State) (fs : List Nat) : Option Nat :=
  ((List.range s.n).map (fun k => (s.pkg.rotate + k) % s.n)).foldl
    (fun best f => if !fs.contains f then best
      else match best with
        | none => some f
        | some b => if s.load f < s.load b then some f else best) none

/-- Twin pairs (2k, 2k + 1) both of whose fields are in the list, as their lower fields, from the rotating start on (R24). A pair stands
where its lower field does, so that of equal loads the pair whose upper field is the start comes last (log entry 94; DESIGN CHOICE). -/
def State.pairs (s : State) (fs : List Nat) : List Nat :=
  (List.range s.n).map (fun k => (s.pkg.rotate + k) % s.n) |>.filter
    (fun f => f % 2 == 0 && fs.contains f && fs.contains (f + 1))

/-- The pair of least load, a pair's load being the greater of its two (R24). -/
def State.leastPair (s : State) (ps : List Nat) : Option Nat :=
  ps.foldl (fun best p => match best with
    | none => some p
    | some b => if max (s.load p) (s.load (p + 1)) < max (s.load b) (s.load (b + 1)) then some p else best) none

/-- Where a command goes: executing field, upper twin, TWIN_LOCAL. -/
structure Place where
  field : Option Nat
  field2 : Option Nat := none
  twinLocal : Bool := false
deriving DecidableEq, Repr

/-- Rule 1 of *Dispatch order*: the field a command must run on, if it must (R21, R133, R390). -/
def State.mustRunOn (s : State) (r : Rec) : Option Nat :=
  if opHas r.op .home then r.handles.head?.map (homeOf s.n r.op)
  else ((s.namedKeys r).find? (fun k => bit k.attr aConsumable || bit k.attr aSingleField)).map (fun k => hHome k.handle)

/-- The fields of a list with room for one more command (R22). -/
def State.withRoom (s : State) (fs : List Nat) : List Nat := fs.filter fun f => s.outstanding f < 4096

/-- Rules 2 to 4 among the dispatchable fields (R21 to R23). Under TWINNED a pair qualifies when both its fields do; where no whole pair
is dispatchable, the command runs TWIN_LOCAL (R488). Where whole pairs are dispatchable and each has a field with 4,096 commands, no place is
given, though the other field of a pair may have room: QUEUE_FULL (log entry 114; DESIGN CHOICE). -/
def State.chooseAmong (s : State) (tw : Bool) (r : Rec) (fs : List Nat) : Option Place :=
  let warm := (r.handles.find? (fun h => !(s.residency h).isEmpty)).map s.residency |>.getD []
  if tw then
    let ps := s.pairs (s.withRoom fs)
    if (s.pairs fs).isEmpty then (s.leastLoaded (s.withRoom fs)).map fun f => { field := some f, twinLocal := true }
    else ((s.leastPair (ps.filter (fun p => warm.contains p && warm.contains (p + 1)))).or (s.leastPair ps)).map fun p =>
      { field := some p, field2 := some (p + 1) }
  else
    let warmOk := fs.filter (fun f => warm.contains f && s.outstanding f < 3072)
    (if warmOk.isEmpty then s.leastLoaded (s.withRoom fs) else s.leastLoaded warmOk).map fun f => { field := some f }

/-- Step 6 (R21, R22, R33, R307): a place for the command, or the status of the refusal; tw is TWINNED at its admission (R54). Among
restarting fields rule 4 alone applies (R307). A handle homed on no field gives no rule 1; step 9 refuses it (R33). -/
def State.place (s : State) (tw : Bool) (r : Rec) : Except Status Place :=
  let hs := r.handles
  if hs.any (fun h => homeOf s.n r.op h < s.n && s.unavailable (homeOf s.n r.op h)) then .error .fieldUnavailable
  else if opHeadland r.op then .ok { field := none }
  else
    match (s.mustRunOn r).filter (· < s.n) with
    | some f =>
      if !s.placeable f then .error .fieldUnavailable
      else if s.outstanding f ≥ 4096 then .error .queueFull
      else .ok { field := some f, twinLocal := tw }
    | none =>
      let disp := s.fieldNums.filter s.placeable
      let ready := disp.filter (fun f => !s.needsRng r f || (s.field f).seed.state == .ready)
      let waiting := disp.filter (fun f => (s.field f).seed.state == .restarting || (s.field f).seed.state == .starting)
      let p := if ready.isEmpty && !waiting.isEmpty then
          (s.leastLoaded (s.withRoom waiting)).map fun f => ({ field := some f, twinLocal := tw } : Place)
        else s.chooseAmong tw r (if ready.isEmpty then disp else ready)
      match p with
      | some p => .ok p
      | none => .error (if disp.isEmpty then .fieldUnavailable else .queueFull)

/-- Cost weight of a command (R24, R382). -/
def State.weightOf (s : State) (op : Nat) (p : Bytes) : Nat :=
  match customerEntry s op with
  | some e => num e 12 2
  | none =>
    let es := s.pkg.cost.filter (fun e => e.1 == op)
    ((es.find? (fun e => e.2.1 != 0xFF && byteAt p e.2.1 == e.2.2.1)).or (es.find? (fun e => e.2.1 == 0xFF))).map (·.2.2.2)
      |>.getD 1

/-- The owning chapter gives a constant latency for the opcode and parameter set, so that PAD holds the reply (R104, R181, R212,
R213, R237, R238, R258, R293, R408). An RSA command has it at every size, though the rates table lists only some sizes (log entry 126; DESIGN
CHOICE). -/
def constLatency (op : Nat) (p : Bytes) : Bool :=
  if basicOp op == 0x0101 then [1, 2, 7].contains (tClass (byteAt p 0))
  else
    [0x0201, 0x0202, 0x0203, 0x0210, 0x0211, 0x0221, 0x0301, 0x0310, 0x0320, 0x0402, 0x0403, 0x0410, 0x0412, 0x0420, 0x0501, 0x0502,
     0x0601, 0x0602, 0x0603, 0x0604, 0x0802, 0x0901, 0x0902, 0x0903, 0x0904, 0x0905].contains (basicOp op)

/-- The outstanding entry of an admitted record, not yet dispatched: what its admission fixes (R54, R62, R418). -/
def State.entry (s : State) (r : Rec) : Cmd :=
  { inst := r.inst, tag := r.tag, op := r.op, flags := r.flags, params := r.params, ctx := r.ctx, seq := r.seq, pos := r.pos,
    prio := r.prio, ordered := r.ordered || bit (s.inst r.inst).bind.flags 0,
    pad := (bit r.flags 0 || s.mode .hardened) && constLatency r.op r.params,
    modes := s.modeWord, runAt := s.pkg.run, hardOrder := s.setting 0x03, leafBlock := s.settingI r.inst 0x0E,
    shares := if r.inst == 0 then {} else (s.inst r.inst).bind.shares, at0 := s.clock.time, number := s.pkg.arrivals }

/-- Steps 1 to 5 (R101, R103): a refusal is answered at once; otherwise the command is outstanding. -/
def State.enter (s : State) (r : Rec) : Bool × State :=
  match s.admission r with
  | some rep => (false, s.replyNow r.inst r.ctx r.op r.tag rep)
  | none =>
    let s := s.stat r.inst fun t => { t with admitted := sat48 (t.admitted + 1) }
    let s := s.modPkg fun p => { p with arrivals := p.arrivals + 1 }
    (true, ({ s with cmds := s.cmds ++ [s.entry r] } : State).touchIke (s.entry r))

/-- The rotating start position advances by one field on each dispatch (R24). -/
def State.turnStart (s : State) : State := s.modPkg fun k => { k with rotate := (k.rotate + 1) % s.n }

/-- Step 6 of an outstanding command (R21 to R24): a refusal holds a slot until its reply is released. -/
def State.dispatchCmd (s : State) (r : Rec) : State :=
  match s.cmd? r.inst r.tag with
  | none => s
  | some c =>
    let tw := c.modes.testBit Mode.twinned.pos
    match s.place tw r with
    | .error st => s.complete r.inst r.tag { status := st }
    | .ok p =>
      let s := s.modCmd r.inst r.tag fun c =>
        { c with field := p.field, field2 := p.field2, twinLocal := p.twinLocal, twinned := tw && p.field.isSome,
                 weight := s.weightOf r.op r.params, at0 := s.clock.time }
      if p.field.isSome then s.turnStart else s

/-- Admission and dispatch of a whole record (R101). The answer says whether steps 1 to 5 passed. -/
def State.takeIn (s : State) (r : Rec) : Bool × State :=
  match s.enter r with
  | (false, s) => (false, s)
  | (true, s) => (true, s.dispatchCmd r)

end Sys2Proof.Machine
end

