-- ==== Sys2Proof/Machine/Contexts.lean ====
section
/-! DEFINITION. What the commands of page 0x06xx read of their block, and Winnow contexts (R10, R250 to R253): assignment to cores, saves
and restores. Absorption takes no time in this model, so a context that a command holds while its transfer is open is a waiting one (log
entry 108). -/
namespace Sys2Proof.Machine

/-! ### The block of page 0x06xx (R242 to R248) -/

/-- ALG. -/
def wAlg (c : Cmd) : Nat := c.p 6 1

/-- The opcode takes keyed ALGs. -/
def wKeyed (op : Nat) : Bool := op == 0x0602 || op == 0x0603

/-- The opcode is verdict-bearing. -/
def wVerdict (op : Nat) : Bool := op == 0x0603 || op == 0x0604

/-- CONT bit 0: a token follows the head. -/
def wResume (c : Cmd) : Bool := bit (c.p 7 1) 0

/-- CONT bit 1: a token is returned. -/
def wPartial (c : Cmd) : Bool := bit (c.p 7 1) 1

/-- TOKLEN. -/
def wTok (c : Cmd) : Nat := if wResume c then 288 else 0

/-- XLEN. -/
def wXlen (op : Nat) (c : Cmd) : Nat := if wVerdict op then c.p 10 2 else 0

/-- N. -/
def wName (c : Cmd) : Bytes := slice c.params (15 + wTok c) (c.p 8 1)

/-- S. -/
def wCustom (c : Cmd) : Bytes := slice c.params (15 + wTok c + c.p 8 1) (c.p 9 1)

/-- EXPECTED. -/
def wExpected (op : Nat) (c : Cmd) : Bytes := slice c.params (15 + wTok c + c.p 8 1 + c.p 9 1) (wXlen op c)

/-- MSG. -/
def wMsg (op : Nat) (c : Cmd) : Bytes := slice c.params (15 + wTok c + c.p 8 1 + c.p 9 1 + wXlen op c) (c.p 12 3)

/-! ### Continuation tokens (R248, R249) -/

/-- The key a token is wrapped under: the rule gives the KDF's label and no context, which is empty here (log entry 119; DESIGN CHOICE). -/
def State.tokenKey (s : State) (f : Nat) : Bytes := kdfCounter (s.kek f) (ascii "WINNOW CONT") [] 32

/-- What a token holds: instance, ALG, KEY, bytes absorbed, whether it is a cSHAKE without N and S, and the chaining state. Their order, their
widths and the zero fill are the model's (log entry 127; DESIGN CHOICE). -/
def tokenBody (i alg key count : Nat) (plain : Bool) (state : Bytes) : Bytes :=
  fit 280 (toBE 1 i ++ toBE 1 alg ++ toBE 6 key ++ toBE 8 count ++ toBE 1 plain.toNat ++ state)

/-- The contents of the token a command carries, if its wrap is right. -/
def State.tokenOf (s : State) (c : Cmd) : Option Bytes :=
  let t := slice c.params 15 288
  let k := s.tokenKey c.fld
  if Config.test .keyUnwrap [k, toBE 4 280, t] then some (std 280 .aesKeyUnwrap [k, t]) else none

/-! ### The starting point -/

/-- The key bytes of a keyed command. -/
def wKey (c : Cmd) : Bytes := if c.p 0 6 == 0 then [] else (c.key (c.p 0 6)).body

/-- The starting point: chaining state, bytes it holds and whether it is a cSHAKE without N and S; from the token, or from
the prefix. -/
def State.wStart (s : State) (c : Cmd) : Bytes × Nat × Bool :=
  let f := (winnowFn? (wAlg c)).getD default
  match (if wResume c then s.tokenOf c else none) with
  | some t => (slice t 17 f.width, num t 8 8, num t 16 1 != 0)
  | none =>
    let p := winnowPrefix (wAlg c) (wKey c) (wName c) (wCustom c)
    (f.absorbAll f.init p, p.length, plainShake (wAlg c) (wName c) (wCustom c))

/-! ### Reach (R10, R250) -/

/-- Idle furrows of an acre. -/
def FieldSt.idle (x : FieldSt) (a : Nat) : List Nat :=
  ((List.range 4).map (4 * a + ·)).filter fun k => (x.furrows.getD k {}).run.isNone

/-- The acre of a field with the most idle furrows, the lower-numbered when two tie (R330), of those not yet taken. -/
def FieldSt.bestAcre (x : FieldSt) (but : List Nat) : Nat :=
  (((List.range 4).filter (!but.contains ·)).foldl (fun b a => match b with
    | none => some a
    | some k => if (x.idle k).length < (x.idle a).length then some a else b) none).getD 0

/-- The effective minimum masking order of R246 for a command of page 0x06xx. -/
def wOrder (c : Cmd) : Nat := c.minOrder c.keys

/-- The command runs on Winnow and takes a context (R246, R250). -/
def wOnWinnow (op : Nat) (c : Cmd) : Bool := !wKeyed op || wOrder c == 1

/-- The command hashes inside another opcode (R177, R189, R250, R287): KEM, signature and service commands with an unmasked hash, the creation
of their keys, and KDF 3 and 4 at order 1. That each of these opcodes takes a context is read from where the chapters send their hashing
(log entry 124). -/
def Cmd.hashesInside (c : Cmd) : Bool :=
  let b := basicOp c.op
  if b == 0x0101 then decide (1 ≤ bits (byteAt c.params 0) 6 4 ∧ bits (byteAt c.params 0) 6 4 ≤ 5)
  else if b == 0x0106 then 3 ≤ byteAt c.params 6 && c.minOrder c.keys == 1
  else opAcre c.op && b / 0x100 != 0x06 && b != 0x0412

/-- The command takes a Winnow context. -/
def Cmd.onWinnow (c : Cmd) : Bool := if basicOp c.op / 0x100 == 0x06 then wOnWinnow (basicOp c.op) c else c.hashesInside

/-- The acres of a field on which a command hashes: those fixed when it had to wait, else the one with the most idle furrows, and for twins
on one field the next. -/
def Cmd.acresOn (c : Cmd) (f : Nat) (x : FieldSt) : List Nat :=
  match (c.acres.filter (·.1 == f)).map (·.2) with
  | [] => if c.twinLocal then [x.bestAcre [], x.bestAcre [x.bestAcre []]] else [x.bestAcre []]
  | as => as

/-- The cores within reach of each context a command takes on a field: every core for a command of page 0x06xx, those of its own acre for
another (R10, R250); two contexts where its twins run on one field. -/
def Cmd.reaches (c : Cmd) (f : Nat) (x : FieldSt) : List (List Nat) :=
  if basicOp c.op / 0x100 == 0x06 then List.replicate (if c.twinLocal then 2 else 1) (List.range 8)
  else (c.acresOn f x).map fun a => [2 * a, 2 * a + 1]

/-! ### Contexts (R250, R251) -/

/-- The context occupies a slot: it is not saved. -/
def WCtx.occupies (w : WCtx) : Bool := w.state != 3

/-- Contexts that occupy a slot of a core. -/
def FieldSt.coreLoad (x : FieldSt) (k : Nat) : Nat :=
  ((x.ctxs.filter WCtx.occupies).map fun w => (w.core == k).toNat + (w.core2 == some k).toNat).sum

/-- The core of a reach with the fewest occupied contexts among those with a free one, the lower-numbered when two tie (R250); taken lists
the cores of contexts taken in the same step. -/
def FieldSt.freeCore (x : FieldSt) (taken reach : List Nat) : Option Nat :=
  let load := fun k => x.coreLoad k + taken.count k
  reach.foldl (fun b k => if load k ≥ 16 then b
    else match b with
      | none => some k
      | some j => if load k < load j then some k else b) none

/-- A core for each of several reaches, if there is a free context for each. -/
def FieldSt.freeCores (x : FieldSt) (taken : List Nat) : List (List Nat) → Option (List Nat)
  | [] => some []
  | r :: rs => (x.freeCore taken r).bind fun k => (x.freeCores (k :: taken) rs).map (k :: ·)

/-- The context of a command on a field. -/
def FieldSt.ctxOf (x : FieldSt) (i t : Nat) : Option WCtx := x.ctxs.find? (fun w => w.inst == i && w.tag == t)

/-- Change a context by its id. -/
def FieldSt.modCtx (x : FieldSt) (id : Nat) (g : WCtx → WCtx) : FieldSt :=
  { x with ctxs := x.ctxs.map fun w => if w.id == id then g w else w }

/-- The cores within reach of a user that waits. -/
def State.reachOf (s : State) (f : Nat) (w : Nat × Nat) : List Nat :=
  ((s.cmd? w.1 w.2).map fun d => (d.reaches f (s.field f)).flatten).getD []

/-- The cores of the contexts a user may take now: those that became ready before it go first (R250). -/
def State.coresFor (s : State) (f : Nat) (c : Cmd) : Option (List Nat) :=
  let x := s.field f
  let theirs := (x.ctxWait.takeWhile (· != (c.inst, c.tag))).flatMap (s.reachOf f)
  x.freeCores [] ((c.reaches f x).map fun r => r.filter (!theirs.contains ·))

/-- A user leaves the queue. -/
def FieldSt.leaveQueue (x : FieldSt) (i t : Nat) : FieldSt := { x with ctxWait := x.ctxWait.filter (· != (i, t)) }

/-- A user finds no context and joins the queue; the acre it hashes on is fixed (R250, R251). -/
def State.queueFor (s : State) (f : Nat) (c : Cmd) : State :=
  let x := s.field f
  if x.ctxWait.contains (c.inst, c.tag) then s
  else
    (s.modField f fun x => { x with ctxWait := x.ctxWait ++ [(c.inst, c.tag)] }).modCmd c.inst c.tag fun e =>
      { e with acres := if e.acres.any (·.1 == f) then e.acres else e.acres ++ (c.acresOn f x).map fun a => (f, a) }

/-- Slots of a reach that are free, or whose save is in progress. -/
def FieldSt.ctxComing (x : FieldSt) (reach : List Nat) : Nat :=
  let x := { x with ctxs := x.ctxs.filter (·.state != 2) }
  16 * reach.length - (reach.map x.coreLoad).sum

/-- The waiting context within a reach with the longest time since its last block (R251). -/
def FieldSt.victim (x : FieldSt) (reach : List Nat) : Option WCtx :=
  (x.ctxs.filter fun w => w.state == 1 && (reach.contains w.core || w.core2.any reach.contains)).foldl (fun b w => match b with
    | none => some w
    | some v => if w.idleAt < v.idleAt then some w else b) none

/-- The context to be saved for the users that wait: the first for which, with those before it that share its reach, fewer slots are free
or being freed than are needed takes one of its reach (R251). -/
def State.nextVictim (s : State) (f : Nat) : Option WCtx :=
  let x := s.field f
  x.ctxWait.zipIdx.findSome? fun (w, n) =>
    let reach := (s.reachOf f w).eraseDups
    let need := ((x.ctxWait.take (n + 1)).map fun v =>
      if (s.reachOf f v).any reach.contains then ((s.cmd? v.1 v.2).map fun d => (d.reaches f x).length).getD 0 else 0).sum
    if need ≤ x.ctxComing reach then none else x.victim reach

/-- A fresh stamp for the order in which contexts go idle. -/
def State.stamp (s : State) : Nat × State := (s.pkg.arrivals, s.modPkg fun p => { p with arrivals := p.arrivals + 1 })

/-! ### Images (R252) -/

/-- A command with what has arrived of its block, and its key as the handle names it now. -/
def State.wCmd (s : State) (c : Cmd) : Cmd :=
  match s.xfers.find? (fun x => x.inst == c.inst && x.tag == c.tag) with
  | none => c
  | some x => { c with params := x.staged.drop 10, keys := if wKeyed (basicOp c.op) then (s.key? c.inst (num (x.staged.drop 10) 0 6)).toList else [] }

/-- The whole message has arrived. -/
def State.wWhole (s : State) (c : Cmd) : Bool :=
  s.xfers.all fun x => !(x.inst == c.inst && x.tag == c.tag) || x.got ≥ x.tlen

/-- Where the message begins in the block. -/
def wBase (c : Cmd) : Nat := 15 + wTok c + c.p 8 1 + c.p 9 1 + wXlen (basicOp c.op) c

/-- Bytes in whole blocks that a context can have absorbed of what has arrived: of page 0x06xx the prefix of the first part, then the message;
of another opcode the message. -/
def State.wReady (s : State) (c : Cmd) : Nat :=
  let d := s.wCmd c
  if basicOp c.op / 0x100 != 0x06 then (d.len - c.hashAt) / c.hashBlock * c.hashBlock
  else
    match winnowFn? (wAlg d) with
    | none => 0
    | some f =>
      if d.len < wBase d then 0
      else
        let pre := if wResume d then 0 else (winnowPrefix (wAlg d) (wKey d) (wName d) (wCustom d)).length
        (pre + min (d.p 12 3) (d.len - wBase d)) / f.block * f.block

/-- The 256-byte image of a context that has absorbed n bytes: its chaining state and the count; under the key "WINNOW CTX" for a keyed one
(log entries 108 and 119; DESIGN CHOICE: the spec gives the image's length alone, and the KDF's label without a context). -/
def State.wImage (s : State) (f : Nat) (c : Cmd) (keyed : Bool) (n : Nat) : Bytes :=
  let d := s.wCmd c
  if basicOp c.op / 0x100 != 0x06 then fit 256 (toBE 8 n ++ Config.std (.hashState (basicOp c.op)) [d.params.take (c.hashAt + n)])
  else
    let fn := (winnowFn? (wAlg d)).getD default
    let pre := if wResume d then 0 else (winnowPrefix (wAlg d) (wKey d) (wName d) (wCustom d)).length
    let body := fit 256 (toBE 8 n ++ fn.absorbAll (s.wStart d).1 (slice d.params (wBase d) (n - pre)))
    if keyed then std 264 .aesKeyWrap [kdfCounter (s.kek f) (ascii "WINNOW CTX") [] 32, body] else body

/-- A save or a restore of a keyed context asks Whisk for its wrap, in class 3 (R252, R284). -/
def FieldSt.askImage (x : FieldSt) (w : WCtx) : FieldSt := if w.keyed then { x with whisk := x.whisk ++ [(3, w.inst, w.tag + 2 ^ 32)] } else x

/-- After a change to a field's contexts or queue: a save that is called for begins (R251). -/
def State.startSave (s : State) (f : Nat) : State :=
  match s.nextVictim f with
  | none => s
  | some w =>
    let img := match s.cmd? w.inst w.tag with
      | none => []
      | some c => s.wImage f c w.keyed w.count
    s.modField f fun x => (x.modCtx w.id fun w => { w with state := 2, image := img }).askImage w

/-- The pages a command's images may take are reserved when it is dispatched (R252). -/
def State.reserveImages (s : State) (c : Cmd) : State :=
  if !c.imgPages.isEmpty then s
  else (c.fields s).foldl (fun s f =>
    let (ps, s) := s.allocPages f 1 5 c.inst
    s.modCmd c.inst c.tag fun e => { e with imgPages := e.imgPages ++ ps.map fun p => (f, p) }) s

/-- The page reserved for a command's images on a field. -/
def State.imagePage (s : State) (i t f : Nat) : Nat :=
  (((s.cmd? i t).bind fun c => c.imgPages.find? fun p => p.1 == f).map (·.2)).getD 0

/-- A context absorbs what has arrived: it waits for the next segment, or is occupied to the end once the message is whole. -/
def WCtx.absorb (w : WCtx) (n now : Nat) (whole : Bool) : WCtx :=
  { w with state := if whole then 0 else 1, idleAt := if w.count < n then now else w.idleAt, count := n }

/-- What has arrived for a command is absorbed: it takes a context once its first block is ready, or has its saved one restored (R250 to
R252). -/
def State.ctxSegment (s : State) (f : Nat) (c : Cmd) : State :=
  let n := s.wReady c
  let whole := s.wWhole c
  let (t, s) := s.stamp
  match (s.field f).ctxOf c.inst c.tag with
  | none =>
    if n == 0 && !whole then s
    else match s.coresFor f c with
      | some ks =>
        let w : WCtx := { id := c.number, inst := c.inst, tag := c.tag, core := ks.headD 0, core2 := ks[1]?, keyed := wKeyed (basicOp c.op),
                          page := s.imagePage c.inst c.tag f }
        (s.modField f fun x => { x.leaveQueue c.inst c.tag with ctxs := x.ctxs ++ [w.absorb n t whole] }).startSave f
      | none => (s.queueFor f c).startSave f
  | some w =>
    match w.state with
    | 0 => (s.modField f fun x => x.modCtx w.id fun w => w.absorb n t whole).startSave f
    | 1 => (s.modField f fun x => x.modCtx w.id fun w => w.absorb n t whole).startSave f
    | 2 => s.modField f fun x => x.modCtx w.id fun w => { w with again := true }
    | 3 =>
      match s.coresFor f c with
      | some ks => s.modField f fun x =>
          ((x.leaveQueue c.inst c.tag).modCtx w.id fun w => { w with state := 4, core := ks.headD 0, core2 := ks[1]? }).askImage w
      | none => (s.queueFor f c).startSave f
    | _ => s

/-- A segment has arrived for a streaming command that has passed steps 7 to 12 and hashes what it receives, or it passes them: its contexts
absorb what is there (R80, R250 to R252). -/
def State.absorbSegment (s : State) (i t : Nat) : State :=
  match s.cmd? i t with
  | none => s
  | some c =>
    if c.isDone || !c.checked || c.hashBlock == 0 || !s.xfers.any (fun x => x.inst == i && x.tag == t) then s
    else (c.fields s).foldl (fun s f => s.ctxSegment f c) (s.reserveImages c)

/-- A command finds no context on one of its fields (R250, R251). -/
def State.noContext (s : State) (c : Cmd) : Bool :=
  (c.fields s).any fun f =>
    match (s.field f).ctxOf c.inst c.tag with
    | some w => w.state != 1 && w.state != 0
    | none => (s.coresFor f c).isNone

/-- A command that hashes must wait for a context. -/
def State.hashWaits (s : State) (c : Cmd) : Bool := c.onWinnow && s.noContext c

/-- What the wait sets going: a place in the queue of each field that has no context for the command. -/
def State.hashQueues (s : State) (c : Cmd) : State :=
  (c.fields s).foldl (fun s f =>
    if ((s.field f).ctxOf c.inst c.tag).isNone && (s.coresFor f c).isNone then (s.queueFor f c).startSave f else s) s

/-- A command whose hashing has its contexts leaves the queues. -/
def State.hashServed (s : State) (c : Cmd) : State :=
  (c.fields s).foldl (fun s f => s.modField f fun x => x.leaveQueue c.inst c.tag) s

/-- The first user of a field's queue for which contexts are free (R250). -/
def State.nextUser (s : State) (f : Nat) : Option (Nat × Nat) :=
  (s.field f).ctxWait.find? fun w => match s.cmd? w.1 w.2 with
    | none => true
    | some c => (s.coresFor f c).isSome && (c.stage == .receiving || c.stage == .waitCtx)

/-- Free contexts go to the user that has waited longest for them (R250): a command whose transfer is open takes them, a saved one is
restored into them, and a command that waits with its whole message goes on, with its place in the queue until it has run. -/
def State.serveCtx (s : State) (f : Nat) : State :=
  match s.nextUser f with
  | none => s.startSave f
  | some (i, t) =>
    match s.cmd? i t with
    | none => s.modField f fun x => x.leaveQueue i t
    | some c =>
      if ((s.field f).ctxOf i t).isSome || c.stage == .receiving then s.ctxSegment f c
      else s.modCmd i t fun c => { c with stage := .dispatched }

end Sys2Proof.Machine
end

