-- ==== Sys2Proof/Machine/Steep.lean ====
section
/-! DEFINITION. Seedbed's sources and Steep's service (R295 to R302): the tests on raw bits, the conditioners, the pool, generate requests and
the queue of those that wait for the pool. -/
namespace Sys2Proof.Machine

/-! ### The tests on a source's raw bits (R297) -/

/-- The repetition-count and adaptive-proportion tests take a bit. -/
def SourceTests.runs (t : SourceTests) (b : Bool) : SourceTests :=
  let t := { t with last := some b, run := if t.last == some b then t.run + 1 else 1 }
  if t.aptSeen == 0 || t.aptSeen ≥ 1024 then { t with aptBit := b, aptSeen := 1, aptCount := 1 }
  else { t with aptSeen := t.aptSeen + 1, aptCount := t.aptCount + (b == t.aptBit).toNat }

/-- The window of 4,096 bits takes a bit: ONES, and the product with each of the four bits before it in the window. -/
def SourceTests.window (t : SourceTests) (b : Bool) : SourceTests :=
  let sign := fun (x : Bool) => if x then (1 : Int) else -1
  { t with seen := t.seen + 1, ones := t.ones + b.toNat,
           ac := t.ac.zipIdx.map fun a => match t.tail[a.2]? with
             | some x => a.1 + sign x * sign b
             | none => a.1
           tail := (b :: t.tail).take 4 }

/-- Every test takes a bit. -/
def SourceTests.bit (t : SourceTests) (b : Bool) : SourceTests := (t.runs b).window b

/-- The next window of 4,096 bits begins. -/
def SourceTests.nextWindow (t : SourceTests) : SourceTests := { t with seen := 0, ones := 0, ac := [0, 0, 0, 0], tail := [] }

/-! ### The conditioners and the pool (R296) -/

/-- A raw bit is conditioned: each pair yields one bit under XOR, and under von Neumann one where its bits differ. -/
def Source.condition (n : Source) (cond : Nat) (b : Bool) : Source :=
  match n.half with
  | none => { n with half := some b }
  | some a => { n with half := none, bits := min 64 (n.bits + (cond != 2 || a != b).toNat) }

/-- A raw bit of a source is tested and conditioned. -/
def Source.take (n : Source) (cond : Nat) (b : Bool) : Source :=
  ({ n with samples := n.samples + 1, tests := n.tests.bit b }).condition cond b

/-- Bits pooled of both sources. -/
def Seedbed.pool (x : Seedbed) : Nat := (x.sources.map (·.pooled)).sum

/-- 64 conditioned bits of the source whose turn it is enter the pool of 4,096 bits. -/
def Seedbed.enter (x : Seedbed) : Seedbed :=
  let p := fun (k : Nat) => (x.sources.getD k {}).pooled
  let k := if p 0 ≤ p 1 then 0 else 1
  if (x.sources.getD k {}).bits ≥ 64 && x.pool + 64 ≤ 4096 then
    { x with sources := x.sources.modify k fun n => { n with bits := n.bits - 64, pooled := n.pooled + 64 } }
  else x

/-- n bits of each source are pooled. -/
def Seedbed.holds (x : Seedbed) (n : Nat) : Bool := x.sources.all fun y => n ≤ y.pooled

/-- n bits of each source leave the pool. -/
def Seedbed.draw (x : Seedbed) (n : Nat) : Seedbed := { x with sources := x.sources.map fun y => { y with pooled := y.pooled - n } }

/-- The pool and every test begin again; the counts stay (R297, R299). -/
def Source.again (n : Source) : Source := { n with tests := {}, half := none, bits := 0, pooled := 0 }

/-- The values a start-up takes from the settings (R296, R297, R458). -/
def State.seedLimits (s : State) : SeedLimits :=
  { cond := s.setting 0x09, rct := s.setting 0x0A, apt := s.setting 0x0B, bias := s.setting 0x0C, ac := s.setting 0x0D }

/-- Seedbed begins its start-up again: Steep's state and the pool are zeroised (R299, R306, R313). Values of an RNG_CONFIG hold until reset
or are the ones it starts with; else it takes those of the settings. -/
def Seedbed.restart (x : Seedbed) (now : Nat) (set : SeedLimits) : Seedbed :=
  { x with state := .restarting, seeded := false, sources := x.sources.map Source.again, starts := x.starts + 1, since := now,
           lim := if x.fixed || x.prior.isSome then x.lim else set }

/-- Seedbed and Steep stop: their state and the pool are zeroised (R308, R493). -/
def Seedbed.stop (x : Seedbed) : Seedbed := { x with seeded := false, sources := x.sources.map Source.again }

/-! ### Steep (R299, R301, R302) -/

/-- Steep is instantiated: 512 bits of each source as entropy input and 64 of each as nonce. That the nonce takes as much of each is the
model's choice (log entry 123). -/
def Seedbed.instantiate (x : Seedbed) : Seedbed := { x.draw 576 with seeded := true, reqs := 0 }

/-- Steep reseeds from 512 pooled bits of each source (R302). -/
def Seedbed.reseed (x : Seedbed) : Seedbed := { x.draw 512 with reqs := 0, reseeds := x.reseeds + 1 }

/-- Steep serves one generate request (R301): it reseeds first after 4,096 requests (R302). -/
def Seedbed.serve (x : Seedbed) : Seedbed :=
  let sd := if x.reqs ≥ 4096 then x.reseed else x
  { sd with reqs := sd.reqs + 1 }

/-- A draw of n bytes made in k generate requests of Steep (R301). -/
def State.steep (s : State) (f n : Nat) (k : Nat := 1) : Bytes × State :=
  (s.modField f fun x => { x with seed := k.repeat Seedbed.serve x.seed }).fresh n

/-- A leaf-stream generator is seeded: every seed after its first counts as a reseed (R304). -/
def LeafGen.seed (g : LeafGen) : LeafGen :=
  { g with running := true, nextSeed := false, asked := 0, seeded := true, reseeds := g.reseeds + g.seeded.toNat }

/-- Steep is instantiated and seeds the four leaf-stream generators, one request each; suspended work goes on (R299, R305). -/
def FieldSt.instantiate (x : FieldSt) : FieldSt :=
  { x with seed := { x.seed.instantiate with reqs := 4 }, leaf := x.leaf.map LeafGen.seed,
           furrows := x.furrows.map fun (u : Furrow) => { u with waitLeaf := false } }

/-! ### The queue for the pool (R301, R302) -/

/-- Places taken in the queue of a field's Steep: those of commands whose draw waits, and of leaf-stream seeds. -/
def State.poolPlaces (s : State) (f : Nat) : List Nat :=
  ((s.cmds.filter fun d => d.queued != 0 && !d.isDone && d.field.getD s.pkg.headland == f).map (·.queued)) ++
    ((s.field f).leaf.map (·.asked)).filter (· != 0)

/-- Requests wait for the pool of a field's Steep (R302). -/
def State.poolQueue (s : State) (f : Nat) : Bool := !(s.poolPlaces f).isEmpty

/-- A draw of k requests waits for the pool: a reseed is due, or asked for, and fewer than 512 bits of a source are pooled, or a request before
it waits (R301, R302, R311). place is its own in the queue, or 0. -/
def State.steepStalls (s : State) (f : Nat) (reseed : Bool) (k : Nat := 1) (place : Nat := 0) : Bool :=
  ((reseed || (s.field f).seed.reqs + k > 4096) && !(s.field f).seed.holds 512) || (s.poolPlaces f).any fun p => place == 0 || p < place

/-- The next place in a queue. -/
def State.nextPlace (s : State) : Nat × State := (s.pkg.arrivals + 1, s.modPkg fun p => { p with arrivals := p.arrivals + 1 })

/-- A command's draw waits for the pool, in the place it has or takes. -/
def State.waitForPool (s : State) (c : Cmd) : State :=
  let (p, s) := s.nextPlace
  s.modCmd c.inst c.tag fun e => { e with stage := .waitPool, queued := if e.queued == 0 then p else e.queued }

end Sys2Proof.Machine
end

