-- ==== Sys2Proof/Machine/Run.lean ====
section
/-! DEFINITION. The executing field's part of a command (R101 steps 7 to 13, R107): the checks, the wait for randomness, the
load of keys, the commit, the effect and the staged reply. Every command row is one description run by runCommand. -/
namespace Sys2Proof.Machine

/-- What distinguishes one command from another. pre holds its checks of steps 7 and 8, post those of steps 10 to 12, each in its order;
keys lists the key handles step 9 checks, and nine its checks of other handles and those R556 puts between steps 9 and 10; draw is the
length of its draw and reqs the number of generate requests that make it; wait gives a reason to wait after step 13, and onWait what the
wait sets going; writes lists the pages, with their fields, that the commit writes partially (R443); spoil is what stands when a fault
strikes after the commit point, torn what a failing write to Granary leaves there, onRefuse what a failed check of step 10 leaves (R473); turn says that no earlier command must run first
(R393); head is the length of the part of a streaming command's block that steps 7 to 12 read, which are judged as soon as it has arrived
(R80; where there is none they are judged at the last segment), and absorbs the block in bytes of the hash its message goes into as it
streams (R250; 0 for none); streams says that the leaf streams run of the acres a program is to take (R335), and seals that the
command has a key sealed although its opcode alone does not say so (R284); early says that step 13 and the load of its key come as soon as its head is judged, and
onStart is what follows that load (R267); body is the effect and the reply, or no reply while the command goes on. -/
structure Desc where
  op : Nat
  pre : State → Cmd → List (Bool × Status)
  first : State → Cmd → List (Bool × Status) := fun _ _ => []
  keys : State → Cmd → List Nat := fun _ _ => []
  nine : State → Cmd → List (Bool × Status) := fun _ _ => []
  post : State → Cmd → List (Bool × Status) := fun _ _ => []
  draw : State → Cmd → Option Nat := fun _ _ => none
  reqs : State → Cmd → Nat := fun _ _ => 1
  reseed : State → Cmd → Bool := fun _ _ => false
  secrets : State → Cmd → Bool := fun _ _ => true
  reads : State → Cmd → List Key := fun _ _ => []
  wait : State → Cmd → Option Stage := fun _ _ => none
  onWait : State → Cmd → State := fun s _ => s
  granary : State → Cmd → Bool := fun _ _ => false
  writes : State → Cmd → List (Nat × Nat) := fun _ _ => []
  spoil : State → Cmd → State := fun s _ => s
  torn : State → Cmd → State := fun s _ => s
  onRefuse : State → Cmd → Status → State := fun s _ _ => s
  turn : State → Cmd → Bool := fun _ _ => true
  onPass : State → Cmd → State := fun s _ => s
  head : Cmd → Option Nat := fun _ => none
  absorbs : Cmd → Nat := fun _ => 0
  streams : State → Cmd → Bool := fun _ _ => true
  seals : State → Cmd → Bool := fun _ _ => false
  early : Bool := false
  onStart : State → Cmd → State := fun s _ => s
  body : State → Cmd → State × Option Reply

/-- A reply with status OK. -/
def ok (results : Bytes := []) : Option Reply := some { status := .ok, results := results }

/-- A reply with another status and no results. -/
def st (x : Status) : Option Reply := some { status := x }

/-- A pass or a fail of a verdict-bearing command (R110). -/
def verdict (pass : Bool) (results : Bytes := []) : Option Reply :=
  some (if pass then { status := .ok, verdict := .pass, results := results } else { status := .verdictFail, verdict := .fail })

/-- Restore a persistent key's descriptor and blob from Granary to fresh pages (R134). -/
def State.restoreKey (s : State) (k : Key) : State :=
  let (ps, s) := s.allocPages (hHome k.handle) (pagesFor k.blobLen + 1) 1 (hInst k.handle)
  (s.freePages (hHome k.handle) k.pages).modKey k.handle fun k => s.sealKey { k with pages := ps.tail, descPage := ps.headD k.descPage }

/-- Descriptors a field caches (R126). -/
def descCacheSize : Nat := 16384

/-- A field caches the descriptor of an index it has read; the one read longest ago makes room. -/
def FieldSt.cacheDesc (x : FieldSt) (index : Nat) : FieldSt := { x with descCache := (index :: x.descCache.filter (· != index)).take descCacheSize }

/-- The field that reads a command's descriptors and blobs: the executing one, or Headland's. -/
def Cmd.reader (c : Cmd) (s : State) : Nat := c.field.getD s.pkg.headland

/-- Step 9 reads a descriptor that its field has not cached, that of a free entry too (R126, R141): a correctable page is repaired; a page
that cannot be read quarantines the entry, or, for a persistent key, is rewritten from Granary and the command proceeds with CORRECTED
(R134). -/
def State.readDesc (s : State) (c : Cmd) (h : Nat) : State :=
  match s.keyAt h with
  | none =>
    if (s.field (c.reader s)).descCache.contains (hIndex h) || hHome h ≥ s.n then s
    else
      match s.readPage (hHome h) (descPageOf h) with
      | (.clean, s) => s.modField (c.reader s) fun x => x.cacheDesc (hIndex h)
      | (.correctable _, s) =>
        (s.modField (c.reader s) fun x => x.cacheDesc (hIndex h)).modCmd c.inst c.tag fun c => { c with corrected := true }
      | (_, s) => s
  | some k =>
    if (s.field (c.reader s)).descCache.contains (hIndex h) then s
    else
      match s.readPage (hHome h) k.descPage with
      | (.clean, s) => s.modField (c.reader s) fun x => x.cacheDesc (hIndex h)
      | (.correctable _, s) =>
        (s.modField (c.reader s) fun x => x.cacheDesc (hIndex h)).modCmd c.inst c.tag fun c => { c with corrected := true }
      | (_, s) =>
        if bit k.attr aPersistent then (s.restoreKey k).modCmd c.inst c.tag fun c => { c with corrected := true }
        else s.quarantine k.handle

/-- The descriptor of an index lies on a page that cannot be read (R126): the entry is quarantined, or free and its page was not read. -/
def State.unreadable (s : State) (c : Cmd) (h : Nat) : Bool :=
  match s.keyAt h with
  | some k => basicOp c.op != 0x0107 && k.quarantined
  | none => hHome h < s.n && !(s.field (c.reader s)).descCache.contains (hIndex h) && (s.pageOf (hHome h) (descPageOf h)).read == .poisoned

/-- Step 9 for a list of handles, in their order (R122, R126): the descriptor is read before its generation is judged. The descriptor of a
key whose home field has gone since step 6 cannot be read (R33). KEY_DESTROY takes a quarantined entry away (R223, log entry 21). -/
def State.keyChecks (s : State) (c : Cmd) (hs : List Nat) : List (Bool × Status) :=
  hs.flatMap fun h => [(hHome h < s.n && s.unavailable (hHome h), .fieldUnavailable), (s.unreadable c h, .keyQuarantined),
    ((s.key? c.inst h).isNone, .keyNotFound)]

/-- Step 10 for every command that names keys: the life cycle (R463) and TWIN_REQUIRED (R132). That to name a key is to use it, also for
KEY_INFO, KEY_DESTROY, KEY_NARROW and ATTEST, is the model's choice (DESIGN CHOICE, log entry 101). -/
def State.commonChecks (s : State) (c : Cmd) (ks : List Key) : List (Bool × Status) :=
  [((s.lc == .blank || s.lc == .endOfLife) && ! [0x00, 0x0B, 0x0C, 0x0D].contains (c.op / 0x100), .stateForbids),
   (ks.any (fun k => bit k.attr aTwinRequired) && !c.mode .twinned, .usageDenied)]

/-! ### Leaf streams and Whisk -/

/-- The acres of a field whose leaf stream runs (R304). -/
def State.leafAcres (s : State) (f : Nat) : List Nat := (List.range 4).filter fun a => ((s.field f).leaf.getD a {}).running

/-- As many acres of a field have a leaf stream as the command uses: two where its twins run on one field (R157, R487). -/
def State.leafUp (s : State) (c : Cmd) (f : Nat) : Bool := (if c.twinLocal then 2 else 1) ≤ (s.leafAcres f).length

/-- A Whisk engine of the field serves: Whisk 0 takes its masks from acre 0 and Whisk 1 from acre 1 (R283, R305). The acre of the masked AES
of order 3 is one of the same two (R285). -/
def State.whiskUp (s : State) (f : Nat) : Bool := (s.leafAcres f).any (· < 2)

/-- The command runs a masked step on furrows at its order, its own program aside (R157, R160, R189, R235, R246, R287). -/
def Cmd.onAcres (c : Cmd) : Bool :=
  match basicOp c.op with
  | 0x0101 => bits (byteAt c.params 0) 6 4 == 1 || bits (byteAt c.params 0) 6 4 == 2
  | 0x0106 => 3 ≤ byteAt c.params 6 && 2 ≤ c.minOrder c.keys
  | 0x0602 => 2 ≤ c.minOrder c.keys
  | 0x0603 => 2 ≤ c.minOrder c.keys
  | b => ! [0x0104, 0x0105, 0x0320, 0x0401, 0x0520, 0x0521, 0x0701, 0x0801, 0x0802, 0x0A02, 0x0C02].contains b && opHas b .rng

/-- CMAC, or KEY_DERIVE with KDF 1 or 2. -/
def Cmd.whiskMac (c : Cmd) : Bool :=
  basicOp c.op == 0x0520 || basicOp c.op == 0x0521 || (basicOp c.op == 0x0106 && byteAt c.params 6 < 3)

/-- At order 3 these run as masked AES on a furrow of acre 0 or 1 (R285). -/
def Cmd.furrowAes (c : Cmd) : Bool := c.whiskMac && 3 ≤ c.minOrder c.keys

/-- The command makes an external wrap or unwrap, a CMAC or a derivation on Whisk (class 4 of R284). -/
def Cmd.whiskComputes (c : Cmd) : Bool := [0x0104, 0x0105].contains (basicOp c.op) || (c.whiskMac && !c.furrowAes)

/-- The command seals what it creates on Whisk (class 2 of R284, R285, R288): each of the pages that create a key. -/
def Cmd.seals (c : Cmd) : Bool :=
  [0x0101, 0x0102, 0x0103, 0x0104, 0x0106, 0x0108, 0x0201, 0x0202, 0x0203, 0x0210, 0x0211, 0x0220, 0x0221, 0x0412, 0x0801, 0x0901, 0x0902,
   0x0903, 0x0904].contains (basicOp c.op)

/-- The command has an image unwrapped: a Winnow token, the state image of an IKE SA, or the chaining state a gated field has saved
(class 3 of R284, R248, R269, R391). -/
def Cmd.imageIn (c : Cmd) : Bool :=
  !c.image.isEmpty || [0x0902, 0x0903, 0x0904].contains (basicOp c.op) || (basicOp c.op / 0x100 == 0x06 && bit (byteAt c.params 7) 0)

/-- The command has an image wrapped. -/
def Cmd.imageOut (c : Cmd) : Bool :=
  [0x0901, 0x0902, 0x0903, 0x0904].contains (basicOp c.op) || (basicOp c.op / 0x100 == 0x06 && bit (byteAt c.params 7) 1)

/-- A drawing command on two fields: its draw crosses under a Whisk wrap (R303). -/
def Cmd.twinWrap (c : Cmd) (draws : Bool) : Bool := draws && c.field2.isSome

/-- Step 13 (R104, R157, R300, R307): none when randomness is there or not needed, else what happens. -/
inductive Random where
  | there | hold | fault
deriving DecidableEq, Repr

/-- Step 13 on the fields of a command: what needs Steep or a missing leaf stream is held, or ends with RNG_FAULT where a Seedbed has latched or
is stopped (R307, R308). -/
def State.random (s : State) (c : Cmd) (needs up : Bool) : Random :=
  let fs := c.fields s
  if fs.any (fun f => (s.field f).seed.state == .latched || (s.field f).seed.state == .stopped) && (needs || !up) then .fault
  else if needs && !fs.all (fun f => (s.field f).seed.state == .ready) then .hold
  else if !up then .hold
  else .there

/-- Sealed slots of a field. -/
def siloSlots : Nat := 8192

/-- Slots reserved on a field by commands in flight other than c (R136, R137); one that waits for slots has none. -/
def State.reserved (s : State) (c : Cmd) (f : Nat) : List Nat :=
  (s.cmds.filter fun d => d.reserves && !(d.inst == c.inst && d.tag == c.tag)).flatMap fun d => d.reservedOn s f

/-- First of n contiguous free slots (R136): the lowest place where they fit. -/
def slotHole (n : Nat) (rs : List Resident) : Option Nat :=
  ((0 :: rs.map fun r => r.first + r.slots).filter fun k =>
    k + n ≤ siloSlots && rs.all fun r => r.first + r.slots ≤ k || k + n ≤ r.first).min?

/-- The two masking shares a sealed slot holds (R136). -/
def slotShares (f index now : Nat) (body : Bytes) : Bytes × Bytes :=
  let m := (List.range body.length).map (Config.slotShare f index now)
  (m, body.zipWith (· ^^^ ·) m)

/-- Put keys into slots of a field beside those that stay; none where one finds no contiguous slots (R136). -/
def putSlots (f now : Nat) : List Key → List Resident → Option (List Resident)
  | [], rs => some rs
  | k :: ks, rs =>
    match slotHole k.slots rs with
    | some a => putSlots f now ks (rs ++ [{ index := hIndex k.handle, first := a, slots := k.slots, used := now,
                                            shares := slotShares f (hIndex k.handle) now k.body }])
    | none => none

/-- Evict the least recently used unreserved keys until what remains leaves room; fuel is the number of resident keys (R137). -/
def evict : Nat → (List Resident → Bool) → List Nat → List Resident → List Resident
  | 0, _, _, rs => rs
  | fuel + 1, room, keep, rs =>
    if room rs then rs
    else
      match (rs.filter (fun r => !keep.contains r.index)).foldl (fun b r => match b with
          | none => some r
          | some x => if r.used < x.used then some r else b) none with
      | none => rs
      | some v => evict fuel room keep (rs.filter (fun r => r.index != v.index))

/-- Evict what must go and put keys into the slots of field f; keep lists the keys that stay (R136, R137). -/
def FieldSt.seat (x : FieldSt) (f : Nat) (keep : List Nat) (ks : List Key) : Option (List Resident) :=
  putSlots f x.nextUse ks (evict x.slots.length (fun rs => (putSlots f x.nextUse ks rs).isSome) keep x.slots)

/-- The field with new residents, and the next stamp of use (R137). -/
def FieldSt.reseat (x : FieldSt) (rs : List Resident) : FieldSt := { x with slots := rs, nextUse := x.nextUse + 1 }

/-- A command begins on a field: its keys are seated, and its request leaves Whisk's queue (R136, R284). -/
def FieldSt.beginOn (x : FieldSt) (i t : Nat) (rs : List Resident) : FieldSt :=
  { x.reseat rs with whisk := x.whisk.filter fun w => w.2 != (i, t) }

/-- Reserve, in one step, the slots of a command's secret keys on one field (R136): the new residents, or none if they
cannot all be found. -/
def State.takeSlots (s : State) (c : Cmd) (f : Nat) (ks : List Key) : Option (List Resident) :=
  let x := s.field f
  let mine := ks.map (fun k => hIndex k.handle)
  let fresh := ks.filter (fun k => !x.slots.any (fun r => r.index == hIndex k.handle && !r.dead))
  let gone := (ks.filter fun k => !s.keys.any fun j => j.handle == k.handle).map fun k => hIndex k.handle
  (x.seat f (mine ++ s.reserved c f) fresh).map fun rs => rs.map fun r =>
    if mine.contains r.index && !r.dead then
      { r with used := x.nextUse, heldBy := if gone.contains r.index then [(c.inst, c.tag)] else [] }
    else r

/-- Read the pages of a blob (R138, R441): false when one is uncorrectable or poisoned. A command issues no further page read
after such a page. -/
def State.readBlob (s : State) (i t f : Nat) : List Nat → Bool × State
  | [] => (true, s)
  | p :: ps =>
    match s.readPage f p with
    | (.clean, s) => s.readBlob i t f ps
    | (.correctable _, s) => (s.modCmd i t fun c => { c with corrected := true }).readBlob i t f ps
    | (_, s) => (false, s)

/-- Read the blob of one key that must be loaded (R138): false when the command ends with SOURCE_POISONED. -/
def State.loadKey (s : State) (c : Cmd) (k : Key) : Bool × State :=
  match s.readBlob c.inst c.tag (hHome k.handle) k.pages with
  | (true, s) => (true, s)
  | (false, s) =>
    if bit k.attr aPersistent then (true, (s.restoreKey k).modCmd c.inst c.tag fun c => { c with corrected := true })
    else (false, s.quarantine k.handle)

/-- Read the blobs of several keys; false at the first that cannot be read. -/
def State.loadKeys (s : State) (c : Cmd) : List Key → Bool × State
  | [] => (true, s)
  | k :: ks =>
    match s.loadKey c k with
    | (true, s) => s.loadKeys c ks
    | r => r

/-- The command's twin check passes, and the command's entry after it (R110, R487). -/
def State.markTwin (s : State) (c : Cmd) : State := s.modCmd c.inst c.tag fun c => { c with twinPassed := c.twinned }

/-- A physical fault that strikes this command as its row says (log entry 10): the status it ends with, if it can strike. -/
def hitStatus (d : Desc) (s : State) (c : Cmd) (h : Hit) : Option Status :=
  match h with
  | .none => none
  | .twin => if c.twinned then some .faultDetected else none
  | .granary => if d.granary s c then some .internalError else none
  | .loop =>
    if [0x0301, 0x0310].contains (basicOp c.op) || (basicOp c.op == 0x0410 && !bit (byteAt c.params 8) 2) ||
        (basicOp c.op == 0x0910 && tClass (c.key (c.p 0 6)).type == 2) then some .internalError else none
  | .blob => none
  | .desc _ => none
  | .result =>
    if [0x0210, 0x0211, 0x0310, 0x0402, 0x0403, 0x0410, 0x0412, 0x0420, 0x0901, 0x0902, 0x0903, 0x0904, 0x0920, 0x0C02].contains (basicOp c.op) ||
        (basicOp c.op == 0x0101 && bits (byteAt c.params 0) 6 4 == 7) then some .faultDetected else none
  | .stream => if basicOp c.op == 0x0220 then some .faultDetected else none
  | .tally => some .faultDetected

/-- A partial write to a KEYS page is refused (R442): every handle whose descriptor or blob lies on it is quarantined, a persistent one is
rewritten from Granary. -/
def State.losePage (s : State) (f p : Nat) : State :=
  (s.keys.filter fun k => hHome k.handle == f && (k.descPage == p || k.pages.contains p)).foldl (fun s k =>
    if bit k.attr aPersistent then s.restoreKey k else s.quarantine k.handle) s

/-- The pages a commit writes partially are read and decoded (R442, R443): false at the first that is uncorrectable or poisoned, which is
logged and refused; a correctable one is repaired. -/
def State.checkWrites (s : State) (i t : Nat) : List (Nat × Nat) → Bool × State
  | [] => (true, s)
  | (f, p) :: ps =>
    match s.readPage f p with
    | (.clean, s) => s.checkWrites i t ps
    | (.correctable _, s) => (s.modCmd i t fun c => { c with corrected := true }).checkWrites i t ps
    | (.poisoned, s) => (false, (s.log f 45 3 i (toBE 4 p ++ [0])).losePage f p)
    | (.uncorrectable, s) => (false, s.losePage f p)

/-- Foreground writes advance VERSION (R439, R442). -/
def State.writePages (s : State) (ps : List (Nat × Nat)) : State :=
  ps.foldl (fun s w =>
    let pg := s.pageOf w.1 w.2
    s.modField w.1 fun x => x.putPage { pg with version := (pg.version + 1) % 65536 }) s

/-- A merge image commits (R442, R445): a full one as a full-page write, another as a partial write; a refused one is discarded and every
outstanding command that wrote into it ends with DEST_POISONED. -/
def State.commitMerge (s : State) (f : Nat) (m : Merge) : State :=
  let drop := fun (s : State) => s.modField f fun x => { x with merge := x.merge.filter (·.page != m.page) }
  if m.valid ≥ 2048 then
    let pg := s.pageOf f m.page
    drop (s.modField f fun x => x.putPage { pg with poison := false, errors := 0, badNumber := false, version := (pg.version + 1) % 65536 })
  else
    let last := m.writers.getLastD (0, 0)
    match s.checkWrites last.1 last.2 [(f, m.page)] with
    | (true, s) => drop (s.writePages [(f, m.page)])
    | (false, s) => m.writers.foldl (fun s w => s.complete w.1 w.2 { status := .destPoisoned }) (drop s)

/-- MEM_WRMODE makes the page's region a MERGE region (R437). -/
def State.mergesPage (s : State) (f p : Nat) : Bool := settingByte 16 (s.settingF 0x11) (s.pageOf f p).region == 2

/-- A full-page write clears POISON and needs no read (R442). -/
def State.fullWrite (s : State) (f p : Nat) : State :=
  let pg := s.pageOf f p
  s.modField f fun x => x.putPage { pg with poison := false, errors := 0, badNumber := false, version := (pg.version + 1) % 65536 }

/-- A partial write of n bytes to a MERGE page enters the page's image; a new one, where all 64 are live, waits until the least recently
written has committed; a full one commits (R445). -/
def State.enterMerge (s : State) (i t f p n : Nat) : State :=
  let now := (s.field f).merge.foldl (fun k m => max k (m.order + 1)) 0
  match (s.field f).merge.find? (·.page == p) with
  | some m =>
    let m' := { m with valid := m.valid + n, writers := m.writers.filter (· != (i, t)) ++ [(i, t)], order := now }
    let s := s.modField f fun x => { x with merge := x.merge.map fun y => if y.page == p then m' else y }
    if m'.valid ≥ 2048 then s.commitMerge f m' else s
  | none =>
    let s := if (s.field f).merge.length < 64 then s
      else match (s.field f).merge.foldl (fun b m => match b with
          | none => some m
          | some x => if m.order < x.order then some m else b) none with
        | some m => s.commitMerge f m
        | none => s
    s.modField f fun x => { x with merge := x.merge ++ [{ page := p, valid := n, writers := [(i, t)], order := now }] }

/-- A command's write of n bytes of one page (R442, R445): false where it is refused. -/
def State.pageWrite (s : State) (i t f p n : Nat) : Bool × State :=
  if n ≥ 2048 then (true, s.fullWrite f p)
  else if s.mergesPage f p then (true, s.enterMerge i t f p n)
  else match s.checkWrites i t [(f, p)] with
    | (true, s) => (true, s.writePages [(f, p)])
    | (false, s) => (false, s)

/-- A command flushes every live image it wrote into before its reply is staged (R446). -/
def State.flushMerges (s : State) (i t : Nat) : State :=
  s.fieldNums.foldl (fun s f => (((s.field f).merge.filter fun m => m.writers.contains (i, t))).foldl (fun s m => s.commitMerge f m) s) s

/-- Every image of a field commits: entry to FALLOW (R446). -/
def State.flushField (s : State) (f : Nat) : State := (s.field f).merge.foldl (fun s m => s.commitMerge f m) s

/-- The descriptor pages of the next k keys of a field (R121, R125): 32 descriptors to a page. -/
def State.newPages (s : State) (f : Nat) : Nat → List Nat → Nat → List (Nat × Nat)
  | 0, _, _ => []
  | k + 1, taken, last =>
    match nextFree last homeEntries 0xFFF (s.field f).uses taken with
    | none => []
    | some i => (f, i / 32) :: s.newPages f k (i :: taken) i

/-- The descriptor pages a command that creates k keys on its field writes. -/
def State.descPages (s : State) (c : Cmd) (k : Nat) : List (Nat × Nat) :=
  let f := c.field.getD 0
  s.newPages f k (s.takenKeys f) (s.field f).lastIndex

/-- A draw as it crosses Plolys port 0 to the upper field of a twin pair (R303): wrapped under the key "STEEP TWIN", whose KDF has the empty
context (log entry 119). -/
def State.crossing (s : State) (c : Cmd) (drawn : Bytes) : Bytes :=
  if c.field2.isNone || drawn.isEmpty then []
  else std (ceilDiv drawn.length 8 * 8 + 8) .aesKeyWrap [kdfCounter (s.kek c.fld) (ascii "STEEP TWIN") [] 32, drawn]

/-- From the commit point on (R107): the draw, a fault if one strikes, the check of R443, else the effect and the reply. -/
def commit (d : Desc) (h : Hit) (s : State) (c : Cmd) : State :=
  let f := c.field.getD s.pkg.headland
  let s := if d.reseed s c then s.modField f fun x => { x with seed := x.seed.reseed } else s
  let (bytes, s) := match d.draw s c with
    | none => (([] : Bytes), s)
    | some n => if n == 0 then ([], s) else s.steep f n (d.reqs s c)
  match hitStatus d s c h with
  | some x =>
    let s := d.spoil s { c with drawn := bytes }
    let (b, s) := if h == .granary then s.fresh 3 else ([], s)
    let s := if h == .granary then d.torn (s.log f 48 13 c.inst b) c else s
    let s := if h == .stream then s.quarantine (num c.params 2 6) else s
    s.complete c.inst c.tag { status := x } (h == .twin)
  | none =>
    let s := s.modCmd c.inst c.tag fun e => { e with drawn := bytes, stage := .running, crossed := s.crossing c bytes }
    let s := s.markTwin c
    let ws := (d.writes s c).eraseDups
    match s.checkWrites c.inst c.tag ws with
    | (false, s) => (d.spoil s { c with drawn := bytes }).complete c.inst c.tag { status := .destPoisoned }
    | (true, s) =>
      match d.body (s.writePages ws) { c with drawn := bytes, stage := .running, twinPassed := c.twinned } with
      | (s, some r) => (s.flushMerges c.inst c.tag).complete c.inst c.tag r
      | (s, none) => s

/-- A blob that cannot be read leaves the randomness and the leaves of its command consumed (R108, R138). -/
def consume (d : Desc) (s : State) (c : Cmd) : State :=
  d.spoil (match d.draw s c with
    | none => s
    | some n => if n == 0 then s else (s.steep (c.field.getD s.pkg.headland) n (d.reqs s c)).2) c

/-- The secret keys a command has the use of. -/
def Desc.secret (d : Desc) (s : State) (c : Cmd) : List Key := c.keys.filter fun k => !tPublic k.type && d.secrets s c

/-- A key is not resident on every field where the command seats it (R136). -/
def Cmd.coldKey (c : Cmd) (s : State) (k : Key) : Bool :=
  (k.seatsOn (c.fields s)).any fun f => !(s.field f).slots.any fun r => r.index == hIndex k.handle && !r.dead

/-- The fields on which a command seats keys. -/
def Cmd.seatFields (c : Cmd) (s : State) (ks : List Key) : List Nat :=
  (c.fields s ++ ks.flatMap fun k => k.seatsOn (c.fields s)).eraseDups

/-- The slots of a command's secret keys on each of those fields, if they can all be found (R136, R137). -/
def Desc.homes (d : Desc) (s : State) (c : Cmd) : Option (List (Nat × List Resident)) :=
  (c.seatFields s (d.secret s c)).mapM fun f =>
    (s.takeSlots c f ((d.secret s c).filter fun k => (k.seatsOn (c.fields s)).contains f)).map fun rs => (f, rs)

/-- The keys whose blobs the command reads: the secret ones that are not resident, and the public halves it uses (R138). -/
def Desc.loads (d : Desc) (s : State) (c : Cmd) : List Key :=
  (d.secret s c).filter (c.coldKey s) ++ c.keys.filter (fun k => tPublic k.type && d.secrets s c) ++ d.reads s c

/-- The command has begun: its keys are in the slots (R136, R180). -/
def Desc.begunState (d : Desc) (s : State) (c : Cmd) (homes : List (Nat × List Resident)) : State :=
  (homes.foldl (fun s p => s.modField p.1 fun x => x.beginOn c.inst c.tag p.2) s).modCmd c.inst c.tag fun e =>
    { e with begun := true, keyLoaded := e.keyLoaded || !((d.secret s c).filter (c.coldKey s)).isEmpty }

/-- The wrap or the tag of a blob the command has loaded fails (R127). MCE_ENCAPS reads its public half without the tag (R219). -/
def Desc.blobFails (d : Desc) (h : Hit) (s : State) (c : Cmd) : Bool :=
  h == .blob && (d.loads s c).any fun k => !(basicOp c.op == 0x0220 && tPublic k.type)

/-- A signing command of a consumable key that the command names was admitted before it and has still to commit: it holds the later ones
(R196). -/
def State.leafBehind (s : State) (c : Cmd) : Bool :=
  s.cmds.any fun d => basicOp d.op == 0x0802 && d.checked && !d.isDone && d.number < c.number && c.keys.any fun k => k.handle == num d.params 0 6

/-- From the load of the keys on: the turn of a consumable key (R196), any wait of the command's own or, under HARDENED, the wait of acre work
for its leaf streams (R482), which a latched Seedbed ends (R308), the wait of a command that hashes for its Winnow contexts (R250), then the commit point. -/
def begin (d : Desc) (h : Hit) (s : State) (c : Cmd) : State :=
  if c.mode .hardened && opAcre c.op && !(c.fields s).all (s.leafUp c) then
    if (c.fields s).any fun f => (s.field f).seed.state == .latched then s.complete c.inst c.tag { status := .rngFault }
    else s.modCmd c.inst c.tag fun c => { c with stage := .waitLeaf }
  else if s.leafBehind c then s.modCmd c.inst c.tag fun c => { c with stage := .waitCache }
  else match d.wait s c with
  | some w => (d.onWait s c).modCmd c.inst c.tag fun c => { c with stage := w }
  | none =>
    if s.hashWaits c then (s.hashQueues c).modCmd c.inst c.tag fun c => { c with stage := .waitCtx }
    else commit d h (s.hashServed c) c

/-- The slots found, the blobs are read and the keys seated; then what follows, unless the command has ended. A key whose blob fails enters no
slot (R127, R138). -/
def seated (d : Desc) (h : Hit) (s : State) (c : Cmd) (homes : List (Nat × List Resident)) (go : State → State) : State :=
  let fails := d.blobFails h s c
  match s.loadKeys c (d.loads s c) with
  | (false, x) => (consume d x c).complete c.inst c.tag { status := .sourcePoisoned }
  | (true, x) =>
    if fails then (consume d x c).complete c.inst c.tag { status := .faultDetected }
    else
      let x := d.onStart ((homes.foldl (fun s p => s.modField p.1 fun x => x.beginOn c.inst c.tag p.2) x).modCmd c.inst c.tag fun e =>
        { e with begun := true, keyLoaded := e.keyLoaded || !((d.secret s c).filter (c.coldKey s)).isEmpty }) c
      if (x.cmd? c.inst c.tag).any (!·.isDone) then go x else x

/-- After step 13: slots and blobs, once; then what follows the load. -/
def afterRandom (d : Desc) (h : Hit) (s : State) (c : Cmd) : State :=
  if c.begun then begin d h s c
  else
    match d.homes s c with
    | none => s.modCmd c.inst c.tag fun c => { c with stage := .waitSlots }
    | some homes => seated d h s c homes fun s => begin d h s c

/-- The command names a secret key that is not resident where it is to be (R307). -/
def Cmd.namesCold (c : Cmd) (s : State) : Bool := c.keys.any fun k => !tPublic k.type && c.coldKey s k

/-- The requests a command makes of Whisk, in the order it makes them, each with its kind and its class (R284): key loads and the wrap of a
twin's draw, images to be read, what it computes, the blob it seals, images to be written. -/
def Desc.whiskAll (d : Desc) (s : State) (c : Cmd) : List (Nat × Nat) :=
  let draws := (d.draw s c).any (· != 0)
  (if c.namesCold s || c.twinWrap draws then [(0, 1)] else []) ++ (if c.imageIn then [(1, 3)] else []) ++
    (if c.whiskComputes then [(2, 4)] else []) ++ (if c.seals || d.seals s c then [(3, 2)] else []) ++ (if c.imageOut then [(4, 3)] else [])

/-- Those of its requests that it has still to make. -/
def Desc.whiskReqs (d : Desc) (s : State) (c : Cmd) : List (Nat × Nat) := (d.whiskAll s c).filter fun r => c.whiskAt ≤ r.1

/-- No request of a field's Whisk queue goes before one of class k where it is not in the queue: a lower class first, and within a
class first come, first served (R284). -/
def FieldSt.whiskTurn (x : FieldSt) (i t k : Nat) : Bool :=
  let other := fun (w : Nat × Nat × Nat) => w.2 != (i, t)
  let before := x.whisk.takeWhile other
  let mine := x.whisk.drop before.length
  let k := (mine.head?.map (·.1)).getD k
  before.all (fun w => k < w.1) && mine.all fun w => k ≤ w.1

/-- A command's request leaves Whisk's queue. -/
def FieldSt.offWhisk (x : FieldSt) (i t : Nat) : FieldSt := { x with whisk := x.whisk.filter fun w => w.2 != (i, t) }

/-- Of a command's requests those Whisk has still to serve on a field: each that is served makes way for the next, which comes to the end of
the queue. -/
def FieldSt.whiskLeft (x : FieldSt) (i t : Nat) : List (Nat × Nat) → List (Nat × Nat)
  | [] => []
  | r :: rs => if x.whiskTurn i t r.2 then (x.offWhisk i t).whiskLeft i t rs else r :: rs

/-- The requests of a command that its fields' Whisks have still to serve: the longest rest. -/
def State.whiskLeft (s : State) (c : Cmd) (rs : List (Nat × Nat)) : List (Nat × Nat) :=
  (c.fields s).foldl (fun b f =>
    let l := (s.field f).whiskLeft c.inst c.tag rs
    if b.length < l.length then l else b) []

/-- The leaf streams a command needs run on its fields, and one that a Whisk engine takes its masks from where it needs Whisk (R157, R285,
R305). -/
def State.streamsUp (s : State) (c : Cmd) (acres whisk : Bool) : Bool :=
  (c.fields s).all fun f => (!acres || s.leafUp c f) && (!whisk || s.whiskUp f)

/-- A command's next request waits in the queues of its fields (R284); none where there is none. -/
def State.queueWhisk (s : State) (c : Cmd) (left : List (Nat × Nat)) : State :=
  let s := (c.fields s).foldl (fun s f => s.modField f fun x =>
    match left with
    | [] => x.offWhisk c.inst c.tag
    | r :: _ =>
      if c.whiskAt == r.1 && x.whisk.any (fun w => w.2 == (c.inst, c.tag)) then x
      else let y := x.offWhisk c.inst c.tag; { y with whisk := y.whisk ++ [(r.2, c.inst, c.tag)] }) s
  s.modCmd c.inst c.tag fun e => { e with whiskAt := (left.head?.map (·.1)).getD 5 }

/-- Step 13 on the command's fields: Steep for what draws, runs masked or names a key that is not resident (R307), leaf streams for masked work
and for Whisk (R157, R285, R303, R305). The routine of a customer opcode makes it through its gates (R381). -/
def Desc.randomness (d : Desc) (s : State) (c : Cmd) : Random :=
  let draws := (d.draw s c).any (· != 0)
  if isCustomer c.op then .there
  else
    s.random c (opNeedsRng s c.op c.params || draws || c.namesCold s)
      (d.streams s c && s.streamsUp c c.onAcres (c.furrowAes || !(d.whiskAll s c).isEmpty))

/-- A furrow of acre 0 or 1 whose leaf stream runs is idle: masked AES of order 3 takes it (R285). Each such computation takes a step of its own,
so that no more than two run at once. -/
def State.furrowFree (s : State) (f : Nat) : Bool := [0, 1].any fun a => ((s.field f).leaf.getD a {}).running && !((s.field f).idle a).isEmpty

/-- Step 13 (R104, R307): held, refused, or on. What comes next waits for Whisk (R284), for a furrow (R285) and for Steep's pool (R302). -/
def stepThirteen (d : Desc) (h : Hit) (s : State) (c : Cmd) : State :=
  match d.randomness s c with
  | .there =>
    let left := if c.begun then [] else s.whiskLeft c (d.whiskReqs s c)
    let s := s.queueWhisk c left
    if !left.isEmpty then s.modCmd c.inst c.tag fun c => { c with stage := .waitWhisk }
    else if c.furrowAes && !(c.fields s).all s.furrowFree then s.modCmd c.inst c.tag fun c => { c with stage := .waitAcre }
    else if (d.draw s c).any (· != 0) && s.steepStalls (c.field.getD s.pkg.headland) (d.reseed s c) (d.reqs s c) c.queued then s.waitForPool c
    else afterRandom d h (s.modCmd c.inst c.tag fun e => { e with queued := 0 }) c
  | .fault => s.complete c.inst c.tag { status := .rngFault }
  | .hold =>
    if bit c.flags 1 then s.complete c.inst c.tag { status := .entropyPending }
    else s.modCmd c.inst c.tag fun c =>
      { c with stage := match c.stage with | .waitRng t => .waitRng t | _ => .waitRng s.clock.time, held := true, queued := 0 }

/-- A command that Headland carries out runs twinned where it uses a TWIN_REQUIRED key under TWINNED, on two acres of Headland's field (R132;
log entry 103). -/
def Cmd.headTwin (c : Cmd) (ks : List Key) : Bool := c.field.isNone && c.mode .twinned && ks.any fun k => bit k.attr aTwinRequired

/-- The DMAC of one of the named handles' descriptors fails when it is read from its page: the entry is quarantined (R126). -/
def State.spoilDesc (s : State) (c : Cmd) (hs : List Nat) (h : Hit) : State :=
  match h with
  | .desc k =>
    match hs[k]?.bind s.keyAt with
    | none => s
    | some k => if (s.field (c.reader s)).descCache.contains (hIndex k.handle) then s else s.quarantine k.handle
  | _ => s

/-- Steps 7 to 12 (R101, R102): the command ends, or it goes on with its keys read. -/
def judged (d : Desc) (h : Hit) (s : State) (c : Cmd) : State × Option Cmd :=
  match firstFail (d.pre s c) with
  | some x => (s.complete c.inst c.tag { status := x }, none)
  | none =>
    let hs := d.keys s c
    let s := hs.foldl (fun s k => s.readDesc c k) (s.spoilDesc c hs h)
    let ks := hs.filterMap (s.key? c.inst)
    let c := { c with keys := ks, corrected := (s.cmd? c.inst c.tag).any (·.corrected) }
    match firstFail (d.first s c ++ s.keyChecks c hs ++ d.nine s c ++ s.commonChecks c ks ++ d.post s c) with
    | some x => ((d.onRefuse s c x).complete c.inst c.tag { status := x }, none)
    | none =>
      let twin := c.headTwin ks
      ((d.onPass (s.modCmd c.inst c.tag fun e =>
        { e with keys := ks, order := s.orderOf c, checked := true, started := true, twinned := e.twinned || twin, twinLocal := e.twinLocal || twin,
                 hashAt := (d.head c).getD 0, hashBlock := d.absorbs c }) c).absorbSegment c.inst c.tag,
       some { c with order := s.orderOf c, checked := true, started := true, twinned := c.twinned || twin, twinLocal := c.twinLocal || twin })

/-- Steps 7 to 12, then step 13. -/
def checks (d : Desc) (h : Hit) (s : State) (c : Cmd) : State :=
  match judged d h s c with
  | (s, none) => s
  | (s, some c) => stepThirteen d h s c

/-- Step 13 and the key load of a command that stages output as its segments come (R267): it goes on to receive, and tries again while randomness,
Whisk or slots are not there. -/
def startStream (d : Desc) (h : Hit) (s : State) (c : Cmd) : State :=
  if c.begun || !d.early then s
  else
    match d.randomness s c with
    | .fault => s.complete c.inst c.tag { status := .rngFault }
    | .hold =>
      if bit c.flags 1 then s.complete c.inst c.tag { status := .entropyPending }
      else s.modCmd c.inst c.tag fun c => { c with held := true }
    | .there =>
      let left := s.whiskLeft c (d.whiskReqs s c)
      let s := s.queueWhisk c left
      if !left.isEmpty then s
      else
        match d.homes s c with
        | none => s
        | some homes => seated d h s c homes id

/-- A streaming command is dispatched at segment 0 (R80): steps 7 to 12 are judged once the part of its block they read has
arrived; the bytes still to come count as present. -/
def judgeHead (d : Desc) (h : Hit) (s : State) (c : Cmd) : State :=
  match s.xfers.find? (fun x => x.inst == c.inst && x.tag == c.tag) with
  | none => s
  | some x =>
    let got := x.staged.drop 10
    let all := { c with params := got ++ List.replicate (x.tlen - 10 - got.length) 0 }
    if c.checked then startStream d h s all
    else
      match d.head { c with params := got } with
      | none => s
      | some n =>
        if got.length < n then s
        else
          match judged d h (s.modCmd c.inst c.tag fun e => { e with params := got }) all with
          | (s, none) => s
          | (s, some c) => startStream d h s c

/-- A field of a command has no microcode thread for it (R366): all are taken, or a command dispatched before it waits for one. -/
def State.noThread (s : State) (c : Cmd) : Bool :=
  let none := fun (f : Nat) => s.threadsUsed f ≥ 64 || s.cmds.any fun d =>
    d.stage == .waitThread && d.number < c.number && (d.field == some f || d.field2 == some f)
  c.field.any none || c.field2.any none

/-- Take an outstanding command as far as it goes now. A command waits for a microcode thread before step 7 (R366); one
whose execution is in progress has its body called again. -/
def advance (d : Desc) (h : Hit) (s : State) (c : Cmd) : State :=
  match c.stage with
  | .done _ => s
  | .receiving => if s.noThread c then s else judgeHead d h s c
  | .running =>
    match d.body s c with
    | (s, some r) => (s.flushMerges c.inst c.tag).complete c.inst c.tag r
    | (s, none) => s
  | _ =>
    if c.checked then stepThirteen d h s c
    else if !d.turn s c then s
    else if s.noThread c then
      s.modCmd c.inst c.tag fun c => { c with stage := .waitThread }
    else checks d h s c

/-- The frame that a record of a row stands for can reach Headland (log entry 5): its port is up, the part is past INERT, and its instance
exists and is not being reset (R45, R72, R508). -/
def State.hearsRec (s : State) (r : CmdRec) : Bool :=
  s.hostUp r.ctx.port && s.pkg.run != .inert && (s.inst? r.inst).any fun i => i.resetting.isNone

/-- Run one command row: an admitted record goes on from where it stands; another is admitted here first, as the sole record
of an accepted frame (log entry 5), after a Headland failover that is under way (R38). -/
def runCommand (d : Desc) (r : CmdRec) (s : State) : State :=
  if r.admitted then
    match s.cmd? r.inst r.tag with
    | some c => if basicOp c.op == d.op then advance d r.hit s c else s
    | none => s
  else if !s.hearsRec r then s
  else if s.pkg.failover then s.modPkg fun p => { p with buffered := p.buffered ++ [.record d.op r] }
  else
    match s.takeIn (Rec.of d.op r) with
    | (false, s') => s'
    | (true, s') =>
      match s'.cmd? r.inst r.tag with
      | some c => advance d r.hit s' c
      | none => s'

end Sys2Proof.Machine
end

