-- ==== Sys2Proof/Machine/KeyOps.lean ====
section
/-! DEFINITION. What every command that creates, checks or destroys keys shares: type codes, lengths, creation,
destruction (R120 to R151). -/
namespace Sys2Proof.Machine

/-- n of a class 3 set: 16, 24 or 32 (FIPS 205). -/
def slhN (set : Nat) : Nat := if set % 6 < 2 then 16 else if set % 6 < 4 then 24 else 32

/-- n of a class 4 set (R190). -/
def statefulN (set : Nat) : Nat := if set % 2 == 0 then 32 else 24

/-- Type code, bit 7 aside, is listed (R124, R190). -/
def typeAssigned (t : Nat) : Bool :=
  match tClass t with
  | 0 => !tPublic t && tSet t ≤ 4
  | 1 => tSet t ≤ 2
  | 2 => tSet t ≤ 2
  | 3 => tSet t ≤ 11
  | 4 => tSet t ≤ 11
  | 5 => tSet t ≤ 9
  | 6 => tSet t == 0
  | _ => tSet t ≤ 6

/-- SIZE suits the type (R124). -/
def sizeOk (t size : Nat) : Bool :=
  if tClass t == 0 && tSet t == 4 then 16 ≤ size && size ≤ 128
  else if tClass t == 6 then 2048 ≤ size && size ≤ 8192 && size % 256 == 0
  else size == 0

/-- Length of the encoded secret its standard fixes (R144); none where the encoding has no fixed length (R554). -/
def secretLen (t size : Nat) : Option Nat :=
  match tClass t with
  | 0 => some ([16, 24, 32, 32, size].getD (tSet t) 0)
  | 1 => some ([1632, 2400, 3168].getD (tSet t) 0)
  | 2 => some ([2560, 4032, 4896].getD (tSet t) 0)
  | 3 => some (4 * slhN (tSet t))
  | 4 => none
  | 5 => some ([6492, 13608, 13932, 13948, 14120].getD (tSet t / 2) 0)
  | 6 => none
  | _ => some ([32, 48, 66, 32, 56, 32, 57].getD (tSet t) 0)

/-- Length of an HSS or XMSS public key: L and the LMS key, or OID, root and SEED (RFC 8554, RFC 8391). -/
def statefulPubLen (set : Nat) : Nat := if set < 4 then 28 + statefulN set else 4 + 2 * statefulN set

/-- Length of the public encoding. An RSA public key is E in 4 bytes and N (R226; log entry 16). -/
def publicLen (t size : Nat) : Nat :=
  match tClass t with
  | 1 => [800, 1184, 1568].getD (tSet t) 0
  | 2 => [1312, 1952, 2592].getD (tSet t) 0
  | 3 => 2 * slhN (tSet t)
  | 4 => statefulPubLen (tSet t)
  | 5 => [261120, 524160, 1044992, 1047319, 1357824].getD (tSet t / 2) 0
  | 6 => 4 + size / 8
  | _ => [65, 97, 133, 32, 56, 32, 57].getD (tSet t) 0

/-- Room an RSA private key is given at step 12, before its DER is known (log entry 16). -/
def rsaRoom (size : Nat) : Nat := 5 * size / 8

/-- Blob length of a secret of L bytes, header included (R127). -/
def secretBlob (l : Nat) : Nat := 24 + 8 * ceilDiv l 8

/-- Blob length of a public half of L bytes, header and tag included; class 1 adds H(ek) (R127, R161). -/
def publicBlob (t size : Nat) : Nat := 32 + publicLen t size + if tClass t == 1 then 32 else 0

/-- Blob length of a private or symmetric key to be made (R142 step 12). -/
def plannedBlob (t size : Nat) : Nat := secretBlob ((secretLen t size).getD (rsaRoom size))

/-- The public values a public half's blob adds: H(ek) for class 1 (R161). -/
def pubExtra (t : Nat) (pk : Bytes) : Bytes := if tClass t == 1 then digestOf 0x12 32 pk else []

/-- Descriptor bytes 38 to 45 of a class 5 public half: the stream tag T under a key derived from the KEK with the label
"SILO PKSTREAM" and the handle as context (R219). The polynomial of the hash is the part's own (log entry 11). -/
def State.streamTag (s : State) (h : Nat) (pk : Bytes) : Bytes :=
  std 8 .pkStream [kdfCounter (s.kek (hHome h)) (ascii "SILO PKSTREAM") (toBE 6 h) 32, pk] ++ List.replicate 10 0

/-- The key a leaf record's MAC is computed under (R198). The rule gives the KDF's label and no context: it is empty (log entry 119; DESIGN
CHOICE). -/
def State.leafKey (s : State) (f : Nat) : Bytes := kdfCounter (s.kek f) (ascii "SILO LEAF") [] 32

/-- The bytes of a leaf record its MAC covers (R198). -/
def LeafRec.bytes (r : LeafRec) (h : Nat) : Bytes :=
  toBE 6 h ++ toBE 8 r.hwm ++ toBE 8 r.wseq ++ toBE 2 r.block ++ toBE 1 (r.w90.toNat + 2 * r.w99.toNat) ++ List.replicate 7 0

/-- A leaf record with its MAC (R198). -/
def State.macLeaf (s : State) (h : Nat) (r : LeafRec) : LeafRec :=
  { r with mac := (std 16 .aesCmac [s.leafKey (hHome h), r.bytes h]).take 8 }

/-- A write of a leaf record goes to the slot after the last one written, of 64 (R198). -/
def Stored.write (x : Stored) (r : LeafRec) : Stored :=
  { x with slots := x.slots.filter (·.1 != x.nextSlot) ++ [(x.nextSlot, r)], nextSlot := (x.nextSlot + 1) % 64 }

/-- The Granary copy of a key that is created, with the first leaf record of a consumable one (R134, R198): in slot 0 with WSEQ 1 (log entry
120; DESIGN CHOICE). -/
def State.firstRecord (s : State) (k : Key) : Stored :=
  match k.leaf with
  | none => { key := k }
  | some l => ({ key := k } : Stored).write (s.macLeaf k.handle { hwm := l.hwm, block := l.block })

/-- What a new key is to be. -/
structure NewKey where
  type : Nat
  attr : Nat
  origin : Nat
  size : Nat := 0
  body : Bytes
  ext : Bytes := []
  leaf : Option Leaf := none

/-- A secret that a command creates is written into sealed slots of the executing field (R139) and stays resident (R137). Where no
slots can be freed for it, it is created without. -/
def State.slotNew (s : State) (c : Cmd) (f : Nat) (k : Key) : State :=
  if tPublic k.type then s
  else
    match (s.field f).seat f ((c.keys.map fun j => hIndex j.handle) ++ s.reserved c f) [k] with
    | some rs => s.modField f fun x => x.reseat rs
    | none => s

/-- Create a key for a command on a field (R121, R125, R134): the next index, its descriptor, its blob pages and, when
PERSISTENT, its Granary copy. at0 is where its handle stands in the results, if there (R118). -/
def State.addKey (s : State) (c : Cmd) (f : Nat) (at0 : Option Nat) (k : NewKey) : Nat × State :=
  match s.newHandle c.inst f with
  | none => (0, s)
  | some (h, i) =>
    let px := if tPublic k.type then pubExtra k.type k.body else []
    let blob : Key := { handle := h, type := k.type, dbg := s.debugBit, attr := k.attr, origin := k.origin, size := k.size,
                        created := s.clock.time, ext := k.ext, body := k.body, pubx := px, descPage := i / 32, leaf := k.leaf }
    let blob := if k.type / 0x10 == 0xD then { blob with ext := s.streamTag h k.body } else blob
    let (ps, s) := s.allocPages f (pagesFor blob.blobLen) 1 c.inst
    let key := s.sealKey { blob with pages := ps }
    let s := s.modField f fun x => { x with lastIndex := i, uses := useBump x.uses i }
    let s := ({ s with keys := s.keys ++ [key] } : State).slotNew c f key
    let per := bit k.attr aPersistent
    let rec0 : Stored := s.firstRecord key
    let s := if per then s.modGran fun g => { g with keys := g.keys ++ [rec0] } else s
    (h, s.modCmd c.inst c.tag fun e => { e with made := e.made ++ at0.toList.map (fun o => (o, h)), durable := e.durable || per })

/-- A descriptor's PAIR changes, and its DMAC with it (R125, R143). -/
def State.pairKey (s : State) (p : Nat) (k : Key) : Key :=
  let k := { k with pair := p }
  { k with dmac := s.dmacOf k }

/-- Make the two halves of a pair name each other (R143). -/
def State.pairUp (s : State) (a b : Nat) : State :=
  let g := fun (k : Stored) => if k.key.handle == a then { k with key := s.pairKey b k.key }
    else if k.key.handle == b then { k with key := s.pairKey a k.key } else k
  ((s.modKey a (s.pairKey b)).modKey b (s.pairKey a)).modGran fun r => { r with keys := r.keys.map g }

/-- Create a transient generic secret that holds a secret output (R140, R156); its handle is the first result. -/
def State.addSecret (s : State) (c : Cmd) (f : Nat) (attr : Nat) (body : Bytes) : Nat × State :=
  s.addKey c f (some 0) { type := 0x04, attr := attr, origin := 4, size := body.length, body := body }

/-- Free the blob pages of a key; those that a command past step 10 has still to read stay until it has ended (R150, R151, R223). -/
def State.freeBlob (s : State) (k : Key) : State :=
  if s.readsKey k.handle then
    s.modField (hHome k.handle) fun x => { x with draining := x.draining ++ [(k.handle, k.pages)] }
  else s.freePages (hHome k.handle) k.pages

/-- Free a key's entry, blob pages, Granary copy, leaf record and unreserved residents; the other half's PAIR becomes null
(R150). -/
def State.destroyKey (s : State) (h : Nat) : State :=
  match s.keys.find? (fun k => k.handle == h) with
  | none => s
  | some k =>
    let s := s.freeBlob k
    let s := s.freeCache k
    let cut := s.pairKey 0
    let s := { s with keys := (s.keys.filter (fun (x : Key) => x.handle != h)).map fun (x : Key) => if x.pair == h then cut x else x }
    let s := s.modGran fun g => { g with keys := (g.keys.filter (fun (x : Stored) => x.key.handle != h)).map fun (x : Stored) =>
      if x.key.pair == h then { x with key := cut x.key } else x }
    (s.modFields fun (x : FieldSt) =>
      { x with descCache := x.descCache.filter (· != hIndex h), keyCache := x.keyCache.map fun (q : List Nat) => q.filter (· != h) }).unseat
        (hIndex h)

/-- A key an installed SA or MACsec SA uses (R150). -/
def State.keyInUse (s : State) (h : Nat) : Bool :=
  s.sas.any (fun a => a.key == h) || s.ports.any (fun p => p.sas.any (fun a => a.key == h))

/-- Step 12 for keys to be created on the executing field: total blob bytes, and the Granary bytes of the persistent ones. -/
def State.noRoom (s : State) (c : Cmd) (k b : Nat) (persistent : List Nat := []) : Bool :=
  let f := c.field.getD 0
  !s.roomKeys c f k b || (!persistent.isEmpty && !s.roomPersistent f persistent)

/-- Granary bytes of a key of a blob length (R134). -/
def granaryBytes (blob : Nat) : Nat := 64 * ceilDiv (64 + blob) 64

/-- The command was admitted outside OPERATIONAL, where commands of OPERATIONAL alone have no effect (R98, R421, R459). -/
def Cmd.notOperational (c : Cmd) : Bool := c.runAt != .operational

/-- The key a handle names is missing its use bit (R128). -/
def Cmd.lacks (c : Cmd) (h use : Nat) : Bool := !bit (c.key h).attr use

/-! ### Children of IKE SAs (R392, R394) -/

/-- A field of the TK_OPEN block's variable part: the lengths of ID, CERT, TMPLOUT, TMPLIN, TS and MSG. -/
def openLens (p : Bytes) : List Nat := [num p 48 2, num p 50 2, byteAt p 52, byteAt p 53, num p 54 2, num p 56 3]

/-- The part of the TK_OPEN block's variable part with a place: 0 ID, 1 CERT, 2 TMPLOUT, 3 TMPLIN, 4 TS, 5 MSG. -/
def openPart (p : Bytes) (i : Nat) : Bytes := slice p (62 + ((openLens p).take i).sum) ((openLens p).getD i 0)

/-- A rekeying that this side began is under way. -/
def Ike.rekeying (k : Ike) : Bool := k.asked == 36 && !k.request.isEmpty

/-- The charges of an IKE SA (R392): two SAs or two keys for each child, one in the making included, and never fewer than TK_OPEN's two. -/
def Ike.recharge (k : Ike) : Ike :=
  let n := 2 * max 1 (k.children.length + k.rekeying.toNat)
  if k.flag 0 then { k with chargedSas := n } else { k with chargedKeys := n }

/-- A child without a half; a child that has lost both is retired, and its charge released (R392). -/
def Ike.lose (k : Ike) (h : Nat) : Ike :=
  let gone := fun (x : Nat) => if x == h then 0 else x
  let cs := (k.children.map fun (x : Child) => { x with hIn := gone x.hIn, hOut := gone x.hOut }).filter fun x => x.hIn != 0 || x.hOut != 0
  { k with children := cs }.recharge

/-- The owner has retired an SA or destroyed a key that is half a child of an IKE SA. -/
def State.loseHalf (s : State) (install : Bool) (h : Nat) : State :=
  { s with ikes := s.ikes.map fun (k : Ike) =>
      if k.flag 0 == install && k.children.any (fun x => x.hIn == h || x.hOut == h) then k.lose h else k }

end Sys2Proof.Machine
end

