-- ==== Sys2Proof/Machine/Shapes.lean ====
section
/-! DEFINITION. Shapes of consumable keys (R190 to R193, R205, R206): families, type codes of the cited standards, heights,
lengths and the structure of an HSS signature. The LMS, LM-OTS and OID numbers are those of RFC 8554, RFC 8391 and SP 800-208 (log
entry 22). -/
namespace Sys2Proof.Machine

/-- The set is an HSS/LMS set (R190). -/
def isHss (set : Nat) : Bool := set < 4

/-- The LMS type code of a height code (1 to 5) in a set. -/
def lmsCode (set hc : Nat) : Nat := [0x05, 0x0A, 0x0F, 0x14].getD set 0 + hc - 1

/-- The LM-OTS type code of an LM-OTS code (1 to 4) in a set. -/
def otsCode (set wc : Nat) : Nat := [0x01, 0x05, 0x09, 0x0D].getD set 0 + wc - 1

/-- The height an LMS type code gives, if it is one of the set's. -/
def lmsHeight (set code : Nat) : Option Nat :=
  if lmsCode set 1 ≤ code && code ≤ lmsCode set 5 then some (5 * (code - lmsCode set 1 + 1)) else none

/-- p of an LM-OTS code (R205). -/
def otsChains (n wc : Nat) : Nat := if n == 32 then [0, 265, 133, 67, 34].getD wc 0 else [0, 200, 101, 51, 26].getD wc 0

/-- p of an LM-OTS type code, if it is one of the set's. -/
def otsP (set code : Nat) : Option Nat :=
  if otsCode set 1 ≤ code && code ≤ otsCode set 4 then some (otsChains (statefulN set) (code - otsCode set 1 + 1)) else none

/-- The OID of an XMSS or XMSS^MT key by SHAPE byte 0 and LEVELS. -/
def xmssOid (set shape levels : Nat) : Nat :=
  if set < 8 then [0x01, 0x0D, 0x10, 0x13].getD (set - 4) 0 + shape / 16 - 1
  else [0x00, 0x20, 0x28, 0x30].getD (set - 8) 0 +
    (if shape / 16 == 1 then (if levels == 2 then 1 else 2) else if levels == 2 then 3 else if levels == 4 then 4 else 5)

/-- The pairs of LEVELS and SHAPE byte 0 an XMSS or XMSS^MT set permits (R191). -/
def xmssShapes (set : Nat) : List (Nat × Nat) :=
  if set < 8 then [(1, 0x10), (1, 0x20), (1, 0x30)] else [(2, 0x10), (4, 0x10), (2, 0x20), (4, 0x20), (8, 0x20)]

/-- The LEVELS and SHAPE byte 0 an OID stands for in a set, if it is permitted (R193). -/
def oidShape (set oid : Nat) : Option (Nat × Nat) := (xmssShapes set).find? fun p => xmssOid set p.2 p.1 == oid

/-- Heights of the levels, top first (R191). -/
def levelHeights (set levels : Nat) (shape : Bytes) : List Nat :=
  if isHss set then (shape.take levels).map fun b => 5 * (b.toNat / 16)
  else if set < 8 then [[0, 10, 16, 20].getD (byteAt shape 0 / 16) 0]
  else List.replicate levels ((if byteAt shape 0 / 16 == 1 then 20 else 40) / levels)

/-- LEVELS and SHAPE are one of *Shape encoding* and the total height is at most 40 (R191). -/
def shapeOk (set levels : Nat) (shape : Bytes) : Bool :=
  if isHss set then
    1 ≤ levels && levels ≤ 8 &&
      (shape.take levels).all (fun b => 1 ≤ b.toNat / 16 && b.toNat / 16 ≤ 5 && 1 ≤ b.toNat % 16 && b.toNat % 16 ≤ 4) &&
      allZero (shape.drop levels) && (levelHeights set levels shape).sum ≤ 40
  else (xmssShapes set).contains (levels, byteAt shape 0) && allZero (shape.drop 1)

/-- LIFE (R191). -/
def shapeLife (set levels : Nat) (shape : Bytes) : Nat := 2 ^ (levelHeights set levels shape).sum

/-- Descriptor bytes 38 to 55 (R192). -/
def shapeExt (levels : Nat) (shape : Bytes) (life : Nat) : Bytes := toBE 1 levels ++ fit 8 shape ++ [0] ++ toBE 8 life

/-- Size of the traversal cache (R209). -/
def cacheSize (set levels : Nat) (shape : Bytes) : Nat :=
  let hs := levelHeights set levels shape
  let n := statefulN set
  (hs.map fun h => 2 ^ (h + 1) * n).sum + if levels ≥ 2 then 2 ^ ((hs.getLast?).getD 0 + 1) * n else 0

/-- Length of an LMS signature (R205). -/
def lmsSigLen (n p h : Nat) : Nat := 12 + n * (p + 1) + h * n

/-- Length of an XMSS or XMSS^MT signature (R205). -/
def xmssSigLen (set levels shape : Nat) : Nat :=
  let n := statefulN set
  let len := if n == 32 then 67 else 51
  if set < 8 then 4 + n + (len + [0, 10, 16, 20].getD (shape / 16) 0) * n
  else
    let h := if shape / 16 == 1 then 20 else 40
    ceilDiv h 8 + n + levels * (len + h / levels) * n

/-- The encoding of a class 4 public key is one of its type (R193). -/
def statefulPubOk (set : Nat) (b : Bytes) : Bool :=
  if isHss set then
    1 ≤ num b 0 4 && num b 0 4 ≤ 8 && (lmsHeight set (num b 4 4)).isSome && (otsP set (num b 8 4)).isSome
  else (oidShape set (num b 0 4)).isSome

/-- Descriptor bytes 38 to 55 of a loaded class 4 public half: what its encoding gives (R192); the SHAPE bytes below the top of
an HSS key are zero, and so is LIFE where the heights below the top are not known. -/
def loadedShape (set : Nat) (b : Bytes) : Bytes :=
  if isHss set then
    let top := toBE 1 ((num b 4 4 - lmsCode set 1 + 1) * 16 + (num b 8 4 - otsCode set 1 + 1))
    shapeExt (num b 0 4) top (if num b 0 4 == 1 then shapeLife set 1 top else 0)
  else
    match oidShape set (num b 0 4) with
    | none => List.replicate 18 0
    | some (l, sh) => shapeExt l (toBE 1 sh) (shapeLife set l (toBE 1 sh))

/-- The structure of an HSS signature fits (R206), from a level whose public key has the LMS and LM-OTS type codes given, with
below levels under it: the signature repeats the codes, q lies in the tree, and the bytes are used up exactly. -/
def hssFits (set : Nat) : Nat → Nat → Nat → Bytes → Bool
  | below, lms, ots, b =>
    match lmsHeight set lms, otsP set ots with
    | some h, some p =>
      let n := statefulN set
      let l := lmsSigLen n p h
      b.length ≥ l && num b 0 4 < 2 ^ h && num b 4 4 == ots && num b (8 + n + p * n) 4 == lms &&
        (match below with
          | 0 => b.length == l
          | k + 1 => b.length ≥ l + 24 + n && hssFits set k (num b l 4) (num b (l + 4) 4) (b.drop (l + 24 + n)))
    | _, _ => false

/-- An HSS signature is well formed against a public key (R206): Nspk is L − 1 and every level fits. -/
def hssOk (set : Nat) (pk sig : Bytes) : Bool :=
  sig.length ≥ 4 && num sig 0 4 + 1 == num pk 0 4 && hssFits set (num sig 0 4) (num pk 4 4) (num pk 8 4) (sig.drop 4)

end Sys2Proof.Machine
end

