-- ==== Sys2Proof/Machine/Encodings.lean ====
section
/-! DEFINITION. The standard encodings of keys and what a load checks of them (R144, R160, R168, R185, R222, R226, R233, R554), and the key
generations that make them. Layouts are those of the cited standards; what a standard computes beyond its hashes is opaque (log entry 11). -/
namespace Sys2Proof.Machine

/-! ### Elliptic values (R154, R168, R233) -/

/-- Length of a public value by curve: P-256, P-384, P-521, X25519, X448, Ed25519, Ed448, as the sets of class 7. -/
def ecPubLen (curve : Nat) : Nat := [65, 97, 133, 32, 56, 32, 57].getD curve 0

/-- The prime of a NIST curve. -/
def ecPrime (curve : Nat) : Nat :=
  match curve with
  | 0 => 2 ^ 256 - 2 ^ 224 + 2 ^ 192 + 2 ^ 96 - 1
  | 1 => 2 ^ 384 - 2 ^ 128 - 2 ^ 96 + 2 ^ 32 - 1
  | _ => 2 ^ 521 - 1

/-- Orders n of P-256, P-384 and P-521. -/
def ecOrder (curve : Nat) : Nat :=
  match curve with
  | 0 => 0xFFFFFFFF00000000FFFFFFFFFFFFFFFFBCE6FAADA7179E84F3B9CAC2FC632551
  | 1 => 0xFFFFFFFFFFFFFFFFFFFFFFFFFFFFFFFFFFFFFFFFFFFFFFFFC7634D81F4372DDF581A0DB248B0A77AECEC196ACCC52973
  | _ => 0x01FFFFFFFFFFFFFFFFFFFFFFFFFFFFFFFFFFFFFFFFFFFFFFFFFFFFFFFFFFFFFFFFFFFA51868783BF2F966B7FCC0148F709A5D03BB5C9B8899C47AEBB6FB71E91386409

/-- b of the curve equation y² = x³ − 3x + b (SP 800-186). -/
def ecB (curve : Nat) : Nat :=
  match curve with
  | 0 => 0x5AC635D8AA3A93E7B3EBBD55769886BC651D06B0CC53B0F63BCE3C3E27D2604B
  | 1 => 0xB3312FA7E23EE7E4988E056BE3F82D19181D9C6EFE8141120314088F5013875AC656398D8A2ED19D2A85C8EDD3EC2AEF
  | _ => 0x0051953EB9618E1C9A1F929A21A0B68540EEA2DA725B99B315F3B8B489918EF109E156193951EC7E937B1652C0BD3BB1BF073573DF883D2C34F1EF451FD46B503F00

/-- A point of a NIST curve satisfies its equation. -/
def ecOnCurve (curve x y : Nat) : Bool :=
  let p := ecPrime curve
  (y * y + 3 * x) % p == (x * x * x + ecB curve) % p

/-- b to the power e modulo m, by the bits of e; fuel is their number. -/
def powMod (m : Nat) : Nat → Nat → Nat → Nat
  | 0, _, _ => 1 % m
  | k + 1, b, e => (if e % 2 == 1 then b else 1) * powMod m k (b * b % m) (e / 2) % m

/-- v is a square modulo the prime p of the given bit length, zero included. -/
def isSquare (p len v : Nat) : Bool := v % p == 0 || powMod p len (v % p) ((p - 1) / 2) == 1

/-- An Edwards encoding (RFC 8032) is canonical and on the curve x² = u / v: y below p, u · v a square, and no sign on x = 0. -/
def edwardsOk (p len y u v : Nat) (sign : Bool) : Bool := y < p && isSquare p len (u * v) && !(u % p == 0 && sign)

/-- The u-coordinates of the two points of order 8 of Curve25519. -/
def orderEight : List Nat :=
  [325606250916557431795983626356110631294008115727848805560023387167927233504,
   39382357235489614581723060781553021112529911719440698176882885853963445705823]

/-- A public value passes validation (R168, R233). -/
def ecPointOk (curve : Nat) (b : Bytes) : Bool :=
  match curve with
  | 3 =>
    let u := leNat b % 2 ^ 255 % (2 ^ 255 - 19)
    u != 0 && u != 1 && u != 2 ^ 255 - 20 && !orderEight.contains u
  | 4 =>
    let p := 2 ^ 448 - 2 ^ 224 - 1
    let u := leNat b % p
    u != 0 && u != 1 && u != p - 1
  | 5 =>
    let p := 2 ^ 255 - 19
    let y := leNat b % 2 ^ 255
    let d := 37095705934669439343138083508754565189542113879843219016388785533085940283555
    edwardsOk p 255 y (y * y + p - 1) (d * (y * y) + 1) (bit (byteAt b 31) 7)
  | 6 =>
    let p := 2 ^ 448 - 2 ^ 224 - 1
    let y := leNat b % 2 ^ 455
    edwardsOk p 448 y (y * y + p - 1) ((p - 39081) * (y * y) + p - 1) (bit (byteAt b 56) 7)
  | _ =>
    let l := (ecPubLen curve - 1) / 2
    let x := num b 1 l
    let y := num b (1 + l) l
    byteAt b 0 == 0x04 && x < ecPrime curve && y < ecPrime curve && ecOnCurve curve x y

/-- The private scalar or seed of a draw: the extra-random-bits method of FIPS 186-5 for the NIST curves (R164, R235), the draw itself
otherwise. -/
def ecScalar (curve : Nat) (draw : Bytes) : Bytes :=
  if curve ≤ 2 then toBE ([32, 48, 66].getD curve 0) (beNat draw % (ecOrder curve - 1) + 1) else draw

/-- The public value of a private scalar or seed. -/
def ecPublicOf (curve : Nat) (sk : Bytes) : Bytes := std (ecPubLen curve) (.ecPublic curve) [sk]

/-! ### ML-KEM (FIPS 203) -/

/-- k of an ML-KEM set. -/
def kemK (set : Nat) : Nat := set + 2

/-- Every 12-bit coefficient of ByteEncode12 is below 3,329: the modulus check (R160). -/
def kemModOk : Bytes → Bool
  | a :: b :: c :: rest => a.toNat + 256 * (b.toNat % 16) < 3329 && b.toNat / 16 + 16 * c.toNat < 3329 && kemModOk rest
  | _ => true

/-- An encapsulation key passes the modulus check (R160). -/
def kemEkOk (set : Nat) (ek : Bytes) : Bool := kemModOk (ek.take (384 * kemK set))

/-- A decapsulation key: dk_PKE, ek, H(ek) and z. -/
def kemDkPke (set : Nat) (dk : Bytes) : Bytes := dk.take (384 * kemK set)

/-- The embedded ek. -/
def kemDkEk (set : Nat) (dk : Bytes) : Bytes := slice dk (384 * kemK set) (384 * kemK set + 32)

/-- The hash held in dk. -/
def kemDkHash (set : Nat) (dk : Bytes) : Bytes := slice dk (768 * kemK set + 32) 32

/-- z. -/
def kemDkZ (set : Nat) (dk : Bytes) : Bytes := slice dk (768 * kemK set + 64) 32

/-- A decapsulation key passes the three checks of R160. -/
def kemDkOk (set : Nat) (dk : Bytes) : Bool :=
  kemModOk (kemDkPke set dk) && kemEkOk set (kemDkEk set dk) && digestOf 0x12 32 (kemDkEk set dk) == kemDkHash set dk

/-- ML-KEM key generation from d ‖ z: dk and ek. -/
def kemPair (set : Nat) (seed : Bytes) : Bytes × Bytes :=
  let ek := std (384 * kemK set + 32) (.kemKeygen set) [seed.take 32, [1]]
  (std (384 * kemK set) (.kemKeygen set) [seed.take 32, [0]] ++ ek ++ digestOf 0x12 32 ek ++ seed.drop 32, ek)

/-! ### ML-DSA (FIPS 204) -/

/-- (k, l) of an ML-DSA set. -/
def dsaKL (set : Nat) : Nat × Nat := [(4, 4), (6, 5), (8, 7)].getD set (4, 4)

/-- η of an ML-DSA set. -/
def dsaEta (set : Nat) : Nat := if set == 1 then 4 else 2

/-- The bits of a byte string, least significant first. -/
def bitsOf (b : Bytes) : List Bool := b.flatMap fun x => (List.range 8).map fun i => x.getLsbD i

/-- Every w-bit field of a bit string is at most max; fuel is the number of fields. -/
def fieldsAtMost (w max : Nat) : Nat → List Bool → Bool
  | 0, _ => true
  | k + 1, b => (b.take w).foldr (fun x n => 2 * n + x.toNat) 0 ≤ max && fieldsAtMost w max k (b.drop w)

/-- Bytes of s1 and s2 in a private key. -/
def dsaShort (set : Nat) : Nat := ((dsaKL set).1 + (dsaKL set).2) * 32 * (if dsaEta set == 4 then 4 else 3)

/-- t1 and t0, Power2Round of A · s1 + s2, encoded: the standard's. -/
def dsaT (set : Nat) (rho short : Bytes) : Bytes × Bytes :=
  (std (320 * (dsaKL set).1) (.mldsaKeygen set) [rho, short, [1]], std (416 * (dsaKL set).1) (.mldsaKeygen set) [rho, short, [0]])

/-- A private key passes the three checks of R160: s1 and s2 in [−η, η], t0, and tr = H(ρ ‖ t1). -/
def dsaSkOk (set : Nat) (sk : Bytes) : Bool :=
  let short := slice sk 128 (dsaShort set)
  let t := dsaT set (sk.take 32) short
  fieldsAtMost (if dsaEta set == 4 then 4 else 3) (2 * dsaEta set) (((dsaKL set).1 + (dsaKL set).2) * 256) (bitsOf short) &&
    t.2 == sk.drop (128 + dsaShort set) && digestOf 0x22 64 (sk.take 32 ++ t.1) == slice sk 64 64

/-- ML-DSA key generation from ξ: private and public key. -/
def dsaPair (set : Nat) (seed : Bytes) : Bytes × Bytes :=
  let h := digestOf 0x22 128 (seed ++ toBE 1 (dsaKL set).1 ++ toBE 1 (dsaKL set).2)
  let rho := h.take 32
  let short := std (dsaShort set) (.mldsaKeygen set) [slice h 32 64]
  let t := dsaT set rho short
  let pk := rho ++ t.1
  (rho ++ h.drop 96 ++ digestOf 0x22 64 pk ++ short ++ t.2, pk)

/-! ### SLH-DSA (FIPS 205) -/

/-- PK.root of SK.seed and PK.seed. -/
def slhRoot (set : Nat) (skSeed pkSeed : Bytes) : Bytes := std (slhN set) (.slhKeygen set) [skSeed, pkSeed]

/-- The PK.root held in a private key is the one recomputed (R185). -/
def slhSkOk (set : Nat) (sk : Bytes) : Bool :=
  let n := slhN set
  slhRoot set (sk.take n) (slice sk (2 * n) n) == slice sk (3 * n) n

/-- slh_keygen from SK.seed ‖ SK.prf ‖ PK.seed (R185). -/
def slhPair (set : Nat) (seed : Bytes) : Bytes × Bytes :=
  let n := slhN set
  let root := slhRoot set (seed.take n) (slice seed (2 * n) n)
  (fit (3 * n) seed ++ root, slice seed (2 * n) n ++ root)

/-! ### Classic McEliece (round 4) -/

/-- m and t of a class 5 set. -/
def mceMT (set : Nat) : Nat × Nat := [(12, 64), (13, 96), (13, 128), (13, 119), (13, 128)].getD (set / 2) (12, 64)

/-- Every 2-byte field element, little-endian, is below 2^m. -/
def mceElementsOk (m : Nat) : Bytes → Bool
  | a :: b :: rest => a.toNat + 256 * b.toNat < 2 ^ m && mceElementsOk m rest
  | _ => true

/-- The private key δ ‖ c ‖ g ‖ α ‖ s passes the checks of R222: the t coefficients of g below its leading 1, which the encoding leaves out, lie
in the field; c has the format of its set, 2^32 − 1, or 32 ones for the f sets. -/
def mceSkOk (set : Nat) (sk : Bytes) : Bool :=
  let c := slice sk 32 8
  mceElementsOk (mceMT set).1 (slice sk 40 (2 * (mceMT set).2)) &&
    (if set % 2 == 0 then leNat c == 2 ^ 32 - 1 else (bitsOf c).countP (· = true) == 32)

/-- Every row of a 6960119 public key has zero padding bits: k rows of 677 bytes, the top three bits of each last byte (R222). -/
def mceRowsOk : Nat → Bytes → Bool
  | 0, _ => true
  | k + 1, b => byteAt b 676 < 32 && mceRowsOk k (b.drop 677)

/-! ### RSA (PKCS #1, R554) -/

/-- A DER length's header in octets. -/
def derHead (b : Bytes) : Nat := if byteAt b 1 < 128 then 2 else 2 + (byteAt b 1 - 128)

/-- The value length of a DER element. -/
def derValue (b : Bytes) : Nat := if byteAt b 1 < 128 then byteAt b 1 else num b 2 (byteAt b 1 - 128)

/-- Length of a DER SEQUENCE, header included, as its outer header declares it (R554). -/
def derLen (b : Bytes) : Nat := derHead b + derValue b

/-- The element has a tag, and its length is in the shortest form, as DER wants it. -/
def derTagged (tag : Nat) (b : Bytes) : Bool :=
  byteAt b 0 == tag && (byteAt b 1 < 128 || (byteAt b 1 > 128 && byteAt b 2 != 0 && derValue b ≥ 128 && derLen b ≤ b.length))

/-- The k non-negative INTEGERs, each in its shortest form, that a byte string spells exactly. -/
def derInts : Nat → Bytes → Option (List Nat)
  | 0, b => if b.isEmpty then some [] else none
  | k + 1, b =>
    let v := slice b (derHead b) (derValue b)
    if derTagged 0x02 b && v.length == derValue b && v != [] && byteAt v 0 < 128 && !(byteAt v 0 == 0 && v.length > 1 && byteAt v 1 < 128) then
      (derInts k (b.drop (derLen b))).map fun xs => beNat v :: xs
    else none

/-- An RSAPrivateKey passes the checks of R554: two primes and version 0, n of SIZE bits, e odd from 3 to 2^32 − 1, n = p · q, and dP, dQ
and qInv consistent with p, q and e. -/
def rsaDerOk (size : Nat) (b : Bytes) : Bool :=
  derTagged 0x30 b && derLen b == b.length &&
    match derInts 9 (b.drop (derHead b)) with
    | some [v, n, e, _, p, q, dp, dq, qinv] =>
      v == 0 && 2 ^ (size - 1) ≤ n && n < 2 ^ size && e % 2 == 1 && 3 ≤ e && e < 2 ^ 32 && n == p * q && 1 < p && 1 < q &&
        e * dp % (p - 1) == 1 % (p - 1) && e * dq % (q - 1) == 1 % (q - 1) && qinv * q % p == 1
    | _ => false

/-- The modulus of an RSAPrivateKey: the second INTEGER of the SEQUENCE. -/
def rsaModulus (b : Bytes) : Nat :=
  let v := b.drop (derHead b)
  let n := v.drop (derHead v + derValue v)
  num n (derHead n) (derValue n)

/-- Octets of a positive number. -/
def octets (v : Nat) : Nat := (Nat.log2 v) / 8 + 1

/-- A DER element. -/
def derElement (tag : Nat) (v : Bytes) : Bytes :=
  toBE 1 tag ++ (if v.length < 128 then toBE 1 v.length else toBE 1 (128 + octets v.length) ++ toBE (octets v.length) v.length) ++ v

/-- A DER INTEGER in its shortest form. -/
def derInt (v : Nat) : Bytes := derElement 0x02 (toBE ((Nat.log2 v + 1) / 8 + 1) v)

/-- The RSAPrivateKey of two primes, e and d, encoded with minimal integers (R554). -/
def rsaDer (p q e d qinv : Nat) : Bytes :=
  derElement 0x30 (derInt 0 ++ derInt (p * q) ++ derInt e ++ derInt d ++ derInt p ++ derInt q ++ derInt (d % (p - 1)) ++ derInt (d % (q - 1)) ++
    derInt qinv)

/-- RSA key generation from its candidates (R235): the primes, d and qInv are the standard's; the private DER and the public encoding, E in
4 bytes and N. -/
def rsaPair (size e : Nat) (seed : Bytes) : Bytes × Bytes :=
  let v := fun (k : Nat) => beNat (Config.std (.rsaKeygen size) [seed, toBE 4 e, toBE 1 k])
  (rsaDer (v 0) (v 1) e (v 2) (v 3), toBE 4 e ++ toBE (size / 8) (v 0 * v 1))

/-! ### Every type -/

/-- The encoding passes the checks of its type's owning chapter (R144, R160, R185, R193, R222, R554). -/
def encodingOk (t size : Nat) (b : Bytes) : Bool :=
  match tPublic t, tClass t with
  | true, 1 => kemEkOk (tSet t) b
  | false, 1 => kemDkOk (tSet t) b
  | false, 2 => dsaSkOk (tSet t) b
  | false, 3 => slhSkOk (tSet t) b
  | true, 4 => statefulPubOk (tSet t) b
  | true, 5 => tSet t / 2 != 3 || mceRowsOk 1547 b
  | false, 5 => mceSkOk (tSet t) b
  | true, 6 => byteAt b 3 % 2 == 1 && num b 0 4 ≥ 3 && bit (byteAt b 4) 7 && byteAt b (3 + size / 8) % 2 == 1
  | false, 6 => rsaDerOk size b
  | true, 7 => ecPointOk (tSet t) b
  | false, 7 => tSet t > 2 || (1 ≤ beNat b && beNat b < ecOrder (tSet t))
  | _, _ => true

/-- The standard key generation of a type from its draw: private and public encodings (R143). -/
def genPair (t size e : Nat) (seed : Bytes) : Bytes × Bytes :=
  match tClass t with
  | 1 => kemPair (tSet t) seed
  | 2 => dsaPair (tSet t) seed
  | 3 => slhPair (tSet t) seed
  | 5 => (std ((secretLen t size).getD 0) (.mceKeygen (tSet t)) [seed, [0]], std (publicLen t size) (.mceKeygen (tSet t)) [seed, [1]])
  | 6 => rsaPair size e seed
  | _ => (ecScalar (tSet t) seed, ecPublicOf (tSet t) (ecScalar (tSet t) seed))

end Sys2Proof.Machine
end

