-- ==== Sys2Proof/Machine/Keys.lean ====
section
/-! DEFINITION. The key commands of page 0x01xx (R141 to R151) and SILO_SLOTS_FREE. -/
namespace Sys2Proof.Machine

/-! ### KEY_GENERATE (R143) -/

/-- Public-half attributes: PUBATTR at the expert level, else the default of R129. -/
def genPubAttr (c : Cmd) : Nat := if c.expert then c.p 8 3 else useDefault (c.p 0 1 + 0x80)

/-- The RSA public exponent: EXPONENT at the expert level, else 65,537. -/
def genExponent (c : Cmd) : Nat := if c.expert then c.p 12 4 else 65537

/-- Candidate values of an RSA key generation, one generate request each (R235, R301); their number is the standard's (log entry 11). -/
def rsaCandidates (size : Nat) : Nat := 2 + Config.num (.rsaKeygen size) []

/-- Steep bytes of a key generation (R176, R185, R222, R235; a symmetric key takes its length, log entry 17). -/
def genDraw (t size : Nat) : Nat :=
  match tClass t with
  | 0 => (secretLen t size).getD 0
  | 1 => 64
  | 2 => 32
  | 3 => 3 * slhN (tSet t)
  | 5 => 32
  | 6 => size / 16 * rsaCandidates size
  | _ => [40, 56, 74, 32, 56, 32, 57].getD (tSet t) 0

/-- Create the pair of a public-key type from a seed: the private half's handle at 0, the public half's at 6. -/
def State.makePair (s : State) (c : Cmd) (t size e attr pubAttr : Nat) (seed : Bytes) : Nat × Nat × State :=
  let ks := genPair t size e seed
  let (h, s) := s.addKey c c.fld (some 0) { type := t, attr := attr, origin := 0, size := size, body := ks.1 }
  let (g, s) := s.addKey c c.fld (some 6) { type := t + 0x80, attr := pubAttr, origin := 0, size := size, body := ks.2 }
  (h, g, s.pairUp h g)

/-- Step 8 of KEY_GENERATE (R142, R143, R134, R193). -/
def genBad (c : Cmd) : Bool :=
  let t := c.p 0 1
  let sym := tClass t == 0
  tPublic t || !typeAssigned t || tClass t == 4 || c.p 1 1 != 0 || c.p 5 1 != 0 || !sizeOk t (c.p 6 2) || !attrOk t (c.p 2 3) ||
  (bit (c.p 2 3) aPersistent && plannedBlob t (c.p 6 2) > 16384) ||
  (if sym then c.expert && c.p 8 3 != 0
    else !attrOk (t + 0x80) (genPubAttr c) ||
      (bit (genPubAttr c) aPersistent && publicBlob t (c.p 6 2) > 16384)) ||
  (c.expert && (badMask (c.p 11 1) || (if tClass t == 6 then c.p 12 4 % 2 == 0 || c.p 12 4 < 65537 else c.p 12 4 != 0)))

/-- Step 12 of KEY_GENERATE. -/
def genRoom (s : State) (c : Cmd) : Bool :=
  let t := c.p 0 1
  let b := plannedBlob t (c.p 6 2)
  let pb := publicBlob t (c.p 6 2)
  let per := (if bit (c.p 2 3) aPersistent then [granaryBytes b] else []) ++
    (if tClass t != 0 && bit (genPubAttr c) aPersistent then [granaryBytes pb] else [])
  if tClass t == 0 then s.noRoom c 1 b per else s.noRoom c 2 (b + pb) per

/-- KEY_GENERATE (R143). -/
def keyGenerateDesc : Desc where
  op := 0x0101
  pre _ c := [(c.len != (if c.expert then 16 else 8), .badLength), (genBad c, .badParameter)]
  post s c := [(c.expert && c.maskLow [] (c.p 11 1), .usageDenied),
    (genRoom s c, .shareExhausted)]
  draw _ c := some (genDraw (c.p 0 1) (c.p 6 2))
  reqs _ c := if tClass (c.p 0 1) == 6 then rsaCandidates (c.p 6 2) else 1
  granary _ c := bit (c.p 2 3) aPersistent || (tClass (c.p 0 1) != 0 && bit (genPubAttr c) aPersistent)
  writes s c := s.descPages c (if tClass (c.p 0 1) == 0 then 1 else 2)
  body s c :=
    let t := c.p 0 1
    if tClass t == 0 then
      let (h, s) := s.addKey c c.fld (some 0) { type := t, attr := c.p 2 3, origin := 0, size := c.p 6 2, body := c.drawn }
      (s, ok (toBE 6 h ++ toBE 6 0))
    else
      let (h, g, s) := s.makePair c t (c.p 6 2) (genExponent c) (c.p 2 3) (genPubAttr c) c.drawn
      (s, ok (toBE 6 h ++ toBE 6 g))

/-- KEY_GENERATE. -/
def execKeyGenerate (r : CmdRec) (s : State) : Host.Outcome State Fault Refusal := .next (runCommand keyGenerateDesc r s)

/-! ### KEY_LOAD and KEY_LOAD_PUBLIC (R144, R554) -/

/-- KEY_LOAD (R144): the staged secret is zeroised once it has been sealed. -/
def keyLoadDesc : Desc where
  op := 0x0102
  pre _ c :=
    let t := c.p 0 1
    let b := c.params.drop 8
    [(c.len < 8 || (typeAssigned t && !tPublic t && sizeOk t (c.p 6 2) &&
        (match secretLen t (c.p 6 2) with
          | some l => c.len != 8 + l
          | none => tClass t == 6 && c.len != 8 + derLen b)), .badLength),
     (tPublic t || !typeAssigned t || tClass t == 4 || c.p 1 1 != 0 || c.p 5 1 != 0 || !sizeOk t (c.p 6 2) ||
       !attrOk t (c.p 2 3) || (bit (c.p 2 3) aPersistent && secretBlob b.length > 16384) || !encodingOk t (c.p 6 2) b, .badParameter)]
  post s c :=
    [(s.settingI c.inst 0x41 != 1 || (s.lc == .production && c.ctx.sci.isNone), .usageDenied),
     (s.noRoom c 1 (secretBlob (c.len - 8)) (if bit (c.p 2 3) aPersistent then [granaryBytes (secretBlob (c.len - 8))] else []),
       .shareExhausted)]
  granary _ c := bit (c.p 2 3) aPersistent
  writes s c := s.descPages c 1
  body s c :=
    let (h, s) := s.addKey c c.fld (some 0) { type := c.p 0 1, attr := c.p 2 3, origin := 1, size := c.p 6 2, body := c.params.drop 8 }
    (s.modCmd c.inst c.tag fun e => { e with params := c.params.take 8 ++ List.replicate (c.len - 8) 0 }, ok (toBE 6 h))

/-- KEY_LOAD. -/
def execKeyLoad (r : CmdRec) (s : State) : Host.Outcome State Fault Refusal := .next (runCommand keyLoadDesc r s)

/-- KEY_LOAD_PUBLIC (R144). -/
def keyLoadPublicDesc : Desc where
  op := 0x0103
  pre _ c :=
    let t := c.p 0 1
    let b := c.params.drop 8
    [(c.len < 8 || (typeAssigned t && tPublic t && sizeOk t (c.p 6 2) && c.len != 8 + publicLen t (c.p 6 2)), .badLength),
     (!tPublic t || !typeAssigned t || c.p 1 1 != 0 || c.p 5 1 != 0 || !sizeOk t (c.p 6 2) || !attrOk t (c.p 2 3) ||
       (bit (c.p 2 3) aPersistent && publicBlob t (c.p 6 2) > 16384) || !encodingOk t (c.p 6 2) b, .badParameter)]
  post s c :=
    let b := publicBlob (c.p 0 1) (c.p 6 2)
    [(s.noRoom c 1 b (if bit (c.p 2 3) aPersistent then [granaryBytes b] else []), .shareExhausted)]
  granary _ c := bit (c.p 2 3) aPersistent
  writes s c := s.descPages c 1
  body s c :=
    let (h, s) := s.addKey c c.fld (some 0)
      { type := c.p 0 1, attr := c.p 2 3, origin := 5, size := c.p 6 2, body := c.params.drop 8,
        ext := if tClass (c.p 0 1) == 4 then loadedShape (tSet (c.p 0 1)) (c.params.drop 8) else [] }
    (s, ok (toBE 6 h))

/-- KEY_LOAD_PUBLIC. -/
def execKeyLoadPublic (r : CmdRec) (s : State) : Host.Outcome State Fault Refusal := .next (runCommand keyLoadPublicDesc r s)

/-! ### KEY_WRAP and KEY_UNWRAP (R145, R146, R149) -/

/-- Header of the external blob (R145). -/
def blobHeader (k : Key) : Bytes := k.blobHead 1

/-- The key-encryption key of an external blob: the KDF of R127 from the wrapping key, label "IXN EXPORT", context the
blob's header. -/
def exportKey (w hd : Bytes) : Bytes := kdfCounter w (ascii "IXN EXPORT") hd 32

/-- KEY_WRAP (R145). -/
def keyWrapDesc : Desc where
  op := 0x0105
  pre _ c := [(c.len != 12, .badLength)]
  keys _ c := [c.p 0 6, c.p 6 6]
  post _ c :=
    let w := c.key (c.p 0 6)
    [(w.type != 0x02 || !bit w.attr aWrap, .usageDenied), (!bit (c.key (c.p 6 6)).attr aExportable, .usageDenied)]
  body s c :=
    let k := c.key (c.p 6 6)
    let hd := blobHeader k
    (s, ok (hd ++ std (8 + 8 * ceilDiv k.body.length 8) .aesKeyWrap [exportKey (c.key (c.p 0 6)).body hd, k.body]))

/-- KEY_WRAP. -/
def execKeyWrap (r : CmdRec) (s : State) : Host.Outcome State Fault Refusal := .next (runCommand keyWrapDesc r s)

/-- The attributes KEY_UNWRAP applies (R146). -/
def unwrapAttr (c : Cmd) : Nat := if c.p 6 3 == 0xFFFFFF then c.p 14 3 else c.p 6 3

/-- Attributes beyond those of the blob (R131, R146): MIN_MASK_ORDER may not fall, restrictions may not be dropped. That REQATTR may add a
restriction the blob's ATTR lacks (TWIN_REQUIRED, SINGLE_FIELD, a higher MIN_MASK_ORDER), as a narrowing, is the model's choice between R131
and R145 (DESIGN CHOICE, log entry 104). -/
def unwrapWidens (blob req : Nat) : Bool := !attrNarrows blob req

/-- The RFC 5649 integrity check of an external blob passes under the unwrapping key (R149). -/
def unwrapOk (c : Cmd) : Bool :=
  Config.test .keyUnwrap [exportKey (c.key (c.p 0 6)).body (slice c.params 12 16), toBE 4 (c.p 20 4), c.params.drop 28]

/-- KEY_UNWRAP (R146, R149): Tally confirms the RFC 5649 integrity check. -/
def keyUnwrapDesc : Desc where
  op := 0x0104
  pre _ c :=
    let t := c.p 13 1
    [(c.len < 28 || c.len - 28 != 8 + 8 * ceilDiv (c.p 20 4) 8 ||
       (!tPublic t && typeAssigned t && sizeOk t (c.p 18 2) && (secretLen t (c.p 18 2)).any (· != c.p 20 4)), .badLength),
     (c.p 9 3 != 0 || c.p 12 1 != 0x01 || c.p 17 1 != 0 || c.p 24 4 != 0 || tPublic t || tClass t == 4 || !typeAssigned t ||
       !sizeOk t (c.p 18 2) || !attrOk t (c.p 14 3) || (c.p 6 3 != 0xFFFFFF && !attrOk t (c.p 6 3)) ||
       (bit (unwrapAttr c) aPersistent && secretBlob (c.p 20 4) > 16384), .badParameter)]
  keys _ c := [c.p 0 6]
  post s c :=
    let w := c.key (c.p 0 6)
    let b := secretBlob (c.p 20 4)
    [(w.type != 0x02 || !bit w.attr aUnwrap, .usageDenied), (unwrapWidens (c.p 14 3) (unwrapAttr c), .usageDenied),
     (s.noRoom c 1 b (if bit (unwrapAttr c) aPersistent then [granaryBytes b] else []), .shareExhausted)]
  granary _ c := bit (unwrapAttr c) aPersistent && unwrapOk c
  writes s c := if unwrapOk c then s.descPages c 1 else []
  body s c :=
    if unwrapOk c then
      let (h, s) := s.addKey c c.fld (some 0)
        { type := c.p 13 1, attr := unwrapAttr c, origin := 2, size := c.p 18 2,
          body := std (c.p 20 4) .aesKeyUnwrap [exportKey (c.key (c.p 0 6)).body (slice c.params 12 16), c.params.drop 28] }
      (s, verdict true (toBE 6 h))
    else (s, verdict false)

/-- KEY_UNWRAP. -/
def execKeyUnwrap (r : CmdRec) (s : State) : Host.Outcome State Fault Refusal := .next (runCommand keyUnwrapDesc r s)

/-! ### KEY_DERIVE (R147, R286 to R288) -/

/-- SIZE of the child: expert only, else 32 for a generic secret. -/
def deriveSize (c : Cmd) : Nat :=
  if c.p 7 1 != 0x04 then (if c.expert then c.tail 2 0 2 else 0) else if c.expert then c.tail 2 0 2 else 32

/-- The derivation (R286, R287). -/
def derive (kdf : Nat) (parent label ctx : Bytes) (n : Nat) : Bytes :=
  match kdf with
  | 1 => kdfCounter parent label ctx n
  | 2 => kdfFeedback parent label ctx n
  | 3 => hkdf 0x02 (if label.isEmpty then List.replicate 32 0 else label) parent ctx n
  | _ => hkdf 0x03 (if label.isEmpty then List.replicate 48 0 else label) parent ctx n

/-- KEY_DERIVE (R147). KDF 1 and 2 take an AES-256 key or a 32-byte secret, KDF 3 and 4 any class 0 key (R286, R287). -/
def keyDeriveDesc : Desc where
  op := 0x0106
  pre _ c :=
    [(c.len < 14 || c.len != 14 + c.p 11 1 + c.p 12 2 + (if c.expert then 2 else 0), .badLength),
     (c.p 6 1 == 0 || c.p 6 1 > 4 || tClass (c.p 7 1) != 0 || !typeAssigned (c.p 7 1) || !sizeOk (c.p 7 1) (deriveSize c) ||
       !attrOk (c.p 7 1) (c.p 8 3) || c.p 11 1 > 64 || c.p 12 2 > 1024, .badParameter)]
  keys _ c := [c.p 0 6]
  post s c :=
    let k := c.key (c.p 0 6)
    let b := plannedBlob (c.p 7 1) (deriveSize c)
    [(!bit k.attr aDerive || tClass k.type != 0 || tPublic k.type || (c.p 6 1 ≤ 2 && k.type != 0x02 && !(k.type == 0x04 && k.size == 32)), .usageDenied),
     (!attrBounded (c.p 8 3) [k], .usageDenied),
     (s.noRoom c 1 b (if bit (c.p 8 3) aPersistent then [granaryBytes b] else []), .shareExhausted)]
  granary _ c := bit (c.p 8 3) aPersistent
  writes s c := s.descPages c 1
  body s c :=
    let t := c.p 7 1
    let n := (secretLen t (deriveSize c)).getD 0
    let (h, s) := s.addKey c c.fld (some 0)
      { type := t, attr := c.p 8 3, origin := 3, size := deriveSize c,
        body := derive (c.p 6 1) (c.key (c.p 0 6)).body (slice c.params 14 (c.p 11 1)) (slice c.params (14 + c.p 11 1) (c.p 12 2)) n }
    (s, ok (toBE 6 h))

/-- KEY_DERIVE. -/
def execKeyDerive (r : CmdRec) (s : State) : Host.Outcome State Fault Refusal := .next (runCommand keyDeriveDesc r s)

/-! ### KEY_DESTROY, KEY_NARROW, KEY_INFO, KEY_EXPORT_PUBLIC (R148, R150, R151) -/

/-- KEY_DESTROY (R150). -/
def keyDestroyDesc : Desc where
  op := 0x0107
  pre _ c := [(c.len != 6, .badLength)]
  keys _ c := [c.p 0 6]
  post s c := [(s.keyInUse (c.p 0 6), .usageDenied)]
  secrets _ _ := false
  granary _ c := bit (c.key (c.p 0 6)).attr aPersistent
  writes _ c := [(hHome (c.p 0 6), (c.key (c.p 0 6)).descPage)]
  body s c :=
    (((s.destroyKey (c.p 0 6)).loseHalf false (c.p 0 6)).modCmd c.inst c.tag fun e => { e with durable := bit (c.key (c.p 0 6)).attr aPersistent }, ok)

/-- KEY_DESTROY. -/
def execKeyDestroy (r : CmdRec) (s : State) : Host.Outcome State Fault Refusal := .next (runCommand keyDestroyDesc r s)

/-- A narrowing sets a use bit the type does not permit, or EXPORTABLE on a public half or a class 4 private key (R129, R556). -/
def narrowBad (k : Key) (a : Nat) : Bool :=
  (bits a 11 0 &&& usePermitted k.type) != bits a 11 0 || (bit a aExportable && (tPublic k.type || tClass k.type == 4))

/-- A key with its attributes narrowed, its blob and descriptor sealed under the new context (R151). -/
def State.narrowed (s : State) (a : Nat) (k : Key) : Key := s.sealKey { k with attr := a }

/-- The pages of a key's blob that its re-sealing writes in part: the last, where the blob does not fill it (R127, R442). -/
def Key.partPages (k : Key) : List (Nat × Nat) :=
  if k.blobLen % 2048 == 0 then [] else (k.pages.getLast?.map fun p => (hHome k.handle, p)).toList

/-- The pages it writes whole. -/
def Key.wholePages (k : Key) : List Nat := if k.blobLen % 2048 == 0 then k.pages else k.pages.dropLast

/-- KEY_NARROW (R130, R151). The spec gives its block a length, 10, and no layout: HANDLE in bytes 0 to 5, ATTR in 6 to 8, and byte 9
reserved and refused when it is not zero (R8), are the model's choice (DESIGN CHOICE, log entry 105). -/
def keyNarrowDesc : Desc where
  op := 0x0108
  pre _ c := [(c.len != 10, .badLength), (c.p 9 1 != 0 || c.p 6 3 ≥ 2 ^ 20 || bits (c.p 6 3) 18 16 > 3, .badParameter)]
  keys _ c := [c.p 0 6]
  nine _ c := [(narrowBad (c.key (c.p 0 6)) (c.p 6 3), .badParameter)]
  post _ c := [(!attrNarrows (c.key (c.p 0 6)).attr (c.p 6 3), .usageDenied)]
  granary _ c := bit (c.key (c.p 0 6)).attr aPersistent
  writes _ c := (hHome (c.p 0 6), (c.key (c.p 0 6)).descPage) :: (c.key (c.p 0 6)).partPages
  body s c :=
    let h := c.p 0 6
    let a := c.p 6 3
    let s := (c.key h).wholePages.foldl (fun s p => s.fullWrite (hHome h) p) s
    let resealed := s.narrowed a
    let s := s.modKey h resealed
    let s := s.modGran fun g => { g with keys := g.keys.map fun k => if k.key.handle == h then { k with key := resealed k.key } else k }
    let s := (s.modFields fun x => { x with descCache := x.descCache.filter (· != hIndex h) }).unseat (hIndex h)
    (s.modCmd c.inst c.tag fun e => { e with durable := bit a aPersistent }, ok (toBE 3 a))

/-- KEY_NARROW. -/
def execKeyNarrow (r : CmdRec) (s : State) : Host.Outcome State Fault Refusal := .next (runCommand keyNarrowDesc r s)

/-- *KEY_INFO* results (R148). -/
def State.keyInfo (s : State) (k : Key) : Bytes :=
  toBE 6 k.handle ++ toBE 1 k.type ++ toBE 1 k.flagsByte ++ toBE 3 k.attr ++ toBE 1 k.origin ++ toBE 2 k.size ++
    toBE 1 (hHome k.handle) ++ toBE 1 ((s.residency k.handle).map (2 ^ ·)).sum ++ toBE 8 k.created ++ toBE 6 k.pair ++
    List.replicate 8 0

/-- KEY_INFO (R148). -/
def keyInfoDesc : Desc where
  op := 0x0109
  pre _ c := [(c.len != 6, .badLength)]
  keys _ c := [c.p 0 6]
  secrets _ _ := false
  body s c := (s, ok (s.keyInfo (c.key (c.p 0 6))))

/-- KEY_INFO. -/
def execKeyInfo (r : CmdRec) (s : State) : Host.Outcome State Fault Refusal := .next (runCommand keyInfoDesc r s)

/-- KEY_EXPORT_PUBLIC (R148). -/
def keyExportPublicDesc : Desc where
  op := 0x010A
  pre _ c := [(c.len != 6, .badLength)]
  keys _ c := [c.p 0 6]
  post _ c := [(!tPublic (c.key (c.p 0 6)).type, .usageDenied)]
  body s c := (s, ok (c.key (c.p 0 6)).body)

/-- KEY_EXPORT_PUBLIC. -/
def execKeyExportPublic (r : CmdRec) (s : State) : Host.Outcome State Fault Refusal := .next (runCommand keyExportPublicDesc r s)

/-- SILO_SLOTS_FREE (R136): the commands that wait for slots on the field are ready to try again. -/
def execSiloSlotsFree (field : Nat) (s : State) : Host.Outcome State Fault Refusal :=
  .next { s with cmds := s.cmds.map fun c =>
    if c.stage == .waitSlots && (c.field == some field || c.field2 == some field) then { c with stage := .dispatched } else c }

end Sys2Proof.Machine
end

