-- ==== Sys2Proof/Machine/Operands.lean ====
section
/-! DEFINITION. Operand forms the cryptographic pages share: public-key operands (R155), secret outputs (R156), pre-hash functions
(R170), elliptic values (R154, R168, R233). -/
namespace Sys2Proof.Machine

/-! ### Public-key operands (R155) -/

/-- The handle field is null, so that the key follows inline. -/
def Cmd.inline (c : Cmd) (off : Nat) : Bool := c.p off 6 == 0

/-- Length of the inline key of an operand of n bytes. -/
def Cmd.inlineLen (c : Cmd) (off n : Nat) : Nat := if c.inline off then n else 0

/-- The public key of an operand: inline at a position, or the body of the key the handle names. -/
def Cmd.pubKey (c : Cmd) (off pos n : Nat) : Bytes := if c.inline off then slice c.params pos n else (c.key (c.p off 6)).body

/-- The handles among some handle fields that are not null. -/
def Cmd.handlesAt (c : Cmd) (offs : List Nat) : List Nat := (offs.map fun o => c.p o 6).filter (· != 0)

/-- The key of a handle is not of a type, or lacks a use bit (step 10). -/
def Cmd.notKey (c : Cmd) (h type use : Nat) : Bool := (c.key h).type != type || c.lacks h use

/-- A public operand given by handle is not of a type, or lacks a use bit (R155, step 10). -/
def Cmd.notPub (c : Cmd) (off type use : Nat) : Bool := !c.inline off && c.notKey (c.p off 6) type use

/-- A seed operand, if given, is not a generic secret of a size with DERIVE (R175). -/
def Cmd.notSeed (c : Cmd) (h size : Nat) : Bool :=
  h != 0 && (c.notKey h 0x04 aDerive || (c.key h).size != size)

/-! ### Secret outputs (R156) -/

/-- SSATTR at the expert level is out of range: use bits a generic secret may not carry, reserved bits, PERSISTENT (R140, R175). -/
def ssBad (a : Nat) : Bool := !attrOk 0x04 a || bit a aPersistent

/-- The attribute word of a secret output: SSATTR, or DERIVE with what R131 makes it inherit. -/
def Cmd.ssAttr (c : Cmd) (given : Nat) : Nat := if c.expert then given else attrInherit 0x10 c.keys

/-- Step 12 for one secret output of n bytes. -/
def State.noSecretRoom (s : State) (c : Cmd) (n : Nat) : Bool := s.noRoom c 1 (secretBlob n)

/-! ### Pre-hash functions (R170) -/

/-- *Pre-hash functions*: the Winnow ALG and the digest length; none for an unassigned number. -/
def preHash (ph : Nat) : Option (Nat × Nat) :=
  match ph with
  | 1 => some (0x02, 32)
  | 2 => some (0x03, 48)
  | 3 => some (0x04, 64)
  | 4 => some (0x12, 32)
  | 5 => some (0x14, 64)
  | 6 => some (0x21, 32)
  | 7 => some (0x22, 64)
  | _ => none

/-- The block of a pre-hash function, in bytes. -/
def phBlock (ph : Nat) : Nat := (hashFn (((preHash ph).map (·.1)).getD 0)).block

/-- The block of the hash a message goes into: that of PH in the form that hashes, else of SHAKE256. -/
def formBlock (form ph : Nat) : Nat := if form % 4 == 1 then phBlock ph else 136

/-- Digest length of a pre-hash function. -/
def phLen (ph : Nat) : Nat := ((preHash ph).map (·.2)).getD 0

/-- The digest of a message under a pre-hash function. -/
def phDigest (ph : Nat) (m : Bytes) : Bytes := digestOf (((preHash ph).map (·.1)).getD 0) (phLen ph) m

/-- Last byte of the object identifier FIPS 204 and FIPS 205 give a pre-hash function. -/
def phOidEnd (ph : Nat) : Byte := [0, 0x01, 0x02, 0x03, 0x08, 0x0A, 0x0B, 0x0C].getD ph 0

/-- The DER-encoded object identifier of a pre-hash function (R170). -/
def phOid (ph : Nat) : Bytes := [0x06, 0x09, 0x60, 0x86, 0x48, 0x01, 0x65, 0x03, 0x04, 0x02, phOidEnd ph]

/-- M′ of forms 0 to 2 (R170, R188): pure, part-hashed, or with the digest supplied. -/
def messageRep (form ph : Nat) (ctx msg : Bytes) : Bytes :=
  let head := fun (b : Byte) => [b] ++ toBE 1 ctx.length ++ ctx
  match form with
  | 0 => head 0 ++ msg
  | 1 => head 1 ++ phOid ph ++ phDigest ph msg
  | _ => head 1 ++ phOid ph ++ msg

/-- PH does not suit FORM (step 8): zero for forms 0 and 3, assigned for forms 1 and 2. -/
def phBad (form ph : Nat) : Bool := if form == 0 || form == 3 then ph != 0 else (preHash ph).isNone

/-! ### ML-DSA verification (R170, R172) -/

/-- µ (R170): the message of form 3, else H(tr ‖ M′, 64), H being SHAKE256. -/
def dsaMu (form ph : Nat) (tr ctx msg : Bytes) : Bytes :=
  if form == 3 then msg else digestOf 0x22 64 (tr ++ messageRep form ph ctx msg)

/-- tr of a public key: H(pk, 64). -/
def dsaTrOf (pk : Bytes) : Bytes := digestOf 0x22 64 pk

/-- An ML-DSA signature of µ verifies. -/
def dsaVerifies (set : Nat) (pk mu sig : Bytes) : Bool := Config.test (.mldsa set) [pk, mu, sig]

/-- A pure ML-DSA signature of a message under a context verifies. -/
def dsaPureOk (set : Nat) (pk ctx msg sig : Bytes) : Bool := dsaVerifies set pk (dsaMu 0 0 (dsaTrOf pk) ctx msg) sig

/-! ### Elliptic curves (R154, R230 to R233) -/

/-- Length of r ‖ s (R230). -/
def ecdsaLen (curve : Nat) : Nat := [64, 96, 132].getD curve 0

/-- Length of an agreed secret (R231). -/
def agreeLen (curve : Nat) : Nat := [32, 48, 66, 32, 56].getD curve 0

/-- Bytes of the nonce draw of ECDSA (R235). -/
def ecdsaDraw (curve : Nat) : Nat := [40, 56, 74].getD curve 0

/-- Inline values of an operand pass validation, if it is inline. -/
def Cmd.badPoint (c : Cmd) (off pos curve : Nat) : Bool := c.inline off && !ecPointOk curve (slice c.params pos (ecPubLen curve))

/-- The ECDSA signature of a digest: r ‖ s (R230). -/
def ecdsaSignature (curve hash : Nat) (det : Bool) (sk digest nonce : Bytes) : Bytes :=
  std (ecdsaLen curve) (.ecdsaSign curve) [sk, digest, nonce, toBE 1 hash, toBE 1 det.toNat]

/-- An ECDSA signature verifies; r or s outside [1, n − 1] fails (R174, R230). -/
def ecdsaVerifies (curve : Nat) (pk digest sig : Bytes) : Bool :=
  let l := ecdsaLen curve / 2
  let r := num sig 0 l
  let v := num sig l l
  1 ≤ r && r < ecOrder curve && 1 ≤ v && v < ecOrder curve && Config.test (.ecdsa curve) [pk, digest, sig]

/-- A signature block of an ML-DSA signature and an ECDSA P-384 one over SHA-384 verifies: both pass (R328, R472). -/
def pairVerifies (set : Nat) (dsaPk ecPk ctx msg sig : Bytes) : Bool :=
  dsaPureOk set dsaPk ctx msg (sig.take (sig.length - 96)) && ecdsaVerifies 1 ecPk (digestOf 0x03 48 msg) (sig.drop (sig.length - 96))

end Sys2Proof.Machine
end

