-- ==== Sys2Proof/Machine/Images.lean ====
section
/-! DEFINITION. What patches, open-region images and furrow images have in common: microwords (R369, R370), signatures
(R328, R464), and the layout checks of patches and open images (R379, R380, R383). -/
namespace Sys2Proof.Machine

/-- Length of a signature block (R328). -/
def sigLen : Nat := 4723

/-- The bytes a signature covers, and the signature block. -/
def signedPart (b : Bytes) : Bytes := b.take (b.length - sigLen)

/-- The signature block of an image. -/
def sigPart (b : Bytes) : Bytes := b.drop (b.length - sigLen)

/-- Uses of an image signature: the context string of R328, R379 and R383. -/
inductive SigUse where
  | saivo | openImage | ucode
deriving DecidableEq, Repr

/-- The context string of the ML-DSA-87 signature. -/
def SigUse.ctx : SigUse → Bytes
  | .saivo => ascii "IXN SAIVO"
  | .openImage => ascii "IXN OPEN"
  | .ucode => ascii "IXN UCODE"

/-- Both signatures of an image's block verify under the Nimvoat image keys (R328). -/
def vendorSigned (u : SigUse) (b : Bytes) : Bool :=
  pairVerifies 2 (Config.vendorKey false false) (Config.vendorKey false true) u.ctx (signedPart b) (sigPart b)

/-- Both signatures of an image's block verify under the image keys of an owner record (R328, R477). -/
def ownerSigned (u : SigUse) (owner b : Bytes) : Bool :=
  pairVerifies 2 (slice owner 0 2592) (slice owner 2592 97) u.ctx (signedPart b) (sigPart b)

/-- An image's signature holds under the keys the life-cycle state admits (R464): vendor keys alone for patches, in every
state; for images, SIGNER 0 vendor and SIGNER 1 owner, in Test and Production. -/
def State.sigOk (s : State) (u : SigUse) (signer : Nat) (b : Bytes) : Bool :=
  match u with
  | .ucode => vendorSigned u b
  | _ =>
    (s.lc == .test || s.lc == .production) && (if signer == 0 then vendorSigned u b else s.gran.owner.any fun o => ownerSigned u o.data b)

/-! ### Microwords -/

/-- Ones among bits of a number. -/
def ones : Nat → Nat → Nat
  | 0, _ => 0
  | k + 1, v => v % 2 + ones k (v / 2)

/-- A microword's parity holds (R370): each 20 bits and their parity bit hold an odd number of ones. -/
def microParityOk (w : Nat) : Bool :=
  (List.range 8).all fun k => (ones 20 (w / 2 ^ (20 * k)) + (bit w (160 + k)).toNat) % 2 == 1

/-- NXT of a microword (R369). -/
def microNxt (w : Nat) : Nat := bits w 159 156

/-- The other fields of a microword (R369). -/
def microFields (w : Nat) : Micro :=
  { addr := bits w 155 142, cond := bits w 141 136, atom := bit w 135, xop := bits w 134 130, xd := bits w 129 125,
    xa := bits w 124 120, xb := bits w 119 115, imm := bits w 114 99, rest := bits w 98 0 }

/-- The filler word: TRAP with correct parity (R370). -/
def fillerWord : Nat := 0xFFF * 2 ^ 156

/-- First word of the open region (R375). -/
def openBase : Nat := 12288

/-- A microword of an open image of n words obeys R380, parity apart. -/
def openMicroOk (n nxt : Nat) (m : Micro) : Bool :=
  nxt ≤ 6 && m.cond ≤ 5 && !m.atom && m.xop ≤ 12 && m.rest == 0 &&
  (if nxt == 1 || nxt == 4 then openBase ≤ m.addr && m.addr < openBase + n
    else if nxt == 2 then (m.addr < 0x40 && m.addr % 8 == 0) || (openBase ≤ m.addr && m.addr < openBase + n) else true)

/-- The same of a word as stored, parity included. -/
def openWordOk (n w : Nat) : Bool := microParityOk w && openMicroOk n (microNxt w) (microFields w)

/-- The 21-byte microwords of a byte string (R369: least significant byte first); fuel is their number. -/
def readMicrowords : Nat → Bytes → List Nat
  | 0, _ => []
  | k + 1, b => leNat (b.take 21) :: readMicrowords k (b.drop 21)

/-! ### Open images (R379) -/

/-- NOPC of an open image. -/
def openNopc (b : Bytes) : Nat := num b 10 2

/-- NWORDS of an open image. -/
def openNwords (b : Bytes) : Nat := num b 12 2

/-- Step 7: the length of an open image. -/
def openLenOk (b : Bytes) : Bool := b.length == 64 + 16 * openNopc b + 21 * openNwords b + sigLen

/-- The opcode entries of an open image. -/
def openEntries (b : Bytes) : List Bytes := (List.range (openNopc b)).map fun k => slice b (64 + 16 * k) 16

/-- The microwords of an open image. -/
def openWords (b : Bytes) : List Nat := readMicrowords (openNwords b) (b.drop (64 + 16 * openNopc b))

/-- An opcode entry obeys *Opcode entry*. -/
def openEntryOk (n : Nat) (e : Bytes) : Bool :=
  0xE000 ≤ num e 0 2 && num e 0 2 ≤ 0xEFFF && openBase ≤ num e 2 2 && num e 2 2 < openBase + n &&
  num e 4 3 ≤ num e 7 3 && num e 7 3 ≤ 16 * 1024 * 1024 - 11 && byteAt e 10 < 16 && 1 ≤ num e 12 2

/-- Step 8: header and opcode entries (R379). -/
def openHeaderOk (b : Bytes) : Bool :=
  slice b 0 4 == [0x49, 0x58, 0x4E, 0x4F] && byteAt b 4 == 1 && byteAt b 5 ≤ 1 && num b 6 3 != 0 && byteAt b 9 == 0 &&
  1 ≤ openNopc b && openNopc b ≤ 256 && 1 ≤ openNwords b && openNwords b ≤ 4096 && allZero (slice b 14 50) &&
  (openEntries b).all (openEntryOk (openNwords b)) && ((openEntries b).map (fun e => num e 0 2)).Nodup

/-- Step 10: signature and R380. -/
def State.openAccepted (s : State) (b : Bytes) : Bool :=
  s.sigOk .openImage (byteAt b 5) b && (openWords b).all (openWordOk (openNwords b))

/-- The image as the control store holds it. -/
def openOf (b : Bytes) : OpenImage := { ident := num b 6 3, entries := openEntries b, words := openWords b, data := b }

/-! ### Patches (R383) -/

/-- NENT of a patch. -/
def patchNent (b : Bytes) : Nat := num b 12 2

/-- NCOST of a patch. -/
def patchNcost (b : Bytes) : Nat := num b 14 2

/-- Step 7: the length of a patch. -/
def patchLenOk (b : Bytes) : Bool := b.length == 64 + 24 * patchNent b + 6 * patchNcost b + sigLen

/-- Microword k of a patch. -/
def patchWord (b : Bytes) (k : Nat) : Nat := leNat (slice b (67 + 24 * k) 21)

/-- Step 8: the header of a patch, its entries' addresses and the reserved bits [9:0] of its microwords (R8, R369). -/
def patchHeaderOk (b : Bytes) : Bool :=
  slice b 0 4 == [0x49, 0x58, 0x4E, 0x50] && byteAt b 4 == 1 && byteAt b 11 == 0 && 1 ≤ patchNent b && patchNent b ≤ 12288 &&
  patchNcost b ≤ 1024 && allZero (slice b 16 48) &&
  (List.range (patchNent b)).all fun k => num b (64 + 24 * k) 2 < openBase && byteAt b (66 + 24 * k) == 0 && patchWord b k % 1024 == 0

/-- Patch level of an image. -/
def patchLevel (b : Bytes) : Nat := num b 8 3

/-- The control-store words of a patch, its entries applied in order: of two for one address the later stands (R384). -/
def patchWords (b : Bytes) : List (Nat × Nat) :=
  ((List.range (patchNent b)).map fun k => (num b (64 + 24 * k) 2, patchWord b k)).reverse

/-- The parity of every microword of a patch. -/
def patchParityOk (b : Bytes) : Bool :=
  (List.range (patchNent b)).all fun k => microParityOk (patchWord b k)

/-- The cost entries of a patch (R382). -/
def patchCost (b : Bytes) : List (Nat × Nat × Nat × Nat) :=
  (List.range (patchNcost b)).map fun k =>
    let o := 64 + 24 * patchNent b + 6 * k
    (num b o 2, byteAt b (o + 2), byteAt b (o + 3), num b (o + 4) 2)

/-- Apply cost entries in order: one replaces an entry of the same opcode and selector (log entry 18). -/
def applyCost (base : List (Nat × Nat × Nat × Nat)) (es : List (Nat × Nat × Nat × Nat)) : List (Nat × Nat × Nat × Nat) :=
  es.foldl (fun t e => t.filter (fun x => !(x.1 == e.1 && x.2.1 == e.2.1 && x.2.2.1 == e.2.2.1)) ++ [e]) base

/-! ### Two-slot records and control stores (R375, R383 to R385) -/

/-- The slot in force: the one with the highest sequence (R383). -/
def slotNow (l : List Slot) : Slot := l.foldl (fun b x => if b.seq < x.seq then x else b) {}

/-- A write goes to the slot not in force, with a sequence one higher than the other's (R383). -/
def slotWrite (l : List Slot) (d : Bytes) : List Slot :=
  let l := (l ++ [({} : Slot), {}]).take 2
  l.set (if (l.getD 0 {}).seq < (l.getD 1 {}).seq then 0 else 1) { data := d, seq := (slotNow l).seq + 1 }

/-- Write the slots of the fields listed. -/
def slotWrites (ls : List (List Slot)) (fs : List Nat) (d : Bytes) : List (List Slot) :=
  ls.zipIdx.map fun p => if fs.contains p.2 then slotWrite p.1 d else p.1

/-- A field that missed a write receives a copy of field 0's slot in force (R383). -/
def slotsCaughtUp (ls : List (List Slot)) : List (List Slot) :=
  let now := slotNow (ls.headD [])
  ls.map fun l => if (slotNow l).seq < now.seq then (l ++ [({} : Slot), {}]).take 2 |>.set (if (l.getD 0 {}).seq < (l.getD 1 {}).seq then 0 else 1) now else l

/-- The open-region words of an image. -/
def OpenImage.store (o : OpenImage) : List (Nat × Nat) := o.words.zipIdx.map fun p => (openBase + p.2, p.1)

/-- A word of a field's control store (R375): written by a patch or an open image, else ROM or the filler. -/
def FieldSt.word (x : FieldSt) (a : Nat) : Nat :=
  ((x.store.find? (·.1 == a)).map (·.2)).getD (if a < openBase then Config.romWord a else fillerWord)

/-- The open region of a field is written and the copy in its program region kept (R385). -/
def FieldSt.putOpen (x : FieldSt) (o : Option OpenImage) : FieldSt :=
  { x with openCopy := o, store := x.store.filter (fun e => e.1 < openBase) ++ (o.map OpenImage.store).getD [] }

/-- The patch a field runs under: the slot of its level, which one stored since replaces only at the next start-up; else the slot in force
(R383, R384; log entry 121). -/
def State.patchOf (s : State) (f : Nat) : Bytes :=
  let l := s.gran.patches.getD f []
  ((l.find? fun x => x.data != [] && patchLevel x.data == (s.field f).patch).getD (slotNow l)).data

/-- The control store a field loads: filler and ROM, then the patch, then the program-region copy of the open image (R372, R384). -/
def State.storeOf (s : State) (f : Nat) : List (Nat × Nat) :=
  (if s.patchOf f == [] || (s.field f).patch == 0 then [] else patchWords (s.patchOf f)) ++ (((s.field f).openCopy.map OpenImage.store).getD [])

/-- The control store of a field is loaded again (R372). -/
def State.reloadStore (s : State) (f : Nat) : State := s.modField f fun x => { x with store := s.storeOf f }

/-- The scrub repairs a word from its source (R374). -/
def State.repairWord (s : State) (f a : Nat) : State :=
  s.modField f fun x => { x with store := x.store.filter (·.1 != a) ++ (s.storeOf f).filter (·.1 == a) }

/-- The patch slot in force verifies at start-up (R383, R384 step 3). -/
def State.patchGood (s : State) (b : Bytes) : Bool :=
  s.sigOk .ucode 0 b && num b 5 3 == s.fuses.ucodeBase && patchParityOk b

end Sys2Proof.Machine
end

