-- ==== Sys2Proof/Machine/Startup.lean ====
section
/-! DEFINITION. Reset and start-up: what a reset clears, the straps, the repair of the life-cycle record, the control store,
the end of self-test and the entry to BOOTSTRAP (R9, R45, R383, R384, R466 to R471, R499 to R508). -/
namespace Sys2Proof.Machine

/-! ### What a reset clears -/

/-- A field with nothing started: every volatile value at its reset value. What its pins see stays: VDD_CORE below 0.75 V and
a stopped REFCLK_SYS. The alarm-cause register is RWS: keep says whether it survives (R9, R497). -/
def FieldSt.cleared (x : FieldSt) (keep sysHeld : Bool) : FieldSt :=
  { ({} : FieldSt) with run := .inert, coreLow := x.coreLow, sysHeld := sysHeld, alarm := if keep then x.alarm else 0, thermal := keep && x.thermal,
                        setPoint := if x.coreLow then 1000 else 1200, fullPoint := if x.coreLow then 1000 else 1200 }

/-- Every volatile value lost (R119, R500): fuses and Granary remain, and so does what the outside world drives. -/
def State.cleared (s : State) (keep : Bool) : State :=
  let fresh : Pkg := { resetN := s.pkg.resetN, railsUp := s.pkg.railsUp, strapPins := s.pkg.strapPins, straps := s.pkg.straps,
                       refSys := s.pkg.refSys, refSd := s.pkg.refSd, brownLow := s.pkg.brownLow }
  { fuses := s.fuses, gran := s.gran, pkg := fresh, insts := [Inst.manager],
    fields := s.fields.map fun x => x.cleared keep (!s.pkg.refSys), tx := s.tx, free := s.free, pending := s.pending }

/-! ### The life-cycle record (R466, R470, R471) -/

/-- A state copy's vote (R466): its state code, if its MAC holds and COUNT matches STATE. -/
def StateCopy.vote (c : StateCopy) : Option LcState :=
  if c.macOk then (LcState.ofCode c.state).filter fun l => l.count == c.count else none

/-- The majority of the voting copies, with at least two votes (R470). -/
def LcRec.majority (r : LcRec) : Option LcState :=
  [LcState.blank, .test, .production, .endOfLife].find? fun l => (r.copies.filter (fun c => c.vote == some l)).length ≥ 2

/-- The intent record is present (R466). -/
def LcRec.intent (r : LcRec) : Bool := r.intentMac && r.intentFrom != 0

/-- Copies A, B and C written with a state, and the intent record cleared (R469 steps 3 to 5). -/
def LcRec.moveTo (r : LcRec) (t : LcState) : LcRec :=
  { fuses := t.count, intentFrom := 0, intentTo := 0, intentWseq := r.intentWseq + 1,
    copies := (List.range 3).map fun k =>
      { state := t.code, count := t.count, wseq := (r.copies.getD k {}).wseq + 1 } }

/-- What *Start-up repair* says of a record (R470). -/
inductive Repair where
  | none | forward (t : LcState) | lock
deriving DecidableEq, Repr

/-- R470. -/
def LcRec.classify (r : LcRec) : Repair :=
  let c := r.majority
  if r.intent then
    match LcState.ofCode r.intentFrom, LcState.ofCode r.intentTo with
    | some a, some b =>
      if b.count == a.count + 1 && (r.fuses == a.count || r.fuses == b.count) && (c == some a || c == some b || c == Option.none) then
        .forward b
      else .lock
    | _, _ => .lock
  else
    match c with
    | some l => if r.fuses == l.count then .none else if r.fuses == l.count + 1 then .forward (LcState.ofCount r.fuses) else .lock
    | Option.none => .lock

/-- The wipe of a transition on one field (R469): keys, leaf records, instance table and open image; toward End of life also
settings and owner record. Instance settings go with the instance table. -/
def Granary.wipe (g : Granary) (f : Nat) (t : LcState) : Granary :=
  let g := { g with keys := g.keys.filter (fun k => hHome k.key.handle != f), opens := g.opens.modify f fun _ => [({} : Slot), {}] }
  if f ≥ 2 then g
  else
    let g := { g with table := [], stored := g.stored.filter fun e => e.2.1.isNone }
    if t == .endOfLife then { g with stored := [], owner := none } else g

/-- A field runs steps 2 to 5 of R469 toward a state. -/
def State.forward (s : State) (f : Nat) (t : LcState) : State :=
  (s.modGran fun g => { (g.wipe f t) with lc := (g.wipe f t).lc.modify f fun r => r.moveTo t }).modPkg
    fun p => { p with repaired := true }

/-- Start-up repair of one field (R470): whether the field goes to LOCKDOWN, and the state after. -/
def State.repairField (s : State) (f : Nat) : Bool × State :=
  match (s.gran.lc.getD f {}).classify with
  | .none => (false, s)
  | .forward t => (false, s.forward f t)
  | .lock => (true, s)

/-- Repair of every field and the package comparison (R471): whether the package locks, and the state after. -/
def State.repairAll (s : State) : Bool × State :=
  let (bad, s) := s.fieldNums.foldl (fun (b, s) f => let (l, s') := s.repairField f; (b || l, s')) (false, s)
  let counts := s.fieldNums.map fun f => (s.gran.lc.getD f {}).fuses
  let hi := counts.foldl max 0
  let lo := counts.foldl min 3
  if bad || hi > lo + 1 then (true, s)
  else (false, s.fieldNums.foldl (fun s f => if (s.gran.lc.getD f {}).fuses < hi then s.forward f (LcState.ofCount hi) else s) s)

/-! ### Fuse load, control store, settings -/

/-- Field count STRAP[5:4] declares (R503). -/
def strapFields (b : BitVec 6) : Option Nat :=
  match b.toNat / 16 with
  | 0 => some 2
  | 1 => some 4
  | 2 => some 8
  | _ => none

/-- A persisted open image is accepted at start-up (R384 step 4). -/
def State.openGood (s : State) (o : Bytes) : Bool := o != [] && openLenOk o && openHeaderOk o && s.openAccepted o

/-- Control store of every field (R384): filler and ROM, the patch slot in force, its cost entries, the persisted open image. A field whose
patch does not verify fails its self-test. -/
def State.loadStore (s : State) : State :=
  let s := s.modGran fun g => { g with patches := slotsCaughtUp g.patches, opens := slotsCaughtUp g.opens }
  let b := fun (f : Nat) => (slotNow (s.gran.patches.getD f [])).data
  let o := fun (f : Nat) => (slotNow (s.gran.opens.getD f [])).data
  let per := fun (x : FieldSt × Nat) =>
    ({ x.1 with patch := if b x.2 == [] then 0 else patchLevel (b x.2), store := patchWords (b x.2),
                testFailed := x.1.testFailed || !(b x.2 == [] || s.patchGood (b x.2)) }).putOpen
      (if s.openGood (o x.2) then some (openOf (o x.2)) else none)
  { s with
    fields := s.fields.zipIdx.map per
    pkg := { s.pkg with
      cost := if b 0 == [] then s.fuses.romCost else applyCost s.fuses.romCost (patchCost (b 0))
      openImg := if s.openGood (o 0) then some (openOf (o 0)) else s.pkg.openImg
      openRejected := if o 0 == [] || s.openGood (o 0) then s.pkg.openRejected else some (num (o 0) 6 3) } }

/-- The settings that take effect at reset release are those stored, and every working value is the stored one (R458). -/
def State.loadSettings (s : State) : State :=
  { s with working := s.gran.stored, inForce := s.gran.stored.filter fun e => e.1 == 0x01 }

/-- Start-up of every field from the rise of RESET_N or the reset step of RESET (R503, R504). Fields that fail a check here
are marked, and leave INERT for LOCKDOWN when self-test ends. -/
def State.startUp (s : State) : State :=
  let s := s.modPkg fun p => { p with straps := p.strapPins }
  let mismatch := strapFields s.pkg.straps != some s.n
  let (lockAll, s) := s.repairAll
  let s := s.loadStore.loadSettings
  { s with fields := s.fields.map fun x =>
      { x with run := .recovery, testFailed := x.testFailed || mismatch || lockAll,
               links := (List.range 3).map fun p => { state := if 2 ^ p < s.n then .up else .off },
               seed := { since := s.clock.time, lim := s.seedLimits } } }

/-! ### The end of self-test (R45, R505 to R507) -/

/-- DNONCE is drawn again (R473): at once where Steep serves, zero where it has latched, else when it becomes ready or has reseeded
(R302). -/
def State.newNonce (s : State) : State :=
  let h := s.pkg.headland
  match (s.field h).seed.state with
  | .ready =>
    if s.steepStalls h false then s.modPkg fun p => { p with dnonce := List.replicate 32 0, dnonceDue := true }
    else
      let (b, s) := s.steep h 32
      s.modPkg fun p => { p with dnonce := b, dnonceDue := false }
  | .latched => s.modPkg fun p => { p with dnonce := List.replicate 32 0, dnonceDue := false }
  | _ => s.modPkg fun p => { p with dnonce := List.replicate 32 0, dnonceDue := true }

/-- Form of the bootstrap lane (R503). -/
def bootForm (b : BitVec 6) : EthForm := if b.toNat / 4 % 2 == 0 then .cr1 else .kr1

/-- The strapped lane alone is configured (R507). -/
def State.bootLane (s : State) : State :=
  let lane := s.pkg.straps.toNat % 4
  let boot : Port :=
    { form := some (bootForm s.pkg.straps), firstLane := lane, forced := s.pkg.straps.toNat / 8 % 2 == 1, bootstrap := true }
  { s with ports := (List.range 2).map fun p => if p == lane / 2 then boot else {} }

/-- Self-test has ended on every field, those listed having failed: BOOTSTRAP, or LOCKDOWN of the package (R45, R505, R506). -/
def State.endSelfTest (s : State) (failed : List Nat) : State :=
  let bad := s.fieldNums.filter fun f => failed.contains f || (s.field f).testFailed
  let s := (s.modPkg fun p => { p with outputs := true, headland := 0 }).bootLane
  if bad.contains 0 || bad.contains 1 || (s.field 0).lost || (s.field 1).lost then
    (s.fieldNums.foldl (fun s f => if (s.field f).lost then s else s.zeroise f) s |>.modPkg fun p => { p with run := .lockdown }).syncAlert
  else
    let s := bad.foldl (fun s f => if (s.field f).lost then s else s.zeroise f) s
    let up := fun (p : FieldSt × Nat) =>
      if bad.contains p.2 then { p.1 with testFailed := true }
      else { p.1 with run := if p.2 < 2 then .bootstrap else .recovery, trainedAt := s.clock.time, kek := if s.lc == .blank then [] else List.replicate 2 (s.kekValue p.2) }
    let s := { s with fields := s.fields.zipIdx.map up }
    ((s.modPkg fun p => { p with run := .bootstrap }).newNonce).syncAlert

end Sys2Proof.Machine
end

