-- ==== Sys2Proof/Machine/Boot.lean ====
section
/-! DEFINITION. Power, RESET_N, self-test, host links and reference clocks (R499 to R508, R526 to R532). -/
namespace Sys2Proof.Machine

/-- Every rail is up and RESET_N is high. -/
def State.running (s : State) : Bool := s.pkg.railsUp && s.pkg.resetN

/-- POWER_UP (R499): the rails come up while RESET_N is low; every volatile value is lost with power. The straps are tied to
the rails of the board, so they are stable from here on. -/
def execPowerUp (strap : BitVec 6) (s : State) : Host.Outcome State Fault Refusal :=
  .next (if s.pkg.railsUp then s
    else (s.cleared false).modPkg fun p => { p with railsUp := true, resetN := false, strapPins := strap })

/-- RESET_N_ASSERT (R9, R500): an assertion of at least 10 µs with every rail in range stops every field at once; no reply
is sent and RWS fields return to their reset values. A shorter one has no effect. -/
def execResetNAssert (longEnough : Bool) (s : State) : Host.Outcome State Fault Refusal :=
  .next (if s.pkg.railsUp && longEnough then (s.cleared false).modPkg fun p => { p with resetN := false } else s)

/-- The supply-glitch alarm of a rail that leaves its range (R489, R501): class 1 on every field. Which detector trips is a
free value (log entry 19). -/
def State.glitch (s : State) : State :=
  let (b, s) := s.fresh 1
  (s.fieldNums.foldl (fun s f => s.alarmField f 1 59 (byteAt b 0 % 12) f) s |>.packageLock).syncAlert

/-- POWER_DOWN (R501): the rails are removed. With RESET_N low they may be; with RESET_N high a rail leaves its range, and
the alarm zeroises every field first; no outstanding command receives a reply (R100). -/
def execPowerDown (s : State) : Host.Outcome State Fault Refusal :=
  .next (if s.pkg.railsUp then
      let s := if s.pkg.resetN then { s.glitch with cmds := [], xfers := [], runs := [], txq := [] } else s
      s.modPkg fun p => { p with railsUp := false }
    else s)

/-- RESET_N_RELEASE (R503, R504): the straps are sampled and start-up runs on every field. -/
def execResetNRelease (s : State) : Host.Outcome State Fault Refusal :=
  .next (if s.pkg.railsUp && !s.pkg.resetN then
      ((s.cleared false).modPkg fun p => { p with resetN := true }).startUp
    else s)

/-- The part is in start-up: INERT, with self-test in progress. -/
def State.inStartUp (s : State) : Bool := s.running && s.pkg.run == .inert

/-- SELF_TEST_COMPLETE (R45, R505, R506): failed lists the fields whose own checks failed. -/
def execSelfTestComplete (failed : List Nat) (s : State) : Host.Outcome State Fault Refusal :=
  .next (if s.inStartUp then s.endSelfTest failed else s)

/-- SELF_TEST_TIMEOUT (R505): the field has failed self-test; it enters LOCKDOWN when the package leaves INERT (R44). -/
def execSelfTestTimeout (field : Nat) (s : State) : Host.Outcome State Fault Refusal :=
  .next (if s.inStartUp then s.modField field fun x => { x with testFailed := true } else s)

/-- The field that drives a port's lanes can carry it: it is not lost, and not locked down alone (R42, R494, R495). -/
def State.laneAlive (s : State) (p : Nat) : Bool :=
  let f := (s.port p).firstLane / 2
  !(s.field f).lost && (s.pkg.run == .lockdown || (s.field f).run != .lockdown) &&
    (!(s.port p).bonded || (!(s.field 1).lost && (s.pkg.run == .lockdown || (s.field 1).run != .lockdown)))

/-- BOOTSTRAP_LINK_UP (R507, R508): the strapped lane links and accepts frames; replies that waited for it go out. -/
def execBootstrapLinkUp (s : State) : Host.Outcome State Fault Refusal :=
  .next (match (List.range 2).find? (fun p => (s.port p).bootstrap && !(s.port p).up) with
    | some p =>
      if s.running && s.pkg.run != .inert && s.pkg.refSd && s.laneAlive p then
        (s.modPort p fun x => { x with up := true }).flushTx
      else s
    | none => s)

/-- HOST_LINK_UP (R512, R529): the port links only at its configured form, which its partner must offer. -/
def execHostLinkUp (port : Nat) (partner : List EthForm) (s : State) : Host.Outcome State Fault Refusal :=
  let x := s.port port
  .next (if s.running && s.pkg.run != .inert && s.pkg.refSd && !x.bootstrap && !x.up && s.laneAlive port &&
      (x.form.any fun f => partner.contains f) then
      (s.modPort port fun x => { x with up := true }).flushTx
    else s)

/-- HOST_LINK_DOWN (R508, R529): the port goes down and will negotiate the same form again. -/
def execHostLinkDown (port : Nat) (s : State) : Host.Outcome State Fault Refusal := .next (s.portDown port)

/-- REFCLK_SD_STOP (R532): every host port goes down. -/
def execRefclkSdStop (s : State) : Host.Outcome State Fault Refusal :=
  .next (((s.portDown 0).portDown 1).modPkg fun p => { p with refSd := false })

/-- REFCLK_SD_RETURN (R532): the ports may link again. -/
def execRefclkSdReturn (s : State) : Host.Outcome State Fault Refusal := .next (s.modPkg fun p => { p with refSd := true })

/-- REFCLK_SYS_STOP (R532): each island holds its last calibration; the part works on. -/
def execRefclkSysStop (s : State) : Host.Outcome State Fault Refusal :=
  .next ((s.modFields fun x => { x with sysHeld := true }).modPkg fun p => { p with refSys := false })

/-- REFCLK_SYS_RETURN (R532): calibration resumes. -/
def execRefclkSysReturn (s : State) : Host.Outcome State Fault Refusal :=
  .next ((s.modFields fun x => { x with sysHeld := false }).modPkg fun p => { p with refSys := true })

/-- VDD_CORE_BELOW_0_75_V (R542): the field's set point is held at no more than 1.0 GHz from its next quiescent point. -/
def execVddCoreBelow075V (field : Nat) (s : State) : Host.Outcome State Fault Refusal :=
  .next (s.modField field fun x => { x with coreLow := true }).limitPoints

/-- VPP_FUSE_VOLTAGE_OUTSIDE_TEST (R461, R518): outside Test the fuse controller has disconnected VPP_FUSE and logs the
voltage. -/
def execVppFuseVoltageOutsideTest (field : Nat) (s : State) : Host.Outcome State Fault Refusal :=
  .next (if s.lc == .test then s else s.log field 63 12 0xFF [])

/-! ### JTAG (R461, R476) -/

/-- The JTAG port is open: in Blank, Test and End of life, and in Production while debug is unlocked. -/
def State.jtagOpen (s : State) : Bool := s.debugBit

/-- JTAG_TAP_ACCESS (R476): IDCODE and BYPASS always answer (the IDCODE is a free value, log entry 19); the rest answers only
while the port is open, and the sealed blocks, the Granary write port and the fuse controller never do. -/
def execJtagTapAccess (j : JtagOp) (s : State) : Host.Outcome State Fault Refusal :=
  let out := fun (b : Bytes) => s.modPkg fun p => { p with jtag := b }
  .next (match j with
    | .idcode => let (b, s) := s.fresh 4; s.modPkg fun p => { p with jtag := b }
    | .bypass => out [0]
    | .furrowReg u r => if s.jtagOpen then out (toBE 3 (((s.field u.field).furrows.getD u.furrow {}).s.getD r 0).toNat) else out []
    | .furrowWord u a =>
      if s.jtagOpen then
        out (toBE 3 (WMem.read ((s.field u.field).furrows.getD u.furrow {}).dmem a).toNat)
      else out []
    | .caddyReg t r => if s.jtagOpen then out (toBE 4 (((s.field t.field).threads.getD t.thread {}).x.getD r 0).toNat) else out []
    | .islandSetPoint f => if s.jtagOpen then out (toBE 2 (s.field f).setPoint) else out []
    | .sealedState _ => out [])

end Sys2Proof.Machine
end

