-- ==== Sys2Proof/Machine/Classical.lean ====
section
/-! DEFINITION. Classic McEliece, RSA and the elliptic curves (R215 to R236). -/
namespace Sys2Proof.Machine

/-- SSATTR and MASK as the 4-byte expert suffix are out of range. -/
def suffix4Bad (c : Cmd) : Bool := c.expert && (ssBad (c.tail 4 0 3) || badMask (c.tail 4 3 1))

/-- MASK and a reserved byte as the 2-byte expert suffix are out of range. -/
def suffix2Bad (c : Cmd) : Bool := c.expert && (badMask (c.tail 2 0 1) || c.tail 2 1 1 != 0)

/-! ### Classic McEliece (R216 to R221) -/

/-- Ciphertext length of a Classic McEliece set (R216). -/
def mceCt (set : Nat) : Nat := [96, 156, 208, 194, 208].getD (set / 2) 0

/-- MCE_ENCAPS (R217, R219, R220): FixedWeight consumes the SHAKE256 output of 0x4D and the draw. -/
def mceEncapsDesc : Desc where
  op := 0x0220
  pre _ c :=
    [(c.len != (if c.expert then 12 else 8), .badLength),
     (c.p 0 1 > 9 || c.p 1 1 != 0 || suffix4Bad c, .badParameter), (c.p 2 6 == 0, .badParameter)]
  keys _ c := [c.p 2 6]
  post s c :=
    [(c.notKey (c.p 2 6) (0xD0 + c.p 0 1) aEncap, .usageDenied), (c.expert && !attrBounded (c.tail 4 0 3) c.keys, .usageDenied),
     (c.expert && c.maskLow c.secretKeys (c.tail 4 3 1), .usageDenied), (s.noSecretRoom c 32, .shareExhausted)]
  draw _ _ := some 32
  writes s c := s.descPages c 1
  body s c :=
    let set := c.p 0 1
    let ek := (c.key (c.p 2 6)).body
    let seed := 0x4D :: c.drawn
    let (h, s) := s.addSecret c c.fld (c.ssAttr (c.tail 4 0 3)) (std 32 (.mceEncaps (set / 2)) [ek, seed, [0]])
    (s, ok (toBE 6 h ++ std (mceCt set) (.mceEncaps (set / 2)) [ek, seed, [1]]))

/-- MCE_ENCAPS. -/
def execMceEncaps (r : CmdRec) (s : State) : Host.Outcome State Fault Refusal := .next (runCommand mceEncapsDesc r s)

/-- MCE_DECAPS (R221): the padding bits of a 6960119 ciphertext are the top five of its last byte. -/
def mceDecapsDesc : Desc where
  op := 0x0221
  pre _ c :=
    let set := c.p 0 1
    let x := if c.expert then 4 else 0
    [(c.len < 8 + x || (set ≤ 9 && c.len != 8 + mceCt set + x), .badLength),
     (set > 9 || c.p 1 1 != 0 || suffix4Bad c || (set / 2 == 3 && c.p (8 + 193) 1 ≥ 8), .badParameter)]
  keys _ c := [c.p 2 6]
  post s c :=
    [(c.notKey (c.p 2 6) (0x50 + c.p 0 1) aDecap, .usageDenied), (c.expert && !attrBounded (c.tail 4 0 3) c.keys, .usageDenied),
     (c.expert && c.maskLow c.keys (c.tail 4 3 1), .usageDenied), (s.noSecretRoom c 32, .shareExhausted)]
  writes s c := s.descPages c 1
  body s c :=
    let set := c.p 0 1
    let ss := std 32 (.mceDecaps (set / 2)) [(c.key (c.p 2 6)).body, slice c.params 8 (mceCt set)]
    let (h, s) := s.addSecret c c.fld (c.ssAttr (c.tail 4 0 3)) ss
    (s, ok (toBE 6 h))

/-- MCE_DECAPS. -/
def execMceDecaps (r : CmdRec) (s : State) : Host.Outcome State Fault Refusal := .next (runCommand mceDecapsDesc r s)

/-! ### RSA (R226 to R229) -/

/-- NBITS. -/
def rsaBits (c : Cmd) : Nat := c.p 6 2

/-- NBITS is in range (R226). -/
def rsaBitsOk (n : Nat) : Bool := 2048 ≤ n && n ≤ 8192 && n % 256 == 0

/-- k = NBITS / 8. -/
def rsaK (c : Cmd) : Nat := rsaBits c / 8

/-- Inline RSA key: E and N. -/
def rsaInline (c : Cmd) : Nat := c.inlineLen 0 (4 + rsaK c)

/-- The head is out of range (R226, R227): NBITS, SCHEME among those of the command, HASH. -/
def rsaHeadBad (c : Cmd) (schemes : List Nat) : Bool :=
  !rsaBitsOk (rsaBits c) || !schemes.contains (c.p 8 1) || c.p 9 1 == 0 || c.p 9 1 > 3

/-- NBITS is not the handle's SIZE: checked after step 9 (R556). -/
def rsaSizeBad (c : Cmd) : Bool := !c.inline 0 && tClass (c.key (c.p 0 6)).type == 6 && (c.key (c.p 0 6)).size != rsaBits c

/-- The inline key at a position is not valid (R226). -/
def rsaInlineBad (c : Cmd) (pos : Nat) : Bool :=
  c.inline 0 && !encodingOk 0xE0 (rsaBits c) (slice c.params pos (4 + rsaK c))

/-- A supplied digest does not have its HASH length (step 7), FORM being assigned and HASH one of the first k (R555). -/
def digestLenBad (formOk : Bool) (k form hash mlen : Nat) : Bool :=
  formOk && bit form 0 && 1 ≤ hash && hash ≤ k && mlen != phLen hash

/-- The digest that is signed: supplied, or computed. -/
def signDigest (form hash : Nat) (msg : Bytes) : Bytes := if bit form 0 then msg else phDigest hash msg

/-- RSA_ENCRYPT (R227). -/
def rsaEncryptDesc : Desc where
  op := 0x0401
  pre _ c :=
    [(c.len < 14 || (rsaBitsOk (rsaBits c) && c.len != 14 + rsaInline c + c.p 10 1 + c.p 12 2), .badLength),
     (rsaHeadBad c [1] || c.p 11 1 != 0 || c.p 12 2 + 2 * phLen (c.p 9 1) + 2 > rsaK c, .badParameter), (rsaInlineBad c 14, .badParameter)]
  keys _ c := c.handlesAt [0]
  nine _ c := [(rsaSizeBad c, .badParameter)]
  post _ c := [(c.notPub 0 0xE0 aEncrypt, .usageDenied)]
  draw _ c := some (phLen (c.p 9 1))
  body s c :=
    let o := 14 + rsaInline c
    (s, ok (std (rsaK c) (.rsaEncrypt (c.p 9 1))
      [c.pubKey 0 14 (4 + rsaK c), slice c.params o (c.p 10 1), slice c.params (o + c.p 10 1) (c.p 12 2), c.drawn]))

/-- RSA_ENCRYPT. -/
def execRsaEncrypt (r : CmdRec) (s : State) : Host.Outcome State Fault Refusal := .next (runCommand rsaEncryptDesc r s)

/-- OUT of RSA_DECRYPT; 0 at the basic level. -/
def rsaOut (c : Cmd) : Nat := if c.expert then c.tail 5 1 1 else 0

/-- The ciphertext of RSA_DECRYPT. -/
def rsaCt (c : Cmd) : Bytes := slice c.params (12 + c.p 10 1) (rsaK c)

/-- What RSA_DECRYPT decrypts to (R228): none where an OAEP check fails or, for OUT = 1, the plaintext is outside 16 to 128 bytes. -/
def rsaPlain (c : Cmd) : Option Bytes :=
  let args := [(c.key (c.p 0 6)).body, slice c.params 12 (c.p 10 1), rsaCt c]
  let plain := (Config.std (.rsaDecrypt (c.p 9 1)) args).take (rsaK c - 2 * phLen (c.p 9 1) - 2)
  if Config.test (.rsaPadding (c.p 9 1)) args && (rsaOut c == 0 || (16 ≤ plain.length && plain.length ≤ 128)) then some plain else none

/-- RSA_DECRYPT (R227, R228). With OUT = 0 only the reserved bits of SSATTR are checked (R8): no key takes the rest of the word. With OUT = 1 step
12 asks room for a secret of 128 bytes, the longest plaintext that makes one. Both are the model's choices (DESIGN CHOICE, log entry 125). -/
def rsaDecryptDesc : Desc where
  op := 0x0402
  pre _ c :=
    let x := if c.expert then 5 else 0
    [(c.len < 12 + x || (rsaBitsOk (rsaBits c) && c.len != 12 + c.p 10 1 + rsaK c + x), .badLength),
     (rsaHeadBad c [1] || c.p 11 1 != 0 ||
       (c.expert && (badMask (c.tail 5 0 1) || rsaOut c > 1 || c.tail 5 2 3 ≥ 2 ^ 20 || (rsaOut c == 1 && ssBad (c.tail 5 2 3)))), .badParameter)]
  keys _ c := [c.p 0 6]
  nine _ c :=
    [(rsaSizeBad c, .badParameter),
     ((c.key (c.p 0 6)).type == 0x60 && beNat (rsaCt c) ≥ rsaModulus (c.key (c.p 0 6)).body, .badParameter)]
  post s c :=
    [(c.notKey (c.p 0 6) 0x60 aDecrypt, .usageDenied), (rsaOut c == 1 && !attrBounded (c.tail 5 2 3) c.keys, .usageDenied),
     (c.expert && c.maskLow c.keys (c.tail 5 0 1), .usageDenied), (rsaOut c == 1 && s.noSecretRoom c 128, .shareExhausted)]
  writes s c := if rsaOut c == 1 && (rsaPlain c).isSome then s.descPages c 1 else []
  body s c :=
    match rsaPlain c with
    | none => (s, verdict false)
    | some plain =>
      if rsaOut c == 0 then (s, verdict true plain)
      else
        let (h, s) := s.addSecret c c.fld (c.tail 5 2 3) plain
        (s, verdict true (toBE 6 h))

/-- RSA_DECRYPT. -/
def execRsaDecrypt (r : CmdRec) (s : State) : Host.Outcome State Fault Refusal := .next (runCommand rsaDecryptDesc r s)

/-- SLEN is out of range for a signature (R227). -/
def rsaSlenBad (c : Cmd) : Bool := if c.p 8 1 == 2 then c.p 11 1 > phLen (c.p 9 1) else c.p 11 1 != 0

/-- RSA_SIGN (R227, R229). -/
def rsaSignDesc : Desc where
  op := 0x0403
  pre _ c :=
    let x := if c.expert then 2 else 0
    [(c.len < 15 + x || c.len != 15 + c.p 12 3 + x || digestLenBad (c.p 10 1 < 2) 3 (c.p 10 1) (c.p 9 1) (c.p 12 3), .badLength),
     (rsaHeadBad c [2, 3] || c.p 10 1 ≥ 2 || rsaSlenBad c || suffix2Bad c, .badParameter)]
  keys _ c := [c.p 0 6]
  nine _ c := [(rsaSizeBad c, .badParameter)]
  post _ c :=
    [(c.notKey (c.p 0 6) 0x60 aSign, .usageDenied),
     (c.expert && c.maskLow c.keys (c.tail 2 0 1), .usageDenied)]
  draw _ c := some (if c.p 8 1 == 2 then c.p 11 1 else 0)
  head c := if c.expert then none else some 15
  absorbs c := if bit (c.p 10 1) 0 then 0 else phBlock (c.p 9 1)
  body s c :=
    let d := signDigest (c.p 10 1) (c.p 9 1) (slice c.params 15 (c.p 12 3))
    (s, ok (std (rsaK c) (.rsaSign (c.p 8 1)) [(c.key (c.p 0 6)).body, toBE 1 (c.p 9 1), d, c.drawn]))

/-- RSA_SIGN. -/
def execRsaSign (r : CmdRec) (s : State) : Host.Outcome State Fault Refusal := .next (runCommand rsaSignDesc r s)

/-- RSA_VERIFY (R227, R228). SLEN under PKCS #1 v1.5 must be 0 (log entry 23). -/
def rsaVerifyDesc : Desc where
  op := 0x0404
  pre _ c :=
    [(c.len < 15 || (rsaBitsOk (rsaBits c) && c.len != 15 + rsaInline c + rsaK c + c.p 12 3) ||
       digestLenBad (c.p 10 1 < 2) 3 (c.p 10 1) (c.p 9 1) (c.p 12 3), .badLength),
     (rsaHeadBad c [2, 3] || c.p 10 1 ≥ 2 || (rsaSlenBad c && !(c.p 8 1 == 2 && c.p 11 1 == 0xFF)), .badParameter),
     (rsaInlineBad c 15, .badParameter)]
  keys _ c := c.handlesAt [0]
  nine _ c := [(rsaSizeBad c, .badParameter)]
  post _ c := [(c.notPub 0 0xE0 aVerify, .usageDenied)]
  head c := if c.inline 0 then none else some 15
  absorbs c := if bit (c.p 10 1) 0 then 0 else phBlock (c.p 9 1)
  body s c :=
    let pk := c.pubKey 0 15 (4 + rsaK c)
    let o := 15 + rsaInline c
    let sig := slice c.params o (rsaK c)
    let d := signDigest (c.p 10 1) (c.p 9 1) (slice c.params (o + rsaK c) (c.p 12 3))
    (s, verdict (beNat sig < num pk 4 (rsaK c) &&
      Config.test (.rsaVerify (c.p 8 1)) [pk, toBE 1 (c.p 9 1), toBE 1 (c.p 11 1), d, sig]))

/-- RSA_VERIFY. -/
def execRsaVerify (r : CmdRec) (s : State) : Host.Outcome State Fault Refusal := .next (runCommand rsaVerifyDesc r s)

/-! ### ECDSA and key agreement (R230, R231) -/

/-- FORM of an ECDSA block is assigned; det allows bit 2. -/
def ecdsaForm (c : Cmd) (det : Bool) : Bool := c.p 8 1 < (if det then 8 else 2) && !bit (c.p 8 1) 1

/-- FORM, CURVE and HASH of an ECDSA block are out of range. -/
def ecdsaBad (c : Cmd) (det : Bool) : Bool := c.p 6 1 > 2 || c.p 7 1 == 0 || c.p 7 1 > 5 || !ecdsaForm c det

/-- ECDSA_SIGN (R230). -/
def ecdsaSignDesc : Desc where
  op := 0x0410
  pre _ c :=
    let x := if c.expert then 2 else 0
    [(c.len < 12 + x || c.len != 12 + c.p 9 3 + x || digestLenBad (ecdsaForm c true) 5 (c.p 8 1) (c.p 7 1) (c.p 9 3), .badLength),
     (ecdsaBad c true || suffix2Bad c, .badParameter)]
  keys _ c := [c.p 0 6]
  post _ c :=
    [(c.notKey (c.p 0 6) (0x70 + c.p 6 1) aSign, .usageDenied), (c.expert && c.maskLow c.keys (c.tail 2 0 1), .usageDenied)]
  draw _ c := some (if bit (c.p 8 1) 2 then 0 else ecdsaDraw (c.p 6 1))
  head c := if c.expert then none else some 12
  absorbs c := if bit (c.p 8 1) 0 then 0 else phBlock (c.p 7 1)
  body s c :=
    let d := signDigest (c.p 8 1) (c.p 7 1) (slice c.params 12 (c.p 9 3))
    (s, ok (ecdsaSignature (c.p 6 1) (c.p 7 1) (bit (c.p 8 1) 2) (c.key (c.p 0 6)).body d c.drawn))

/-- ECDSA_SIGN. -/
def execEcdsaSign (r : CmdRec) (s : State) : Host.Outcome State Fault Refusal := .next (runCommand ecdsaSignDesc r s)

/-- ECDSA_VERIFY (R230). -/
def ecdsaVerifyDesc : Desc where
  op := 0x0411
  pre _ c :=
    let cv := c.p 6 1
    [(c.len < 12 || (cv ≤ 2 && c.len != 12 + c.inlineLen 0 (ecPubLen cv) + ecdsaLen cv + c.p 9 3) ||
       digestLenBad (ecdsaForm c false) 5 (c.p 8 1) (c.p 7 1) (c.p 9 3), .badLength),
     (ecdsaBad c false, .badParameter), (c.badPoint 0 12 cv, .badParameter)]
  keys _ c := c.handlesAt [0]
  post _ c := [(c.notPub 0 (0xF0 + c.p 6 1) aVerify, .usageDenied)]
  head c := if c.inline 0 then none else some 12
  absorbs c := if bit (c.p 8 1) 0 then 0 else phBlock (c.p 7 1)
  body s c :=
    let cv := c.p 6 1
    let o := 12 + c.inlineLen 0 (ecPubLen cv)
    let d := signDigest (c.p 8 1) (c.p 7 1) (slice c.params (o + ecdsaLen cv) (c.p 9 3))
    (s, verdict (ecdsaVerifies cv (c.pubKey 0 12 (ecPubLen cv)) d (slice c.params o (ecdsaLen cv))))

/-- ECDSA_VERIFY. -/
def execEcdsaVerify (r : CmdRec) (s : State) : Host.Outcome State Fault Refusal := .next (runCommand ecdsaVerifyDesc r s)

/-- EC_AGREE (R231). -/
def ecAgreeDesc : Desc where
  op := 0x0412
  pre _ c :=
    let cv := c.p 6 1
    let x := if c.expert then 4 else 0
    [(c.len < 14 + x || (cv ≤ 4 && c.len != 14 + c.inlineLen 8 (ecPubLen cv) + x), .badLength),
     (cv > 4 || c.p 7 1 != 0 || suffix4Bad c, .badParameter), (c.badPoint 8 14 cv, .badParameter)]
  keys _ c := c.p 0 6 :: c.handlesAt [8]
  post s c :=
    [(c.notKey (c.p 0 6) (0x70 + c.p 6 1) aAgree, .usageDenied), (c.notPub 8 (0xF0 + c.p 6 1) aAgree, .usageDenied),
     (c.expert && !attrBounded (c.tail 4 0 3) c.keys, .usageDenied), (c.expert && c.maskLow c.secretKeys (c.tail 4 3 1), .usageDenied),
     (s.noSecretRoom c (agreeLen (c.p 6 1)), .shareExhausted)]
  writes s c := s.descPages c 1
  body s c :=
    let cv := c.p 6 1
    let z := std (agreeLen cv) (.ecAgree cv) [(c.key (c.p 0 6)).body, c.pubKey 8 14 (ecPubLen cv)]
    let (h, s) := s.addSecret c c.fld (c.ssAttr (c.tail 4 0 3)) z
    (s, ok (toBE 6 h))

/-- EC_AGREE. -/
def execEcAgree (r : CmdRec) (s : State) : Host.Outcome State Fault Refusal := .next (runCommand ecAgreeDesc r s)

/-! ### EdDSA (R232) -/

/-- Set of class 7 of a VARIANT: Ed25519 or Ed448. -/
def edSet (v : Nat) : Nat := if v ≤ 2 then 5 else 6

/-- Public-key length of a VARIANT. -/
def edPk (v : Nat) : Nat := if v ≤ 2 then 32 else 57

/-- Signature length of a VARIANT. -/
def edSig (v : Nat) : Nat := 2 * edPk v

/-- Group order L of a VARIANT's curve. -/
def edOrder (v : Nat) : Nat :=
  if v ≤ 2 then 2 ^ 252 + 27742317777372353535851937790883648493
  else 2 ^ 446 - 13818066809895115352007386748515426880336692474882178609894547503885

/-- VARIANT and CTXLEN are out of range (R232). -/
def edBad (v ctxlen : Nat) : Bool := v > 4 || (v == 0 && ctxlen != 0) || (v == 1 && ctxlen == 0)

/-- EDDSA_SIGN (R232). -/
def eddsaSignDesc : Desc where
  op := 0x0420
  pre _ c :=
    let x := if c.expert then 2 else 0
    [(c.len < 11 + x || c.len != 11 + c.p 7 1 + c.p 8 3 + x, .badLength), (edBad (c.p 6 1) (c.p 7 1) || suffix2Bad c, .badParameter)]
  keys _ c := [c.p 0 6]
  post _ c :=
    [(c.notKey (c.p 0 6) (0x70 + edSet (c.p 6 1)) aSign, .usageDenied), (c.expert && c.maskLow c.keys (c.tail 2 0 1), .usageDenied)]
  body s c :=
    let v := c.p 6 1
    (s, ok (std (edSig v) (.eddsaSign v)
      [(c.key (c.p 0 6)).body, slice c.params 11 (c.p 7 1), slice c.params (11 + c.p 7 1) (c.p 8 3)]))

/-- EDDSA_SIGN. -/
def execEddsaSign (r : CmdRec) (s : State) : Host.Outcome State Fault Refusal := .next (runCommand eddsaSignDesc r s)

/-- EDDSA_VERIFY (R232): an R that is not canonical or not on the curve fails, and S ≥ L fails. -/
def eddsaVerifyDesc : Desc where
  op := 0x0421
  pre _ c :=
    let v := c.p 6 1
    [(c.len < 11 || (v ≤ 4 && c.len != 11 + c.inlineLen 0 (edPk v) + edSig v + c.p 7 1 + c.p 8 3), .badLength),
     (edBad v (c.p 7 1), .badParameter), (c.badPoint 0 11 (edSet v), .badParameter)]
  keys _ c := c.handlesAt [0]
  post _ c := [(c.notPub 0 (0xF0 + edSet (c.p 6 1)) aVerify, .usageDenied)]
  head c := if c.inline 0 then none else some 11
  absorbs c := if c.p 6 1 < 3 then 128 else 136
  body s c :=
    let v := c.p 6 1
    let o := 11 + c.inlineLen 0 (edPk v)
    let sig := slice c.params o (edSig v)
    let ctx := slice c.params (o + edSig v) (c.p 7 1)
    let msg := slice c.params (o + edSig v + c.p 7 1) (c.p 8 3)
    (s, verdict (ecPointOk (edSet v) (sig.take (edPk v)) && leNat (sig.drop (edPk v)) < edOrder v && Config.test (.eddsa v) [c.pubKey 0 11 (edPk v), ctx, msg, sig]))

/-- EDDSA_VERIFY. -/
def execEddsaVerify (r : CmdRec) (s : State) : Host.Outcome State Fault Refusal := .next (runCommand eddsaVerifyDesc r s)

end Sys2Proof.Machine
end

