-- ==== Sys2Proof/Machine/Leaves.lean ====
section
/-! DEFINITION. Consumable keys: leaf records, reservations, warnings, traversal caches, and the restore at ENABLE (R190 to
R203, R209). -/
namespace Sys2Proof.Machine

/-- The leaf state of a key. -/
def Key.leaves (k : Key) : Leaf := k.leaf.getD {}

/-- Change the leaf state of a key. -/
def State.modLeaf (s : State) (h : Nat) (g : Leaf → Leaf) : State := s.modKey h fun k => { k with leaf := k.leaf.map g }

/-- Change the Granary copy of a key. -/
def State.modStored (s : State) (h : Nat) (g : Stored → Stored) : State :=
  s.modGran fun r => { r with keys := r.keys.map fun k => if k.key.handle == h then g k else k }

/-- Thresholds of R203. -/
def life90 (life : Nat) : Nat := ceilDiv (9 * life) 10

/-- Thresholds of R203. -/
def life99 (life : Nat) : Nat := ceilDiv (99 * life) 100

/-- Data of a KEY_LIFE event (R203). -/
def lifeData (h next life : Nat) : Bytes := toBE 6 h ++ [0, 0] ++ toBE 8 next ++ toBE 8 life

/-- Raise KEY_LIFE_90 and KEY_LIFE_99 where NEXT has reached a threshold whose warning has not been sent (R203). -/
def State.lifeEvents (s : State) (h : Nat) : State :=
  match s.keys.find? (fun k => k.handle == h) with
  | none => s
  | some k =>
    let l := k.leaves
    let w90 := l.next ≥ life90 l.life && !l.w90
    let w99 := l.next ≥ life99 l.life && !l.w99
    let s := if w90 then s.raise (hInst h) 0x0301 (lifeData h l.next l.life) else s
    let s := if w99 then s.raise (hInst h) 0x0302 (lifeData h l.next l.life) else s
    s.modLeaf h fun l => { l with w90 := l.w90 || w90, w99 := l.w99 || w99 }

/-- Start the next reservation when one is due and none is in progress (R197): BLOCK at a time, up to LIFE. -/
def State.reserve (s : State) (h : Nat) : State :=
  s.modLeaf h fun l =>
    if !l.reserving && l.hwm < l.life && l.hwm - l.next ≤ l.block / 4 then
      { l with reserving := true, nextHwm := min (l.hwm + l.block) l.life }
    else l

/-- The leaf record is confirmed: HWM advances, and the record carries BLOCK and the warnings sent (R197, R198, R203). -/
def State.recordLeaf (s : State) (h hwm : Nat) : State :=
  match s.keys.find? (fun k => k.handle == h) with
  | none => s
  | some k =>
    let l := k.leaves
    let s := s.modLeaf h fun l => { l with hwm := hwm, wseq := l.wseq + 1 }
    s.modStored h fun x => x.write (s.macLeaf h { hwm := hwm, block := l.block, wseq := l.wseq + 1, w90 := l.w90, w99 := l.w99 })

/-- A leaf record's write fails its read-back in three successive slots (R201). -/
def State.tearLeaf (s : State) (h : Nat) : State :=
  let torn : LeafRec := { hwm := 0, torn := true }
  s.modStored h fun x => ((x.write torn).write torn).write torn

/-- The leaf record in force: the valid slot with the highest WSEQ (R198). -/
def Stored.current (x : Stored) : Option LeafRec :=
  (x.slots.filter fun r => !r.2.torn).foldl (fun b r => match b with
    | none => some r.2
    | some d => if d.wseq < r.2.wseq then some r.2 else b) none

/-- Signing commands of a key that wait for a reservation or its cache try again. -/
def State.wakeSigners (s : State) (h : Nat) : State :=
  { s with cmds := s.cmds.map fun c => if c.stage == .waitCache && c.keys.any (fun k => k.handle == h) then { c with stage := .dispatched } else c }

/-- Issue the leaf NEXT of a key (R196): the index issued, and the state after, with the warnings and the reservation this
calls for. -/
def State.issueLeaf (s : State) (h : Nat) : Nat × State :=
  let n := ((s.keys.find? (fun k => k.handle == h)).map (·.leaves.next)).getD 0
  let s := s.modLeaf h fun l => { l with next := l.next + 1 }
  (n, (s.lifeEvents h).reserve h)

/-! ### Restore at ENABLE (R134, R198, R200, R209, R476) -/

/-- The persistent keys ENABLE restores: those homed on a field that passed, DBG 0 ones only while debug is closed. -/
def State.restorable (s : State) : List Stored :=
  s.gran.keys.filter fun r =>
    !s.unavailable (hHome r.key.handle) && !(s.field (hHome r.key.handle)).testFailed && (!s.debugBit || r.key.dbg)

/-- Restore one persistent key to the handle table and fresh pages, NEXT set to HWM; its cache is to be rebuilt. A consumable key with no valid
leaf record is quarantined (R198). PAIR is null where the other half does not come back (R150). -/
def State.restoreOne (s : State) (r : Stored) : State :=
  let f := hHome r.key.handle
  let (ps, s) := s.allocPages f (pagesFor r.key.blobLen) 1 (hInst r.key.handle)
  let (cp, s) := s.allocRange f (pagesFor ((r.key.leaf.map (·.cache)).getD 0)) 5 (hInst r.key.handle)
  let record := r.current.getD { hwm := 0, wseq := 0 }
  let leaf := r.key.leaf.map fun l =>
    { l with next := record.hwm, hwm := record.hwm, block := record.block, wseq := record.wseq, w90 := record.w90, w99 := record.w99,
             cacheReady := false, cachePage := cp, reserving := false }
  let pair := if s.restorable.any (fun x => x.key.handle == r.key.pair) then r.key.pair else 0
  let key := { r.key with pair := pair, pages := ps, leaf := leaf, quarantined := r.key.leaf.isSome && r.current.isNone }
  { s with keys := s.keys ++ [s.sealKey key] }

end Sys2Proof.Machine
end

