-- ==== Sys2Proof/Machine/Objects.lean ====
section
/-! DEFINITION. Destroying what an instance owns: SAs, IKE SAs, images, transient keys, mailboxes (R116, R275, R280, R393,
R433). -/
namespace Sys2Proof.Machine

/-- An SA has a time lifetime (R280). -/
def Sa.timed (a : Sa) : Bool := a.softS != 0 || a.hardS != 0

/-- The SA lifetime-scan channel is owned while any installed SA has a time lifetime (R57, R280). -/
def State.syncScan (s : State) : State :=
  if s.sas.any Sa.timed then s else s.modPkg fun p => { p with timers := p.timers.filter (· != .saScan) }

/-- How a pipeline's cache names an SA: by its index, apart from the key handles of commands (R260). -/
def saSlot (h : Nat) : Nat := 2 ^ 48 + h

/-- Zeroise and free an SA entry (R275). -/
def State.dropSa (s : State) (h : Nat) : State :=
  State.syncScan { s with
    sas := s.sas.filter (fun a => a.handle != h),
    fields := s.fields.map fun x => { x with keyCache := x.keyCache.map fun (q : List Nat) => q.filter (· != saSlot h) } }

/-- Destroy one half of a child of an IKE SA: an SA with INSTALL 1, a key with INSTALL 0 (R395, R401). A half that its owner has destroyed
before is null. -/
def State.dropHalf (install : Bool) (s : State) (h : Nat) : State :=
  if h == 0 then s else if install then s.dropSa h else s.destroyKey h

/-- Destroy a child of an IKE SA (R395, R401). -/
def State.dropChild (install : Bool) (s : State) (x : Child) : State := State.dropHalf install (State.dropHalf install s x.hIn) x.hOut

/-- Destroy an IKE SA with its children (R393, R395): its state image and its charges go with it. -/
def State.dropIke (s : State) (h : Nat) : State :=
  match s.ikes.find? (fun k => k.handle == h) with
  | none => s
  | some k =>
    let s := (k.children.foldl (State.dropChild (k.flag 0)) s).freePages k.field k.pages
    { s with ikes := s.ikes.filter (fun x => x.handle != h) }

/-- Free a program-table entry (R329). -/
def State.dropImage (s : State) (h : Nat) : State := { s with images := s.images.filter (fun m => m.handle != h) }

/-- Destroy the IKE SAs of an instance; TK_EXPIRED goes to the owner for each that was not established (R116, R393; log
entry 20). -/
def State.dropIkes (s : State) (i : Nat) : State :=
  (s.ikes.filter (fun k => hInst k.handle == i)).foldl (fun s k =>
    let s := s.dropIke k.handle
    if k.state ≥ 5 then s else s.raise i 0x0305 (toBE 6 k.handle)) s

/-- The transient keys of an instance. -/
def State.transientKeys (s : State) (i : Nat) : List Key :=
  s.keys.filter fun k => hInst k.handle == i && !bit k.attr aPersistent

/-- The SAs of an instance that use a transient key. -/
def State.transientSas (s : State) (i : Nat) : List Sa :=
  s.sas.filter fun a => hInst a.handle == i && (s.transientKeys i).any (fun k => k.handle == a.key)

/-- Destroy an instance's transient keys, the SAs and contexts that use them, its service exchanges and its transfers
(R48, R116 step 3). -/
def State.destroyTransient (s : State) (i : Nat) : State :=
  let s := s.dropIkes i
  let s := (s.transientSas i).foldl (fun s a => s.dropSa a.handle) s
  let s := (s.transientKeys i).foldl (fun s k => s.destroyKey k.handle) s
  { s with xfers := s.xfers.filter (fun x => x.inst != i),
           txq := s.txq.filter (fun f => !(f.inst == i && f.xfer != 0)),
           fields := s.fields.map fun x => { x with ctxs := x.ctxs.filter (fun (w : WCtx) => w.inst != i) } }

/-- Destroy an instance's program images (R329) and, for a tenant, both its mailbox queues (R116, R433). -/
def State.destroyImages (s : State) (i : Nat) : State :=
  let s := (s.images.filter (fun m => hInst m.handle == i)).foldl (fun s m => s.dropImage m.handle) s
  if i == 0 then s else s.modInst i fun x => { x with toMgr := {}, fromMgr := {} }

end Sys2Proof.Machine
end

