-- ==== Sys2Proof/Machine/Enable.lean ====
section
/-! DEFINITION. Feature modes (R51 to R59), the host lanes after ENABLE (R512, R528) and ENABLE itself (R509 to R511). -/
namespace Sys2Proof.Machine

/-! ### Feature modes -/

/-- PORT_FORM in force is two 200G ports (R52, R528). -/
def State.twoPorts (s : State) : Bool := s.settingF 0x18 % 64 == 0x1B

/-- A tenant exists. -/
def State.hasTenants (s : State) : Bool := s.insts.any fun i => i.bind.id != 0

/-- Turning one mode on or off meets its precondition (R52). -/
def State.modeAllowed (s : State) (m : Mode) (on : Bool) : Bool :=
  match m, on with
  | .inline, true => s.twoPorts
  | .partitioned, false => !s.hasTenants
  | .capped, true => ceilMin s.n ≤ s.setting 0x04 && s.setting 0x04 ≤ ceilMax s.n
  | _, _ => true

/-- The six modes in bit order. -/
def allModes : List Mode := [.partitioned, .inline, .service, .twinned, .hardened, .capped]

/-- Every change from the mode word in force to another meets its precondition (R52 check 4). -/
def State.modesAllowed (s : State) (new : Nat) : Bool :=
  allModes.all fun m => new.testBit m.pos == s.mode m || s.modeAllowed m (new.testBit m.pos)

/-- The mode word takes a value. Turning INLINE off takes the line port down at once and drops what Thresher holds (R54); the pause that the
new pairs of modes call for is asserted, and another ends (R55, R58). -/
def State.setModes (s : State) (new : Nat) : State :=
  let off := s.mode .inline && !new.testBit 1
  let s := if off then s.dropPackets.portDown 1 else s
  (s.modPkg fun p => { p with modes := BitVec.ofNat 16 new }).settlePause

/-! ### Host lanes (R512, R526, R528) -/

/-- Form of one, two or four lanes for a medium. -/
def formOf (kr : Bool) (lanes : Nat) : EthForm :=
  match lanes, kr with
  | 1, true => .kr1
  | 1, false => .cr1
  | 2, true => .kr2
  | 2, false => .cr2
  | _, true => .kr4
  | _, false => .cr4

/-- Form and lowest lane PORT_FORM gives a port (R528). -/
def portForm (v p : Nat) : Option (EthForm × Nat) :=
  let kr := bit v 7
  if p == 0 then
    match bits v 2 0 with
    | 1 => some (formOf kr 1, 0)
    | 2 => some (formOf kr 1, 1)
    | 3 => some (formOf kr 2, 0)
    | 4 => some (formOf kr 4, 0)
    | _ => none
  else
    match bits v 5 3 with
    | 1 => some (formOf kr 1, 2)
    | 2 => some (formOf kr 1, 3)
    | 3 => some (formOf kr 2, 2)
    | _ => none

/-- MACSEC_CTL enables MACsec on a port (R458). -/
def State.macsecOn (s : State) (p : Nat) : Bool := bit (settingByte 14 (s.settingF 0x17) 0) p

/-- The flow control of a port once ENABLE has configured it (R89; log entry 44). -/
def portFlow (p : Nat) : FlowCtl :=
  match (Config.flowControl p).val with
  | 0 => .off
  | 1 => .pause
  | _ => .pfc

/-- One port as PORT_FORM configures it: the bootstrap lane stays up when it keeps its form and is not bonded (R512); MACsec
pending where MACSEC_CTL enables it (R96). -/
def State.laneFor (s : State) (p : Nat) : Port :=
  let old := s.port p
  let v := s.settingF 0x18
  match portForm v p with
  | none => { drops := old.drops }
  | some (f, l) =>
    let same := old.bootstrap && old.form == some f && old.firstLane == l && old.forced == bit v 6 && (f == .kr1 || f == .cr1)
    { form := some f, firstLane := l, forced := bit v 6, up := old.up && same, macsec := s.macsecOn p, pendingSa := s.macsecOn p,
      flow := portFlow p, paused := if same then old.paused else 0, drops := old.drops }

/-- The host lanes are reconfigured (R510 step 9, R512). -/
def State.reconfigure (s : State) : State := { s with ports := (List.range 2).map s.laneFor }

/-! ### ENABLE -/

/-- The field takes part in ENABLE: it passed self-test and is neither lost nor locked. -/
def State.passed (s : State) (f : Nat) : Bool := !s.unavailable f && !(s.field f).testFailed

/-- Steps 1 and 2 of R510: TAMPER_DRV, boot epochs, settings that take effect here. -/
def State.enableStart (s : State) : State :=
  let up := fun (e : Nat × Nat) => if s.passed e.2 then (e.1 + 1) % 2 ^ 32 else e.1
  { s with inForce := s.gran.stored, gran := { s.gran with epochs := s.gran.epochs.zipIdx.map up },
           pkg := { s.pkg with tamperArmed := true } }

/-- The key an SA table's sealed keys are wrapped under: derived from the KEK with the label "THRESHER SA" and the field number (R272). -/
def State.saTableKey (s : State) (f : Nat) : Bytes := kdfCounter (s.kek f) (ascii "THRESHER SA") (toBE 1 f) 32

/-- Step 3: the retired-page record is applied and every data page is zero-encoded (R437, R453); step 4's SA table key. -/
def State.enableMemory (s : State) : State :=
  let per := fun (x : FieldSt × Nat) =>
    if s.passed x.2 then
      let mine := s.gran.retired.filter fun r => r.1 == x.2
      { x.1 with
          pages := [], merge := [], saKey := some (s.saTableKey x.2),
          remap := mine.map (·.2), withdrawn := [] }
    else x.1
  { s with fields := s.fields.zipIdx.map per }

/-- Step 4: the tenants of the instance table are recreated, and instance 0 has its recorded weights (R412). -/
def State.enableTenants (s : State) : State :=
  let mk := fun (b : Binding) => ({ bind := b } : Inst)
  let tenants := (s.gran.table.filter fun b => b.id != 0).map mk
  let s := match s.gran.table.find? (fun b => b.id == 0) with
    | some b => s.modInst 0 fun i => { i with bind := b }
    | none => s
  { s with insts := s.insts ++ tenants }

/-- Step 5: persistent keys are restored (R134, R198, R200). -/
def State.enableKeys (s : State) : State := s.restorable.foldl State.restoreOne s

/-- Step 6: the stored MODES, bit by bit, PARTITIONED forced where tenants exist; the bits left off are REFUSED. -/
def State.enableModes (s : State) : State :=
  let want := s.settingF 0x02
  let s := allModes.foldl (fun s m =>
    if want.testBit m.pos || (m == .partitioned && s.hasTenants) then
      if s.modeAllowed m true then s.setModes (s.pkg.modes.toNat ||| 2 ^ m.pos)
      else s.modPkg fun p => { p with refused := p.refused ||| (1#16 <<< m.pos) }
    else s) (s.modPkg fun p => { p with modes := 0, refused := 0 })
  s

/-- Step 7: every field that passed enters OPERATIONAL with Headland's copy of the open image (R385), Harrow starts, and PPS_OUT takes its
timer channel where MF_FUNC assigns it (R57). -/
def State.enableFields (s : State) : State :=
  let per := fun (x : FieldSt × Nat) =>
    if s.passed x.2 then { x.1.putOpen s.pkg.openImg with run := .operational, sweepAt := 0, sweep := 0, entered := true } else x.1
  let s := { s with fields := s.fields.zipIdx.map per }
  let s := s.modPkg fun p => { p with run := .operational }
  if (s.mfPin 2).isSome then s.modPkg fun p => { p with timers := [.ppsOut] } else s

/-- A bit map of fields. -/
def State.fieldMap (s : State) (f : Nat → Bool) : Nat := (s.fieldNums.map fun k => if f k then 2 ^ k else 0).sum

/-- *ENABLE results* (R510). -/
def State.enableResults (s : State) : Bytes :=
  toBE 1 (s.fieldMap s.passed) ++ toBE 1 (s.fieldMap fun f => (s.field f).run == .lockdown) ++ toBE 2 s.pkg.modes.toNat ++
    toBE 2 s.pkg.refused.toNat ++ toBE 1 (s.insts.length - 1) ++ [0] ++ toBE 4 (s.epoch 0) ++
    toBE 4 s.keys.length ++ toBE 4 (s.keys.filter (·.quarantined)).length

/-- Steps 1 to 7 of R510. -/
def State.enableAll (s : State) : State :=
  s.enableStart.enableMemory.enableTenants.enableKeys.enableModes.enableFields

/-- ENABLE (R509 to R511). Step 9 follows the release of the reply. -/
def enableDesc : Desc where
  op := 0x0002
  pre _ c := [(c.len != 0, .badLength)]
  post s c := [(c.runAt != .bootstrap || s.pkg.run != .bootstrap || s.pkg.enableFailed, .stateForbids)]
  granary _ _ := true
  spoil s _ := s.modPkg fun p => { p with enableFailed := true, tamperArmed := true, modes := 0 }
  body s _ :=
    let s := s.enableAll
    (s, ok s.enableResults)

/-- ENABLE. -/
def execEnable (r : CmdRec) (s : State) : Host.Outcome State Fault Refusal := .next (runCommand enableDesc r s)

/-- Step 9 of R510, after the reply is released: the lanes, KEY_LIFE events, then OPEN_REJECTED (R203, R384, R512). -/
def State.afterEnable (s : State) : State :=
  let s := s.reconfigure
  let s := (s.keys.filter fun k => k.leaf.isSome && !tPublic k.type && !k.quarantined).foldl (fun s k => s.lifeEvents k.handle) s
  match s.pkg.openRejected with
  | none => s
  | some v => (s.raise 0 0x0503 (toBE 3 v)).modPkg fun p => { p with openRejected := none }

end Sys2Proof.Machine
end

