-- ==== Sys2Proof/Machine/Release.lean ====
section
/-! DEFINITION. Replies and events leave the part (R28 to R31, R90, R100 to R112, R516); RESET (R119). -/
namespace Sys2Proof.Machine

/-- A is an earlier ORDERED command than B of the same instance (R29). -/
def Cmd.before (a b : Cmd) : Bool :=
  a.inst == b.inst && a.ordered && b.ordered && (later b.seq a.seq || (a.seq == b.seq && a.pos < b.pos))

/-- An earlier ORDERED command holds the reply back (R29). An INSTANCE_RESET waits itself for the replies it has caused, and holds none of
them (R117). -/
def Cmd.holdsBack (d c : Cmd) (r : Reply) : Bool := d.before c && !(r.status == .instanceReset && basicOp d.op == 0x0004)

/-- ORDERED and PAD let a staged reply go (R29, R104, R181). -/
def State.mayRelease (s : State) (c : Cmd) (r : Reply) : Bool :=
  (!c.ordered || !s.cmds.any fun d => d.holdsBack c r) && (!c.pad || !c.begun || c.padDone || r.status == .instanceReset)

/-- Raise PACKAGE_RESET for every instance with state but one (R119, R469). -/
def State.packageReset (s : State) (but : Nat) : State :=
  (s.insts.filter fun i => i.bind.id != but && s.hasState i).foldl (fun s i => s.raise i.bind.id 0x0101 []) s

/-- A port has a transmit and a receive SA of the package SC (R96). -/
def Port.secured (x : Port) : Bool := x.sas.any (fun a => a.tx && a.pkg) && x.sas.any (fun a => !a.tx && a.pkg)

/-- A port leaves MACsec pending (R96); what waited goes out. -/
def State.leavePending (s : State) (p : Nat) : State :=
  if (s.port p).pendingSa && (s.port p).secured then (s.modPort p fun x => { x with pendingSa := false }).flushTx else s

/-- The handle of a closed IKE SA becomes invalid once a reply that shows STATE 6 is released (R401). -/
def State.dropClosed (s : State) (c : Cmd) : State :=
  let h := c.p 0 6
  let shown := match c.stage with
    | .done r => byteAt r.results 6 == 6
    | _ => false
  if shown && s.ikes.any (fun k => k.handle == h && k.state == 6) then s.dropIke h else s

/-- The windows of an instance are emptied and its reply tag restarts (R86). -/
def Inst.emptied (i : Inst) : Inst := { i with window := {}, replyTag := 0, lastRx := none }

/-- What the release of a reply with status OK sets going, by opcode: R86, R96, R401, R469 and R510. The MACSEC_SA that gave its port both
SAs of the package SC is marked. -/
def State.afterReply (s : State) (c : Cmd) : State :=
  match basicOp c.op with
  | 0x0002 => (if s.hasTenants then s.creditUncaused 0 else s).afterEnable
  | 0x0003 => (s.packageReset c.inst).modPkg fun p => { p with resetPending := true }
  | 0x0004 =>
    if c.p 0 1 == c.inst then s.sendCredit c.inst (s.replyPort c.ctx.port) c.ctx.src (some c.ctx.port) none else s.creditUncaused (c.p 0 1)
  | 0x0020 => if c.aux == 1 then s.leavePending (c.p 0 1) else s
  | 0x0902 => s.dropClosed c
  | 0x0904 => s.dropClosed c
  | 0x0C10 => (s.packageReset c.inst).modPkg fun p => { p with resetPending := true }
  | _ => s

/-- With the reply of the command that resets or destroys an instance, whatever its status, the instance's frames are accepted again (R72,
R86). -/
def State.letIn (s : State) (c : Cmd) : State :=
  { s with insts := s.insts.map fun i => if i.resetting == some (c.inst, c.tag) then { i with resetting := none } else i }

/-- Release a staged reply: it is counted and sent, and its slot and place among the outstanding commands are freed (R31,
R103, R105). Before the reply to INSTANCE_RESET the windows of its target are emptied (R86). -/
def State.release (s : State) (c : Cmd) (r : Reply) : State :=
  let p := s.replyPort c.ctx.port
  let s := if basicOp c.op == 0x0004 && r.status == .ok then s.modInst (c.p 0 1) Inst.emptied else s
  let s := ((s.countClass c.inst r.status).sendRecord p c.ctx.src c.inst c.ctx.tci (some c.ctx.port) 1
    (replyRecord c.op c.tag (c.replyFlags (c.pad && c.padDone)) r)).letIn c
  let s := { s with cmds := s.cmds.filter fun d => !(d.inst == c.inst && d.tag == c.tag) }
  if r.status == .ok then s.afterReply c else s

/-- A port takes the reply of a command (R96): one where MACsec is pending takes only those of frames that came on it. -/
def State.takesReply (s : State) (c : Cmd) : Bool :=
  let p := s.replyPort c.ctx.port
  !((s.port p).macsec && (s.port p).pendingSa) || p == c.ctx.port

/-- The HEADLAND_FAILOVER event of an instance has still to leave; its collected replies follow it (R38). -/
def Inst.failoverWaits (i : Inst) : Bool := i.evq.any fun e => e.code == 0x0102

/-- A reply can be released now: it is staged, ORDERED and PAD let it go, and its port can send (R38, R90, R96). -/
def State.releasable (s : State) (c : Cmd) : Bool :=
  match c.stage with
  | .done r => s.mayRelease c r && s.canSend (s.replyPort c.ctx.port) c.inst (tciPrio c.ctx.tci) 1 (some c.ctx.port) && s.takesReply c &&
      !(s.inst c.inst).failoverWaits
  | _ => false

/-- REPLY_RELEASE (R28 to R31): a reply that is not ready, or that ORDERED, PAD or a pause still holds, stays. -/
def execReplyRelease (inst tag : Nat) (s : State) : Host.Outcome State Fault Refusal :=
  .next (match s.cmd? inst tag with
    | some c =>
      match c.stage with
      | .done r => if s.releasable c then s.release c r else s
      | _ => s
    | none => s)

/-- PAD_EXPIRY (R181): the constant latency has passed; a command that still runs is an overrun and its reply will carry no
PADDED. -/
def execPadExpiry (inst tag : Nat) (s : State) : Host.Outcome State Fault Refusal :=
  .next (match s.cmd? inst tag with
    | some c =>
      if !c.pad || !c.begun || c.padDone then s
      else if c.isDone then s.modCmd inst tag fun c => { c with padDone := true }
      else (s.modField (c.field.getD s.pkg.headland) fun x => { x with padOverrun := x.padOverrun + 1 }).modCmd inst tag
        fun c => { c with pad := false }
    | none => s)

/-- PENDING (R109): one interim record, released at once; it frees no slot. -/
def execPending (inst tag : Nat) (s : State) : Host.Outcome State Fault Refusal :=
  .next (match s.cmd? inst tag with
    | some c =>
      if opLong s c.op c.params && !c.isDone && !c.pendingSent && s.takesReply c then
        (s.sendRecord (s.replyPort c.ctx.port) c.ctx.src inst c.ctx.tci (some c.ctx.port) 1
          (replyRecord c.op tag 0 { status := .pending })).modCmd inst tag
          fun c => { c with pendingSent := true }
      else s
    | none => s)

/-- RNG_WAIT_EXPIRY (R104, R307): a command held at step 13 past RNG_WAIT_LIMIT. -/
def execRngWaitExpiry (inst tag : Nat) (s : State) : Host.Outcome State Fault Refusal :=
  .next (match s.cmd? inst tag with
    | some c =>
      match c.stage with
      | .waitRng _ => s.complete inst tag { status := .entropyPending }
      | _ => s
    | none => s)

/-- EVENT_SEND (R516): the event at the head of an instance's queue leaves. -/
def execEventSend (inst : Nat) (s : State) : Host.Outcome State Fault Refusal :=
  .next (if s.hasInst inst then s.eventSend inst else s)

/-! ### RESET (R119) -/

/-- RESET (R119 step 1): admission stops on every instance. -/
def resetDesc : Desc where
  op := 0x0003
  pre _ c := [(c.len != 4, .badLength), (c.p 0 4 != 0x6B1D0F3A, .badParameter)]
  body s _ := (s.stopAdmission .reset, ok)

/-- The reply to RESET goes at once, whatever ORDERED or a pause holds back, and PACKAGE_RESET follows (R119 steps 2 and 3). -/
def State.releaseReset (s : State) (i t : Nat) : State :=
  match s.cmd? i t with
  | some c =>
    match c.stage with
    | .done rep => if basicOp c.op == 0x0003 && rep.status == .ok then s.release c rep else s
    | _ => s
  | none => s

/-- RESET. -/
def execReset (r : CmdRec) (s : State) : Host.Outcome State Fault Refusal := .next ((runCommand resetDesc r s).releaseReset r.inst r.tag)

/-- The record writes of leaf reservations in progress finish (R119 step 4, R197). -/
def State.finishWrites (s : State) : State :=
  (s.keys.filter fun k => k.leaf.any (·.reserving)).foldl (fun s k =>
    (s.recordLeaf k.handle ((k.leaf.map (·.nextHwm)).getD 0)).modLeaf k.handle fun l => { l with reserving := false }) s

/-- RESET_EXECUTE (R119 steps 4 and 5): record writes in progress finish, every field resets as for RESET_N, RWS fields keep their
values, and start-up begins. -/
def execResetExecute (s : State) : Host.Outcome State Fault Refusal :=
  .next (if s.pkg.resetPending then (s.finishWrites.cleared true).startUp else s)

end Sys2Proof.Machine
end

