-- ==== Sys2Proof/Machine/Control.lean ====
section
/-! DEFINITION. The control page besides ENABLE, RESET and INSTANCE_RESET (R43 to R54, R94 to R99). -/
namespace Sys2Proof.Machine

/-! ### IDENTIFY and ECHO -/

/-- The run state of a field as IDENTIFY reports it (R44, R99): 0xFF for a lost field, and for one that Headland treats as lost (R35). -/
def State.fieldCode (s : State) (f : Nat) : Nat := if (s.field f).gone then 0xFF else (s.field f).run.code

/-- *IDENTIFY results* (R99). -/
def State.identify (s : State) : Bytes :=
  toBE 1 s.n ++ toBE 1 s.fuses.stepping ++ toBE 1 s.pkg.run.code ++ toBE 1 s.pkg.headland ++ toBE 6 s.fuses.station ++
    toBE 2 s.modeWord ++ [0, 0] ++ toBE 8 s.fuses.deviceId ++ toBE 3 s.fuses.ucodeBase ++
    toBE 3 (s.field s.pkg.headland).patch ++ toBE 3 ((s.pkg.openImg.map (·.ident)).getD 0) ++ [0] ++
    (s.fieldNums.flatMap fun f => toBE 1 (s.fieldCode f))

/-- IDENTIFY (R99). -/
def identifyDesc : Desc where
  op := 0x0001
  pre _ c := [(c.len != 0, .badLength)]
  body s _ := (s, ok s.identify)

/-- IDENTIFY. -/
def execIdentify (r : CmdRec) (s : State) : Host.Outcome State Fault Refusal := .next (runCommand identifyDesc r s)

/-- ECHO (R98): 0 to 256 bytes, returned unchanged. -/
def echoDesc : Desc where
  op := 0x0008
  pre _ c := [(c.len > 256, .badLength)]
  post _ c := [(c.runAt != .operational && c.runAt != .fallow, .stateForbids)]
  body s c := (s, ok c.params)

/-- ECHO. -/
def execEcho (r : CmdRec) (s : State) : Host.Outcome State Fault Refusal := .next (runCommand echoDesc r s)

/-! ### FALLOW, WAKE and RECOVER -/

/-- Every command but one has completed: its reply is staged. An INSTANCE_RESET that waits for the command itself is not waited for (R117;
log entry 113). -/
def State.othersDone (s : State) (c : Cmd) : Bool :=
  s.cmds.all fun d => d.isDone || (d.inst == c.inst && d.tag == c.tag) ||
    (c.reset && basicOp d.op == 0x0004 && d.stage == .running && num d.params 0 1 == c.inst)

/-- The package and every field in OPERATIONAL go to FALLOW (R45). A field in LOCKDOWN stays there (log entry 115; DEDUCED). -/
def State.toFallow (s : State) : State :=
  let s := s.fieldNums.foldl State.flushField s
  (s.modFields fun x => if x.run == .operational then { x with run := .fallow } else x).modPkg fun p => { p with run := .fallow }

/-- FALLOW (R45 to R47): the package is in FALLOW from here on, so that no further work is admitted; the reply waits for every
in-flight command and the furrows. -/
def fallowDesc : Desc where
  op := 0x0005
  pre _ c := [(c.len != 0, .badLength)]
  post s c := [(c.notOperational || s.pkg.run != .operational, .stateForbids)]
  body s c :=
    let s := if c.aux == 0 then s.toFallow.modCmd c.inst c.tag fun e => { e with aux := 1 } else s
    if s.othersDone c then (s, ok) else (s, none)

/-- FALLOW. -/
def execFallow (r : CmdRec) (s : State) : Host.Outcome State Fault Refusal := .next (runCommand fallowDesc r s)

/-- The command of an opcode whose execution is in progress. -/
def State.inProgress (s : State) (op : Nat) : Option Cmd := s.cmds.find? fun c => basicOp c.op == op && c.stage == .running

/-- FALLOW_DRAIN_DONE (R47): every in-flight command has completed and the furrows have stopped. -/
def execFallowDrainDone (s : State) : Host.Outcome State Fault Refusal :=
  .next (match s.inProgress 0x0005 with
    | some c => if s.othersDone c then s.complete c.inst c.tag { status := .ok } else s
    | none => s)

/-- WAKE (R45): every field but those CAPPED has gated returns to OPERATIONAL. -/
def wakeDesc : Desc where
  op := 0x0006
  pre _ c := [(c.len != 0, .badLength)]
  post s c := [(c.runAt != .fallow || s.pkg.run != .fallow, .stateForbids)]
  body s _ :=
    let s := s.modFields fun x => if x.run == .fallow && !x.gated then { x with run := .operational } else x
    (s.modPkg fun p => { p with run := .operational }, ok)

/-- WAKE. -/
def execWake (r : CmdRec) (s : State) : Host.Outcome State Fault Refusal := .next (runCommand wakeDesc r s)

/-- The end of RECOVER (R48, R50): transient keys, contexts and transfers of every instance are destroyed and every field
enters RECOVERY. A field in LOCKDOWN stays there, since only a reset leads out of it (R45; log entry 115). -/
def State.toRecovery (s : State) : State :=
  let s := s.insts.foldl (fun s i => s.destroyTransient i.bind.id) s
  let s := s.modFields fun x =>
    if x.run == .lockdown || x.lost then x else { x with run := .recovery, gating := false, gated := false }
  ((s.dropPackets.modPkg fun p => { p.leaveService with run := .recovery }).settlePause).admitAgain .recover

/-- RECOVER (R48): admission stops; the reply waits for the drain. Where the package has left OPERATIONAL meanwhile, the transition is none
of *Run-state transitions* (R45). -/
def recoverDesc : Desc where
  op := 0x0007
  pre _ c := [(c.len != 0, .badLength)]
  post s c := [(c.notOperational || s.pkg.run != .operational, .stateForbids)]
  body s c :=
    if s.pkg.run != .operational then (s, st .stateForbids)
    else
      let s := s.stopAdmission .recover
      if s.othersDone c then (s.toRecovery, ok) else (s, none)

/-- RECOVER. -/
def execRecover (r : CmdRec) (s : State) : Host.Outcome State Fault Refusal := .next (runCommand recoverDesc r s)

/-- RECOVER_DRAIN_TIMEOUT (R48): 100 ms have passed; commands still running complete with MACHINE_CHECK. -/
def execRecoverDrainTimeout (s : State) : Host.Outcome State Fault Refusal :=
  .next (match s.inProgress 0x0007 with
    | some c =>
      if s.pkg.run != .operational then s.complete c.inst c.tag { status := .stateForbids }
      else
        let s := s.endAll (s.cmds.filter fun d => !d.isDone && !(d.inst == c.inst && d.tag == c.tag)) .machineCheck
        s.toRecovery.complete c.inst c.tag { status := .ok }
    | none => s)

/-! ### MODE_SET (R51 to R54) -/

/-- The expert fields of MODE_SET are out of range (R53). -/
def State.modeBlockBad (s : State) (c : Cmd) : Bool :=
  c.p 0 2 ≥ 64 ||
    (c.expert && (c.p 2 1 < 2 || c.p 2 1 > 3 || c.p 3 1 != 0 || c.p 4 2 < ceilMin s.n || c.p 4 2 > ceilMax s.n ||
      c.p 6 2 < ceilMin s.n || c.p 6 2 > ceilMax s.n || c.p 6 2 > c.p 4 2))

/-- The three working values an expert MODE_SET writes (R53); a SETTING_SET admitted before it changes them no more. -/
def State.modeValues (s : State) (c : Cmd) : State :=
  if c.expert then
    { s with working := ((s.working.set 0x03 none (c.p 2 1)).set 0x04 none (c.p 4 2)).set 0x05 none (c.p 6 2),
             pkg := { s.pkg with modeSetAt := max s.pkg.modeSetAt c.number } }
  else s

/-- MODE_SET (R52 to R54). Every claim of a mode is met (R57), so check 3 passes. -/
def modeSetDesc : Desc where
  op := 0x0010
  pre s c := [(c.len != (if c.expert then 8 else 2), .badLength), (s.modeBlockBad c, .badParameter)]
  post s c := [(c.notOperational || s.pkg.run != .operational, .stateForbids), (!(s.modeValues c).modesAllowed (c.p 0 2), .stateForbids)]
  body s c :=
    let s := (s.modeValues c).setModes (c.p 0 2)
    (s.modCmd c.inst c.tag fun e => { e with durable := true },
      ok (toBE 2 s.pkg.modes.toNat ++ toBE 1 (s.setting 0x03) ++ [0] ++ toBE 2 (s.setting 0x04) ++ toBE 2 (s.setting 0x05)))

/-- MODE_SET. -/
def execModeSet (r : CmdRec) (s : State) : Host.Outcome State Fault Refusal := .next (runCommand modeSetDesc r s)

/-! ### MACSEC_SA (R94) -/

/-- DIR_AN bit 7: a transmit SA. -/
def saTx (c : Cmd) : Bool := bit (c.p 1 1) 7

/-- DIR_AN bit 6: retire. -/
def saRetire (c : Cmd) : Bool := bit (c.p 1 1) 6

/-- FLAGS bit 0: the package SC. -/
def saPkg (c : Cmd) : Bool := bit (c.p 3 1) 0

/-- An SA is the one MACSEC_SA names: direction, AN and SC. -/
def SecSa.named (a : SecSa) (c : Cmd) : Bool :=
  a.tx == saTx c && a.an == c.p 1 1 % 4 && a.pkg == saPkg c && a.bind == c.p 2 1 && a.sci == c.p 4 8

/-- A receive SA of an SC that a new receive SA displaces: its instance, or the package, has one receive SC on a port (R93), so that an SA
under another SCI takes the place of the SC there was (log entry 116; DESIGN CHOICE). -/
def SecSa.displaced (a : SecSa) (c : Cmd) : Bool :=
  !saRetire c && !saTx c && !a.tx && a.pkg == saPkg c && a.bind == c.p 2 1 && a.sci != c.p 4 8

/-- The SA MACSEC_SA installs. -/
def secSaOf (c : Cmd) : SecSa :=
  { tx := saTx c, an := c.p 1 1 % 4, sci := c.p 4 8, pkg := saPkg c, bind := c.p 2 1, key := c.p 12 6, ssci := c.p 18 4,
    salt := slice c.params 22 12, nextPn := c.p 34 8, keyReg := (c.key (c.p 12 6)).body }

/-- MACSEC_SA (R94). A retirement reads no key. A BIND that names no instance gives NO_SUCH_INSTANCE (log entry 117; DESIGN CHOICE). The
command whose SA completes the package SC of its port is marked (R96). -/
def macsecSaDesc : Desc where
  op := 0x0020
  pre s c :=
    [(c.len != 42, .badLength),
     (c.p 0 1 > 1 || bits (c.p 1 1) 5 2 != 0 || c.p 3 1 > 1 || (saPkg c && c.p 2 1 != 0), .badParameter),
     (!saPkg c && !s.hasInst (c.p 2 1), .noSuchInstance)]
  keys _ c := if saRetire c then [] else [c.p 12 6]
  post _ c :=
    let k := c.key (c.p 12 6)
    [(c.notOperational, .stateForbids),
     (!saRetire c && (k.type != 0x02 || !bit k.attr (if saTx c then aEncrypt else aDecrypt)), .usageDenied)]
  body s c :=
    let before := (s.port (c.p 0 1)).secured
    let s := s.modPort (c.p 0 1) fun x =>
      { x with sas := (if saRetire c then [] else [secSaOf c]) ++ x.sas.filter fun a => !a.named c && !a.displaced c }
    let s := if !before && (s.port (c.p 0 1)).secured then s.modCmd c.inst c.tag fun e => { e with aux := 1 } else s
    (if (s.port (c.p 0 1)).pendingSa then s else s.flushTx, ok)

/-- MACSEC_SA. -/
def execMacsecSa (r : CmdRec) (s : State) : Host.Outcome State Fault Refusal := .next (runCommand macsecSaDesc r s)

end Sys2Proof.Machine
end

