-- ==== Sys2Proof/Machine/InstanceReset.lean ====
section
/-! DEFINITION. INSTANCE_RESET (R115 to R118). -/
namespace Sys2Proof.Machine

/-- A command whose effect stands while it still runs: it is past its commit point (R107, R117). A run of a furrow program or of microcode
is not: it is abandoned (R116). -/
def Cmd.pastCommit (c : Cmd) : Bool :=
  c.stage == .running && [0x0004, 0x0005, 0x0007, 0x0710, 0x0C10, 0x0E02].contains (basicOp c.op)

/-- A thread of the command is inside a sequence of words with ATOM set (R368). -/
def State.inAtom (s : State) (c : Cmd) : Bool :=
  s.fields.any fun x => x.threads.any fun h => h.busy && h.inst == c.inst && h.tag == c.tag && h.atom

/-- The first part of INSTANCE_RESET (R116 steps 1 to 3): admission stops, every command of the target but the one that resets
it ends with INSTANCE_RESET, those past their commit point when they have run to completion (R117), a thread's at its next microcode boundary
(R368), and the target's transient objects are
destroyed. The answer is the block of *INSTANCE_RESET results*. -/
def State.resetInstance (s : State) (c : Cmd) (t : Nat) : Bytes × State :=
  let mine := s.cmds.filter fun d => d.inst == t && !(d.inst == c.inst && d.tag == c.tag)
  let dead := (s.transientKeys t).length
  let xf := (s.xfers.filter (fun x => x.inst == t)).length + (s.outTransfers t).length
  let s := s.modInst t fun i => { i with resetting := some (c.inst, c.tag) }
  let s := mine.foldl (fun s d => if d.pastCommit || s.inAtom d then s.modCmd d.inst d.tag fun e => { e with reset := true }
    else s.setDone d.inst d.tag { status := .instanceReset }) s
  let s := (s.destroyTransient t).destroyImages t
  let s := mine.foldl (fun s d => match d.stage with
    | .done r => s.modCmd d.inst d.tag fun e => { e with stage := .done (s.resetReply d r) }
    | _ => s) s
  (toBE 4 mine.length ++ toBE 4 dead ++ toBE 2 xf ++ [0, 0], s)

/-- Every other command of the target has had its reply released. -/
def State.drainedOf (s : State) (c : Cmd) (t : Nat) : Bool :=
  !s.cmds.any fun d => d.inst == t && !(d.inst == c.inst && d.tag == c.tag)

/-- No earlier instance command that names the same target is still to execute (R427): the commands of page 0x0Exx that name one
among themselves, and INSTANCE_RESET beside INSTANCE_DESTROY. An INSTANCE_CREATE of ID 0 names none. -/
def State.targetTurn (s : State) (c : Cmd) : Bool :=
  let mine := fun (d : Cmd) => [0x0E01, 0x0E02, 0x0E03, 0x0E04, 0x0E05].contains (basicOp d.op)
  !s.cmds.any fun d => d.number < c.number && !d.isDone && d.p 0 1 == c.p 0 1 &&
    (d.p 0 1 != 0 || (basicOp d.op != 0x0E01 && basicOp c.op != 0x0E01)) &&
    (mine d && mine c || basicOp d.op == 0x0004 && basicOp c.op == 0x0E02 || basicOp d.op == 0x0E02 && basicOp c.op == 0x0004)

/-- INSTANCE_RESET (R115 to R118). The reply waits for the INSTANCE_RESET replies of the target, which go out under the old
reply tags; the windows are emptied when it is released (R86). -/
def instanceResetDesc : Desc where
  op := 0x0004
  pre s c := [(c.len != 4, .badLength), (c.p 1 3 != 0, .badParameter), (!s.hasInst (c.p 0 1), .noSuchInstance)]
  post _ c := [(c.runAt != .operational && c.runAt != .fallow, .stateForbids)]
  turn s c := s.targetTurn c
  body s c :=
    let t := c.p 0 1
    let (b, s) := if c.aux == 0 then
        let (b, s) := s.resetInstance c t
        (b, s.modCmd c.inst c.tag fun e => { e with aux := 1, drawn := b })
      else (c.drawn, s)
    if s.drainedOf c t then (s, ok b) else (s, none)

/-- INSTANCE_RESET. -/
def execInstanceReset (r : CmdRec) (s : State) : Host.Outcome State Fault Refusal := .next (runCommand instanceResetDesc r s)

end Sys2Proof.Machine
end

