-- ==== Sys2Proof/Machine/Receive.lean ====
section
/-! DEFINITION. The receive side of Drill (R65 to R92): frames, transfers, credits, mailboxes, pause. -/
namespace Sys2Proof.Machine

/-- The Drill header (R67). -/
structure Header where
  version : Nat
  type : Nat
  more : Bool
  ackReq : Bool
  ordered : Bool
  rsv : Bool          -- a reserved header bit is set
  inst : Nat
  prio : Nat
  seq : Nat
  flen : Nat
  tlen : Nat
  segIdx : Nat
  xfer : Nat
deriving DecidableEq, Repr

/-- Read the header from the bytes after the EtherType (R67). -/
def Header.read (b : Bytes) : Header :=
  { version := byteAt b 0 / 16, type := byteAt b 0 % 16, more := bit (byteAt b 1) 7, ackReq := bit (byteAt b 1) 6,
    ordered := bit (byteAt b 1) 5, rsv := byteAt b 1 % 32 != 0 || byteAt b 3 % 32 != 0, inst := byteAt b 2,
    prio := byteAt b 3 / 32, seq := num b 4 4, flen := num b 8 3, tlen := num b 11 3, segIdx := num b 14 2,
    xfer := num b 16 4 }

/-- Payload bytes of a frame: FLEN bytes after the header. -/
def rxPayload (f : RxFrame) : Bytes := slice f.body 24 (Header.read f.body).flen

/-- The 64-bit PN of a frame under GCM-AES-XPN-256, from the 32 bits its SecTAG carries and the lowest PN acceptable: the upper half is
that one's, or the next where the lower halves show a wrap (IEEE 802.1AE-2018; log entry 96). -/
def xpn (lowest pn : Nat) : Nat :=
  (if pn < 2 ^ 31 ∧ 2 ^ 31 ≤ lowest % 2 ^ 32 then lowest / 2 ^ 32 + 1 else lowest / 2 ^ 32) * 2 ^ 32 + pn

/-- The lowest PN a receive SA accepts: its next one less the replay window of MACSEC_CTL (R93). -/
def State.lowestPn (s : State) (a : SecSa) : Nat := a.nextPn - s.settingF 0x17 / 2 ^ 64 % 2 ^ 32

/-- The receive SA a protected frame came under, if it passes strict validation (R93): known SCI and AN, encrypted, ICV
right, PN not below the lowest acceptable. -/
def State.rxSa (s : State) (p : Nat) (t : SecTag) : Option SecSa :=
  (s.port p).sas.find? fun a => !a.tx && a.sci == t.sci && a.an == t.an && a.keyReg != [] && t.encrypted && t.icvOk &&
    decide (s.lowestPn a ≤ xpn (s.lowestPn a) t.pn)

/-- Receive checks 1 to 3 (R72): FCS and length, MACsec, addresses. The answer is the SA the frame came under. Its next PN moves on here,
whatever a later check says of the frame (log entry 97; DESIGN CHOICE). -/
def State.rxLink (s : State) (f : RxFrame) : Except State (Option SecSa × State) :=
  let pt := s.port f.port
  if !pt.up || s.pkg.run == .inert then .error s
  else if !f.fcsOk || f.len > 9216 then .error (s.drop f.port fun d => { d with mac := d.mac + 1 })
  else
    let sa := f.sec.bind (s.rxSa f.port)
    let secOk := match f.sec with
      | some _ => pt.macsec && sa.isSome
      | none => !pt.macsec || pt.pendingSa
    if pt.macsec && !secOk then .error (s.drop f.port fun d => { d with secy := d.secy + 1 })
    else if !secOk || f.dst != s.fuses.station || f.ethertype != s.settingF 0x01 || f.body.length < 24 then
      .error (s.drop f.port fun d => { d with addr := d.addr + 1 })
    else if f.port == 1 && s.mode .inline then .error (s.drop f.port fun d => { d with line := d.line + 1 })
    else
      match sa with
      | none => .ok (none, s)
      | some a => .ok (some a, s.modPort f.port fun x =>
          { x with sas := x.sas.map fun b =>
            if b == a then { b with nextPn := max b.nextPn (xpn (s.lowestPn b) ((f.sec.map (·.pn)).getD 0) + 1) } else b })

/-- Receive check 6 (R72, R410, R96): the instance exists, the frame matches its bindings, the port lets it in and the
instance is not being reset. -/
def State.boundOk (s : State) (f : RxFrame) (h : Header) (sa : Option SecSa) : Bool :=
  match s.inst? h.inst with
  | none => false
  | some i =>
    i.resetting.isNone && (i.bind.vid == 0 || f.tci.any (fun t => t % 4096 == i.bind.vid)) &&
    (i.bind.srcmac == 0 || i.bind.srcmac == f.src) &&
    (!bit i.bind.flags 1 || sa.any (fun a => !a.pkg && a.bind == h.inst)) &&
    (!(s.port f.port).sas.any (fun a => !a.tx && !a.pkg && a.bind == h.inst) || !(s.port f.port).macsec ||
      (s.port f.port).pendingSa || sa.any (fun a => !a.pkg && a.bind == h.inst)) &&
    (!(s.port f.port).pendingSa || h.inst == 0)

/-- Receive checks 1 to 6 (R72). -/
def State.rxHead (s : State) (f : RxFrame) (ty : Nat) : Except State (Header × State) :=
  match s.rxLink f with
  | .error s => .error s
  | .ok (sa, s) =>
    let h := Header.read f.body
    if (crc32c (f.body.take 20)).toNat != num f.body 20 4 then .error (s.drop f.port fun d => { d with hcrc := d.hcrc + 1 })
    else if h.version != 1 || ! [0, 3, 4, 5].contains h.type then .error (s.drop f.port fun d => { d with type := d.type + 1 })
    else if h.type != ty then .error s
    else if !s.boundOk f h sa then .error (s.drop f.port fun d => { d with binding := d.binding + 1 })
    else .ok (h, s)

/-- The context of a frame. -/
def rxCtx (f : RxFrame) : Ctx := { port := f.port, src := f.src, tci := f.tci, sci := f.sec.map (·.sci) }

/-- What the sequence window says of a tag (R84). -/
inductive SeqAnswer where
  | accept (h : Nat) | duplicate | outside
deriving DecidableEq, Repr

/-- R84. -/
def Window.judge (w : Window) (t : Nat) : SeqAnswer :=
  match w.h with
  | none => .accept t
  | some h =>
    if later t h then .accept t
    else if (h + 2 ^ 32 - t) % 2 ^ 32 ≤ 4095 then (if w.seen.contains t then .duplicate else .accept h)
    else .outside

/-- Record an accepted tag; tags that leave the window are forgotten (R84). -/
def Window.record (w : Window) (h t : Nat) : Window :=
  { h := some h, seen := t :: w.seen.filter (fun x => (h + 2 ^ 32 - x) % 2 ^ 32 ≤ 4095) }

/-- Receive check 9: A against 24 + FLEN, with the padding rule (R74). -/
def lengthCheck (f : RxFrame) (h : Header) : Option Status :=
  let a := f.body.length
  if a < 24 + h.flen then some .lengthShort
  else if a > 24 + h.flen && (f.sec.isSome || f.len > (if f.tci.isSome then 68 else 64)) then some .lengthLong
  else none

/-- Read whole records from a payload (R75); fuel is its length. -/
def readRecords : Nat → Bytes → Except Status (List (Nat × Nat × Bytes × Nat))
  | 0, b => if b.isEmpty then .ok [] else .error .lengthLong
  | fuel + 1, b =>
    if b.isEmpty then .ok []
    else if b.length < 10 then .error .lengthLong
    else if b.length < 10 + num b 3 3 then .error .lengthShort
    else
      match readRecords fuel (b.drop (10 + num b 3 3)) with
      | .error e => .error e
      | .ok rs => .ok ((num b 0 2, byteAt b 2, slice b 10 (num b 3 3), num b 6 4) :: rs)

/-- TLEN of an unsegmented frame must equal FLEN (R75). -/
def unsegLen (h : Header) : Option Status :=
  if h.tlen > h.flen then some .lengthShort else if h.tlen < h.flen then some .lengthLong else none

/-- Receive check 12: the tag is recorded, the frame is the instance's most recent one (R72, R557). -/
def State.accept (s : State) (f : RxFrame) (h : Header) (top : Nat) : State :=
  s.modInst h.inst fun i =>
    { i with window := i.window.record top h.seq, lastRx := some (f.port, f.src),
             stats := { i.stats with octIn := sat48 (i.stats.octIn + f.len) } }

/-- Answer an ACK_REQ (R88). -/
def State.ackIf (s : State) (f : RxFrame) (h : Header) : State :=
  if h.ackReq then s.sendCredit h.inst (s.replyPort f.port) f.src (some f.port) (some h.seq) else s

/-- Receive checks 7 to 9, then the type's own checks of 10 and 11 and its effect. bad says that R77 is broken. -/
def State.rxBody (s : State) (f : RxFrame) (h : Header) (bad : Bool) (own : State → Option Status)
    (effect : Nat → State → State) : State :=
  let w := (s.inst h.inst).window.judge h.seq
  match firstFail
      [(h.rsv || bad, Status.badParameter), (w == .outside, .seqOutOfWindow)] with
  | some e => s.frameStatus h.inst (rxCtx f) e h.seq h.xfer
  | none =>
    match w with
    | .duplicate => ((s.countTurned h.inst).drop f.port fun d => { d with dup := d.dup + 1 }).ackIf f h
    | .outside => s
    | .accept top =>
      match (lengthCheck f h).or (own s) with
      | some e => s.frameStatus h.inst (rxCtx f) e h.seq h.xfer
      | none => effect top s

/-- The record of a request frame at one position. -/
def recOf (f : RxFrame) (h : Header) (pos : Nat) (r : Nat × Nat × Bytes × Nat) : Rec :=
  { inst := h.inst, tag := r.2.2.2, op := r.1, flags := r.2.1, params := r.2.2.1, ctx := (rxCtx f), seq := h.seq, pos := pos,
    prio := h.prio, ordered := h.ordered }

/-- The commands of the control page that act from their admission on (R47, R48, R54, R116, R119) are carried out at once: what the frame
holds behind them finds the run state, the mode word, the stop of admission or the instance as they leave them. -/
def State.atOnce (s : State) (i t : Nat) : State :=
  match s.cmd? i t with
  | none => s
  | some c =>
    match basicOp c.op with
    | 0x0003 => (advance resetDesc .none s c).releaseReset i t
    | 0x0004 => advance instanceResetDesc .none s c
    | 0x0005 => advance fallowDesc .none s c
    | 0x0006 => advance wakeDesc .none s c
    | 0x0007 => advance recoverDesc .none s c
    | 0x0010 => advance modeSetDesc .none s c
    | _ => s

/-- Admission of one record of a frame (R101), and what follows from it at once. -/
def State.admitOne (s : State) (r : Rec) : State :=
  match s.takeIn r with
  | (true, s) => s.atOnce r.inst r.tag
  | (false, s) => s

/-- Admit the records of a frame in order (R101). -/
def State.admitAll (s : State) (f : RxFrame) (h : Header) : Nat → List (Nat × Nat × Bytes × Nat) → State
  | _, [] => s
  | k, r :: rs => (s.admitOne (recOf f h k r)).admitAll f h (k + 1) rs

/-- Segment 0 of a transfer at step 10 (R76). -/
def segZeroCheck (h : Header) (b : Bytes) : Option Status :=
  let p := num b 3 3
  firstFail [(h.flen < 10, Status.lengthShort), (h.flen > 10 + p, .lengthLong), (h.tlen < 10 + p, .lengthShort),
    (h.tlen > 10 + p, .lengthLong)]

/-- Segment 0 at step 11 (R78). -/
def State.transferRoom (s : State) (h : Header) : Option Status :=
  firstFail [((s.xfers.filter (fun x => x.inst == h.inst)).length ≥ 64 || s.xfers.length ≥ 1024, Status.transfersFull),
    (h.inst != 0 && !roomFor (s.inst h.inst).bind.shares.gddr6 (s.usedG6 h.inst) h.tlen, .shareExhausted)]

/-- A STAGE page of a field is given out zero-encoded (R437, R445). -/
def State.newStage (s : State) (f i : Nat) : Nat × State :=
  let r := s.allocPages f 1 4 i
  let p := r.1.headD 0
  (p, r.2.modField f fun y => { y with pages := y.pages.map fun (g : Page) => if g.page == p then { g with version := 0 } else g })

/-- Page k of a staged transfer, given out when it is first needed (R78). -/
def State.stagePage (s : State) (x : Xfer) (k : Nat) : Nat × State :=
  match x.pages[k]? with
  | some p => (p, s)
  | none =>
    let r := s.newStage x.field x.inst
    (r.1, { r.2 with xfers := r.2.xfers.map fun (y : Xfer) =>
      if y.inst == x.inst && y.tag == x.tag then { y with pages := y.pages ++ [r.1] } else y })

/-- One page's part of a staged segment (R78, R442, R445): a refused write ends the command with DEST_POISONED (R443). -/
def State.stagePiece (s : State) (i t k n : Nat) : State :=
  match s.xfers.find? (fun x => x.inst == i && x.tag == t) with
  | none => s
  | some x =>
    let r := s.stagePage x k
    let w := r.2.pageWrite i t x.field r.1 n
    if w.1 then w.2 else w.2.complete i t { status := .destPoisoned }

/-- The pages that bytes pos to pos + n − 1 of a transfer touch, and how many bytes of each. -/
def stagePieces (pos n : Nat) : List (Nat × Nat) :=
  if n == 0 then [] else (List.range (ceilDiv (pos + n) 2048 - pos / 2048)).map fun j =>
    let k := pos / 2048 + j
    (k, min (pos + n) (2048 * (k + 1)) - max pos (2048 * k))

/-! ### The staged output of AEAD commands (R267) -/

/-- One of the AEAD commands (R262). -/
def Cmd.aead (c : Cmd) : Bool := basicOp c.op == 0x0501 || basicOp c.op == 0x0502

/-- Messages in the request queue of a pipeline (R260). -/
def State.pipeLoad (s : State) (f k : Nat) : Nat := (s.cmds.filter fun c => !c.isDone && c.pipes.contains (f, k)).length

/-- The pipeline of a field that caches a key (R260). -/
def FieldSt.cachedOn (x : FieldSt) (h : Nat) : Option Nat := (List.range 4).find? fun k => (x.keyCache.getD k []).contains h

/-- The pipeline Caddy places a request for a key on, others aside: the one that caches it, else the one with the shortest queue, the
lower-numbered when two tie (R260). -/
def State.pipeFor (s : State) (f h : Nat) (others : List Nat) : Nat :=
  match ((s.field f).cachedOn h).filter fun k => !others.contains k with
  | some k => k
  | none => (((List.range 4).filter fun k => !others.contains k).foldl (fun b k => match b with
      | none => some k
      | some j => if s.pipeLoad f k < s.pipeLoad f j then some k else b) none).getD 0

/-- A pipeline caches a key: 1,024 at most (R260); a full cache drops the schedule placed least recently (log entry 128; DESIGN CHOICE). -/
def FieldSt.cacheKey (x : FieldSt) (k h : Nat) : FieldSt :=
  { x with keyCache := x.keyCache.modify k fun q => (h :: q.filter (· != h)).take 1024 }

/-- A command's message is placed on a pipeline of each of its fields; its local twins take two of one field (R260, R268). -/
def State.placeMessage (s : State) (c : Cmd) (h : Nat) : State :=
  let f := c.field.getD s.pkg.headland
  let k := s.pipeFor f h []
  let ps := if c.twinLocal then [(f, k), (f, s.pipeFor f h [k])] else (c.fields s).map fun f => (f, s.pipeFor f h [])
  s.modCmd c.inst c.tag fun e => { e with pipes := ps }

/-- The pipelines of a command's message cache its key (R260). -/
def State.cacheMessage (s : State) (c : Cmd) (h : Nat) : State :=
  (((s.cmd? c.inst c.tag).map (·.pipes)).getD []).foldl (fun s p => s.modField p.1 fun x => x.cacheKey p.2 h) s

/-- Page k of a command's output in its executing field, given out when it is first needed (R267). -/
def State.outPage (s : State) (c : Cmd) (k : Nat) : (Nat × Nat) × State :=
  match c.outPages[k]? with
  | some w => (w, s)
  | none =>
    let f := c.field.getD 0
    let r := s.newStage f c.inst
    ((f, r.1), r.2.modCmd c.inst c.tag fun e => { e with outPages := e.outPages ++ [(f, r.1)] })

/-- One page's part of a command's output: a refused write ends the command with DEST_POISONED (R267, R442, R443). -/
def State.outPiece (s : State) (i t k n : Nat) : State :=
  match s.cmd? i t with
  | none => s
  | some c =>
    if c.isDone then s
    else
      let r := s.outPage c k
      let w := r.2.pageWrite i t r.1.1 r.1.2 n
      if w.1 then w.2 else w.2.complete i t { status := .destPoisoned }

/-- Bytes pos to pos + n − 1 of a command's output are staged. -/
def State.stageOut (s : State) (i t pos n : Nat) : State :=
  (stagePieces pos n).foldl (fun s p => s.outPiece i t p.1 p.2) s

/-- What the part of an AEAD block that has arrived gives: where the message stands in the output, behind the IV the part is still to
draw, and how far it is computed (R264 to R266). -/
def aeadReach (p : Bytes) : Nat × Nat :=
  let draws := bit (byteAt p 7) 0
  let base := if draws then byteAt p 8 else 0
  (base, base + min (p.length - (15 + (if draws then 0 else byteAt p 8) + num p 10 2)) (num p 12 3))

/-- An AEAD command whose key is loaded stages the output its segments have given so far (R80, R267). -/
def State.stageAead (s : State) (i t : Nat) : State :=
  match s.cmd? i t, s.xfers.find? (fun x => x.inst == i && x.tag == t) with
  | some c, some x =>
    if c.isDone || !c.aead || !c.begun || c.field.isNone then s
    else
      let r := aeadReach (x.staged.drop 10)
      (s.modCmd i t fun e => { e with out := max c.out r.2 }).stageOut i t (max c.out r.1) (r.2 - max c.out r.1)
  | _, _ => s

/-- An AEAD command's key is loaded: its pipelines cache it (R260), a chaining state that another field has saved is read and unwrapped (R269,
R441), and what has arrived is worked on. -/
def State.startAead (s : State) (c : Cmd) (h : Nat) : State :=
  let s := s.cacheMessage c h
  if c.image.isEmpty then s.stageAead c.inst c.tag
  else
    match (c.imgPages.getLast?.map fun w => s.readBlob c.inst c.tag w.1 [w.2]).getD (true, s) with
    | (false, s) => s.complete c.inst c.tag { status := .sourcePoisoned }
    | (true, s) =>
      if Config.test .keyUnwrap [kdfCounter (s.kek c.fld) (ascii "THRESHER MIG") [] 32, toBE 4 96, c.image] then
        (s.modCmd c.inst c.tag fun e => { e with image := [] }).stageAead c.inst c.tag
      else s.complete c.inst c.tag { status := .faultDetected }

/-- Pages of any fields are read: false at the first that is uncorrectable or poisoned (R441). -/
def State.readPairs (s : State) (i t : Nat) : List (Nat × Nat) → Bool × State
  | [] => (true, s)
  | w :: ws =>
    match s.readBlob i t w.1 [w.2] with
    | (true, s) => s.readPairs i t ws
    | r => r

/-- The rest of a command's output of total bytes is staged, its first iv bytes being drawn now; the images are flushed, and the output
is read to be released (R265 to R267, R441, R443, R446): the status the command ends with where a page refuses. -/
def State.releaseOut (s : State) (c : Cmd) (iv total : Nat) : Option Status × State :=
  let pos := max c.out iv
  let s := ((s.stageOut c.inst c.tag 0 iv).stageOut c.inst c.tag pos (total - pos)).flushMerges c.inst c.tag
  match (s.cmd? c.inst c.tag).filter fun e => !e.isDone with
  | none => (some .destPoisoned, s)
  | some e =>
    match s.readPairs c.inst c.tag e.outPages with
    | (true, s) => (none, s)
    | (false, s) => (some .sourcePoisoned, s)

/-- The staging area of a failed AEAD_OPEN is overwritten with zeros (R266). -/
def State.wipeOut (s : State) (c : Cmd) : State :=
  (((s.cmd? c.inst c.tag).map (·.outPages)).getD []).foldl (fun s w => s.fullWrite w.1 w.2) s

/-- The bytes of a segment are staged in the GDDR6 of the field that holds Headland (R78); a streaming command consumes its own as they
arrive (R80), and an AEAD command stages its output (R267). -/
def State.stageBytes (s : State) (i t pos n : Nat) : State :=
  if (s.cmd? i t).any (fun c => opStreaming s c.op c.params) then s.stageAead i t
  else (stagePieces pos n).foldl (fun s p => s.stagePiece i t p.1 p.2) s

/-- The staged bytes are read when the command is dispatched: its images are flushed, and a page that cannot be read ends it with
SOURCE_POISONED (R441, R446). -/
def State.readStaged (s : State) (i t : Nat) : State :=
  let s := s.flushMerges i t
  match s.xfers.find? (fun x => x.inst == i && x.tag == t) with
  | none => s
  | some x =>
    match s.readBlob i t x.field x.pages with
    | (true, s) => s
    | (false, s) => s.complete i t { status := .sourcePoisoned }

/-- Open a transfer when its record is admitted (R79). A streaming command is dispatched here, any other when its last segment
is accepted (R80). -/
def State.openXfer (s : State) (f : RxFrame) (h : Header) (r : Rec) : State :=
  match (if opStreaming s r.op r.params then s.takeIn r else s.enter r) with
  | (false, s) => s
  | (true, s) =>
    if (s.cmd? r.inst r.tag).any (fun c => !c.isDone) then
      State.stageBytes (State.absorbSegment { s.modCmd r.inst r.tag (fun c => { c with stage := .receiving, xfer := some h.xfer }) with
        xfers := s.xfers ++ [{ inst := h.inst, id := h.xfer, tag := r.tag, tlen := h.tlen, got := h.flen, nextSeg := 1,
                               staged := (rxPayload f), port := f.port, last := s.clock.time, field := s.pkg.headland }] } r.inst r.tag)
        r.inst r.tag 0 h.flen
    else s

/-- A received request frame (R72). Where neither the records fill the payload nor TLEN equals FLEN, the records decide the frame status
(log entry 98; DESIGN CHOICE). -/
def State.request (s : State) (f : RxFrame) : State :=
  match s.rxHead f 0 with
  | .error s => s
  | .ok (h, s) =>
    let b := (rxPayload f)
    if h.more then
      s.rxBody f h (h.segIdx != 0 || h.xfer == 0 || h.flen ≥ h.tlen || s.xfers.any (fun x => x.inst == h.inst && x.id == h.xfer))
        (fun s => (segZeroCheck h b).or (s.transferRoom h))
        (fun top s => ((s.accept f h top).openXfer f h { recOf f h 0 (num b 0 2, byteAt b 2, b.drop 10, num b 6 4) with whole := false }).ackIf f h)
    else
      s.rxBody f h (h.xfer != 0 || h.segIdx != 0)
        (fun _ => match readRecords b.length b with
          | .error e => some e
          | .ok _ => unsegLen h)
        (fun top s => match readRecords b.length b with
          | .error _ => s
          | .ok rs => ((s.accept f h top).admitAll f h 0 rs).ackIf f h)

/-- Size of a port's ingress part for a priority: 2 MiB split by PFC_SPLIT (R89). -/
def State.ingressPart (s : State) (prio : Nat) : Nat := 2097152 * settingByte 8 (s.settingF 0x13) prio / 64

/-- Bytes a frame of a priority adds to, and the room there (R89): the priority's part with PFC on, else the whole buffer. -/
def State.ingressRoom (s : State) (p pr : Nat) : Nat × Nat :=
  match (s.port p).flow with
  | .pfc => ((s.port p).occupancy.getD pr 0, s.ingressPart pr)
  | _ => ((s.port p).occupancy.sum, 2097152)

/-- Hold a frame that arrives during a Headland failover (R38), with the pause rules of R89; a full buffer drops it. -/
def State.bufferFrame (s : State) (f : RxFrame) : State :=
  let pr := tciPrio f.tci
  let room := s.ingressRoom f.port pr
  if !(s.port f.port).up then s
  else if room.1 + f.len > room.2 then s.drop f.port fun d => { d with mac := d.mac + 1 }
  else
    let s := s.modPkg fun p => { p with buffered := p.buffered ++ [.frame f] }
    let k := if (s.port f.port).flow == .pfc then pr else 0
    let above := (s.port f.port).flow != .off && (room.1 + f.len) * 4 > room.2 * 3 && !((s.port f.port).xoff.getD k false)
    let s := s.modPort f.port fun x =>
      { x with occupancy := x.occupancy.set pr (x.occupancy.getD pr 0 + f.len), xoff := if above then x.xoff.set k true else x.xoff }
    if above then { s with tx := s.tx ++ ((s.port f.port).pauses pr).map fun q => Sent.pause f.port q true } else s

/-- REQUEST_FRAME (R72): buffered during a failover, else received. -/
def execRequestFrame (f : RxFrame) (s : State) : Host.Outcome State Fault Refusal :=
  .next (if s.pkg.failover then s.bufferFrame f else s.request f)

/-- A broken transfer ends its command with TRANSFER_ABORTED and its staged data is zeroised (R79). -/
def State.abortXfer (s : State) (x : Xfer) : State :=
  { s with xfers := s.xfers.filter (· != x) }.complete x.inst x.tag { status := .transferAborted }

/-- The record of an outstanding command as Headland dispatches it. -/
def Cmd.record (c : Cmd) : Rec :=
  { inst := c.inst, tag := c.tag, op := c.op, flags := c.flags, params := c.params, ctx := c.ctx, seq := c.seq, pos := c.pos,
    prio := c.prio, ordered := c.ordered }

/-- The last segment is accepted (R79, R80): the staged pages are read back and freed, and a command that did not stream is
dispatched. -/
def State.closeXfer (s : State) (i t : Nat) (all : Bytes) : State :=
  let s := s.readStaged i t
  if s.xfers.any (fun y => y.inst == i && y.tag == t) then
    let s := State.modCmd { s with xfers := s.xfers.filter fun y => !(y.inst == i && y.tag == t) } i t fun c =>
      { c with stage := .dispatched, params := all.drop 10 }
    let s := s.freeStage
    match s.cmd? i t with
    | some c => if c.field.isSome then s else (s.dispatchCmd c.record).atOnce i t
    | none => s
  else s

/-- A segment of an open transfer (R79, R80): it is staged; the last one dispatches the command. A transfer whose command a refused
write or an unreadable page has ended is closed. -/
def State.stageSegment (s : State) (f : RxFrame) (h : Header) (x : Xfer) : State :=
  let all := x.staged ++ rxPayload f
  let s := { s with xfers := s.xfers.map fun y =>
    if y == x then { x with got := x.got + h.flen, nextSeg := x.nextSeg + 1, staged := all, last := s.clock.time } else y }
  let s := (s.absorbSegment x.inst x.tag).stageBytes x.inst x.tag x.got h.flen
  if h.more then s else s.closeXfer x.inst x.tag all

/-- A received data segment (R72, R79). -/
def State.segment (s : State) (f : RxFrame) : State :=
  match s.rxHead f 3 with
  | .error s => s
  | .ok (h, s) =>
    match s.xfers.find? (fun x => x.inst == h.inst && x.id == h.xfer) with
    | none =>
      s.rxBody f h (h.xfer == 0) (fun _ => none) fun _ s =>
        (s.countTurned h.inst).drop f.port fun d => { d with segment := d.segment + 1 }
    | some x =>
      s.rxBody f h false (fun _ => none) fun top s =>
        if h.segIdx != x.nextSeg || h.tlen != x.tlen || x.got + h.flen > x.tlen || (!h.more && x.got + h.flen < x.tlen) then
          (s.countTurned h.inst).abortXfer x
        else ((s.accept f h top).stageSegment f h x).ackIf f h

/-- DATA_SEGMENT (R79). -/
def execDataSegment (f : RxFrame) (s : State) : Host.Outcome State Fault Refusal :=
  .next (if s.pkg.failover then s.bufferFrame f else s.segment f)

/-- SEG_GAP_EXPIRY (R79): no segment came within SEG_GAP. -/
def execSegGapExpiry (inst xfer : Nat) (s : State) : Host.Outcome State Fault Refusal :=
  .next (match s.xfers.find? (fun x => x.inst == inst && x.id == xfer) with
    | none => s
    | some x => s.abortXfer x)

/-- A received credit query (R75, R77, R88). -/
def State.creditQuery (s : State) (f : RxFrame) : State :=
  match s.rxHead f 5 with
  | .error s => s
  | .ok (h, s) =>
    s.rxBody f h (h.more || h.segIdx != 0 || h.xfer != 0)
      (fun _ => if h.flen > 0 then some .lengthLong else unsegLen h)
      fun top s => (s.accept f h top).sendCredit h.inst (s.replyPort f.port) f.src (some f.port) (if h.ackReq then some h.seq else none)

/-- CREDIT_QUERY (R88). -/
def execCreditQuery (f : RxFrame) (s : State) : Host.Outcome State Fault Refusal :=
  .next (if s.pkg.failover then s.bufferFrame f else s.creditQuery f)

/-- CREDIT_UPDATE_TIMER (R88): 20 µs after the previous update, if HELD has changed. -/
def execCreditUpdateTimer (inst : Nat) (s : State) : Host.Outcome State Fault Refusal :=
  .next (if s.hasInst inst && (s.inst inst).heldSent != s.held inst then s.creditUncaused inst else s)

/-! ### Mailboxes (R428 to R433) -/

/-- The queue from one instance toward another: a tenant's queue to the manager, or the manager's to it. -/
def State.queueTo (s : State) (src peer : Nat) : Mbox := if src == 0 then (s.inst peer).fromMgr else (s.inst src).toMgr

/-- Change that queue. -/
def State.modQueue (s : State) (src peer : Nat) (g : Mbox → Mbox) : State :=
  if src == 0 then s.modInst peer fun i => { i with fromMgr := g i.fromMgr }
  else s.modInst src fun i => { i with toMgr := g i.toMgr }

/-- Add messages to a queue with successive MSEQ, 0xFFFF_FFFF being followed by 1 (R430). -/
def Mbox.post (q : Mbox) : List Bytes → Mbox
  | [] => q
  | m :: ms => Mbox.post { q with msgs := q.msgs ++ [(q.next, m)], next := if q.next + 1 == 2 ^ 32 then 1 else q.next + 1 } ms

/-- Remove what an ACK acknowledges, by serial arithmetic (R430). -/
def Mbox.ack (q : Mbox) (a : Nat) : Mbox := { q with msgs := q.msgs.filter fun m => later m.1 a }

/-- MBOX_DOORBELL data (R432). -/
def Mbox.doorbell (q : Mbox) (sender : Nat) : Bytes :=
  toBE 1 sender ++ toBE 1 q.msgs.length ++ [0, 0] ++ toBE 4 ((q.msgs.head?.map (·.1)).getD 0)

/-- Answer a pull with one mailbox frame (R431). -/
def State.answerPull (s : State) (f : RxFrame) (me peer : Nat) : State :=
  let q := s.queueTo peer me
  let tci := s.eventTci me
  let p := s.replyPort f.port
  let fit := max 1 ((s.maxPayload p me tci - 8) / 64)
  let ms := q.msgs.take fit
  let pay := toBE 1 peer ++ toBE 1 ms.length ++ [0, 0] ++ toBE 4 ((ms.head?.map (·.1)).getD 0) ++ (ms.map (·.2)).flatten
  let s := s.modQueue peer me fun q =>
    { q with delivered := (ms.getLast?.map (·.1)).getD q.delivered, pulled := true }
  s.sendOne p f.src me tci (some f.port) 4 false pay.length 0 0 pay

/-- Mailbox frame at step 10 (R429). -/
def State.mboxCheck (s : State) (h : Header) (b : Bytes) : Option Status :=
  let peer := byteAt b 0
  let cnt := byteAt b 1
  let ackv := bit (byteAt b 2) 0
  let inq := s.queueTo peer h.inst
  firstFail
    [(h.flen < 8 + 64 * cnt, Status.lengthShort), (h.flen > 8 + 64 * cnt, .lengthLong), ((unsegLen h).isSome, (unsegLen h).getD .lengthShort),
     (cnt > 16 || byteAt b 2 > 1 || byteAt b 3 != 0 || (!ackv && num b 4 4 != 0) || h.more || h.xfer != 0 || h.segIdx != 0 ||
       (if h.inst == 0 then peer == 0 || !s.hasInst peer else peer != 0), .badParameter),
     (s.pkg.run != .operational && s.pkg.run != .fallow, .stateForbids),
     (ackv && later (num b 4 4) inq.delivered, .badParameter),
     (decide ((s.queueTo h.inst peer).msgs.length + cnt > 16), .queueFull)]

/-- The effect of a mailbox frame: its ACK, its posts with their doorbell, or the answer to its pull (R429 to R432). -/
def State.mboxEffect (s : State) (f : RxFrame) (h : Header) (b : Bytes) : State :=
  let peer := byteAt b 0
  let cnt := byteAt b 1
  let s := if bit (byteAt b 2) 0 then s.modQueue peer h.inst fun q => q.ack (num b 4 4) else s
  if cnt == 0 then s.answerPull f h.inst peer
  else
    let empty := (s.queueTo h.inst peer).msgs.isEmpty
    let s := s.modQueue h.inst peer fun q =>
      { q.post ((List.range cnt).map fun k => slice b (8 + 64 * k) 64) with pulled := q.pulled && !empty }
    if empty then s.raise peer 0x0502 ((s.queueTo h.inst peer).doorbell h.inst) else s

/-- A received mailbox frame (R429). -/
def State.mailbox (s : State) (f : RxFrame) : State :=
  match s.rxHead f 4 with
  | .error s => s
  | .ok (h, s) =>
    s.rxBody f h false (fun s => s.mboxCheck h (rxPayload f))
      fun top s => ((s.accept f h top).mboxEffect f h (rxPayload f)).ackIf f h

/-- MAILBOX_FRAME (R429). -/
def execMailboxFrame (f : RxFrame) (s : State) : Host.Outcome State Fault Refusal :=
  .next (if s.pkg.failover then s.bufferFrame f else s.mailbox f)

/-- MBOX_DOORBELL_REPEAT (R432): every 10 ms while the queue stays non-empty with no pull. -/
def execMboxDoorbellRepeat (tenant : Nat) (toTenant : Bool) (s : State) : Host.Outcome State Fault Refusal :=
  let (src, dst) := if toTenant then (0, tenant) else (tenant, 0)
  let q := s.queueTo src dst
  .next (if s.hasInst tenant && tenant != 0 && !q.msgs.isEmpty && !q.pulled then s.raise dst 0x0502 (q.doorbell src) else s)

/-! ### Pause (R89, R90) -/

/-- PAUSE_FRAME_RX (R90): the host pauses or resumes priorities; 802.3x pause names all eight. -/
def execPauseFrameRx (port : Nat) (prios : BitVec 8) (on : Bool) (s : State) : Host.Outcome State Fault Refusal :=
  let s := if (s.port port).up then s.modPort port fun x => { x with paused := if on then x.paused ||| prios else x.paused &&& ~~~prios } else s
  .next (if on then s else s.flushTx)

/-- PAUSE_TIMER_EXPIRY (R90): a pause the host did not refresh ends. -/
def execPauseTimerExpiry (port prio : Nat) (s : State) : Host.Outcome State Fault Refusal :=
  .next (s.modPort port fun x => { x with paused := x.paused &&& ~~~(1#8 <<< prio) }).flushTx

/-- PAUSE_REFRESH (R55, R58, R89): the part refreshes the pause of a whole port, and an XOFF it has sent for a priority while the occupancy
stays above half of its part. -/
def execPauseRefresh (port prio : Nat) (s : State) : Host.Outcome State Fault Refusal :=
  .next (if s.pkg.pausing && port < 2 && (s.port port).up then
      { s with tx := s.tx ++ ((s.port port).allPauses.filter fun q => q == 8 || q == prio).map fun q => Sent.pause port q true }
    else if (s.port port).xoff.getD prio false then
      let send := fun on => s.tx ++ ((s.port port).pauses prio).map fun q => Sent.pause port q on
      if s.pkg.packets.isEmpty && (s.ingressRoom port prio).1 * 2 < (s.ingressRoom port prio).2 then
        { s.modPort port (fun x => { x with xoff := x.xoff.set prio false }) with tx := send false }
      else { s with tx := send true }
    else s)

end Sys2Proof.Machine
end

