-- ==== Sys2Proof/Machine/Faults.lean ====
section
/-! DEFINITION. Fields lost, Headland failover, Plolys links, sensors and alarms (R17, R32 to R42, R489 to R498, R537, R547). -/
namespace Sys2Proof.Machine

/-! ### Fields and Headland -/

/-- FIELD_ALIVE_FALL (R32, R33, R38, R42). -/
def execFieldAliveFall (field : Nat) (s : State) : Host.Outcome State Fault Refusal := .next (s.loseField field)

/-- Bytes that show which of the tags H − k, k from 0 to 4,095, were accepted (R516). -/
def acceptedMap (w : Window) : Bytes :=
  let h := w.h.getD 0
  let ks := w.seen.map fun t => (h + 2 ^ 32 - t) % 2 ^ 32
  (List.range 512).map fun b => BitVec.ofNat 8 ((List.range 8).map fun j => if ks.contains (8 * b + j) then 2 ^ j else 0).sum

/-- HEADLAND_FAILOVER data (R38, R516). -/
def failoverData (w : Window) : Bytes := toBE 4 (w.h.getD 0) ++ toBE 1 w.h.isSome.toNat ++ [0, 0, 0] ++ acceptedMap w

/-- Step 1 of R38: the commands that end with MACHINE_CHECK. Those of field 0 that an alarm has ended keep ALARM_ERASED
(R487, R493). -/
def failoverEnds (c : Cmd) : Bool :=
  (c.field.getD 0 == 0 || c.stage == .receiving) && c.stage != .done { status := .alarmErased }

/-- End a command whatever it has staged. -/
def State.overrule (s : State) (c : Cmd) (st : Status) : State :=
  (s.setDone c.inst c.tag { status := st }).modCmd c.inst c.tag fun e => { e with stage := .done { status := st } }

/-- Port 1 after the loss of field 0: where the host link was a 400G form, lanes 2 and 3 negotiate 200GBASE (R40). -/
def State.relink (s : State) : State :=
  let new : Port := { form := some (s.port 0).halved, firstLane := 2, macsec := s.macsecOn 1, pendingSa := s.macsecOn 1, flow := portFlow 1,
                      drops := (s.port 1).drops }
  let s := if (s.port 0).bonded then s.modPort 1 fun _ => new else s
  s.modPort 0 fun p => ({ drops := p.drops } : Port)

/-- Pass a frame that was buffered on to the receive checks of its type (R38 step 5, R72). -/
def State.receive (s : State) (f : RxFrame) : State :=
  match (Header.read f.body).type with
  | 3 => s.segment f
  | 4 => s.mailbox f
  | 5 => s.creditQuery f
  | _ => s.request f

/-- The ingress buffer has emptied: XON for every priority that was stopped (R89). -/
def State.xonAll (s : State) (p : Nat) : State :=
  let stopped := ((List.range 8).filter fun k => (s.port p).xoff.getD k false).flatMap (s.port p).pauses
  let s := s.modPort p fun x => { x with occupancy := List.replicate 8 0, xoff := List.replicate 8 false }
  { s with tx := s.tx ++ stopped.map fun k => Sent.pause p k false }

/-- Send the events an instance has waiting, one by one, as far as its port lets them out (R38 step 3). -/
def State.eventDrain (s : State) (inst : Nat) : State :=
  (List.range ((s.inst inst).evq.length + 1)).foldl (fun s _ => s.eventSend inst) s

/-- The frames of the newest transfer in a list of them, newest first, back to its first. -/
def newestTransfer : List Frame → List Frame
  | [] => []
  | f :: fs => if f.segIdx == 0 then [f] else f :: newestTransfer fs

/-- The frames of an outbound transfer of an instance that have left, oldest first. -/
def State.leftOf (s : State) (i x : Nat) : List Frame :=
  (newestTransfer (s.tx.reverse.filterMap fun e => match e with
    | .frame f _ => if f.inst == i && f.xfer == x then some f else none
    | _ => none)).reverse

/-- A reply whose transfer was being sent is sent again whole, under its original tags (R39, R82). -/
def State.resent (s : State) : List Frame :=
  s.insts.flatMap fun i => (s.outTransfers i.bind.id).flatMap fun x =>
    let fs := s.leftOf i.bind.id x
    if fs.head?.any (fun f => f.ty == 1 && f.segIdx == 0) && !(s.txq.any fun f => f.inst == i.bind.id && f.xfer == x && f.segIdx == 0) then fs
    else []

/-- What waited to leave on the lanes of field 0 leaves on those of field 1 (R19, R39). -/
def State.moveTx (s : State) : State :=
  { s with txq := (s.resent ++ s.txq).map fun f => if f.port == 0 then { f with port := 1 } else f }

/-- Instance and PRIO of a request that waits; none of another frame. -/
def Held.request? : Held → Option (Nat × Nat)
  | .frame f => let h := Header.read f.body; if h.type == 0 then some (h.inst, h.prio) else none
  | .record _ r => some (r.inst, r.prio)

/-- The requests of an instance among those that wait, of a higher PRIO first (R92). -/
def byPrio (i : Nat) (hs : List Held) : List Held :=
  (List.range 8).reverse.flatMap fun k => hs.filter fun h => h.request? == some (i, k)

/-- The order in which what waited is taken (R38, R92): that of arrival, but within an instance the requests of a higher PRIO first. -/
def admitOrder (hs : List Held) : List Held :=
  hs.zipIdx.map fun (h, k) =>
    match h.request? with
    | none => h
    | some (i, _) => (byPrio i hs).getD (((hs.take k).filter fun g => (g.request?.map (·.1)) == some i).length) h

/-- Release the replies that can go, in the order of the command table; fuel is its length (R38 step 4). -/
def State.releaseAll (s : State) : Nat → State
  | 0 => s
  | fuel + 1 =>
    match s.cmds.findSome? fun c => match c.stage with
      | .done r => if s.releasable c then some (c, r) else none
      | _ => none with
    | none => s
    | some (c, r) => (s.release c r).releaseAll fuel

/-- What waited for the end of the failover is received or admitted (R38 step 5). -/
def State.receiveHeld (s : State) : Held → State
  | .frame f => s.receive f
  | .record op r => if s.hearsRec r then s.admitOne (Rec.of op r) else s

/-- Field 1 takes the active role (R38 to R40). The reply copies it collects are the staged replies of the other fields: those that their
own rules let go leave before admission resumes. -/
def State.failover (s : State) : State :=
  let s := (s.cmds.filter failoverEnds).foldl (fun s c => s.overrule c .machineCheck) s
  let s := (s.insts.filter s.hasState).foldl (fun s i => s.raise i.bind.id 0x0102 (failoverData i.window)) s
  let held := s.pkg.buffered
  let s := s.moveTx.relink.modPkg fun p => { p with headland := 1, failover := false, buffered := [] }
  let s := (s.insts.map (·.bind.id)).foldl State.eventDrain s
  let s := (admitOrder held).foldl State.receiveHeld (s.flushTx.releaseAll s.cmds.length)
  (s.xonAll 0).xonAll 1

/-- HEADLAND_FAILOVER (R38). -/
def execHeadlandFailover (s : State) : Host.Outcome State Fault Refusal := .next (if s.pkg.failover then s.failover else s)

/-! ### Plolys (R15 to R17, R35) -/

/-- Change one end of a link. -/
def State.modLink (s : State) (f p : Nat) (g : Link → Link) : State :=
  s.modField f fun x => { x with links := x.links.modify p g }

/-- PLOLYS_CRC_FAIL (R17, R518): the flit is sent again and the retry counted and logged. -/
def execPlolysCrcFail (field port : Nat) (s : State) : Host.Outcome State Fault Refusal :=
  .next (if s.portInUse field port && s.linkUp field port then
      let s := s.modLink field port fun l => { l with retries := sat (2 ^ 32 - 1) (l.retries + 1) }
      s.log field (49 + port) 7 0xFF (toBE 1 port ++ toBE 4 ((s.field field).links.getD port {}).retries ++ [0])
    else s)

/-- PLOLYS_LINK_DOWN (R17, R35, R42): the link is marked down at both ends; a field cut off from Headland zeroises and locks;
on an IXN-2 the two fields are then isolated from each other and nothing remains. -/
def execPlolysLinkDown (field port : Nat) (s : State) : Host.Outcome State Fault Refusal :=
  .next (if s.portInUse field port && s.linkUp field port then
      let down := fun (l : Link) => { l with state := .down, downs := sat (2 ^ 32 - 1) (l.downs + 1) }
      let s := (s.modLink field port down).modLink (field ^^^ 2 ^ port) port down
      let s := s.log field (49 + port) 7 0xFF (toBE 1 port ++ toBE 4 ((s.field field).links.getD port {}).retries ++ [1])
      s.isolateCut
    else s)

/-! ### Sensors and alarms -/

/-- The island of a field is clock-stopped, so that its clock monitor is exempt (R489): furrows in FALLOW, in a gated field and
in fields that idle in BOOTSTRAP (R506); a gated field's other islands but those R41 keeps. -/
def State.clockStopped (s : State) (f island : Nat) : Bool :=
  let x := s.field f
  (island < 16 && (x.run == .fallow || (s.pkg.run == .bootstrap && x.run == .recovery))) ||
    (x.gated && island < 44 && !(f == 1 && island == 33))

/-- The sensor is armed and not exempt (R489, R491). -/
def State.armed (s : State) (f cls island : Nat) : Bool :=
  s.running && f < s.n && !(s.field f).lost && 1 ≤ cls && cls ≤ 5 &&
  !(s.lc == .endOfLife && (cls == 4 || cls == 5)) && !(cls == 2 && s.clockStopped f island)

/-- SENSOR_TRIP (R489 to R494): the clock monitors are of the island they watch, every other sensor of the alarm block. -/
def execSensorTrip (field cls island detail : Nat) (s : State) : Host.Outcome State Fault Refusal :=
  .next (if s.armed field cls island then s.alarm field cls (if cls == 2 then island else 59) detail else s)

/-- ALARM_LINE_RECEIVED (R492, R493): a field the alarm line reaches responds as the tripping field does. -/
def execAlarmLineReceived (field source : Nat) (s : State) : Host.Outcome State Fault Refusal :=
  .next (if s.pkg.alarmLine.contains (field, source) then
      let s := s.modPkg fun p => { p with alarmLine := p.alarmLine.filter (· != (field, source)) }
      (s.alarmField field 8 59 0 source).syncAlert
    else s)

/-- TAMPER_MISMATCH (R490): three successive mismatched bits on an input while the loop is armed. -/
def execTamperMismatch (input : Nat) (s : State) : Host.Outcome State Fault Refusal :=
  .next (if s.running && s.pkg.tamperArmed && input < 2 then s.alarm s.pkg.headland 6 59 input else s)

/-- A temperature as R537 divides it. -/
def tempBand (t : Int) : Nat := if t > 125 then 2 else if t > 120 then 1 else 0

/-- TEMP_SENSOR_READING (R489, R537, R547): THERM_N follows the readings, and a second successive reading beyond the alarm
limits trips class 3. -/
def execTempSensorReading (field sensor : Nat) (celsius : Int) (s : State) : Host.Outcome State Fault Refusal :=
  .next (if s.running && field < s.n && sensor < 8 && !(s.field field).lost then
      let bad := decide (celsius < -55 ∨ 140 < celsius)
      let second := bad && (s.field field).outside.getD sensor false
      let s := s.modField field fun x =>
        { x with temps := x.temps.set sensor (tempBand celsius), outside := x.outside.set sensor (bad && !second) }
      let s := s.syncAlert
      if second then s.alarm field 3 59 sensor else s
    else s)

/-- THERMAL_SHUTDOWN (R32, R537, R547): the field stops, its alive line falls, and it holds THERM_N low until RESET_N. -/
def execThermalShutdown (field : Nat) (s : State) : Host.Outcome State Fault Refusal :=
  .next (if field < s.n && !(s.field field).lost then ((s.modField field fun x => { x with thermal := true }).loseField field).syncAlert else s)

end Sys2Proof.Machine
end

