-- ==== Sys2Proof/Machine/Lattice.lean ====
section
/-! DEFINITION. ML-KEM, ML-DSA, the hybrid KEMs and the hybrid signatures (R152 to R182). -/
namespace Sys2Proof.Machine

/-- Ciphertext length of an ML-KEM set (R153). -/
def kemCt (set : Nat) : Nat := [768, 1088, 1568].getD set 0

/-- Encapsulation-key length of an ML-KEM set (R153). -/
def kemEk (set : Nat) : Nat := publicLen (0x90 + set) 0

/-- Signature length of an ML-DSA set (R153). -/
def dsaSig (set : Nat) : Nat := [2420, 3309, 4627].getD set 0

/-- Public-key length of an ML-DSA set (R153). -/
def dsaPk (set : Nat) : Nat := publicLen (0xA0 + set) 0

/-- K-PKE.Encrypt of FIPS 203: the ciphertext of m under ek with the randomness r. -/
def kemEncrypt (set : Nat) (ek m r : Bytes) : Bytes := std (kemCt set) (.kemEncaps set) [ek, m, r]

/-- G of FIPS 203: SHA3-512. -/
def kemG (b : Bytes) : Bytes := digestOf 0x14 64 b

/-- Shared secret and ciphertext of ML-KEM.Encaps from ek, H(ek) and m (R161). -/
def kemEncaps (set : Nat) (ek hash m : Bytes) : Bytes × Bytes :=
  let g := kemG (m ++ hash)
  (g.take 32, kemEncrypt set ek m (g.drop 32))

/-- Shared secret of ML-KEM.Decaps in the steps of R162: decryption, G, J (SHAKE256), re-encryption, the comparison, and the choice of
K′ or K̄. -/
def kemDecaps (set : Nat) (dk ct : Bytes) : Bytes :=
  let m := std 32 (.kemDecaps set) [kemDkPke set dk, ct]
  let g := kemG (m ++ kemDkHash set dk)
  let reject := digestOf 0x22 32 (kemDkZ set dk ++ ct)
  if kemEncrypt set (kemDkEk set dk) m (g.drop 32) == ct then g.take 32 else reject

/-- H(ek) of a public-key operand: computed for an inline ek, read from the public half's blob for a handle (R161). -/
def Cmd.ekHash (c : Cmd) (off pos n : Nat) : Bytes :=
  if c.inline off then digestOf 0x12 32 (slice c.params pos n) else (c.key (c.p off 6)).pubx

/-! ### ML-KEM -/

/-- MLKEM_KEYGEN's public-half attributes: PUBATTR, else ENCAP (R159). -/
def kemPubAttr (c : Cmd) : Nat := if c.expert then c.p 6 3 else 0x80

/-- SEED of MLKEM_KEYGEN; null at the basic level. -/
def kemSeed (c : Cmd) : Nat := if c.expert then c.p 10 6 else 0

/-- Granary bytes of the halves of a pair that are persistent. -/
def pairGranary (t size attr pubAttr : Nat) : List Nat :=
  (if bit attr aPersistent then [granaryBytes (plannedBlob t size)] else []) ++
    (if bit pubAttr aPersistent then [granaryBytes (publicBlob t size)] else [])

/-- MLKEM_KEYGEN (R159). -/
def mlkemKeygenDesc : Desc where
  op := 0x0201
  pre _ c :=
    let t := 0x10 + c.p 0 1
    [(c.len != (if c.expert then 16 else 6), .badLength),
     (c.p 0 1 > 2 || c.p 1 1 != 0 || c.p 5 1 != 0 || !attrOk t (c.p 2 3) || !attrOk (t + 0x80) (kemPubAttr c) ||
       (c.expert && badMask (c.p 9 1)), .badParameter)]
  keys _ c := [kemSeed c].filter (· != 0)
  post s c :=
    let t := 0x10 + c.p 0 1
    [(c.notSeed (kemSeed c) 64, .usageDenied), (!attrBounded (c.p 2 3) c.keys, .usageDenied),
     (c.expert && c.maskLow c.keys (c.p 9 1), .usageDenied),
     (s.noRoom c 2 (plannedBlob t 0 + publicBlob t 0) (pairGranary t 0 (c.p 2 3) (kemPubAttr c)), .shareExhausted)]
  draw _ c := some (if kemSeed c == 0 then 64 else 0)
  granary _ c := bit (c.p 2 3) aPersistent || bit (kemPubAttr c) aPersistent
  writes s c := s.descPages c 2
  body s c :=
    let seed := if kemSeed c == 0 then c.drawn else (c.key (kemSeed c)).body
    let (h, g, s) := s.makePair c (0x10 + c.p 0 1) 0 0 (c.p 2 3) (kemPubAttr c) seed
    (s, ok (toBE 6 h ++ toBE 6 g ++ ((s.keys.find? (fun k => k.handle == g)).map (·.body)).getD []))

/-- MLKEM_KEYGEN. -/
def execMlkemKeygen (r : CmdRec) (s : State) : Host.Outcome State Fault Refusal := .next (runCommand mlkemKeygenDesc r s)

/-- MSEED of MLKEM_ENCAPS; null at the basic level. -/
def kemMseed (c : Cmd) : Nat := if c.expert then c.tail 10 4 6 else 0

/-- MLKEM_ENCAPS (R161). -/
def mlkemEncapsDesc : Desc where
  op := 0x0202
  pre _ c :=
    let set := c.p 0 1
    let x := if c.expert then 10 else 0
    [(c.len < 8 + x || (set ≤ 2 && c.len != 8 + c.inlineLen 2 (kemEk set) + x), .badLength),
     (set > 2 || c.p 1 1 != 0 || (c.expert && (ssBad (c.tail 10 0 3) || badMask (c.tail 10 3 1))), .badParameter),
     (c.inline 2 && !encodingOk (0x90 + set) 0 (slice c.params 8 (kemEk set)), .badParameter)]
  keys _ c := c.handlesAt [2] ++ [kemMseed c].filter (· != 0)
  post s c :=
    [(c.notPub 2 (0x90 + c.p 0 1) aEncap, .usageDenied), (c.notSeed (kemMseed c) 32, .usageDenied),
     (c.expert && !attrBounded (c.tail 10 0 3) c.keys, .usageDenied),
     (c.expert && c.maskLow c.secretKeys (c.tail 10 3 1), .usageDenied), (s.noSecretRoom c 32, .shareExhausted)]
  draw _ c := some (if kemMseed c == 0 then 32 else 0)
  writes s c := s.descPages c 1
  body s c :=
    let set := c.p 0 1
    let m := if kemMseed c == 0 then c.drawn else (c.key (kemMseed c)).body
    let (ss, ct) := kemEncaps set (c.pubKey 2 8 (kemEk set)) (c.ekHash 2 8 (kemEk set)) m
    let (h, s) := s.addSecret c c.fld (c.ssAttr (c.tail 10 0 3)) ss
    (s, ok (toBE 6 h ++ ct))

/-- MLKEM_ENCAPS. -/
def execMlkemEncaps (r : CmdRec) (s : State) : Host.Outcome State Fault Refusal := .next (runCommand mlkemEncapsDesc r s)

/-- MLKEM_DECAPS (R162). -/
def mlkemDecapsDesc : Desc where
  op := 0x0203
  pre _ c :=
    let set := c.p 0 1
    let x := if c.expert then 4 else 0
    [(c.len < 8 + x || (set ≤ 2 && c.len != 8 + kemCt set + x), .badLength),
     (set > 2 || c.p 1 1 != 0 || (c.expert && (ssBad (c.tail 4 0 3) || badMask (c.tail 4 3 1))), .badParameter)]
  keys _ c := [c.p 2 6]
  post s c :=
    [(c.notKey (c.p 2 6) (0x10 + c.p 0 1) aDecap, .usageDenied),
     (c.expert && !attrBounded (c.tail 4 0 3) c.keys, .usageDenied),
     (c.expert && c.maskLow c.keys (c.tail 4 3 1), .usageDenied), (s.noSecretRoom c 32, .shareExhausted)]
  writes s c := s.descPages c 1
  body s c :=
    let set := c.p 0 1
    let ss := kemDecaps set (c.key (c.p 2 6)).body (slice c.params 8 (kemCt set))
    let (h, s) := s.addSecret c c.fld (c.ssAttr (c.tail 4 0 3)) ss
    (s, ok (toBE 6 h))

/-- MLKEM_DECAPS. -/
def execMlkemDecaps (r : CmdRec) (s : State) : Host.Outcome State Fault Refusal := .next (runCommand mlkemDecapsDesc r s)

/-! ### Hybrid KEM (R164 to R168) -/

/-- Curve of a COMBO: X25519 or P-384. -/
def comboCurve (combo : Nat) : Nat := if combo == 1 then 3 else 1

/-- ML-KEM set of a COMBO. -/
def comboSet (combo : Nat) : Nat := combo

/-- COMBO is assigned. -/
def comboOk (combo : Nat) : Bool := combo == 1 || combo == 2

/-- Length of the combined secret (R156). -/
def comboLen (combo combiner : Nat) : Nat := if combiner == 2 then 32 + agreeLen (comboCurve combo) else 32

/-- COMBINER: the expert field, else IXN-HYB1. -/
def combinerOf (c : Cmd) : Nat := if c.expert then c.tail 6 0 1 else 1

/-- The combiners (R167). -/
def combine (combo combiner : Nat) (ssKem ssEc ct epk rpub : Bytes) : Bytes :=
  if combiner == 2 then ssKem ++ ssEc
  else digestOf 0x12 32 (ssKem ++ ssEc ++ ct ++ epk ++ rpub ++ [0x49, 0x58, 0x4E, 0x2D, 0x48, 0x59, 0x42, 0x31] ++ toBE 1 combo)

/-- The expert suffix of the hybrid KEM commands is out of range. -/
def hybridSuffixBad (c : Cmd) : Bool :=
  c.expert && (c.tail 6 0 1 == 0 || c.tail 6 0 1 > 2 || ssBad (c.tail 6 1 3) || badMask (c.tail 6 4 1) || c.tail 6 5 1 != 0)

/-- Steps 10 and 12 of both hybrid KEM commands after their key checks. -/
def hybridPost (s : State) (c : Cmd) : List (Bool × Status) :=
  [(c.expert && !attrBounded (c.tail 6 1 3) c.keys, .usageDenied),
   (c.expert && c.maskLow c.secretKeys (c.tail 6 4 1), .usageDenied),
   (s.noSecretRoom c (comboLen (c.p 0 1) (combinerOf c)), .shareExhausted)]

/-- HYBRID_ENCAPS (R165). -/
def hybridEncapsDesc : Desc where
  op := 0x0210
  pre _ c :=
    let o := c.p 0 1
    let e := c.inlineLen 2 (ecPubLen (comboCurve o))
    let k := kemEk (comboSet o)
    let x := if c.expert then 6 else 0
    [(c.len < 14 + x || (comboOk o && c.len != 14 + e + c.inlineLen 8 k + x), .badLength),
     (!comboOk o || c.p 1 1 != 0 || hybridSuffixBad c, .badParameter),
     (c.inline 8 && !encodingOk (0x90 + comboSet o) 0 (slice c.params (14 + e) k), .badParameter),
     (c.badPoint 2 14 (comboCurve o), .badParameter)]
  keys _ c := c.handlesAt [2, 8]
  post s c :=
    let o := c.p 0 1
    [(c.notPub 2 (0xF0 + comboCurve o) aAgree, .usageDenied), (c.notPub 8 (0x90 + comboSet o) aEncap, .usageDenied)] ++ hybridPost s c
  draw _ c := some (if c.p 0 1 == 1 then 64 else 88)
  writes s c := s.descPages c 1
  body s c :=
    let o := c.p 0 1
    let cv := comboCurve o
    let e := c.inlineLen 2 (ecPubLen cv)
    let n := if o == 1 then 32 else 56
    let rpub := c.pubKey 2 14 (ecPubLen cv)
    let scalar := ecScalar cv (c.drawn.take n)
    let epk := ecPublicOf cv scalar
    let ssEc := std (agreeLen cv) (.ecAgree cv) [scalar, rpub]
    let k := kemEk (comboSet o)
    let (ssKem, ct) := kemEncaps (comboSet o) (c.pubKey 8 (14 + e) k) (c.ekHash 8 (14 + e) k) (c.drawn.drop n)
    let (h, s) := s.addSecret c c.fld (c.ssAttr (c.tail 6 1 3)) (combine o (combinerOf c) ssKem ssEc ct epk rpub)
    (s, ok (toBE 6 h ++ epk ++ ct))

/-- HYBRID_ENCAPS. -/
def execHybridEncaps (r : CmdRec) (s : State) : Host.Outcome State Fault Refusal := .next (runCommand hybridEncapsDesc r s)

/-- HYBRID_DECAPS (R166). -/
def hybridDecapsDesc : Desc where
  op := 0x0211
  pre _ c :=
    let o := c.p 0 1
    let e := ecPubLen (comboCurve o)
    let x := if c.expert then 6 else 0
    [(c.len < 14 + x || (comboOk o && c.len != 14 + 2 * e + kemCt (comboSet o) + x), .badLength),
     (!comboOk o || c.p 1 1 != 0 || hybridSuffixBad c, .badParameter),
     (!ecPointOk (comboCurve o) (slice c.params 14 e) || !ecPointOk (comboCurve o) (slice c.params (14 + e) e), .badParameter)]
  keys _ c := [c.p 2 6, c.p 8 6]
  post s c :=
    let o := c.p 0 1
    [(c.notKey (c.p 2 6) (0x70 + comboCurve o) aAgree, .usageDenied), (c.notKey (c.p 8 6) (0x10 + comboSet o) aDecap, .usageDenied)] ++
      hybridPost s c
  writes s c := s.descPages c 1
  body s c :=
    let o := c.p 0 1
    let cv := comboCurve o
    let e := ecPubLen cv
    let epk := slice c.params 14 e
    let rpub := slice c.params (14 + e) e
    let ct := slice c.params (14 + 2 * e) (kemCt (comboSet o))
    let ssEc := std (agreeLen cv) (.ecAgree cv) [(c.key (c.p 2 6)).body, epk]
    let ssKem := kemDecaps (comboSet o) (c.key (c.p 8 6)).body ct
    let (h, s) := s.addSecret c c.fld (c.ssAttr (c.tail 6 1 3)) (combine o (combinerOf c) ssKem ssEc ct epk rpub)
    (s, ok (toBE 6 h))

/-- HYBRID_DECAPS. -/
def execHybridDecaps (r : CmdRec) (s : State) : Host.Outcome State Fault Refusal := .next (runCommand hybridDecapsDesc r s)

/-! ### ML-DSA (R169 to R172) -/

/-- tr as a private key holds it (FIPS 204). -/
def dsaTr (sk : Bytes) : Bytes := slice sk 64 64

/-- MLEN does not suit the form: µ is 64 bytes, a supplied digest has its function's length (step 7, R555). -/
def dsaLenBad (form ph mlen : Nat) : Bool :=
  if form == 3 then mlen != 64 else form == 2 && (preHash ph).isSome && mlen != phLen ph

/-- RND of a signing command: the last 6 bytes of the expert suffix. -/
def dsaRnd (c : Cmd) : Nat := if c.expert then c.tail 8 2 6 else 0

/-- Set of the ML-DSA key of a handle. -/
def dsaSet (c : Cmd) (h : Nat) : Nat := tSet (c.key h).type

/-- The key of a handle is no ML-DSA private key with SIGN. -/
def notDsaSk (c : Cmd) (h : Nat) : Bool := ! [0x20, 0x21, 0x22].contains (c.key h).type || c.lacks h aSign

/-- rnd (R171): RND's content, 32 drawn bytes, or zeros. -/
def dsaRndBytes (c : Cmd) (det : Bool) : Bytes :=
  if dsaRnd c != 0 then (c.key (dsaRnd c)).body else if det then List.replicate 32 0 else c.drawn.take 32

/-- An ML-DSA signature of µ. -/
def dsaSignature (set : Nat) (sk mu rnd : Bytes) : Bytes := std (dsaSig set) (.mldsaSign set) [sk, mu, rnd]

/-- A pure ML-DSA signature (form 0) of a message under a context. -/
def dsaPure (set : Nat) (sk ctx msg rnd : Bytes) : Bytes := dsaSignature set sk (dsaMu 0 0 (dsaTr sk) ctx msg) rnd

/-- MLDSA_SIGN (R169 to R171). -/
def mldsaSignDesc : Desc where
  op := 0x0301
  pre _ c :=
    let x := if c.expert then 8 else 0
    let form := c.p 6 1 % 4
    [(c.len < 12 + x || c.len != 12 + c.p 8 1 + c.p 9 3 + x || dsaLenBad form (c.p 7 1) (c.p 9 3), .badLength),
     (c.p 6 1 ≥ 8 || phBad form (c.p 7 1) || (form == 3 && c.p 8 1 != 0) ||
       (c.expert && (badMask (c.tail 8 0 1) || c.tail 8 1 1 != 0 || (dsaRnd c != 0 && bit (c.p 6 1) 2))), .badParameter)]
  keys _ c := c.p 0 6 :: [dsaRnd c].filter (· != 0)
  post _ c :=
    [(notDsaSk c (c.p 0 6), .usageDenied), (c.notSeed (dsaRnd c) 32, .usageDenied),
     (c.expert && c.maskLow c.keys (c.tail 8 0 1), .usageDenied)]
  draw _ c := some (if dsaRnd c == 0 && !bit (c.p 6 1) 2 then 32 else 0)
  head c := if c.expert then none else some 12
  absorbs c := formBlock (c.p 6 1) (c.p 7 1)
  body s c :=
    let form := c.p 6 1 % 4
    let sk := (c.key (c.p 0 6)).body
    let mu := dsaMu form (c.p 7 1) (dsaTr sk) (slice c.params 12 (c.p 8 1)) (slice c.params (12 + c.p 8 1) (c.p 9 3))
    (s, ok (dsaSignature (dsaSet c (c.p 0 6)) sk mu (dsaRndBytes c (bit (c.p 6 1) 2))))

/-- MLDSA_SIGN. -/
def execMldsaSign (r : CmdRec) (s : State) : Host.Outcome State Fault Refusal := .next (runCommand mldsaSignDesc r s)

/-- MLDSA_VERIFY (R172). -/
def mldsaVerifyDesc : Desc where
  op := 0x0302
  pre _ c :=
    let set := c.p 6 1
    let form := c.p 7 1 % 4
    [(c.len < 13 || (set ≤ 2 && c.len != 13 + c.inlineLen 0 (dsaPk set) + dsaSig set + c.p 9 1 + c.p 10 3) ||
       dsaLenBad form (c.p 8 1) (c.p 10 3), .badLength),
     (set > 2 || c.p 7 1 ≥ 4 || phBad form (c.p 8 1) || (form == 3 && c.p 9 1 != 0), .badParameter)]
  keys _ c := c.handlesAt [0]
  post _ c := [(c.notPub 0 (0xA0 + c.p 6 1) aVerify, .usageDenied)]
  head _ := some 13
  absorbs c := formBlock (c.p 7 1) (c.p 8 1)
  body s c :=
    let set := c.p 6 1
    let form := c.p 7 1 % 4
    let o := 13 + c.inlineLen 0 (dsaPk set)
    let sig := slice c.params o (dsaSig set)
    let ctx := slice c.params (o + dsaSig set) (c.p 9 1)
    let msg := slice c.params (o + dsaSig set + c.p 9 1) (c.p 10 3)
    let pk := c.pubKey 0 13 (dsaPk set)
    (s, verdict (dsaVerifies set pk (dsaMu form (c.p 8 1) (dsaTrOf pk) ctx msg) sig))

/-- MLDSA_VERIFY. -/
def execMldsaVerify (r : CmdRec) (s : State) : Host.Outcome State Fault Refusal := .next (runCommand mldsaVerifyDesc r s)

/-! ### Hybrid signatures (R173, R174) -/

/-- The hash ECDSA uses in the hybrid signatures: SHA-256 for P-256, SHA-384 for P-384. -/
def hybridHash (curve : Nat) : Nat := if curve == 0 then 1 else 2

/-- Curve of the EC key HYBRID_SIGN names. -/
def hybridCurve (c : Cmd) : Nat := tSet (c.key (c.p 6 6)).type

/-- Steep bytes of the ML-DSA half of HYBRID_SIGN. -/
def hybridDsaDraw (c : Cmd) : Nat := if dsaRnd c == 0 && !bit (c.p 12 1) 0 then 32 else 0

/-- Steep bytes of the ECDSA half of HYBRID_SIGN. -/
def hybridEcDraw (c : Cmd) : Nat := if bit (c.p 12 1) 0 then 0 else ecdsaDraw (hybridCurve c)

/-- HYBRID_SIGN (R173). Its two draws, where both are made, are two generate requests (R176, R301; log entry 106). -/
def hybridSignDesc : Desc where
  op := 0x0310
  pre _ c :=
    let x := if c.expert then 8 else 0
    [(c.len < 17 + x || c.len != 17 + c.p 13 1 + c.p 14 3 + x, .badLength),
     (c.p 12 1 ≥ 2 || (c.expert && (badMask (c.tail 8 0 1) || c.tail 8 1 1 != 0 || (dsaRnd c != 0 && bit (c.p 12 1) 0))), .badParameter)]
  keys _ c := [c.p 0 6, c.p 6 6] ++ [dsaRnd c].filter (· != 0)
  post _ c :=
    [(notDsaSk c (c.p 0 6), .usageDenied), (! [0x70, 0x71].contains (c.key (c.p 6 6)).type || c.lacks (c.p 6 6) aSign, .usageDenied),
     (c.notSeed (dsaRnd c) 32, .usageDenied), (c.expert && c.maskLow c.keys (c.tail 8 0 1), .usageDenied)]
  draw _ c := some (hybridDsaDraw c + hybridEcDraw c)
  reqs _ c := (hybridDsaDraw c != 0).toNat + (hybridEcDraw c != 0).toNat
  head c := if c.expert then none else some 17
  absorbs _ := 136
  body s c :=
    let det := bit (c.p 12 1) 0
    let ctx := slice c.params 17 (c.p 13 1)
    let msg := slice c.params (17 + c.p 13 1) (c.p 14 3)
    let cv := hybridCurve c
    let a := dsaPure (dsaSet c (c.p 0 6)) (c.key (c.p 0 6)).body ctx msg (dsaRndBytes c det)
    let b := ecdsaSignature cv (hybridHash cv) det (c.key (c.p 6 6)).body (phDigest (hybridHash cv) msg) (c.drawn.drop (hybridDsaDraw c))
    (s, ok (a ++ b))

/-- HYBRID_SIGN. -/
def execHybridSign (r : CmdRec) (s : State) : Host.Outcome State Fault Refusal := .next (runCommand hybridSignDesc r s)

/-- The verdict of two verifications: pass, or the FAILED byte of R174. -/
def bothVerdict (a b : Bool) : Option Reply :=
  if a && b then verdict true
  else some { status := .verdictFail, verdict := .fail, results := toBE 1 ((!a).toNat + 2 * (!b).toNat) }

/-- HYBRID_VERIFY (R174). -/
def hybridVerifyDesc : Desc where
  op := 0x0311
  pre _ c :=
    let set := c.p 12 1
    let cv := c.p 13 1
    let k1 := c.inlineLen 0 (dsaPk set)
    let k2 := c.inlineLen 6 (ecPubLen cv)
    [(c.len < 18 || (set ≤ 2 && cv ≤ 1 && c.len != 18 + k1 + k2 + dsaSig set + ecdsaLen cv + c.p 14 1 + c.p 15 3), .badLength),
     (set > 2 || cv > 1, .badParameter), (c.badPoint 6 (18 + k1) cv, .badParameter)]
  keys _ c := c.handlesAt [0, 6]
  post _ c := [(c.notPub 0 (0xA0 + c.p 12 1) aVerify, .usageDenied), (c.notPub 6 (0xF0 + c.p 13 1) aVerify, .usageDenied)]
  head c := if c.inline 6 then none else some 18
  absorbs _ := 136
  body s c :=
    let set := c.p 12 1
    let cv := c.p 13 1
    let k1 := c.inlineLen 0 (dsaPk set)
    let o := 18 + k1 + c.inlineLen 6 (ecPubLen cv)
    let sig := slice c.params o (dsaSig set)
    let rs := slice c.params (o + dsaSig set) (ecdsaLen cv)
    let o2 := o + dsaSig set + ecdsaLen cv
    let ctx := slice c.params o2 (c.p 14 1)
    let msg := slice c.params (o2 + c.p 14 1) (c.p 15 3)
    let a := dsaPureOk set (c.pubKey 0 18 (dsaPk set)) ctx msg sig
    let b := ecdsaVerifies cv (c.pubKey 6 (18 + k1) (ecPubLen cv)) (phDigest (hybridHash cv) msg) rs
    (s, bothVerdict a b)

/-- HYBRID_VERIFY. -/
def execHybridVerify (r : CmdRec) (s : State) : Host.Outcome State Fault Refusal := .next (runCommand hybridVerifyDesc r s)

end Sys2Proof.Machine
end

