-- ==== Sys2Proof/Machine/HashSigs.lean ====
section
/-! DEFINITION. SLH-DSA and the stateful signatures (R183 to R214). -/
namespace Sys2Proof.Machine

/-! ### SLH-DSA (R184 to R188) -/

/-- Signature length of an SLH-DSA set (R184). -/
def slhSig (set : Nat) : Nat := [7856, 17088, 16224, 35664, 29792, 49856].getD (set % 6) 0

/-- The key of a handle is no SLH-DSA private key with SIGN. -/
def notSlhSk (c : Cmd) (h : Nat) : Bool :=
  tPublic (c.key h).type || tClass (c.key h).type != 3 || c.lacks h aSign

/-- opt_rand (R187). -/
def slhRand (c : Cmd) (det : Bool) : Bytes :=
  let sk := (c.key (c.p 0 6)).body
  let n := slhN (tSet (c.key (c.p 0 6)).type)
  if dsaRnd c != 0 then (c.key (dsaRnd c)).body else if det then slice sk (2 * n) n else c.drawn.take n

/-- SLHDSA_SIGN (R186, R187, R189). -/
def slhdsaSignDesc : Desc where
  op := 0x0320
  pre _ c :=
    let x := if c.expert then 8 else 0
    let form := c.p 6 1 % 4
    [(c.len < 12 + x || c.len != 12 + c.p 8 1 + c.p 9 3 + x || (form == 2 && (preHash (c.p 7 1)).isSome && c.p 9 3 != phLen (c.p 7 1)),
       .badLength),
     (c.p 6 1 ≥ 8 || form == 3 || phBad form (c.p 7 1) ||
       (c.expert && (badMask (c.tail 8 0 1) || c.tail 8 1 1 != 0 || (dsaRnd c != 0 && bit (c.p 6 1) 2))), .badParameter)]
  keys _ c := c.p 0 6 :: [dsaRnd c].filter (· != 0)
  post _ c :=
    [(notSlhSk c (c.p 0 6), .usageDenied), (c.notSeed (dsaRnd c) (slhN (tSet (c.key (c.p 0 6)).type)), .usageDenied),
     (c.expert && c.maskLow c.keys (c.tail 8 0 1), .usageDenied)]
  draw _ c := some (if dsaRnd c == 0 && !bit (c.p 6 1) 2 then slhN (tSet (c.key (c.p 0 6)).type) else 0)
  body s c :=
    let set := tSet (c.key (c.p 0 6)).type
    let m := messageRep (c.p 6 1 % 4) (c.p 7 1) (slice c.params 12 (c.p 8 1)) (slice c.params (12 + c.p 8 1) (c.p 9 3))
    (s, ok (std (slhSig set) (.slhSign set) [(c.key (c.p 0 6)).body, m, slhRand c (bit (c.p 6 1) 2)]))

/-- SLHDSA_SIGN. -/
def execSlhdsaSign (r : CmdRec) (s : State) : Host.Outcome State Fault Refusal := .next (runCommand slhdsaSignDesc r s)

/-- SLHDSA_VERIFY (R188). -/
def slhdsaVerifyDesc : Desc where
  op := 0x0321
  pre _ c :=
    let set := c.p 6 1
    let form := c.p 7 1 % 4
    [(c.len < 13 || (set ≤ 11 && c.len != 13 + c.inlineLen 0 (2 * slhN set) + slhSig set + c.p 9 1 + c.p 10 3) ||
       (form == 2 && (preHash (c.p 8 1)).isSome && c.p 10 3 != phLen (c.p 8 1)), .badLength),
     (set > 11 || c.p 7 1 ≥ 3 || phBad form (c.p 8 1), .badParameter)]
  keys _ c := c.handlesAt [0]
  post _ c := [(c.notPub 0 (0xB0 + c.p 6 1) aVerify, .usageDenied)]
  head _ := some 13
  absorbs c := if c.p 7 1 % 4 == 1 then phBlock (c.p 8 1) else (if c.p 6 1 ≥ 6 then 136 else if slhN (c.p 6 1) == 16 then 64 else 128)
  body s c :=
    let set := c.p 6 1
    let o := 13 + c.inlineLen 0 (2 * slhN set)
    let sig := slice c.params o (slhSig set)
    let ctx := slice c.params (o + slhSig set) (c.p 9 1)
    let msg := slice c.params (o + slhSig set + c.p 9 1) (c.p 10 3)
    let m := messageRep (c.p 7 1 % 4) (c.p 8 1) ctx msg
    (s, verdict (Config.test (.slh set) [c.pubKey 0 13 (2 * slhN set), m, sig]))

/-- SLHDSA_VERIFY. -/
def execSlhdsaVerify (r : CmdRec) (s : State) : Host.Outcome State Fault Refusal := .next (runCommand slhdsaVerifyDesc r s)

/-! ### STATEFUL_KEYGEN (R191 to R195) -/

/-- The set of the type STATEFUL_KEYGEN names. -/
def skgSet (c : Cmd) : Nat := tSet (c.p 0 1)

/-- SHAPE. -/
def skgShape (c : Cmd) : Bytes := slice c.params 6 8

/-- Public-half attributes: PUBATTR, else VERIFY. -/
def skgPubAttr (c : Cmd) : Nat := if c.expert then c.p 14 3 else 0x40

/-- The block taken: BLOCK, or LEAF_BLOCK in force at admission. -/
def skgBlock (c : Cmd) : Nat := if c.expert && c.p 18 2 != 0 then c.p 18 2 else c.leafBlock

/-- ATTR of STATEFUL_KEYGEN is out of range (R194). -/
def skgAttrBad (a : Nat) : Bool :=
  bits a 18 16 > 3 || (a &&& (2 ^ 24 - 1 - (2 ^ 13 + 2 ^ 19 + 7 * 2 ^ 16))) != 0x00C020

/-- A leaf block is too small for a life (R199). -/
def blockSmall (block life : Nat) : Bool := block < ceilDiv life (2 ^ 35)

/-- Leaf records in a field's consumable region (R199). -/
def State.leafRecords (s : State) (f : Nat) : Nat :=
  (s.gran.keys.filter fun k => hHome k.key.handle == f && k.key.leaf.isSome).length

/-- Steep bytes of STATEFUL_KEYGEN (R195, R211). -/
def skgDraw (set : Nat) : Nat := if isHss set then statefulN set + 16 else 3 * statefulN set

/-- The LMS public key of a level of SHAPE byte shape, from its seed and I (RFC 8554). -/
def lmsPublic (set shape : Nat) (seed : Bytes) : Bytes :=
  let n := statefulN set
  toBE 4 (lmsCode set (shape / 16)) ++ toBE 4 (otsCode set (shape % 16)) ++ slice seed n 16 ++ std n (.statefulKeygen set) [seed, toBE 1 shape]

/-- Seed and I of the tree under index q of a level, by the pseudorandom key generation of RFC 8554, Appendix A (R195). -/
def lmsChild (set q : Nat) (seed : Bytes) : Bytes := std (statefulN set + 16) (.statefulKeygen set) [seed, toBE 8 q]

/-- The public key of a new consumable key (R194, R195): RFC 8554 or RFC 8391, its root the standard's. -/
def statefulPublic (set levels : Nat) (shape seed : Bytes) : Bytes :=
  let n := statefulN set
  if isHss set then toBE 4 levels ++ lmsPublic set (byteAt shape 0) seed
  else
    toBE 4 (xmssOid set (byteAt shape 0) levels) ++ std n (.statefulKeygen set) [seed, toBE 1 levels, shape] ++ slice seed (2 * n) n

/-- Granary bytes of the halves STATEFUL_KEYGEN makes persistent. -/
def skgGranary (c : Cmd) : List Nat :=
  granaryBytes (secretBlob (skgDraw (skgSet c))) ::
    (if bit (skgPubAttr c) aPersistent then [granaryBytes (publicBlob (c.p 0 1 + 0x80) 0)] else [])

/-- STATEFUL_KEYGEN (R194, R195). -/
def statefulKeygenDesc : Desc where
  op := 0x0801
  pre _ c :=
    let t := c.p 0 1
    let life := shapeLife (skgSet c) (c.p 1 1) (skgShape c)
    [(c.len != (if c.expert then 20 else 14), .badLength),
     (t / 16 != 4 || skgSet c > 11 || !shapeOk (skgSet c) (c.p 1 1) (skgShape c) || skgAttrBad (c.p 2 3) || c.p 5 1 != 0 ||
       (c.expert && (c.p 17 1 != 0 || c.p 18 2 > 4096 || !attrOk (t + 0x80) (skgPubAttr c))) || blockSmall (skgBlock c) life, .badParameter)]
  post s c :=
    let b := secretBlob (skgDraw (skgSet c)) + publicBlob (c.p 0 1 + 0x80) 0 + cacheSize (skgSet c) (c.p 1 1) (skgShape c)
    [(s.noRoom c 2 b (skgGranary c) || s.leafRecords c.fld ≥ 256, .shareExhausted)]
  draw _ c := some (skgDraw (skgSet c))
  granary _ _ := true
  writes s c := s.descPages c 2
  body s c :=
    let set := skgSet c
    let levels := c.p 1 1
    let shape := skgShape c
    let life := shapeLife set levels shape
    let ext := shapeExt levels shape life
    let pk := statefulPublic set levels shape c.drawn
    let size := cacheSize set levels shape
    let (cp, s) := s.allocRange c.fld (pagesFor size) 5 c.inst
    let leaf : Leaf := { life := life, block := skgBlock c, wseq := 1, cache := size, cachePage := cp }
    let (h, s) := s.addKey c c.fld (some 0) { type := c.p 0 1, attr := c.p 2 3, origin := 0, body := c.drawn, ext := ext, leaf := some leaf }
    let (g, s) := s.addKey c c.fld (some 6) { type := c.p 0 1 + 0x80, attr := skgPubAttr c, origin := 0, body := pk, ext := ext }
    (s.pairUp h g, ok (toBE 6 h ++ toBE 6 g ++ toBE 8 life ++ pk))

/-- STATEFUL_KEYGEN. -/
def execStatefulKeygen (r : CmdRec) (s : State) : Host.Outcome State Fault Refusal := .next (runCommand statefulKeygenDesc r s)

/-! ### STATEFUL_SIGN (R195 to R209) -/

/-- LEVELS of a class 4 key. -/
def Key.levels (k : Key) : Nat := byteAt k.ext 0

/-- SHAPE of a class 4 key. -/
def Key.shape (k : Key) : Bytes := slice k.ext 1 8

/-- The entry a handle names now. -/
def State.entryOf (s : State) (h : Nat) : Key := (s.keys.find? (fun k => k.handle == h)).getD { handle := 0, type := 0 }

/-- PROMISED: the key's signing commands past step 11 that have not committed or ended (R202). -/
def State.promised (s : State) (h : Nat) : Nat :=
  (s.cmds.filter fun c => basicOp c.op == 0x0802 && c.checked && !c.isDone && num c.params 0 6 == h).length

/-- An earlier signing command of the key has still to commit (R196). -/
def State.signsBefore (s : State) (c : Cmd) : Bool :=
  s.cmds.any fun d => basicOp d.op == 0x0802 && !d.isDone && d.number < c.number && num d.params 0 6 == num c.params 0 6

/-- A page of the key's cache cannot be read (R209). -/
def State.cacheBad (s : State) (k : Key) : Bool :=
  let l := k.leaves
  (s.field (hHome k.handle)).pages.any fun p =>
    l.cachePage ≤ p.page && p.page < l.cachePage + pagesFor l.cache && (p.poison || p.read == .uncorrectable)

/-- The leaf begins a new middle-level tree of an HSS key of three levels or more (R209). -/
def startsMiddle (k : Key) (leaf : Nat) : Bool :=
  let hs := levelHeights (tSet k.type) k.levels k.shape
  isHss (tSet k.type) && k.levels ≥ 3 && leaf != 0 && leaf % 2 ^ (hs.drop (k.levels - 2)).sum == 0

/-- The command must wait for its turn, for a reservation or for the cache (R196, R197, R209). -/
def State.signWaits (s : State) (c : Cmd) : Bool :=
  let k := s.entryOf (c.p 0 6)
  let l := k.leaves
  s.signsBefore c || l.next ≥ l.hwm || !l.cacheReady || s.cacheBad k || (startsMiddle k l.next && l.midBuilt != l.next)

/-- What the wait sets going: the reservation of a command that finds NEXT = HWM, or the building of a cache. -/
def State.signPrepares (s : State) (c : Cmd) : State :=
  if s.signsBefore c then s
  else
    let h := c.p 0 6
    let k := s.entryOf h
    let l := k.leaves
    let s := if l.next ≥ l.hwm then s.reserve h else s
    if s.cacheBad k || (startsMiddle k l.next && l.midBuilt != l.next) then s.modLeaf h fun l => { l with cacheReady := false } else s

/-- One LMS signature of an HSS signature (R205): q, the LM-OTS code, C and the chains, the LMS code and the path. -/
def lmsPart (set shape q : Nat) (seed cval msg : Bytes) : Bytes :=
  let n := statefulN set
  toBE 4 q ++ toBE 4 (otsCode set (shape % 16)) ++ fit n cval ++
    std (n * otsChains n (shape % 16)) (.statefulSign set) [seed, toBE 4 q, cval, msg] ++
    toBE 4 (lmsCode set (shape / 16)) ++ std (n * (5 * (shape / 16))) (.statefulSign set) [seed, toBE 4 q, toBE 1 shape]

/-- The levels of an HSS signature from the top: each upper level signs the public key below it with a C that depends on its seed
and the index alone (R195), the bottom one signs the message with the drawn C. -/
def hssLevels (set : Nat) (c msg : Bytes) : List Nat → Nat → Bytes → Bytes
  | [], _, _ => []
  | [sh], leaf, seed => lmsPart set sh leaf seed c msg
  | sh :: low :: rest, leaf, seed =>
    let under := 2 ^ (((low :: rest).map fun x => 5 * (x / 16)).sum)
    let q := leaf / under
    let child := lmsChild set q seed
    let pk := lmsPublic set low child
    lmsPart set sh q seed (std (statefulN set) (.statefulSign set) [seed, toBE 8 q]) pk ++ pk ++
      hssLevels set c msg (low :: rest) (leaf % under) child

/-- The signature of a leaf (R205). -/
def statefulSignature (k : Key) (leaf : Nat) (c msg : Bytes) : Bytes :=
  let set := tSet k.type
  if isHss set then
    toBE 4 (k.levels - 1) ++ hssLevels set c msg ((k.shape.take k.levels).map BitVec.toNat) leaf k.body
  else
    let w := if set < 8 then 4 else ceilDiv (levelHeights set k.levels k.shape).sum 8
    toBE w leaf ++ std (xmssSigLen set k.levels (byteAt k.shape 0) - w) (.statefulSign set) [k.body, toBE 8 leaf, msg]

/-- A handle does not name a class 4 private key (R207, R208, R210). -/
def notStateful (c : Cmd) (h : Nat) : Bool := (c.key h).type / 16 != 4

/-- STATEFUL_SIGN (R196, R197, R202, R205). Where its key's blob cannot be opened its leaf is consumed, unless none is reserved to be issued
(R197). -/
def statefulSignDesc : Desc where
  op := 0x0802
  pre _ c :=
    let x := if c.expert then 2 else 0
    [(c.len < 9 + x || c.len != 9 + c.p 6 3 + x, .badLength),
     (c.expert && (badMask (c.tail 2 0 1) || c.tail 2 1 1 != 0), .badParameter)]
  keys _ c := [c.p 0 6]
  post s c :=
    let l := (s.entryOf (c.p 0 6)).leaves
    [(notStateful c (c.p 0 6) || c.lacks (c.p 0 6) aSign, .usageDenied),
     (c.expert && c.maskLow c.keys (c.tail 2 0 1), .usageDenied),
     (l.life - l.next ≤ s.promised (c.p 0 6), .keyExhausted)]
  draw _ c := some (let set := tSet (c.key (c.p 0 6)).type; if isHss set then statefulN set else 0)
  wait s c := if s.signWaits c then some .waitCache else none
  onWait s c := s.signPrepares c
  spoil s c := if (s.entryOf (c.p 0 6)).leaves.next < (s.entryOf (c.p 0 6)).leaves.hwm then (s.issueLeaf (c.p 0 6)).2 else s
  body s c :=
    let (i, s) := s.issueLeaf (c.p 0 6)
    (s, ok (toBE 8 i ++ statefulSignature (c.key (c.p 0 6)) i c.drawn (slice c.params 9 (c.p 6 3))))

/-- STATEFUL_SIGN. -/
def execStatefulSign (r : CmdRec) (s : State) : Host.Outcome State Fault Refusal := .next (runCommand statefulSignDesc r s)

/-- The signing command of a key that is first in admission order among those that wait (R201). -/
def State.firstSigner (s : State) (h : Nat) : Option Cmd :=
  (s.cmds.filter fun c => basicOp c.op == 0x0802 && c.stage == .waitCache && num c.params 0 6 == h).foldl (fun b c => match b with
    | none => some c
    | some d => if c.number < d.number then some c else some d) none

/-- LEAF_RESERVATION_DONE (R197, R201): the record is confirmed and the new leaves count as reserved, or the command that waits
on it ends with INTERNAL_ERROR, the failure is logged, its region and slot being free values (log entry 7), and no leaf is issued. -/
def execLeafReservationDone (handle : Nat) (good : Bool) (s : State) : Host.Outcome State Fault Refusal :=
  let l := (s.entryOf handle).leaves
  .next <|
    if !l.reserving then s
    else if good then
      ((s.recordLeaf handle l.nextHwm).modLeaf handle fun l => { l with reserving := false }).wakeSigners handle
    else
      let (b, s) := s.fresh 3
      let s := ((s.tearLeaf handle).modLeaf handle fun l => { l with reserving := false }).log (hHome handle) 48 13 (hInst handle) b
      let s := if l.next < l.hwm then s
        else match s.firstSigner handle with
          | none => s
          | some c => s.complete c.inst c.tag { status := .internalError }
      s.wakeSigners handle

/-- The key whose cache a field builds now, one at a time: that of the first held signing command, else the first of the handle table
(R209; log entry 107). -/
def State.rebuildNow (s : State) (f : Nat) : Option Nat :=
  let ks := (s.keys.filter fun k => hHome k.handle == f && k.leaf.any (fun l => !l.cacheReady)).map (·.handle)
  match s.cmds.find? (fun c => basicOp c.op == 0x0802 && c.stage == .waitCache && ks.contains (num c.params 0 6)) with
  | some c => some (num c.params 0 6)
  | none => ks.head?

/-- An instance's virtual time on a field (R416). -/
def State.vtimeOf (s : State) (inst f : Nat) : Nat := (s.inst inst).vtime.getD f 0

/-- The furrow runs of a rebuild take an acre in turn (R209, R416): one with an idle furrow, while no run waits whose instance has the lower
virtual time. -/
def State.rebuildTurn (s : State) (h : Nat) : Bool :=
  let f := hHome h
  ((List.range 16).any fun k => ((s.field f).furrows.getD k {}).run.isNone) &&
    !s.runs.any fun r => r.field == f && r.acre.isNone && decide (s.vtimeOf r.inst f < s.vtimeOf (hInst h) f)

/-- CACHE_REBUILD_DONE (R209): the furrow runs of the key that is being built have had their turn, its cache is complete, its bad pages
rewritten, and held commands go on. The furrow-cycles it took are charged to its owner (R416); the spec gives no number, so that they are a
free value (log entry 7). -/
def execCacheRebuildDone (handle : Nat) (s : State) : Host.Outcome State Fault Refusal :=
  let l := (s.entryOf handle).leaves
  .next <|
    if s.rebuildNow (hHome handle) != some handle || !s.rebuildTurn handle then s
    else
      let (b, s) := s.fresh 5
      let s := s.chargeTime (hInst handle) (hHome handle) (beNat b)
      let s := s.modField (hHome handle) fun x => { x with pages := x.pages.map fun (p : Page) =>
        if l.cachePage ≤ p.page && p.page < l.cachePage + pagesFor l.cache then { p with poison := false, errors := 0, badNumber := false } else p }
      (s.modLeaf handle fun l => { l with cacheReady := true, midBuilt := l.next }).wakeSigners handle

/-! ### STATEFUL_VERIFY, STATEFUL_STATUS, STATEFUL_SET_BLOCK (R206 to R208) -/

/-- Length of the inline public key of STATEFUL_VERIFY. -/
def svPkLen (c : Cmd) : Nat := c.inlineLen 0 (statefulPubLen (tSet (c.p 6 1)))

/-- SIGLEN is not the length the OID of a public key fixes (R206). -/
def svSigLenBad (set : Nat) (pk : Bytes) (siglen : Nat) : Bool :=
  !isHss set && (match oidShape set (num pk 0 4) with
    | none => false
    | some (l, sh) => siglen != xmssSigLen set l sh)

/-- STATEFUL_VERIFY (R206). The length of an XMSS signature under a named key is judged once its public key has been read at step 9, before
step 10 (R556). -/
def statefulVerifyDesc : Desc where
  op := 0x0803
  pre _ c :=
    let t := c.p 6 1
    let set := tSet t
    let known := t / 16 == 12 && set ≤ 11
    [(c.len < 14 || (known && c.len != 14 + svPkLen c + c.p 8 3 + c.p 11 3) ||
       (known && c.inline 0 && svSigLenBad set (slice c.params 14 (svPkLen c)) (c.p 8 3)), .badLength),
     (!known || c.p 7 1 != 0 || (c.inline 0 && !statefulPubOk set (slice c.params 14 (svPkLen c))), .badParameter)]
  keys _ c := c.handlesAt [0]
  nine _ c :=
    [(!c.inline 0 && (c.key (c.p 0 6)).type == c.p 6 1 && svSigLenBad (tSet (c.p 6 1)) (c.key (c.p 0 6)).body (c.p 8 3), .badLength)]
  post _ c := [(c.notPub 0 (c.p 6 1) aVerify, .usageDenied)]
  head c := if c.inline 0 then none else some 14
  absorbs c := if tSet (c.p 6 1) % 4 < 2 then 64 else 136
  body s c :=
    let set := tSet (c.p 6 1)
    let pk := c.pubKey 0 14 (svPkLen c)
    let sig := slice c.params (14 + svPkLen c) (c.p 8 3)
    let msg := slice c.params (14 + svPkLen c + c.p 8 3) (c.p 11 3)
    (s, verdict ((!isHss set || hssOk set pk sig) && Config.test (.stateful (c.p 6 1)) [pk, msg, sig]))

/-- STATEFUL_VERIFY. -/
def execStatefulVerify (r : CmdRec) (s : State) : Host.Outcome State Fault Refusal := .next (runCommand statefulVerifyDesc r s)

/-- STATEFUL_STATUS (R207). -/
def statefulStatusDesc : Desc where
  op := 0x0804
  pre _ c := [(c.len != 6, .badLength)]
  keys _ c := [c.p 0 6]
  post _ c := [(notStateful c (c.p 0 6), .usageDenied)]
  secrets _ _ := false
  body s c :=
    let l := (s.entryOf (c.p 0 6)).leaves
    (s, ok (toBE 8 l.life ++ toBE 8 l.next ++ toBE 8 l.hwm ++ toBE 2 l.block ++
      toBE 1 (l.w90.toNat + 2 * l.w99.toNat + 4 * l.cacheReady.toNat) ++ [0]))

/-- STATEFUL_STATUS. -/
def execStatefulStatus (r : CmdRec) (s : State) : Host.Outcome State Fault Refusal := .next (runCommand statefulStatusDesc r s)

/-- The block STATEFUL_SET_BLOCK takes (R208). -/
def setBlockValue (c : Cmd) : Nat := if c.p 6 2 == 0 then c.leafBlock else c.p 6 2

/-- STATEFUL_SET_BLOCK (R208): a leaf record with an unchanged HWM and the new BLOCK. A write that fails its read-back has been tried in three
slots (R201). -/
def statefulSetBlockDesc : Desc where
  op := 0x0805
  pre _ c := [(c.len != 8, .badLength), (c.p 6 2 > 4096, .badParameter)]
  keys _ c := [c.p 0 6]
  nine s c := [(!notStateful c (c.p 0 6) && blockSmall (setBlockValue c) (s.entryOf (c.p 0 6)).leaves.life, .badParameter)]
  post _ c := [(notStateful c (c.p 0 6), .usageDenied)]
  secrets _ _ := false
  granary _ _ := true
  torn s c := s.tearLeaf (c.p 0 6)
  body s c :=
    let h := c.p 0 6
    let s := s.modLeaf h fun l => { l with block := setBlockValue c }
    ((s.recordLeaf h (s.entryOf h).leaves.hwm).modCmd c.inst c.tag fun e => { e with durable := true }, ok)

/-- STATEFUL_SET_BLOCK. -/
def execStatefulSetBlock (r : CmdRec) (s : State) : Host.Outcome State Fault Refusal := .next (runCommand statefulSetBlockDesc r s)

end Sys2Proof.Machine
end

