-- ==== Sys2Proof/Machine/Instances.lean ====
section
/-! DEFINITION. The instance commands (R409 to R427) and MBOX_STATUS (R432). -/
namespace Sys2Proof.Machine

/-! ### Share blocks (R413, R414, R422) -/

/-- A share block as 24 bytes; no ceiling is all ones (R414). -/
def Shares.block (x : Shares) (q : Nat) : Bytes :=
  toBE 2 q ++ toBE 2 x.fweight ++ toBE 2 x.lweight ++ toBE 2 (x.wctx.getD 0xFFFF) ++ toBE 4 (x.keys.getD 0xFFFFFFFF) ++
    toBE 4 (x.sas.getD 0xFFFFFFFF) ++ toBE 8 (x.gddr6.getD 0xFFFFFFFFFFFFFFFF)

/-- The share block in force of an instance (R414, R425). -/
def State.shareBlock (s : State) (i : Nat) : Bytes := (s.inst i).bind.shares.block (s.qslots i)

/-- Read a share block at an offset. -/
def readShares (p : Bytes) (o : Nat) : Shares :=
  { qslots := num p o 2, fweight := num p (o + 2) 2, lweight := num p (o + 4) 2, wctx := some (num p (o + 6) 2),
    keys := some (num p (o + 8) 4), sas := some (num p (o + 12) 4), gddr6 := some (num p (o + 16) 8) }

/-- Usable capacity of a field in bytes: its data pages less those withdrawn (R435, R454). -/
def State.capacity (s : State) (f : Nat) : Nat := 2048 * (983040 - (s.field f).withdrawn.length)

/-- Usable capacity of the package. -/
def State.capacityAll (s : State) : Nat := (s.fieldNums.map s.capacity).sum

/-- The share k of a block is in range (R413): QSLOTS, FWEIGHT, LWEIGHT, WCTX, KEYS, SAS, GDDR6. -/
def State.shareInRange (s : State) (x : Shares) (k : Nat) : Bool :=
  match k with
  | 0 => 1 ≤ x.qslots && x.qslots ≤ 4096 * s.n - 256
  | 1 => 1 ≤ x.fweight && x.fweight ≤ 1000
  | 2 => 1 ≤ x.lweight && x.lweight ≤ 1000
  | 3 => x.wctx.getD 0 ≤ 128 * s.n
  | 4 => x.keys.getD 0 ≤ 524288 * s.n
  | 5 => x.sas.getD 0 ≤ 1048576
  | _ => x.gddr6.getD 0 ≤ s.capacityAll && x.gddr6.getD 0 % 65536 == 0

/-- The tenants' QSLOTS, one tenant left out. -/
def State.tenantSlots (s : State) (but : Nat) : Nat :=
  ((s.insts.filter (fun x => x.bind.id != 0 && x.bind.id != but)).map (fun x => x.bind.shares.qslots)).sum

/-- The table record as the instances stand (R412). Instance 0 is in it for its weights. -/
def State.writeTable (s : State) : State := s.modGran fun g => { g with table := s.insts.map (·.bind) }

/-! ### Instance commands -/

/-- FLAGS, VID and SRCMAC of *INSTANCE_CREATE parameters* are wrong (R410, R423). -/
def bindingBad (c : Cmd) : Bool :=
  c.p 1 1 ≥ 4 || c.p 2 2 > 4094 || bit (c.p 4 1) 0 || c.p 10 8 != 0 || c.p 18 2 != 0

/-- The lowest free tenant ID. -/
def State.freeId (s : State) : Option Nat := ((List.range 255).map (· + 1)).find? fun i => !s.hasInst i

/-- ID of the tenant INSTANCE_CREATE makes. -/
def State.createId (s : State) (c : Cmd) : Option Nat :=
  if c.p 0 1 == 0 then s.freeId else if s.hasInst (c.p 0 1) then none else some (c.p 0 1)

/-- The binding of the block of INSTANCE_CREATE. -/
def bindingOf (c : Cmd) (id : Nat) (sh : Shares) : Binding :=
  { id := id, flags := c.p 1 1, vid := c.p 2 2, srcmac := c.p 4 6, shares := sh }

/-- INSTANCE_CREATE (R412, R423). -/
def instanceCreateDesc : Desc where
  op := 0x0E01
  pre s c :=
    [(c.len != 44, .badLength),
     (bindingBad c || !(List.range 7).all (s.shareInRange (readShares c.params 20)) || (s.createId c).isNone, .badParameter)]
  post s c :=
    [(c.notOperational || !c.mode .partitioned, .stateForbids),
     (s.tenantSlots 0 + (readShares c.params 20).qslots > 4096 * s.n - 256, .shareExhausted)]
  granary _ _ := true
  turn s c := s.targetTurn c
  body s c :=
    match s.createId c with
    | none => (s, st .badParameter)
    | some id =>
      let new : Inst := { bind := bindingOf c id (readShares c.params 20) }
      let t := State.writeTable { s with insts := s.insts ++ [new] }
      (s.limitZero (t.modCmd c.inst c.tag fun e => { e with durable := true }), ok (toBE 1 id))

/-- INSTANCE_CREATE. -/
def execInstanceCreate (r : CmdRec) (s : State) : Host.Outcome State Fault Refusal := .next (runCommand instanceCreateDesc r s)

/-- INSTANCE_BIND (R423). -/
def instanceBindDesc : Desc where
  op := 0x0E05
  pre s c :=
    [(c.len != 20, .badLength), (bindingBad c, .badParameter), (c.p 0 1 == 0 || !s.hasInst (c.p 0 1), .noSuchInstance)]
  post _ c := [(c.notOperational, .stateForbids)]
  granary _ _ := true
  turn s c := s.targetTurn c
  body s c :=
    let s := s.modInst (c.p 0 1) fun i => { i with bind := bindingOf c (c.p 0 1) i.bind.shares }
    (s.writeTable.modCmd c.inst c.tag fun e => { e with durable := true }, ok)

/-- INSTANCE_BIND. -/
def execInstanceBind (r : CmdRec) (s : State) : Host.Outcome State Fault Refusal := .next (runCommand instanceBindDesc r s)

/-- The work of INSTANCE_DESTROY that precedes the table write (R426 steps 1 to 3): what INSTANCE_RESET does, then persistent
keys, SAs, images and settings. -/
def State.clearInstance (s : State) (t : Nat) : State :=
  let s := (s.keys.filter (fun k => hInst k.handle == t)).foldl (fun s k => s.destroyKey k.handle) s
  let s := s.modGran fun g => { g with keys := g.keys.filter fun (k : Stored) => hInst k.key.handle != t }
  let s := (s.sas.filter (fun a => hInst a.handle == t)).foldl (fun s a => s.dropSa a.handle) s
  let s := s.destroyImages t
  let keep := fun (v : Values) => v.filter fun (e : Nat × Option Nat × Nat) => e.2.1 != some t
  { s with working := keep s.working, gran := { s.gran with stored := keep s.gran.stored } }

/-- INSTANCE_DESTROY (R426). Its reset sends the target no INSTANCE_RESET reply; the ended commands' replies still go out
(R100). -/
def instanceDestroyDesc : Desc where
  op := 0x0E02
  pre s c := [(c.len != 4, .badLength), (c.p 0 1 == 0 || c.p 1 3 != 0, .badParameter), (!s.hasInst (c.p 0 1), .noSuchInstance)]
  post _ c := [(c.notOperational, .stateForbids)]
  granary _ _ := true
  spoil s c := ((s.resetInstance c (c.p 0 1)).2.clearInstance (c.p 0 1))
  turn s c := s.targetTurn c
  body s c :=
    let t := c.p 0 1
    let s := if c.aux == 0 then ((s.resetInstance c t).2.clearInstance t).modCmd c.inst c.tag fun e => { e with aux := 1 } else s
    if s.drainedOf c t then
      let u := State.writeTable { s with insts := s.insts.filter fun x => x.bind.id != t, txq := s.txq.filter fun f => f.inst != t }
      (s.limitZero (u.modCmd c.inst c.tag fun e => { e with durable := true }), ok)
    else (s, none)

/-- INSTANCE_DESTROY. -/
def execInstanceDestroy (r : CmdRec) (s : State) : Host.Outcome State Fault Refusal := .next (runCommand instanceDestroyDesc r s)

/-- SHARE_SET's new shares of a target: the selected fields of the block over the present shares (R424). -/
def setShares (old new : Shares) (sel : Nat) : Shares :=
  { qslots := if bit sel 0 then new.qslots else old.qslots, fweight := if bit sel 1 then new.fweight else old.fweight,
    lweight := if bit sel 2 then new.lweight else old.lweight, wctx := if bit sel 3 then new.wctx else old.wctx,
    keys := if bit sel 4 then new.keys else old.keys, sas := if bit sel 5 then new.sas else old.sas,
    gddr6 := if bit sel 6 then new.gddr6 else old.gddr6 }

/-- Fields of the block that SEL does not select are not all zero (R424). -/
def unselected (c : Cmd) : Bool :=
  [(0, 4, 2), (1, 6, 2), (2, 8, 2), (3, 10, 2), (4, 12, 4), (5, 16, 4), (6, 20, 8)].any fun (k, o, n) =>
    !bit (c.p 1 1) k && c.p o n != 0

/-- How far a use lies above a ceiling (R424). -/
def overBy (used : Nat) (ceiling : Option Nat) : Nat := used - ceiling.getD used

/-- Results of SHARE_SET (R424). -/
def State.shareResults (s : State) (t : Nat) : Bytes :=
  let sh := (s.inst t).bind.shares
  if t == 0 then s.shareBlock 0 ++ List.replicate 24 0
  else s.shareBlock t ++ toBE 4 (s.held t - sh.qslots) ++ toBE 4 (overBy (s.usedKeys t) sh.keys) ++
    toBE 4 (overBy (s.usedSas t) sh.sas) ++ toBE 8 (overBy (s.usedG6 t) sh.gddr6) ++ toBE 2 (overBy (s.usedWctx t) sh.wctx) ++ [0, 0]

/-- SHARE_SET (R418, R420, R424). The credit update and the event go out with its effect. -/
def shareSetDesc : Desc where
  op := 0x0E03
  pre s c :=
    let sel := c.p 1 1
    [(c.len != 28, .badLength),
     (sel ≥ 128 || c.p 2 2 != 0 || unselected c || (c.p 0 1 == 0 && (sel &&& 0x06) != sel) ||
       !(List.range 7).all (fun k => !bit sel k || s.shareInRange (readShares c.params 4) k), .badParameter),
     (!s.hasInst (c.p 0 1), .noSuchInstance)]
  post s c :=
    [(c.notOperational, .stateForbids),
     (bit (c.p 1 1) 0 && s.tenantSlots (c.p 0 1) + (readShares c.params 4).qslots > 4096 * s.n - 256, .shareExhausted)]
  granary _ _ := true
  turn s c := s.targetTurn c
  body s c :=
    let t := c.p 0 1
    let sel := c.p 1 1
    let old := (s.inst t).bind.shares
    let new := setShares old (readShares c.params 4) sel
    let s0 := s
    let s := s.modInst t fun i => { i with bind := { i.bind with shares := new } }
    let s := s.writeTable.modCmd c.inst c.tag fun e => { e with durable := true }
    let s := if new.qslots != old.qslots then s.creditUncaused t else s
    let s := s0.limitZero s
    let s := if { new with qslots := old.qslots } != old then s.raise t 0x0501 (s.shareBlock t) else s
    (s, ok (s.shareResults t))

/-- SHARE_SET. -/
def execShareSet (r : CmdRec) (s : State) : Host.Outcome State Fault Refusal := .next (runCommand shareSetDesc r s)

/-- *INSTANCE_INFO results* (R425). -/
def State.instanceInfo (s : State) (t : Nat) : Bytes :=
  let b := (s.inst t).bind
  toBE 1 t ++ toBE 1 b.flags ++ toBE 2 b.vid ++ toBE 6 b.srcmac ++ [0, 0] ++ s.shareBlock t ++
    toBE 2 (s.held t) ++ toBE 4 0 ++ toBE 2 (s.usedWctx t) ++ toBE 4 (s.usedKeys t) ++ toBE 4 (s.usedSas t) ++ toBE 8 (s.usedG6 t)

/-- INSTANCE_INFO (R425). -/
def instanceInfoDesc : Desc where
  op := 0x0E04
  pre s c := [(c.len != 4, .badLength), (c.p 1 3 != 0, .badParameter), (!s.hasInst (c.p 0 1), .noSuchInstance)]
  post _ c := [(c.notOperational, .stateForbids)]
  turn s c := s.targetTurn c
  body s c := (s, ok (s.instanceInfo (c.p 0 1)))

/-- INSTANCE_INFO. -/
def execInstanceInfo (r : CmdRec) (s : State) : Host.Outcome State Fault Refusal := .next (runCommand instanceInfoDesc r s)

/-- The map of INSTANCE_LIST (R425). -/
def State.instanceMap (s : State) : Bytes :=
  (List.range 32).map fun k => BitVec.ofNat 8 ((List.range 8).map fun j => if s.hasInst (8 * k + j) then 2 ^ j else 0).sum

/-- INSTANCE_LIST (R425). -/
def instanceListDesc : Desc where
  op := 0x0E06
  pre _ c := [(c.len != 0, .badLength)]
  post _ c := [(c.notOperational, .stateForbids)]
  body s _ := (s, ok s.instanceMap)

/-- INSTANCE_LIST. -/
def execInstanceList (r : CmdRec) (s : State) : Host.Outcome State Fault Refusal := .next (runCommand instanceListDesc r s)

/-- Depth and head of a queue as MBOX_STATUS reports them. -/
def Mbox.status (q : Mbox) : Bytes := toBE 1 q.msgs.length ++ [0, 0, 0] ++ toBE 4 ((q.msgs.head?.map (·.1)).getD 0)

/-- MBOX_STATUS (R432). -/
def mboxStatusDesc : Desc where
  op := 0x0E20
  pre s c :=
    let peer := c.p 0 1
    [(c.len != 4, .badLength),
     (c.p 1 3 != 0 || (if c.inst == 0 then peer == 0 || !s.hasInst peer else peer != 0), .badParameter)]
  post _ c := [(c.runAt != .operational && c.runAt != .fallow, .stateForbids)]
  body s c := (s, ok ((s.queueTo (c.p 0 1) c.inst).status ++ (s.queueTo c.inst (c.p 0 1)).status))

/-- MBOX_STATUS. -/
def execMboxStatus (r : CmdRec) (s : State) : Host.Outcome State Fault Refusal := .next (runCommand mboxStatusDesc r s)

end Sys2Proof.Machine
end

