-- ==== Sys2Proof/Machine/LifeCycle.lean ====
section
/-! DEFINITION. The life-cycle commands besides ATTEST_BOOT (R467 to R477). -/
namespace Sys2Proof.Machine

/-- *LIFECYCLE_STATUS results* (R467). -/
def State.lcStatus (s : State) : Bytes :=
  toBE 1 s.lc.code ++ toBE 1 (s.gran.lc.getD 0 {}).fuses ++ toBE 1 s.debugBit.toNat ++
    toBE 1 (s.gran.owner.isSome.toNat + 2 * s.gran.identity.isSome.toNat + 4 * s.pkg.repaired.toNat) ++ [0, 0, 0, 0] ++
    toBE 8 s.fuses.deviceId ++ s.pkg.dnonce

/-- LIFECYCLE_STATUS (R467). -/
def lifecycleStatusDesc : Desc where
  op := 0x0C01
  pre _ c := [(c.len != 0, .badLength)]
  body s _ := (s, ok s.lcStatus)

/-- LIFECYCLE_STATUS. -/
def execLifecycleStatus (r : CmdRec) (s : State) : Host.Outcome State Fault Refusal := .next (runCommand lifecycleStatusDesc r s)

/-! ### Tokens (R472 to R474) -/

/-- Length of a token (R472). -/
def tokenLen : Nat := 6906

/-- The token checks of R474, in their order; digest is the value DIGEST must hold. -/
def State.tokenOk (s : State) (t : Bytes) (purpose : Nat) (digest : Bytes) : Bool :=
  slice t 0 4 == [0x49, 0x58, 0x4E, 0x54] && byteAt t 4 == 1 && byteAt t 7 == 0 && allZero (slice t 80 16) &&
  byteAt t 5 == purpose && byteAt t 6 == 0x7 && num t 8 8 == s.fuses.deviceId &&
  !s.pkg.dnonceDue && slice t 16 32 == s.pkg.dnonce && slice t 48 32 == digest &&
  s.gran.owner.any fun o =>
    pairVerifies 1 (Config.vendorKey true false) (Config.vendorKey true true) (ascii "IXN TOKEN") (t.take 96) (slice t 96 3405) &&
    pairVerifies 1 (slice o.data 2689 1952) (slice o.data 4641 97) (ascii "IXN TOKEN") (t.take 96) (t.drop 3501)

/-- Step 10 of a command that takes a token (R473, R474). -/
def State.tokenChecks (s : State) (t : Bytes) (purpose : Nat) (digest : Bytes) : List (Bool × Status) :=
  [((s.field s.pkg.headland).seed.state == .latched, .rngFault), (!s.tokenOk t purpose digest, .tokenRejected)]

/-- A command that fails its token check leaves a new DNONCE (R473, R474). -/
def State.tokenSpent (s : State) (st : Status) : State := if st == .tokenRejected then s.newNonce else s

/-! ### DEBUG_UNLOCK (R475) -/

/-- Debug opens: every field's key state is zeroised, the KEK follows the DEBUG bit and Steep is instantiated again, from the bits Seedbed has
pooled, or where they do not suffice at the end of a new start-up (R299, R302). That the pool, which is Seedbed's, is not zeroised is read
from what R475 names (log entry 123). -/
def State.openDebug (s : State) : State :=
  let open_ := { s with pkg := { s.pkg with unlocked := true } }
  let per := fun ((x : FieldSt), (f : Nat)) =>
    if x.lost || x.run == .lockdown then x
    else
      let y := { x.zeroKeys with kek := List.replicate 2 (open_.kekValue f), seed := { x.seed with seeded := false } }
      if x.seed.state != .ready then y
      else if y.seed.holds 576 then y.instantiate
      else { y with seed := y.seed.restart s.clock.time s.seedLimits }
  { open_ with fields := s.fields.zipIdx.map per }

/-- DEBUG_UNLOCK (R467, R475). -/
def debugUnlockDesc : Desc where
  op := 0x0C03
  pre _ c := [(c.len != tokenLen, .badLength)]
  post s c :=
    [((c.runAt != .bootstrap && c.runAt != .recovery) || s.lc != .production, .stateForbids)] ++
      s.tokenChecks c.params 1 (List.replicate 32 0)
  onRefuse s _ st := s.tokenSpent st
  body s _ := (s.openDebug.newNonce, ok)

/-- DEBUG_UNLOCK. -/
def execDebugUnlock (r : CmdRec) (s : State) : Host.Outcome State Fault Refusal := .next (runCommand debugUnlockDesc r s)

/-! ### LC_ADVANCE (R468, R469) -/

/-- The block of LC_ADVANCE has the wrong length for its TARGET; an unassigned TARGET fixes none (R468, R555). -/
def State.advanceBadLen (s : State) (c : Cmd) : Bool :=
  match LcState.ofCode (c.p 0 1) with
  | none => c.len < 8
  | some t => c.len != (if t == .endOfLife && s.lc == .production then 8 + tokenLen else 8)

/-- One field's part of the sequence of R469: wipe, fuse, copies, intent cleared. -/
def State.advanceField (t : LcState) (s : State) (f : Nat) : State :=
  s.modGran fun g => { (g.wipe f t) with lc := (g.wipe f t).lc.modify f fun r => r.moveTo t }

/-- The sequence of R469 on every field. -/
def State.advance (s : State) : State :=
  let t := LcState.ofCount (s.lc.count + 1)
  let s := s.modFields fun x => if x.lost then x else x.zeroKeys
  s.fieldNums.foldl (State.advanceField t) s

/-- LC_ADVANCE (R468, R469): admission stops, in-flight commands drain, then the sequence runs. The release of the reply resets
the part. -/
def lcAdvanceDesc : Desc where
  op := 0x0C10
  pre s c :=
    [(s.advanceBadLen c, .badLength),
     (s.lc == .endOfLife || LcState.ofCode (c.p 0 1) != some (LcState.ofCount (s.lc.count + 1)) || c.p 1 3 != 0 ||
       c.p 4 4 != 0x2C5E9A41, .badParameter)]
  post s c :=
    [(c.notOperational, .stateForbids), (s.lc == .test && s.gran.identity.isNone, .stateForbids)] ++
      (if s.lc == .production then s.tokenChecks (c.params.drop 8) 2 (List.replicate 32 0) else [])
  onRefuse s _ st := s.tokenSpent st
  body s c :=
    let s := s.stopAdmission .lcAdvance
    if s.othersDone c then
      (let s := if s.lc == .production then s.newNonce else s
       (s.advance, ok))
    else (s, none)

/-- LC_ADVANCE. -/
def execLcAdvance (r : CmdRec) (s : State) : Host.Outcome State Fault Refusal := .next (runCommand lcAdvanceDesc r s)

/-- LC_ADVANCE_DRAIN_TIMEOUT (R469): 100 ms have passed; what remains completes with MACHINE_CHECK and the sequence runs. -/
def execLcAdvanceDrainTimeout (s : State) : Host.Outcome State Fault Refusal :=
  .next (match s.inProgress 0x0C10 with
    | some c =>
      let s := s.endAll (s.cmds.filter fun d => !d.isDone && !(d.inst == c.inst && d.tag == c.tag)) .machineCheck
      let s := if s.lc == .production then s.newNonce else s
      s.advance.complete c.inst c.tag { status := .ok }
    | none => s)

/-! ### OWNER_SET and IDENTITY_INFO (R467, R477) -/

/-- Length of the owner keys (R477). -/
def ownerLen : Nat := 4738

/-- OWNER_SET (R477). -/
def ownerSetDesc : Desc where
  op := 0x0C11
  pre s c := [(c.len != (if s.lc == .production then ownerLen + tokenLen else ownerLen), .badLength)]
  post s c :=
    [(c.notOperational || (s.lc != .test && s.lc != .production), .stateForbids)] ++
      (if s.lc == .production then
        s.tokenChecks (c.params.drop ownerLen) 3 (digestOf 0x12 32 (c.params.take ownerLen))
      else [])
  onRefuse s _ st := s.tokenSpent st
  granary _ _ := true
  body s c :=
    let seq := ((s.gran.owner.map (·.seq)).getD 0) + 1
    let s := s.modGran fun g => { g with owner := some { data := c.params.take ownerLen, seq := seq } }
    let s := if s.lc == .production then s.newNonce else s
    (s.modCmd c.inst c.tag fun e => { e with durable := true }, ok)

/-- OWNER_SET. -/
def execOwnerSet (r : CmdRec) (s : State) : Host.Outcome State Fault Refusal := .next (runCommand ownerSetDesc r s)

/-- IDENTITY_INFO (R467). What it returns before IDENTITY is recorded is a free value (log entry 7). -/
def identityInfoDesc : Desc where
  op := 0x0C12
  pre _ c := [(c.len != 0, .badLength)]
  post _ c := [(c.notOperational, .stateForbids)]
  body s _ :=
    match s.gran.identity with
    | some b => (s, ok b)
    | none => let (b, s) := s.fresh 2691; (s, ok b)

/-- IDENTITY_INFO. -/
def execIdentityInfo (r : CmdRec) (s : State) : Host.Outcome State Fault Refusal := .next (runCommand identityInfoDesc r s)

end Sys2Proof.Machine
end

