-- ==== Sys2Proof/Machine/Furrow.lean ====
section
/-! DEFINITION. What a Saivo instruction works on: element types, registers, masks, moduli, the address space and the faults
of an access, the leaf stream (R314 to R325, R343, R356 to R359). -/
namespace Sys2Proof.Machine

/-! ### Image headers (R327) -/

/-- CAPS bit 0, RELEASE. -/
def Image.release (m : Image) : Bool := bit (byteAt m.header 9) 0

/-- CAPS bit 1, VERDICT. -/
def Image.verdict (m : Image) : Bool := bit (byteAt m.header 9) 1

/-- GANG. -/
def Image.gang (m : Image) : Nat := byteAt m.header 11

/-- ICOUNT. -/
def Image.icount (m : Image) : Nat := num m.header 12 2

/-- ENTRY. -/
def Image.entry (m : Image) : Nat := num m.header 14 2

/-- HANDLER. -/
def Image.handler (m : Image) : Option Nat := if num m.header 16 2 == 0xFFFF then none else some (num m.header 16 2)

/-- DWSIZE. -/
def Image.dwsize (m : Image) : Nat := num m.header 18 2

/-- A2SIZE, in words. -/
def Image.a2words (m : Image) : Nat := 64 * num m.header 22 2

/-- DRAWLEN. -/
def Image.drawlen (m : Image) : Nat := byteAt m.header 24

/-- NKEYIN. -/
def Image.nkeyin (m : Image) : Nat := byteAt m.header 25

/-- NKEYOUT. -/
def Image.nkeyout (m : Image) : Nat := byteAt m.header 26

/-- OUTTYPE of an output set. -/
def Image.outType (m : Image) (k : Nat) : Nat := byteAt m.header (28 + k)

/-- OUTSIZE of an output set. -/
def Image.outSize (m : Image) (k : Nat) : Nat := num m.header (32 + 2 * k) 2

/-- MAXCYCLES, in cycles. -/
def Image.maxCycles (m : Image) : Nat := 1024 * num m.header 40 4

/-! ### Elements (R317, R343) -/

/-- Element width w of a type. -/
def elWidth (t : Nat) : Nat := [24, 12, 8, 1].getD t 24

/-- Elements per lane. -/
def elPer (t : Nat) : Nat := [1, 2, 3, 24].getD t 1

/-- Lanes of a short or long register. -/
def laneCount (l : Nat) : Nat := if l == 0 then 8 else 64

/-- Element count n. -/
def elCount (t l : Nat) : Nat := elPer t * laneCount l

/-- The elements of one lane, k of them from the lowest bits. -/
def laneElems (w : Nat) : Nat → Nat → List Nat
  | 0, _ => []
  | k + 1, x => x % 2 ^ w :: laneElems w k (x / 2 ^ w)

/-- The elements of a register (R317). -/
def toElems (t : Nat) (r : List Word24) : List Nat := r.flatMap fun x => laneElems (elWidth t) (elPer t) x.toNat

/-- Elements put into one lane. -/
def joinElems (w : Nat) : List Nat → Nat
  | [] => 0
  | e :: es => e % 2 ^ w + 2 ^ w * joinElems w es

/-- Elements put back into k lanes. -/
def ofElems (t : Nat) : Nat → List Nat → List Word24
  | 0, _ => []
  | k + 1, es => BitVec.ofNat 24 (joinElems (elWidth t) (es.take (elPer t))) :: ofElems t k (es.drop (elPer t))

/-- An element read as two's complement of w bits. -/
def signedOf (w x : Nat) : Int := if x ≥ 2 ^ (w - 1) then (x : Int) - 2 ^ w else x

/-- An integer written modulo 2^w. -/
def wrapTo (w : Nat) (x : Int) : Nat := (x % (2 ^ w : Int)).toNat

/-- sext12 of C. -/
def sext12 (c : Nat) : Int := signedOf 12 (c % 4096)

/-! ### The furrow an instruction runs on -/

/-- A furrow and its run while one instruction executes: free is the state's free-value counter, start the element it resumes from
(R339), fixed the words a read has corrected (R321). -/
structure Env where
  u : Furrow
  r : Run
  free : Nat := 0
  start : Nat := 0
  ecc : Ecc := {}
  fixed : List Nat := []

/-- How an instruction ends: complete, complete with a jump, a fault with cause, element, address, the furrow as the fault leaves it
and what an element resume keeps, the whole run at once, at the barrier, or halted. -/
inductive Res where
  | next (e : Env)
  | jump (e : Env) (pc : Nat)
  | fault (cause idx addr : Nat) (e : Env) (part : Option Env)
  | quit (st : Status)
  | barrier (e : Env)
  | halt (e : Env)

/-- A scalar register. -/
def Env.sreg (e : Env) (k : Nat) : Word24 := e.u.s.getD k 0

/-- Write a scalar register. -/
def Env.setS (e : Env) (k : Nat) (x : Word24) : Env := { e with u := { e.u with s := e.u.s.set k x } }

/-- A short or long register. -/
def Env.vec (e : Env) (l k : Nat) : List Word24 :=
  if l == 0 then e.u.v.getD k (List.replicate 8 0) else e.u.w.getD k (List.replicate 64 0)

/-- Write a short or long register. -/
def Env.setVec (e : Env) (l k : Nat) (x : List Word24) : Env :=
  if l == 0 then { e with u := { e.u with v := e.u.v.set k x } } else { e with u := { e.u with w := e.u.w.set k x } }

/-- A mask register; m0 reads as all ones (R315). -/
def Env.mask (e : Env) (k : Nat) : BitVec 64 := if k == 0 then BitVec.allOnes 64 else e.u.m.getD k 0

/-- Write a mask register; writes to m0 are ignored (R315). -/
def Env.setMask (e : Env) (k : Nat) (x : BitVec 64) : Env :=
  if k == 0 then e else { e with u := { e.u with m := e.u.m.set k x } }

/-- act(i) of R343: the lane of element i is active. -/
def Env.act (e : Env) (i : SaivoFields) (k : Nat) : Bool := (e.mask i.m).getLsbD (k / elPer i.t)

/-- Lane ℓ is active. -/
def Env.lane (e : Env) (i : SaivoFields) (k : Nat) : Bool := (e.mask i.m).getLsbD k

/-- Active lanes of the instruction's registers. -/
def Env.activeLanes (e : Env) (i : SaivoFields) : Nat := ((List.range (laneCount i.l)).filter (e.lane i)).length

/-- The elements of a register of the instruction. -/
def Env.elems (e : Env) (i : SaivoFields) (k : Nat) : List Nat := toElems i.t (e.vec i.l k)

/-- Write the active elements of a register (R315): element k becomes g k. -/
def Env.putElems (e : Env) (i : SaivoFields) (d : Nat) (g : Nat → Nat) : Env :=
  let new := (e.elems i d).zipIdx.map fun p => if e.act i p.2 then g p.2 else p.1
  e.setVec i.l d (ofElems i.t (laneCount i.l) new)

/-- Write the active lanes of a register: lane k becomes g k. -/
def Env.putLanes (e : Env) (i : SaivoFields) (l d : Nat) (g : Nat → Word24) : Env :=
  e.setVec l d ((e.vec l d).zipIdx.map fun p => if e.lane i p.2 then g p.2 else p.1)

/-- A number made of 40 fresh bits: place k of the free value the instruction draws (log entry 7). -/
def Env.rand (e : Env) (k : Nat) : Nat := leNat ((List.range 5).map fun j => Config.fresh e.free (5 * k + j))

/-! ### Sealed sets (R323, R324) -/

/-- Share set x is SEALED. -/
def Env.sealedSet (e : Env) (x : Nat) : Bool := e.u.sealedSets.getD x false

/-- Some long register of a list lies in a SEALED set. -/
def Env.anySealed (e : Env) (ws : List Nat) : Bool := ws.any fun k => e.sealedSet (k / 4)

/-- Set the tag of a share set; it stays set until the run ends. -/
def Env.sealSet (e : Env) (x : Nat) (b : Bool) : Env :=
  if b then { e with u := { e.u with sealedSets := e.u.sealedSets.set x true } } else e

/-- A vector instruction that names long registers under R324: it faults with cause SEALED when one lies in a SEALED set. -/
def Env.unsealed (e : Env) (l : Nat) (ws : List Nat) (k : Env → Res) : Res :=
  if l == 1 && e.anySealed ws then .fault 0x03 0 0 e none else k e

/-! ### Moduli (R316, R354) -/

/-- Bit length of a number below 2^24. -/
def bitLen (x : Nat) : Nat := ((List.range 25).find? fun k => x < 2 ^ k).getD 25

/-- −q⁻¹ mod 2^24 for odd q, by five steps of Newton's iteration. -/
def montNeg (q : Nat) : Nat :=
  let x := (List.range 5).foldl (fun (x : Nat) _ => wrapTo 24 ((x : Int) * (2 - (q : Int) * x))) q
  (2 ^ 24 - x) % 2 ^ 24

/-- The register QLD leaves (R316): valid for odd Q from 3 to 2^23 − 1, else all zero. -/
def Modulus.of (q : Nat) : Modulus :=
  if q % 2 == 1 && 3 ≤ q && q < 2 ^ 23 then
    { q := BitVec.ofNat 24 q, qinv := BitVec.ofNat 24 (montNeg q), mu := BitVec.ofNat 24 (2 ^ (2 * bitLen q) / q),
      r2 := BitVec.ofNat 24 (2 ^ 48 % q) }
  else {}

/-- The modulus an instruction names. -/
def Env.modulus (e : Env) (i : SaivoFields) : Nat := (e.u.q.getD i.q {}).q.toNat

/-- A modular instruction (R354): MODULUS when the register is invalid, or not below 4,096 for E12. -/
def Env.withQ (e : Env) (i : SaivoFields) (k : Nat → Res) : Res :=
  let q := e.modulus i
  if q == 0 || (i.t == 1 && q ≥ 4096) then .fault 0x04 0 0 e none else k q

/-- x mod± α of R343. -/
def modPm (x α : Nat) : Int := let r := x % α; if 2 * r ≤ α then r else (r : Int) - α

/-! ### Leaf stream (R325, R345) -/

/-- Active elements of the instruction. -/
def Env.activeElems (e : Env) (i : SaivoFields) : Nat := e.activeLanes i * elPer i.t

/-- Masking order of the run. -/
def Env.d (e : Env) : Nat := e.r.order

/-- r of R345: bits of one random element. -/
def randBits (i : SaivoFields) : Nat := if i.f / 16 == 1 then elWidth i.t else 40

/-- ⌈log₂ w⌉. -/
def ceilLog (w : Nat) : Nat := [(24, 5), (12, 4), (8, 3), (1, 0)].lookup w |>.getD 0

/-- Leaf bits an instruction draws (*Opcode map*). -/
def Env.leafBits (e : Env) (op : Nat) (i : SaivoFields) : Nat :=
  let d := e.d
  let pairs := d * (d + 1) / 2
  let n := e.activeElems i
  let conv := pairs * (ceilLog (elWidth i.t) + 1) * elWidth i.t
  match op with
  | 0x4A => if i.f % 2 == 1 then 0 else if i.l == 1 then 192 else 12
  | 0x50 => d * randBits i * n
  | 0x54 => pairs * randBits i * n
  | 0x55 => pairs * randBits i * n
  | 0x56 => conv * n
  | 0x57 => (conv + 40 * d) * n
  | 0x58 => pairs * randBits i * n
  | 0x59 => pairs * randBits i * n
  | _ => 0

/-! ### The address space (R319 to R322, R358) -/

/-- Byte k of a byte string as word k / 3, little-endian (R320). -/
def wordOf (b : Bytes) (k : Nat) : Word24 := BitVec.ofNat 24 (leNat (slice b (3 * k) 3))

/-- Words of a byte count. -/
def wordsFor (n : Nat) : Nat := ceilDiv n 3

/-- The first byte-strings' words: n words. -/
def toWords (n : Nat) (b : Bytes) : List Word24 := (List.range n).map (wordOf b)

/-- The first n bytes of a list of words (R320). -/
def ofWords (n : Nat) (ws : List Word24) : Bytes := (ws.flatMap fun w => toLE 3 w.toNat).take n

/-- A1 of rank 0 as bytes. -/
def Run.output (r : Run) (n : Nat) : Bytes := ofWords n ((List.range (wordsFor n)).map fun k => r.a1.read k)

/-- A word address lies in an accessible part of the address space (R319); A0 is read only. -/
def Env.window (e : Env) (a : Nat) (write : Bool) : Bool :=
  if a < 0x8000 then a < e.u.dwsize
  else if 0x400000 ≤ a && a < 0x500000 then !write && a < 0x400000 + wordsFor e.r.input.length
  else if 0x500000 ≤ a && a < 0x600000 then a < 0x500000 + wordsFor e.r.outMax
  else 0x600000 ≤ a && a < 0x600000 + e.r.image.a2words

/-- Where an address of A1 lies: each furrow of a gang has an A1 of its own, by its rank (R322). -/
def Env.a1At (e : Env) (a : Nat) : Nat := e.u.rank * 0x100000 + (a - 0x500000)

/-- The address under which a word of acre SRAM is marked: one of A1 with the furrow's rank. -/
def Env.mark (e : Env) (a : Nat) : Nat := if 0x500000 ≤ a && a < 0x600000 then e.u.rank * 2 ^ 24 + a else a

/-- The word at an address. -/
def Env.read (e : Env) (a : Nat) : Word24 :=
  if a < 0x8000 then e.u.dmem.read a
  else if a < 0x500000 then wordOf e.r.input (a - 0x400000)
  else if a < 0x600000 then e.r.a1.read (e.a1At a)
  else e.r.a2.read (a - 0x600000)

/-- The word is marked poisoned. -/
def Env.marked (e : Env) (a : Nat) : Bool := if a < 0x8000 then e.u.poison.contains a else e.r.poison.contains (e.mark a)

/-- The word is poisoned, or SEC-DED finds it so now (R321). -/
def Env.poisoned (e : Env) (a : Nat) : Bool := e.marked a || e.ecc.bad.contains a

/-- Mark a word poisoned. -/
def Env.poison (e : Env) (a : Nat) : Env :=
  if a < 0x8000 then { e with u := { e.u with poison := addAddr e.u.poison a } } else { e with r := { e.r with poison := addAddr e.r.poison (e.mark a) } }

/-- Store all 24 bits of a word: its poison and its seal go (R321, R358). -/
def Env.write (e : Env) (a : Nat) (x : Word24) : Env :=
  if a < 0x8000 then
    { e with u := { e.u with dmem := e.u.dmem.write a x, poison := e.u.poison.filter (· != a), seals := e.u.seals.filter (· != a) } }
  else if a < 0x600000 then { e with r := { e.r with a1 := e.r.a1.write (e.a1At a) x, poison := e.r.poison.filter (· != e.mark a) } }
  else { e with r := { e.r with a2 := e.r.a2.write (a - 0x600000) x, poison := e.r.poison.filter (· != a) } }

/-- Set the seal bit of a word. -/
def Env.sealWord (e : Env) (a : Nat) : Env := { e with u := { e.u with seals := addAddr e.u.seals a } }

/-- An element of memory by its element address (R318). -/
def Env.readElem (e : Env) (t ea : Nat) : Nat := (e.read (ea / elPer t)).toNat / 2 ^ (elWidth t * (ea % elPer t)) % 2 ^ elWidth t

/-- Store an element; E24 stores the whole word. -/
def Env.writeElem (e : Env) (t ea x : Nat) : Env :=
  let a := ea / elPer t
  if t == 0 then e.write a (BitVec.ofNat 24 x)
  else
    let sh := elWidth t * (ea % elPer t)
    let old := (e.read a).toNat
    let new := old - e.readElem t ea * 2 ^ sh + x % 2 ^ elWidth t * 2 ^ sh
    if a < 0x8000 then { e with u := { e.u with dmem := e.u.dmem.write a (BitVec.ofNat 24 new) } }
    else if a < 0x600000 then { e with r := { e.r with a1 := e.r.a1.write (e.a1At a) (BitVec.ofNat 24 new) } }
    else { e with r := { e.r with a2 := e.r.a2.write (a - 0x600000) (BitVec.ofNat 24 new) } }

/-! ### Accesses and their faults (R359) -/

/-- One access of an instruction: the element it belongs to, its word address, what it does, whether only local data memory is open
to it, and whether a seal bit stops it. -/
structure Acc where
  idx : Nat
  addr : Nat
  write : Bool := false
  part : Bool := false      -- it stores less than a word
  locl : Bool := false
  sealOk : Bool := false

/-- The cause an access faults with: the first of WINDOW, SEALED and POISON (R359). -/
def Env.accFault (e : Env) (a : Acc) : Option Nat :=
  if !e.window a.addr a.write || (a.locl && a.addr ≥ 0x8000) then some 0x01
  else if (!a.write || a.part) && !a.sealOk && e.u.seals.contains a.addr then some 0x03
  else if (!a.write || a.part) && e.poisoned a.addr then some 0x02
  else none

/-- The access that faults and its cause: the first element that faults, in the order given, with the first of WINDOW, SEALED and POISON that
one of its accesses meets (R359). -/
def Env.firstFault (e : Env) (as : List Acc) : Option (Acc × Nat) :=
  (as.find? fun a => (e.accFault a).isSome).bind fun a =>
    [0x01, 0x03, 0x02].findSome? fun c => (as.find? fun b => b.idx == a.idx && e.accFault b == some c).map fun b => (b, c)

/-- A read that finds an uncorrectable word marks it poisoned; one that corrects a word sets CORRECTED (R321). -/
def Env.readMarks (e : Env) (as : List Acc) : Env :=
  let rs := as.filter fun a => !a.write || a.part
  let e := { e with fixed := e.fixed ++ ((rs.map (·.addr)).filter e.ecc.fixed.contains).eraseDups }
  (rs.filter fun a => e.ecc.bad.contains a.addr).foldl (fun e a => e.poison a.addr) e

/-- An instruction with memory accesses, in the order they are examined: the fault of the first that faults, else its effect. The
effect below an element is what an element-resumable instruction keeps in RECOVERY (R339). -/
def Env.access (e : Env) (all : List Acc) (resumable : Bool) (effect : Nat → Env → Env) (total : Nat) : Res :=
  let as := all.filter fun a => a.idx ≥ e.start
  match e.firstFault as with
  | some (a, c) =>
    let e' := e.readMarks (as.takeWhile (fun b => (e.accFault b).isNone) ++ [a])
    .fault c a.idx (a.addr % 2 ^ 24) e' (if resumable then some (effect a.idx e') else none)
  | none => .next (effect total (e.readMarks as))

/-- W of R356. -/
def Env.wordAddr (e : Env) (i : SaivoFields) (sreg : Nat) : Nat := wrapTo 24 ((e.sreg sreg).toNat + sext12 i.c)

/-- π of R361: the memory lane of a register lane under F[0]. -/
def Env.order (e : Env) (i : SaivoFields) (k : Nat) : Nat :=
  if i.f % 2 == 1 then (if i.l == 1 then e.u.o64 else e.u.o8).getD k k else k

end Sys2Proof.Machine
end

