-- ==== Sys2Proof/Machine/SaivoForm.lean ====
section
/-! DEFINITION. The Saivo encodings (R341, R342, R346): which fields an opcode uses, what it accepts, its cycles, and an image's
instruction words. -/
namespace Sys2Proof.Machine

/-- OP of a 48-bit instruction. -/
def saivoOp (w : Nat) : Nat := bits w 47 40

/-- The other fields (R341). -/
def saivoFields (w : Nat) : SaivoFields :=
  { t := bits w 39 38, l := bits w 37 37, m := bits w 36 34, d := bits w 33 29, a := bits w 28 24, b := bits w 23 19,
    q := bits w 18 17, f := bits w 16 12, c := bits w 11 0 }

/-- The target of JMP, JAL, BR and LOOP: bits [12:0]. -/
def target (i : SaivoFields) : Nat := i.f % 2 * 4096 + i.c

/-- The 24-bit immediate of LI: bits [23:0]. -/
def imm24 (i : SaivoFields) : Nat := i.b * 2 ^ 19 + i.q * 2 ^ 17 + i.f * 2 ^ 12 + i.c

/-- The fields lie within their widths. -/
def inWidth (i : SaivoFields) : Bool :=
  i.t < 4 && i.l < 2 && i.m < 8 && i.d < 32 && i.a < 32 && i.b < 32 && i.q < 4 && i.f < 32 && i.c < 4096

/-- A field the encoding uses; the others are zero. -/
inductive Use where
  | m | d | a | b | q | f | c
deriving DecidableEq, Repr

/-- Every field not listed is zero. -/
def unusedZero (us : List Use) (i : SaivoFields) : Bool :=
  (us.contains .m || i.m == 0) && (us.contains .d || i.d == 0) && (us.contains .a || i.a == 0) && (us.contains .b || i.b == 0) &&
  (us.contains .q || i.q == 0) && (us.contains .f || i.f == 0) && (us.contains .c || i.c == 0)

/-- T and L of an instruction whose columns are blank. -/
def scalarForm (us : List Use) (i : SaivoFields) : Bool := i.t == 0 && i.l == 0 && unusedZero us i

/-- T is one of a list; a register number lies in the file L selects. -/
def vectorForm (ts : List Nat) (us : List Use) (i : SaivoFields) : Bool := ts.contains i.t && unusedZero us i

/-- A vector register of the file L selects. -/
def regOk (i : SaivoFields) (r : Nat) : Bool := i.l == 1 || r < 16

/-- A number of a list of registers of the file L selects. -/
def regsOk (i : SaivoFields) (rs : List Nat) : Bool := rs.all (regOk i)

/-- The exchange distance c of XCH is permitted (R350). -/
def xchOk (i : SaivoFields) : Bool := i.c ≤ (if i.l == 1 then 5 else 2)

/-- VALU and VALUI (R350). -/
def valuOk (imm : Bool) (i : SaivoFields) : Bool :=
  let xch := i.f == 15
  let shift := 8 ≤ i.f && i.f ≤ 10
  vectorForm (if [4, 5, 6, 7, 15].contains i.f then [0, 1, 2, 3] else [0, 1, 2])
    (if xch then [.m, .d, .a, .f, .c] else if imm then [.m, .d, .a, .f, .c] else [.m, .d, .a, .b, .f]) i &&
  regsOk i [i.d, i.a] && (imm || regOk i i.b) && i.f ≤ 15 && (!xch || xchOk i) && (!(imm && shift) || i.c < 32)

/-- A share instruction of either kind: L = 1, K in F[4], and Q and T as the kind asks. -/
def shareOk (us : List Use) (low : Nat) (i : SaivoFields) : Bool :=
  i.l == 1 && i.f % 16 ≤ low &&
    (if i.f / 16 == 1 then unusedZero (.m :: .f :: us) i else (i.t ≤ 1) && unusedZero (.m :: .f :: .q :: us) i)

/-- SHPUB (R363). -/
def shpubOk (i : SaivoFields) : Bool :=
  let g := i.f % 8
  shareOk (if g ≤ 4 then [.d, .a, .b] else [.d, .a, .c]) 7 i && i.d < 8 && i.a < 8 &&
    (if i.f / 16 == 1 then [0, 4, 5, 6, 7].contains g else [0, 1, 2, 3, 7].contains g) &&
    (if g == 7 then i.c ≤ 5 else i.c < 32)

/-- The encoding is assigned (R342), for an image of n instructions. -/
def saivoOk (n op : Nat) (i : SaivoFields) : Bool :=
  inWidth i &&
  match op with
  | 0x01 => scalarForm [.d, .b, .q, .f, .c] i
  | 0x02 => scalarForm [.d, .a, .b, .f] i && i.f ≤ 11
  | 0x03 => scalarForm [.d, .a, .f, .c] i && i.f ≤ 11
  | 0x04 => scalarForm [.d, .a, .c] i
  | 0x05 => scalarForm [.a, .b, .c] i
  | 0x08 => scalarForm [.d, .a, .b, .f, .c] i && i.d ≤ 5 && i.f < 2 && target i < n
  | 0x09 => scalarForm [.f, .c] i && i.f < 2 && target i < n
  | 0x0A => scalarForm [.d, .f, .c] i && i.f < 2 && target i < n
  | 0x0B => scalarForm [.a] i
  | 0x0C => scalarForm [.a, .f, .c] i && i.f < 2 && target i < n
  | 0x0D => scalarForm [] i
  | 0x0E => scalarForm [] i
  | 0x0F => scalarForm [] i
  | 0x10 => scalarForm [] i
  | 0x11 => scalarForm [.d, .c] i && i.c ≤ 3
  | 0x12 => scalarForm [.q, .a] i
  | 0x13 => scalarForm [.d] i
  | 0x18 => scalarForm [.d, .a, .b, .f] i && i.d < 8 && i.a < 8 && i.b < 8 && i.f ≤ 4 && (i.f != 4 || i.b == 0)
  | 0x19 => scalarForm [.d, .a, .c] i && i.d < 8 && i.c ≤ 2
  | 0x1A => scalarForm [.d, .a, .c] i && i.a < 8 && i.c ≤ 2
  | 0x20 =>
    vectorForm [0, 1, 2, 3] [.m, .d, .a, .f, .c] i && i.f ≤ 2 && (if i.f == 0 then i.c == 0 else i.c < 8) &&
      (if i.f == 0 then regsOk i [i.d, i.a] else if i.f == 1 then i.d < 16 else i.a < 16)
  | 0x21 => vectorForm [0, 1, 2] [.m, .d, .a] i && regOk i i.d
  | 0x22 => vectorForm [0, 1, 2] [.d, .a, .c] i && regOk i i.a && i.c < elCount i.t i.l
  | 0x23 => vectorForm [0, 1, 2] [.m, .d, .a, .c] i && regOk i i.d && i.c < elCount i.t i.l
  | 0x24 => valuOk false i
  | 0x25 => valuOk true i
  | 0x26 => vectorForm [0, 1, 2] [.m, .d, .a, .b, .f] i && regsOk i [i.a, i.b] && i.d < 8 && i.f ≤ 5
  | 0x28 => vectorForm [0, 1, 2] [.m, .d, .a, .b, .f] i && regsOk i [i.d, i.a, i.b] && i.f ≤ 1
  | 0x29 => vectorForm [0, 1, 2] [.m, .d, .a, .b, .f] i && regsOk i [i.d, i.a, i.b] && i.f ≤ 1
  | 0x2A => vectorForm [0, 1, 2] [.m, .d, .a, .b, .f, .c] i && regsOk i [i.d, i.a, i.b] && i.f ≤ 7 && i.c < 2 * elWidth i.t
  | 0x2B =>
    vectorForm [0, 1, 2] (if i.f / 8 % 2 == 1 then [.m, .d, .a, .b, .f] else [.m, .d, .a, .f, .c]) i && regsOk i [i.d, i.a, i.b] &&
      i.f ≤ 15 && i.c < 32
  | 0x30 => vectorForm [0, 1] [.m, .d, .a, .b, .q] i && regsOk i [i.d, i.a, i.b]
  | 0x31 => vectorForm [0, 1] [.m, .d, .a, .b, .q] i && regsOk i [i.d, i.a, i.b]
  | 0x32 => vectorForm [0, 1] [.m, .d, .a, .b, .q, .f] i && regsOk i [i.d, i.a, i.b] && i.f ≤ 1
  | 0x33 => vectorForm [0, 1] [.m, .d, .a, .q, .f] i && regsOk i [i.d, i.a] && i.f ≤ 3
  | 0x38 => vectorForm [0, 1] [.m, .d, .a, .q, .c] i && regsOk i [i.d, i.a] && 1 ≤ i.c && i.c ≤ 12
  | 0x39 => vectorForm [0, 1] [.m, .d, .a, .q, .c] i && regsOk i [i.d, i.a] && 1 ≤ i.c && i.c ≤ 12
  | 0x3A => vectorForm [0] [.m, .d, .a, .b, .q, .c] i && regsOk i [i.d, i.a, i.b] && i.b != i.d && 1 ≤ i.c && i.c ≤ 22
  | 0x3B => vectorForm [0] [.m, .d, .a, .b, .q, .c] i && regsOk i [i.d, i.a, i.b] && i.b != i.d && i.c ≤ 1
  | 0x40 => vectorForm [0, 1, 2, 3] [.m, .d, .a, .f, .c] i && regOk i i.d && i.f ≤ 1
  | 0x41 => vectorForm [0, 1, 2, 3] [.m, .a, .b, .f, .c] i && regOk i i.b && i.f ≤ 1
  | 0x42 => vectorForm [0, 1, 2] [.m, .d, .a, .f, .c] i && i.d + 2 ≤ (if i.l == 1 then 32 else 16) && i.f ≤ 1
  | 0x43 => vectorForm [0, 1, 2] [.m, .d, .a, .f, .c] i && i.d + 3 ≤ (if i.l == 1 then 32 else 16) && i.f ≤ 1
  | 0x44 => vectorForm [0, 1, 2] [.m, .d, .a, .f, .c] i && i.d + 4 ≤ (if i.l == 1 then 32 else 16) && i.f ≤ 1
  | 0x45 => vectorForm [0, 1, 2] [.m, .a, .b, .f, .c] i && i.b + 2 ≤ (if i.l == 1 then 32 else 16) && i.f ≤ 1
  | 0x46 => vectorForm [0, 1, 2] [.m, .a, .b, .f, .c] i && i.b + 3 ≤ (if i.l == 1 then 32 else 16) && i.f ≤ 1
  | 0x47 => vectorForm [0, 1, 2] [.m, .a, .b, .f, .c] i && i.b + 4 ≤ (if i.l == 1 then 32 else 16) && i.f ≤ 1
  | 0x48 => vectorForm [0, 1, 2] [.m, .d, .a, .b, .c] i && regsOk i [i.d, i.b]
  | 0x49 => vectorForm [0, 1, 2] [.m, .d, .a, .b, .c] i && regsOk i [i.d, i.b]
  | 0x4A => vectorForm [0] [.f] i && i.f ≤ 1
  | 0x50 => shareOk [.d, .a] 0 i && i.d < 8
  | 0x51 => shareOk [.d, .a, .b] 0 i && i.d < 8 && i.a < 8 && i.b < 8
  | 0x52 => shareOk [.d, .a, .b] 0 i && i.f == 0 && i.d < 8 && i.a < 8 && i.b < 8
  | 0x53 => shpubOk i
  | 0x54 => shareOk [.d, .a, .b] 0 i && i.d < 8 && i.a < 8 && i.b < 8
  | 0x55 => shareOk [.d, .a] 0 i && i.d < 8 && i.a < 8
  | 0x56 => shareOk [.d, .a] 0 i && i.f == 0 && i.d < 8 && i.a < 8
  | 0x57 => shareOk [.d, .a] 0 i && i.f == 0 && i.d < 8 && i.a < 8
  | 0x58 => shareOk [.a, .b] 8 i && (i.f % 16 == 0 || i.f % 16 == 8) && i.a < 8 && (i.f / 8 % 2 == 1 || i.b < 8)
  | 0x59 => shareOk [.d, .a, .b] 0 i && i.d < 8 && i.a < 8 && i.b < 8
  | 0x5A => shareOk [.d, .a] 0 i && i.a < 8
  | 0x5B => i.l == 1 && unusedZero [.m, .a, .b, .f, .c] i && i.f ≤ 1 && i.a < 8
  | 0x5C => i.l == 1 && unusedZero [.m, .d, .a, .f, .c] i && i.f ≤ 1 && i.d < 8
  | _ => false

/-- The instruction with an OP reaches acre SRAM: its word address lies above local data memory. -/
def Env.far (e : Env) (i : SaivoFields) (sreg : Nat) : Bool := e.wordAddr i sreg ≥ 0x8000

/-- Cycles an instruction takes at least (*Opcode map*, R345): waits are not counted. -/
def Env.cycleCount (e : Env) (op : Nat) (i : SaivoFields) : Nat :=
  let d1 := e.d + 1
  let mul := if i.f == 2 || i.f == 3 then 2 else 1
  let long := i.l == 1
  let sad := (ceilLog (elWidth i.t) + 2) * d1 * d1
  let base :=
    match op with
    | 0x02 => mul
    | 0x03 => mul
    | 0x04 => if e.far i i.a then 14 else 2
    | 0x05 => if e.far i i.a then 12 else 1
    | 0x09 => 2
    | 0x0A => 2
    | 0x0B => 2
    | 0x0F => 2
    | 0x24 => mul
    | 0x25 => mul
    | 0x2A => 2
    | 0x32 => if i.f == 1 then 3 else 2
    | 0x33 => 2
    | 0x38 => 3
    | 0x39 => 3
    | 0x3A => 2
    | 0x3B => 4
    | 0x40 => if e.far i i.a then (if long then 16 else 13) else if long then 2 else 1
    | 0x41 => if e.far i i.a then (if long then 16 else 13) else if long then 2 else 1
    | 0x42 => if e.far i i.a then (if long then 20 else 13) else if long then 5 else 2
    | 0x43 => if e.far i i.a then (if long then 24 else 13) else if long then 7 else 2
    | 0x44 => if e.far i i.a then (if long then 28 else 13) else if long then 9 else 2
    | 0x45 => if e.far i i.a then (if long then 20 else 13) else if long then 5 else 2
    | 0x46 => if e.far i i.a then (if long then 24 else 13) else if long then 7 else 2
    | 0x47 => if e.far i i.a then (if long then 28 else 13) else if long then 9 else 2
    | 0x48 => ceilDiv (elCount i.t i.l) 8 + 2
    | 0x49 => ceilDiv (elCount i.t i.l) 8 + 2
    | 0x50 => d1
    | 0x51 => d1
    | 0x52 => d1
    | 0x53 => if i.f % 8 == 3 then 2 * d1 else d1
    | 0x54 => d1 * d1 + 1
    | 0x55 => d1 + 1
    | 0x56 => sad
    | 0x57 => sad + d1
    | 0x58 => d1 * d1 + 6
    | 0x59 => d1 * d1 + 1
    | 0x5A => d1
    | 0x5B => 2 * d1
    | 0x5C => 2 * d1
    | _ => 1
  max base (ceilDiv (e.leafBits op i) 512)

/-- Every instruction of an image is assigned (R329). -/
def allAssigned (ws : List Nat) : Bool := ws.all fun w => saivoOk ws.length (saivoOp w) (saivoFields w)

/-- ICOUNT instructions of 6 bytes, two little-endian words each, low word first (R327). -/
def readInstrs : Nat → Bytes → List Nat
  | 0, _ => []
  | k + 1, b => leNat (b.take 6) :: readInstrs k (b.drop 6)

end Sys2Proof.Machine
end

