-- ==== Sys2Proof/Machine/Gangs.lean ====
section
/-! DEFINITION. Program runs: placing a gang on an acre, loading its furrows, issuing one instruction, faults, barriers, and the end of
the run (R330 to R340, R416). -/
namespace Sys2Proof.Machine

/-- A furrow. -/
def State.furrow (s : State) (u : FurrowRef) : Furrow := (s.field u.field).furrows.getD u.furrow {}

/-- Change a furrow. -/
def State.modFurrow (s : State) (u : FurrowRef) (g : Furrow → Furrow) : State :=
  s.modField u.field fun x => { x with furrows := x.furrows.modify u.furrow g }

/-- A run. -/
def State.run? (s : State) (id : Nat) : Option Run := s.runs.find? fun r => r.id == id

/-- Change a run. -/
def State.modRun (s : State) (id : Nat) (g : Run → Run) : State :=
  { s with runs := s.runs.map fun r => if r.id == id then g r else r }

/-- The furrows of a run, by rank. -/
def Run.refs (r : Run) : List FurrowRef := r.furrows.map fun k => { field := r.field, furrow := k }

/-! ### Placement (R330, R416) -/

/-- Bytes a run takes in acre SRAM. -/
def Run.sram (r : Run) : Nat := 3 * (wordsFor r.input.length + wordsFor r.outMax + r.image.a2words)

/-- Acre SRAM, 2 MiB. -/
def acreSram : Nat := 2 * 1024 * 1024

/-- Acre SRAM the runs of an acre take. -/
def State.sramUsed (s : State) (f a : Nat) : Nat := ((s.runs.filter fun r => r.field == f && r.acre == some a).map Run.sram).sum

/-- The acre can take the run now: GANG idle furrows, room, and no twin of the run on it (R132, R330). -/
def State.qualifies (s : State) (r : Run) (a : Nat) : Bool :=
  let x := s.field r.field
  !s.runs.any (fun o => o.id != r.id && o.inst == r.inst && o.tag == r.tag && o.field == r.field && o.acre == some a) &&
    (x.idle a).length ≥ r.image.gang && s.sramUsed r.field a + r.sram ≤ acreSram &&
    !x.mcheck && !x.lost && x.run != .lockdown

/-- The acre with the most idle furrows among those that qualify; the lower-numbered on a tie. A twin to come takes another than those
in but (R132). -/
def State.pickAcre (s : State) (r : Run) (but : List Nat := []) : Option Nat :=
  ((List.range 4).filter fun a => !but.contains a && s.qualifies r a).foldl (fun (b : Option Nat) a => match b with
    | none => some a
    | some c => if ((s.field r.field).idle c).length < ((s.field r.field).idle a).length then some a else some c) none

/-- Images kept while their instructions fit 8,192, the last run first (R330). -/
def keepFit : Nat → List (Nat × Nat) → List (Nat × Nat)
  | _, [] => []
  | room, (h, n) :: l => if n ≤ room then (h, n) :: keepFit (room - n) l else keepFit 0 l

/-- Words from an address on. -/
def WMem.fill (m : WMem) : Nat → List Word24 → WMem
  | _, [] => m
  | a, w :: ws => WMem.fill (m.write a w) (a + 1) ws

/-- Byte k of a free value, as 24-bit words: lane of share j. -/
def freeLane (serial base k : Nat) : Word24 := wordOf ((List.range 3).map fun b => Config.fresh serial (base + 3 * k + b)) 0

/-- d + 1 Boolean shares of a byte string over 64 lanes: masks from the free value, share 0 completing it (R332). -/
def boolShares (d serial base : Nat) (b : Bytes) : List (List Word24) :=
  let masks := (List.range d).map fun j => (List.range 64).map fun l => freeLane serial base (64 * j + l)
  (toWords 64 b).zipIdx.map (fun p => masks.foldl (fun x (m : List Word24) => x ^^^ m.getD p.2 0) p.1) :: masks

/-- Put a list of shares into share set x. -/
def putShares (w : List (List Word24)) (x : Nat) (shares : List (List Word24)) : List (List Word24) :=
  shares.zipIdx.foldl (fun w p => w.set (4 * x + p.2) p.1) w

/-- The furrow of a rank as its run starts (R314, R330, R332). -/
def Furrow.start (u : Furrow) (r : Run) (rank serial : Nat) : Furrow :=
  let m := r.image
  let base : Furrow :=
    { imem := keepFit 8192 ((m.handle, m.icount) :: u.imem.filter (fun p => p.1 != m.handle)), run := some r.id, rank := rank,
      pc := m.entry, dwsize := m.dwsize, dmem := WMem.fill [] 0 m.dinit,
      s := [BitVec.ofNat 24 r.input.length, BitVec.ofNat 24 r.outMax, BitVec.ofNat 24 r.order, BitVec.ofNat 24 rank] ++
        List.replicate 28 0 }
  if rank != 0 then base
  else
    let w := r.keys.zipIdx.foldl (fun w p => putShares w (4 + p.2) (boolShares r.order serial (1000 * (p.2 + 1)) p.1.1)) base.w
    let w := if r.draw.isEmpty then w else putShares w 3 (boolShares r.order serial 0 r.draw)
    { base with w := w,
                sealedSets := (List.range 8).map fun k => (k == 3 && !r.draw.isEmpty) || (4 ≤ k && k < 4 + r.keys.length) }

/-- A run takes the first idle furrows of an acre and starts. -/
def State.startRun (s : State) (id a : Nat) : State :=
  match s.run? id with
  | none => s
  | some r =>
    let ks := ((s.field r.field).idle a).take r.image.gang
    let serial := s.free
    let s := s.modRun id fun r => { r with acre := some a, furrows := ks }
    let s := { s with free := s.free + 1 }
    ks.zipIdx.foldl (fun s p => s.modFurrow ⟨r.field, p.1⟩ fun u => u.start { r with acre := some a, furrows := ks } p.2 serial) s

/-- Virtual time of an instance on a field (R416). -/
def State.vtime (s : State) (i f : Nat) : Nat := (s.inst i).vtime.getD f 0

/-- Runs of a field that wait for an acre. -/
def State.waitingRuns (s : State) (f : Nat) : List Run := s.runs.filter fun r => r.field == f && r.acre.isNone

/-- The leaf stream of an acre runs. -/
def State.acreUp (s : State) (f a : Nat) : Bool := ((s.field f).leaf.getD a {}).running

/-- A new run starts on the acre it is given, once that acre's leaf stream runs (R335), or waits; an instance that starts to wait is raised to the lowest virtual time among those waiting
(R330, R416). -/
def State.beginRun (s : State) (r : Run) : State :=
  let id := s.pkg.nextRun
  let r := { r with id := id, since := id }
  let waiting := s.waitingRuns r.field
  let s := ({ s with runs := s.runs ++ [r] }).modPkg fun p => { p with nextRun := p.nextRun + 1 }
  match (s.pickAcre r).filter (s.acreUp r.field) with
  | some a => s.startRun id a
  | none =>
    if waiting.isEmpty || waiting.any (fun w => w.inst == r.inst) then s
    else
      let low := waiting.foldl (fun m w => min m (s.vtime w.inst r.field)) (s.vtime (waiting.headD r).inst r.field)
      s.modInst r.inst fun i =>
        { i with vtime := s.fieldNums.map fun f => if f == r.field then max low (i.vtime.getD f 0) else i.vtime.getD f 0 }

/-- The waiting run an acre with its leaf stream running goes to: the lowest virtual time, then the longest wait (R335, R416). -/
def State.nextRun (s : State) (f a : Nat) : Option Run :=
  ((s.waitingRuns f).filter fun r => s.qualifies r a && s.acreUp f a).foldl (fun (b : Option Run) r => match b with
    | none => some r
    | some c =>
      if s.vtime r.inst f < s.vtime c.inst f || (s.vtime r.inst f == s.vtime c.inst f && r.since < c.since) then some r else some c) none

/-! ### How a run ends -/

/-- The fault record as 96 bits (R337), big-endian. -/
def FaultRec.bytes (r : FaultRec) : Bytes :=
  toBE 12 (r.mode.toNat * 2 ^ 92 + r.retry * 2 ^ 88 + r.addr * 2 ^ 48 + r.pc * 2 ^ 24 + r.cause * 2 ^ 16 + r.idx)

/-- Every furrow of the run has halted (R331). -/
def State.runHalted (s : State) (r : Run) : Bool := r.acre.isSome && (r.refs).all fun u => (s.furrow u).halted

/-- A gate returns to the thread that called it: its status in x0[15:0], GATE_OK or GATE_FAIL, and the popped address (R376). -/
def Thread.gateReturn (h : Thread) (st : Status) : Thread :=
  let x0 := (h.x.getD 0 0).toNat / 65536 * 65536 + st.code
  { h with x := h.x.set 0 (BitVec.ofNat 32 x0), gateOk := st.cls == 0, pc := h.stack.headD 0, stack := h.stack.tail }

/-- Change a thread. -/
def State.modThread (s : State) (t : ThreadRef) (g : Thread → Thread) : State :=
  s.modField t.field fun x => { x with threads := x.threads.modify t.thread g }

/-- A run ends without results: the command completes with the status, or the PROGRAM gate returns it. FAULT_DETECTED and RNG_FAULT
always end the command (R110, R308). -/
def State.failRun (s : State) (r : Run) (st : Status) : State :=
  match r.thread with
  | some t =>
    if st == .programFault then (s.endRuns r.inst r.tag).modThread ⟨r.field, t⟩ fun h => h.gateReturn st
    else s.complete r.inst r.tag { status := st }
  | none => s.complete r.inst r.tag { status := st }

/-- What a halted run yields (R333): output, selected sets as 192-byte values, and its Tally pair. -/
structure RunOut where
  out : Bytes
  sets : List Bytes
  pair : Nat
deriving DecidableEq, Repr

/-- The recombined 1,536-bit value of a Boolean share set at order d. -/
def recombined (u : Furrow) (d x : Nat) : Bytes :=
  ofWords 192 ((List.range 64).map fun l =>
    (List.range (d + 1)).foldl (fun (acc : Word24) j => acc ^^^ (u.w.getD (4 * x + j) []).getD l 0) 0)

/-- The halt values of rank 0 (R333). -/
def State.runOut (s : State) (r : Run) : RunOut :=
  let u := s.furrow ⟨r.field, r.furrows.headD 0⟩
  let sel := (u.s.getD 2 0).toNat
  { out := r.output (u.s.getD 1 0).toNat,
    sets := (List.range 4).map fun k => if bit sel k then recombined u r.order k else [],
    pair := u.tally.toNat % 65536 }

/-- A pass pair, VERD 0x5A and VCOMP 0xA5 (R364). -/
def passPair : Nat := 0x5AA5

/-- A fail pair. -/
def failPair : Nat := 0x3CC3

/-- The new keys of a run, in set order (R333). -/
def State.runKeys (s : State) (c : Cmd) (r : Run) (o : RunOut) : List Nat × State :=
  (List.range 4).foldl (fun (hs, s) k =>
    match o.sets.getD k [] with
    | [] => (hs, s)
    | b =>
      let m := r.image
      let body := b.take ((secretLen (m.outType k) (m.outSize k)).getD 0)
      let (h, s) := s.addKey c r.field (some (6 * hs.length))
        { type := m.outType k, attr := r.outAttr, origin := 4, size := m.outSize k, body := body }
      (hs ++ [h], s)) ([], s)

/-- A command's runs have all halted (R331, R333, R335): twins are compared, keys are made and the reply is staged, or the PROGRAM gate
returns. -/
def State.finishRun (s : State) (r : Run) : State :=
  let mine := s.runs.filter fun x => x.inst == r.inst && x.tag == r.tag
  if !mine.all s.runHalted then s
  else
    match mine, s.cmd? r.inst r.tag with
    | r0 :: rest, some c =>
      let o := s.runOut r0
      if r0.test then s.complete r.inst r.tag { status := .ok, results := [0, 0, 0, 0] ++ (s.furrow ⟨r0.field, r0.furrows.headD 0⟩).frec.bytes }
      else if rest.any fun x => s.runOut x != o then s.complete r.inst r.tag { status := .faultDetected } true
      else
        match r0.thread with
        | some t =>
          let pass := !r0.image.verdict || o.pair == passPair
          (s.endRuns r.inst r.tag).modThread ⟨r0.field, t⟩ fun h =>
            let h := { h with buf := if pass then o.out else [], sets := if pass then o.sets else [],
                              verdict := if r0.image.verdict then (if pass then .pass else .fail) else h.verdict }
            h.gateReturn (if pass then .ok else .verdictFail)
        | none =>
          if r0.image.verdict && o.pair == failPair then s.complete r.inst r.tag { status := .verdictFail, verdict := .fail }
          else
            let ws := (s.descPages c (o.sets.filter (· != [])).length).eraseDups
            match s.checkWrites r.inst r.tag ws with
            | (false, s) => s.complete r.inst r.tag { status := .destPoisoned }
            | (true, s) =>
              let (hs, s) := (s.writePages ws).runKeys c r0 o
              s.complete r.inst r.tag { status := .ok, verdict := if r0.image.verdict then .pass else .none,
                                        results := hs.flatMap (toBE 6) ++ o.out }
    | _, _ => s

/-! ### Faults (R336 to R339) -/

/-- The element-resumable class of R339: gather, scatter, LD2 to LD4 and ST2 to ST4. -/
def resumableOp (op : Nat) : Bool := 0x42 ≤ op && op ≤ 0x49

/-- A faulting furrow (R337 to R339, R523): the fault is held in a test run where the class allows it; it ends the run where no handler may
take it; else control passes to HANDLER. -/
def State.furrowFault (s : State) (u : FurrowRef) (r : Run) (op : Nat) (i : SaivoFields) (cause idx addr : Nat) (part : Option Env) :
    State :=
  let f := s.furrow u
  -- the words found bad so far are marked in memory, where DIAG_WORD can repair them (R339)
  let hold := r.test && resumableOp op && part.isSome
  let rec0 : FaultRec := { mode := hold, retry := min 15 r.restarts, addr := addr, pc := f.pc, cause := cause, idx := idx }
  let s := if idx < 256 then s.modFurrow u fun f => { f with frec := rec0 }
    else
      let (b, s) := s.fresh 1
      s.modFurrow u fun f => { f with frec := { rec0 with idx := byteAt b 0 } }
  match hold, part with
  | true, some e =>
    let s := s.modFurrow u fun f => { f with v := e.u.v, w := e.u.w, dmem := e.u.dmem, poison := e.u.poison, seals := e.u.seals,
                                             held := some (op, { i with ecc := { i.ecc with bad := i.ecc.bad.filter fun a => !e.marked a } }) }
    let s := s.modRun r.id fun x => { x with a1 := e.r.a1, a2 := e.r.a2, poison := e.r.poison, inst := 256, tag := 0 }
    s.complete r.inst r.tag { status := .ok, results := [1, 0, 0, 0] ++ (s.furrow u).frec.bytes }
  | _, _ =>
    if cause == 0x03 || cause == 0x07 || f.inHandler || r.image.handler.isNone then
      (s.log u.field u.furrow 5 r.inst (s.furrow u).frec.bytes).failRun r .programFault
    else s.modFurrow u fun f => { f with pc := r.image.handler.getD 0, inHandler := true }

/-- RETRY or ABORT outside the handler, ABORT in it, and a sixteenth restart end the run with PROGRAM_FAULT (R338, R349). -/
def State.endProgram (s : State) (u : FurrowRef) (r : Run) : State :=
  (s.log u.field u.furrow 5 r.inst (s.furrow u).frec.bytes).failRun r .programFault

/-! ### Issue -/

/-- The run of a furrow that can issue an instruction now: not halted, at a barrier, with a held fault, or suspended under HARDENED with
its leaf stream stopped (R331, R482, R523). -/
def State.issuing (s : State) (u : FurrowRef) : Option Run :=
  let f := s.furrow u
  if u.field ≥ s.n || f.halted || f.atBarrier || f.held.isSome then none
  else
    (f.run.bind s.run?).filter fun r =>
      r.acre.isSome && !((s.cmd? r.inst r.tag).any (·.mode .hardened) && !((s.field u.field).leaf.getD (u.furrow / 4) {}).running)

/-- Corrected words set CORRECTED and are logged with the furrow's island, or the acre fabric's for acre SRAM (R321, R455, R518). The number
of the macro is not the spec's to give: a free value (log entry 7). -/
def State.logFixed (s : State) (u : FurrowRef) (r : Run) (as : List Nat) : State :=
  if as.isEmpty then s
  else
    as.foldl (fun s a =>
      let (m, s) := s.fresh 2
      (s.log u.field (if a < 0x8000 then u.furrow else 24 + u.furrow / 4) 4 r.inst (m ++ toBE 4 a)).countCorrected u.field)
      (s.modCmd r.inst r.tag fun c => { c with corrected := true })

/-- Store what an instruction leaves. -/
def State.store (s : State) (u : FurrowRef) (e : Env) : State :=
  ((s.modFurrow u fun _ => e.u).modRun e.r.id fun _ => e.r).logFixed u e.r e.fixed

/-- Every furrow of the gang has reached the barrier: all go on (R331). -/
def State.openBarrier (s : State) (r : Run) : State :=
  if (r.refs).all fun u => (s.furrow u).atBarrier then
    (r.refs).foldl (fun s u => s.modFurrow u fun f => { f with atBarrier := false, pc := f.pc + 1 }) s
  else s

/-- Carry out how an instruction ended. -/
def State.settle (s : State) (u : FurrowRef) (op : Nat) (i : SaivoFields) (r : Run) : Res → State
  | .next e => s.store u { e with u := { e.u with pc := e.u.pc + 1 } }
  | .jump e pc => s.store u { e with u := { e.u with pc := pc, cycles := e.u.cycles + (op == 0x08 || op == 0x0C).toNat } }
  | .fault cause idx addr e part => (s.store u e).furrowFault u r op i cause idx addr part
  | .quit st => if st == .programFault then s.endProgram u r else s.failRun r st
  | .barrier e => (s.store u { e with u := { e.u with atBarrier := true } }).openBarrier r
  | .halt e => (s.store u { e with u := { e.u with halted := true } }).finishRun r

/-- An instruction whose leaf-stream bits are not there waits; where the Seedbed has latched failed the run ends (R325, R305, R308). -/
def State.leafWait (s : State) (u : FurrowRef) (r : Run) : State :=
  if (s.field u.field).seed.state == .latched then s.complete r.inst r.tag { status := .rngFault }
  else s.modFurrow u fun f => { f with waitLeaf := true }

/-- The environment of a furrow. -/
def State.env (s : State) (u : FurrowRef) (r : Run) (i : SaivoFields) : Env :=
  { u := s.furrow u, r := r, free := s.free, ecc := i.ecc }

/-- Run an instruction on a furrow from an element on, its bits there. -/
def State.runInstr (s : State) (u : FurrowRef) (op : Nat) (i : SaivoFields) (r : Run) (start : Nat) (sem : Env → Res) : State :=
  let e := { s.env u r i with start := start }
  let e := { e with u := { e.u with cycles := e.u.cycles + e.cycleCount op i, waitLeaf := false } }
  let s := if e.leafBits op i == 0 then s else { s with free := s.free + 1 }
  s.settle u op i r (sem e)

/-- An instruction word of instruction memory is beyond repair (R336): the run ends, the furrow's copy is discarded. -/
def State.imemFault (s : State) (u : FurrowRef) (r : Run) : State :=
  (s.modFurrow u fun f => { f with imem := f.imem.filter fun p => p.1 != r.image.handle }).furrowFault u r 0
    { t := 0, l := 0, m := 0, d := 0, a := 0, b := 0, q := 0, f := 0, c := 0 } 0x07 0 0 none

/-- One instruction issues on a furrow (R344). No run executes an unassigned encoding (R342). -/
def State.issue (s : State) (u : FurrowRef) (op : Nat) (i : SaivoFields) (sem : Env → Res) : State :=
  match s.issuing u with
  | none => s
  | some r =>
    if !saivoOk r.image.icount op i then s
    else if i.ecc.imem then s.imemFault u r
    else if (s.env u r i).leafBits op i != 0 && !((s.field u.field).leaf.getD (u.furrow / 4) {}).running then s.leafWait u r
    else s.runInstr u op i r 0 sem

end Sys2Proof.Machine
end

