-- ==== Sys2Proof/Machine/SaivoScalar.lean ====
section
/-! DEFINITION. Saivo: scalar, control, run-control, modulus, Tally and mask-register instructions (R347 to R349, R351, R356, R365). -/
namespace Sys2Proof.Machine

/-- The scalar function F (R347). A shift uses b mod 32. -/
def aluFn (f : Nat) (a b : Word24) : Word24 :=
  match f with
  | 0 => a + b
  | 1 => a - b
  | 2 => a * b
  | 3 => BitVec.ofNat 24 (a.toNat * b.toNat / 2 ^ 24)
  | 4 => a &&& b
  | 5 => a ||| b
  | 6 => a ^^^ b
  | 7 => a <<< (b.toNat % 32)
  | 8 => a >>> (b.toNat % 32)
  | 9 => a.sshiftRight (b.toNat % 32)
  | 10 => if a.slt b then 1 else 0
  | _ => if a.ult b then 1 else 0

/-- LI (R347). -/
def semLi (i : SaivoFields) (e : Env) : Res := .next (e.setS i.d (BitVec.ofNat 24 (imm24 i)))

/-- LI. -/
def execLi (u : FurrowRef) (i : SaivoFields) (s : State) : Host.Outcome State Fault Refusal := .next (s.issue u 0x01 i (semLi i))

/-- ALU (R347). -/
def semAlu (i : SaivoFields) (e : Env) : Res := .next (e.setS i.d (aluFn i.f (e.sreg i.a) (e.sreg i.b)))

/-- ALU. -/
def execAlu (u : FurrowRef) (i : SaivoFields) (s : State) : Host.Outcome State Fault Refusal := .next (s.issue u 0x02 i (semAlu i))

/-- ALUI (R347). -/
def semAlui (i : SaivoFields) (e : Env) : Res := .next (e.setS i.d (aluFn i.f (e.sreg i.a) (BitVec.ofInt 24 (sext12 i.c))))

/-- ALUI. -/
def execAlui (u : FurrowRef) (i : SaivoFields) (s : State) : Host.Outcome State Fault Refusal := .next (s.issue u 0x03 i (semAlui i))

/-- LD (R356). -/
def semLd (i : SaivoFields) (e : Env) : Res :=
  let w := e.wordAddr i i.a
  e.access [{ idx := 0, addr := w }] false (fun _ e => e.setS i.d (e.read w)) 1

/-- LD. -/
def execLd (u : FurrowRef) (i : SaivoFields) (s : State) : Host.Outcome State Fault Refusal := .next (s.issue u 0x04 i (semLd i))

/-- ST (R356). -/
def semSt (i : SaivoFields) (e : Env) : Res :=
  let w := e.wordAddr i i.a
  e.access [{ idx := 0, addr := w, write := true }] false (fun _ e => e.write w (e.sreg i.b)) 1

/-- ST. -/
def execSt (u : FurrowRef) (i : SaivoFields) (s : State) : Host.Outcome State Fault Refusal := .next (s.issue u 0x05 i (semSt i))

/-- The conditions of R348. -/
def brCond (cc : Nat) (a b : Word24) : Bool :=
  match cc with
  | 0 => a == b
  | 1 => a != b
  | 2 => a.slt b
  | 3 => !a.slt b
  | 4 => a.ult b
  | _ => !a.ult b

/-- BR (R348). -/
def semBr (i : SaivoFields) (e : Env) : Res := if brCond i.d (e.sreg i.a) (e.sreg i.b) then .jump e (target i) else .next e

/-- BR. -/
def execBr (u : FurrowRef) (i : SaivoFields) (s : State) : Host.Outcome State Fault Refusal := .next (s.issue u 0x08 i (semBr i))

/-- JMP (R348). -/
def execJmp (u : FurrowRef) (i : SaivoFields) (s : State) : Host.Outcome State Fault Refusal :=
  .next (s.issue u 0x09 i fun e => .jump e (target i))

/-- JAL (R348). -/
def execJal (u : FurrowRef) (i : SaivoFields) (s : State) : Host.Outcome State Fault Refusal :=
  .next (s.issue u 0x0A i fun e => .jump (e.setS i.d (BitVec.ofNat 24 (e.u.pc + 1))) (target i))

/-- JR (R348): a target of ICOUNT or above faults. -/
def semJr (i : SaivoFields) (e : Env) : Res :=
  let t := (e.sreg i.a).toNat
  if t ≥ e.r.image.icount then .fault 0x01 0 t e none else .jump e t

/-- JR. -/
def execJr (u : FurrowRef) (i : SaivoFields) (s : State) : Host.Outcome State Fault Refusal := .next (s.issue u 0x0B i (semJr i))

/-- LOOP (R348). -/
def semLoop (i : SaivoFields) (e : Env) : Res :=
  let x := e.sreg i.a - 1
  if x != 0 then .jump (e.setS i.a x) (target i) else .next (e.setS i.a x)

/-- LOOP. -/
def execLoop (u : FurrowRef) (i : SaivoFields) (s : State) : Host.Outcome State Fault Refusal := .next (s.issue u 0x0C i (semLoop i))

/-- BARRIER (R331, R349). -/
def execBarrier (u : FurrowRef) (i : SaivoFields) (s : State) : Host.Outcome State Fault Refusal := .next (s.issue u 0x0D i .barrier)

/-- HALT (R333, R349, R365): rank 0's halt values are checked; a VERDICT image consumes the Tally register. -/
def semHalt (e : Env) : Res :=
  let m := e.r.image
  let pair := e.u.tally.toNat % 65536
  if e.u.rank != 0 || e.r.test then .halt e
  else if (e.sreg 1).toNat > e.r.outMax || (e.sreg 2).toNat % 16 ≥ 2 ^ m.nkeyout then .fault 0x06 0 0 e none
  else if m.verdict && pair != passPair && pair != failPair then .quit .faultDetected
  else .halt e

/-- HALT. -/
def execHalt (u : FurrowRef) (i : SaivoFields) (s : State) : Host.Outcome State Fault Refusal := .next (s.issue u 0x0E i semHalt)

/-- RETRY (R338): back to the faulting instruction; the sixteenth restart of the run ends it. -/
def semRetry (e : Env) : Res :=
  if !e.u.inHandler || e.r.restarts ≥ 15 then .quit .programFault
  else .jump { e with u := { e.u with inHandler := false }, r := { e.r with restarts := e.r.restarts + 1 } } e.u.frec.pc

/-- RETRY. -/
def execRetry (u : FurrowRef) (i : SaivoFields) (s : State) : Host.Outcome State Fault Refusal := .next (s.issue u 0x0F i semRetry)

/-- ABORT (R338). -/
def execAbort (u : FurrowRef) (i : SaivoFields) (s : State) : Host.Outcome State Fault Refusal :=
  .next (s.issue u 0x10 i fun _ => .quit .programFault)

/-- Bits [24k + 23:24k] of the fault record (R337). -/
def FaultRec.word (r : FaultRec) (k : Nat) : Word24 := BitVec.ofNat 24 (beNat r.bytes / 2 ^ (24 * k))

/-- FREC (R349). -/
def execFrec (u : FurrowRef) (i : SaivoFields) (s : State) : Host.Outcome State Fault Refusal :=
  .next (s.issue u 0x11 i fun e => .next (e.setS i.d (e.u.frec.word (i.c % 4))))

/-- QLD (R316). -/
def execQld (u : FurrowRef) (i : SaivoFields) (s : State) : Host.Outcome State Fault Refusal :=
  .next (s.issue u 0x12 i fun e => .next { e with u := { e.u with q := e.u.q.set i.q (Modulus.of (e.sreg i.a).toNat) } })

/-- TREAD (R365): it consumes the Tally register. -/
def semTread (i : SaivoFields) (e : Env) : Res :=
  let pair := e.u.tally.toNat % 65536
  if pair != passPair && pair != failPair then .quit .faultDetected
  else if e.u.tally.getLsbD 16 && !e.r.image.release then .fault 0x03 0 0 e none
  else .next (e.setS i.d e.u.tally)

/-- TREAD. -/
def execTread (u : FurrowRef) (i : SaivoFields) (s : State) : Host.Outcome State Fault Refusal := .next (s.issue u 0x13 i (semTread i))

/-! ### Mask registers (R351) -/

/-- MOP. -/
def mopFn (f : Nat) (a b : BitVec 64) : BitVec 64 :=
  match f with
  | 0 => a &&& b
  | 1 => a ||| b
  | 2 => a ^^^ b
  | 3 => a &&& ~~~b
  | _ => ~~~a

/-- MOP. -/
def execMop (u : FurrowRef) (i : SaivoFields) (s : State) : Host.Outcome State Fault Refusal :=
  .next (s.issue u 0x18 i fun e => .next (e.setMask i.d (mopFn i.f (e.mask i.a) (e.mask i.b))))

/-- Bits of a mask register that MSET writes and MGET reads: 24, or 16 for k = 2. -/
def maskPart (k : Nat) : Nat := if k == 2 then 16 else 24

/-- A mask register with part k replaced. -/
def maskPut (old : BitVec 64) (k x : Nat) : BitVec 64 :=
  let p := old.toNat / 2 ^ (24 * k) % 2 ^ maskPart k
  BitVec.ofNat 64 (old.toNat - p * 2 ^ (24 * k) + x % 2 ^ maskPart k * 2 ^ (24 * k))

/-- MSET. -/
def execMset (u : FurrowRef) (i : SaivoFields) (s : State) : Host.Outcome State Fault Refusal :=
  .next (s.issue u 0x19 i fun e => .next (e.setMask i.d (maskPut (e.mask i.d) i.c (e.sreg i.a).toNat)))

/-- MGET. -/
def execMget (u : FurrowRef) (i : SaivoFields) (s : State) : Host.Outcome State Fault Refusal :=
  .next (s.issue u 0x1A i fun e => .next (e.setS i.d (BitVec.ofNat 24 ((e.mask i.a).toNat / 2 ^ (24 * i.c) % 2 ^ maskPart i.c))))

end Sys2Proof.Machine
end

