-- ==== Sys2Proof/Machine/SaivoVector.lean ====
section
/-! DEFINITION. Saivo: vector moves, vector arithmetic, fixed point, modular arithmetic and the standard roundings (R350 to R355). -/
namespace Sys2Proof.Machine

/-- An element of an operand. -/
def elAt (es : List Nat) (k : Nat) : Nat := es.getD k 0

/-! ### Moves (R352) -/

/-- VMOV: copy; lanes 8c on of long A into short D; short A into lanes 8c on of long D. -/
def semVmov (i : SaivoFields) (e : Env) : Res :=
  match i.f with
  | 0 => e.unsealed i.l [i.d, i.a] fun e => .next (e.putLanes i i.l i.d fun k => (e.vec i.l i.a).getD k 0)
  | 1 => e.unsealed 1 [i.a] fun e => .next (e.putLanes i 0 i.d fun k => (e.vec 1 i.a).getD (8 * i.c + k) 0)
  | _ =>
    e.unsealed 1 [i.d] fun e =>
      .next (e.putLanes i 1 i.d fun k =>
        if 8 * i.c ≤ k && k < 8 * i.c + 8 then (e.vec 0 i.a).getD (k - 8 * i.c) 0 else (e.vec 1 i.d).getD k 0)

/-- VMOV. -/
def execVmov (u : FurrowRef) (i : SaivoFields) (s : State) : Host.Outcome State Fault Refusal := .next (s.issue u 0x20 i (semVmov i))

/-- VBCAST. -/
def semVbcast (i : SaivoFields) (e : Env) : Res :=
  e.unsealed i.l [i.d] fun e => .next (e.putElems i i.d fun _ => (e.sreg i.a).toNat % 2 ^ elWidth i.t)

/-- VBCAST. -/
def execVbcast (u : FurrowRef) (i : SaivoFields) (s : State) : Host.Outcome State Fault Refusal := .next (s.issue u 0x21 i (semVbcast i))

/-- VEXT: it ignores the mask. -/
def semVext (i : SaivoFields) (e : Env) : Res :=
  e.unsealed i.l [i.a] fun e => .next (e.setS i.d (BitVec.ofNat 24 (elAt (e.elems i i.a) i.c)))

/-- VEXT. -/
def execVext (u : FurrowRef) (i : SaivoFields) (s : State) : Host.Outcome State Fault Refusal := .next (s.issue u 0x22 i (semVext i))

/-- VINS. -/
def semVins (i : SaivoFields) (e : Env) : Res :=
  e.unsealed i.l [i.d] fun e =>
    let old := e.elems i i.d
    .next (e.putElems i i.d fun k => if k == i.c then (e.sreg i.a).toNat % 2 ^ elWidth i.t else elAt old k)

/-- VINS. -/
def execVins (u : FurrowRef) (i : SaivoFields) (s : State) : Host.Outcome State Fault Refusal := .next (s.issue u 0x23 i (semVins i))

/-! ### VALU, VALUI, VCMP (R350, R351) -/

/-- The vector function F on elements of w bits; shifts use b mod 32. -/
def valuFn (w f a b : Nat) : Nat :=
  let sa := signedOf w a
  let sb := signedOf w b
  let n := b % 32
  match f with
  | 0 => (a + b) % 2 ^ w
  | 1 => wrapTo w ((a : Int) - b)
  | 2 => a * b % 2 ^ w
  | 3 => a * b / 2 ^ w
  | 4 => a &&& b
  | 5 => a ||| b
  | 6 => a ^^^ b
  | 7 => a &&& (2 ^ w - 1 - b)
  | 8 => a * 2 ^ n % 2 ^ w
  | 9 => a / 2 ^ n
  | 10 => wrapTo w (sa / 2 ^ n)
  | 11 => if sa ≤ sb then a else b
  | 12 => if sa ≤ sb then b else a
  | 13 => min a b
  | _ => max a b

/-- XCH: lane k of D receives lane k XOR 2^c of A. -/
def xchLane (r : List Word24) (c k : Nat) : Word24 := r.getD (k ^^^ 2 ^ c) 0

/-- VALU. -/
def semValu (i : SaivoFields) (e : Env) : Res :=
  e.unsealed i.l (if i.f == 15 then [i.d, i.a] else [i.d, i.a, i.b]) fun e =>
    if i.f == 15 then .next (e.putLanes i i.l i.d fun k => xchLane (e.vec i.l i.a) i.c k)
    else
      let a := e.elems i i.a
      let b := e.elems i i.b
      .next (e.putElems i i.d fun k => valuFn (elWidth i.t) i.f (elAt a k) (elAt b k))

/-- VALU. -/
def execValu (u : FurrowRef) (i : SaivoFields) (s : State) : Host.Outcome State Fault Refusal := .next (s.issue u 0x24 i (semValu i))

/-- b of VALUI for element k: sext12(C) mod 2^w, C[4:0] for shifts; under type B, sext12(C) as a 24-bit pattern on every lane. -/
def valuiB (i : SaivoFields) (k : Nat) : Nat :=
  if 8 ≤ i.f && i.f ≤ 10 then i.c
  else if i.t == 3 then wrapTo 24 (sext12 i.c) / 2 ^ (k % 24) % 2
  else wrapTo (elWidth i.t) (sext12 i.c)

/-- VALUI. -/
def semValui (i : SaivoFields) (e : Env) : Res :=
  e.unsealed i.l [i.d, i.a] fun e =>
    if i.f == 15 then .next (e.putLanes i i.l i.d fun k => xchLane (e.vec i.l i.a) i.c k)
    else
      let a := e.elems i i.a
      .next (e.putElems i i.d fun k => valuFn (elWidth i.t) i.f (elAt a k) (valuiB i k))

/-- VALUI. -/
def execValui (u : FurrowRef) (i : SaivoFields) (s : State) : Host.Outcome State Fault Refusal := .next (s.issue u 0x25 i (semValui i))

/-- The conditions of R348 on elements of w bits. -/
def vcmpCond (w cc a b : Nat) : Bool :=
  match cc with
  | 0 => a == b
  | 1 => a != b
  | 2 => signedOf w a < signedOf w b
  | 3 => !(signedOf w a < signedOf w b)
  | 4 => a < b
  | _ => !(a < b)

/-- VCMP: bit ℓ is set where the lane is active and the condition holds for every element of it. -/
def semVcmp (i : SaivoFields) (e : Env) : Res :=
  e.unsealed i.l [i.a, i.b] fun e =>
    let a := e.elems i i.a
    let b := e.elems i i.b
    let per := elPer i.t
    let hit := fun (l : Nat) => e.lane i l &&
      (List.range per).all fun j => vcmpCond (elWidth i.t) i.f (elAt a (per * l + j)) (elAt b (per * l + j))
    .next (e.setMask i.d (BitVec.ofNat 64 (((List.range (laneCount i.l)).filter hit).map fun l => 2 ^ l).sum))

/-- VCMP. -/
def execVcmp (u : FurrowRef) (i : SaivoFields) (s : State) : Host.Outcome State Fault Refusal := .next (s.issue u 0x26 i (semVcmp i))

/-! ### Fixed point (R353) -/

/-- RND. -/
def rnd (x : Int) (s rm : Nat) : Int :=
  if s == 0 then x
  else
    let f := x / 2 ^ s
    let r := x - f * 2 ^ s
    let h : Int := 2 ^ (s - 1)
    match rm with
    | 0 => f
    | 1 => if r ≥ h then f + 1 else f
    | 2 => if r > h || (r == h && f % 2 == 1) then f + 1 else f
    | _ => if x < 0 && r != 0 then f + 1 else f

/-- sat: clamped, written modulo 2^w. -/
def satTo (unsigned : Bool) (w : Nat) (x : Int) : Nat :=
  let lo : Int := if unsigned then 0 else -(2 ^ (w - 1))
  let hi : Int := if unsigned then 2 ^ w - 1 else 2 ^ (w - 1) - 1
  wrapTo w (max lo (min hi x))

/-- An element read as F[0] says. -/
def fixRead (i : SaivoFields) (x : Nat) : Int := if i.f % 2 == 1 then x else signedOf (elWidth i.t) x

/-- The fixed-point instructions: g on the two elements, saturated. -/
def semFixed (i : SaivoFields) (g : Int → Int → Nat → Int) (e : Env) : Res :=
  e.unsealed i.l [i.d, i.a, i.b] fun e =>
    let a := e.elems i i.a
    let b := e.elems i i.b
    .next (e.putElems i i.d fun k =>
      satTo (i.f % 2 == 1) (elWidth i.t) (g (fixRead i (elAt a k)) (fixRead i (elAt b k)) (elAt b k)))

/-- QADD. -/
def execQadd (u : FurrowRef) (i : SaivoFields) (s : State) : Host.Outcome State Fault Refusal :=
  .next (s.issue u 0x28 i (semFixed i fun a b _ => a + b))

/-- QSUB. -/
def execQsub (u : FurrowRef) (i : SaivoFields) (s : State) : Host.Outcome State Fault Refusal :=
  .next (s.issue u 0x29 i (semFixed i fun a b _ => a - b))

/-- QMULH. -/
def execQmulh (u : FurrowRef) (i : SaivoFields) (s : State) : Host.Outcome State Fault Refusal :=
  .next (s.issue u 0x2A i (semFixed i fun a b _ => rnd (a * b) (i.c % 64) (i.f / 2 % 4)))

/-- QRSHR: its B names a register only when F[3] is 1. -/
def semQrshr (i : SaivoFields) (e : Env) : Res :=
  if i.f / 8 % 2 == 1 then semFixed i (fun a _ b => rnd a (b % 32) (i.f / 2 % 4)) e
  else
    e.unsealed i.l [i.d, i.a] fun e =>
      let a := e.elems i i.a
      .next (e.putElems i i.d fun k =>
        satTo (i.f % 2 == 1) (elWidth i.t) (rnd (fixRead i (elAt a k)) (i.c % 32) (i.f / 2 % 4)))

/-- QRSHR. -/
def execQrshr (u : FurrowRef) (i : SaivoFields) (s : State) : Host.Outcome State Fault Refusal := .next (s.issue u 0x2B i (semQrshr i))

/-! ### Modular arithmetic (R354) -/

/-- R⁻¹ mod Q for R = 2^24, from QINV: (1 + QINV·Q) / 2^24. -/
def montInv (q : Nat) : Nat := (1 + montNeg q * q) / 2 ^ 24 % q

/-- The modular instructions: MODULUS first, then R324, then g on each active element. -/
def semMod (i : SaivoFields) (rs : List Nat) (g : Nat → Nat → Nat → Nat) (e : Env) : Res :=
  e.withQ i fun q => e.unsealed i.l rs fun e =>
    let a := e.elems i i.a
    let b := e.elems i i.b
    .next (e.putElems i i.d fun k => g q (elAt a k) (elAt b k))

/-- MODADD. -/
def execModadd (u : FurrowRef) (i : SaivoFields) (s : State) : Host.Outcome State Fault Refusal :=
  .next (s.issue u 0x30 i (semMod i [i.d, i.a, i.b] fun q a b => (a + b) % q))

/-- MODSUB. -/
def execModsub (u : FurrowRef) (i : SaivoFields) (s : State) : Host.Outcome State Fault Refusal :=
  .next (s.issue u 0x31 i (semMod i [i.d, i.a, i.b] fun q a b => (((a : Int) - b) % q).toNat))

/-- MODMUL: Montgomery with F[0] = 0, plain with F[0] = 1. -/
def execModmul (u : FurrowRef) (i : SaivoFields) (s : State) : Host.Outcome State Fault Refusal :=
  .next (s.issue u 0x32 i (semMod i [i.d, i.a, i.b] fun q a b => if i.f == 1 then a * b % q else a * b % q * montInv q % q))

/-- BARRETT: F[0] reads the element signed, F[1] centres the output. -/
def barrettFn (w f q a : Nat) : Nat :=
  let r := ((if f % 2 == 1 then signedOf w a else (a : Int)) % (q : Int)).toNat
  if f / 2 % 2 == 1 then wrapTo w (modPm r q) else r

/-- BARRETT. -/
def execBarrett (u : FurrowRef) (i : SaivoFields) (s : State) : Host.Outcome State Fault Refusal :=
  .next (s.issue u 0x33 i (semMod i [i.d, i.a] fun q a _ => barrettFn (elWidth i.t) i.f q a))

/-! ### Standard rounding (R355) -/

/-- COMPRESS. -/
def execCompress (u : FurrowRef) (i : SaivoFields) (s : State) : Host.Outcome State Fault Refusal :=
  .next (s.issue u 0x38 i (semMod i [i.d, i.a] fun q a _ => (2 ^ (i.c + 1) * (a % q) + q) / (2 * q) % 2 ^ i.c))

/-- DECOMPRESS. -/
def execDecompress (u : FurrowRef) (i : SaivoFields) (s : State) : Host.Outcome State Fault Refusal :=
  .next (s.issue u 0x39 i (semMod i [i.d, i.a] fun q a _ => (2 * q * (a % 2 ^ i.c) + 2 ^ i.c) / 2 ^ (i.c + 1)))

/-- The two outputs of a rounding: to D and, signed, to B. -/
def semRound (i : SaivoFields) (g : Nat → Nat → Nat × Int) (e : Env) : Res :=
  e.withQ i fun q => e.unsealed i.l [i.d, i.a, i.b] fun e =>
    let a := e.elems i i.a
    let e := e.putElems i i.d fun k => (g q (elAt a k % q)).1
    .next (e.putElems i i.b fun k => wrapTo (elWidth i.t) (g q (elAt a k % q)).2)

/-- P2ROUND. -/
def p2roundFn (δ r : Nat) : Nat × Int := let r0 := modPm r (2 ^ δ); ((((r : Int) - r0) / 2 ^ δ).toNat, r0)

/-- P2ROUND. -/
def execP2round (u : FurrowRef) (i : SaivoFields) (s : State) : Host.Outcome State Fault Refusal :=
  .next (s.issue u 0x3A i (semRound i fun _ r => p2roundFn i.c r))

/-- DECOMPOSE. -/
def decomposeFn (α q r : Nat) : Nat × Int :=
  let r0 := modPm r α
  if (r : Int) - r0 == (q : Int) - 1 then (0, r0 - 1) else ((((r : Int) - r0) / α).toNat, r0)

/-- The divisor of DECOMPOSE. -/
def decomposeDiv (c : Nat) : Nat := if c % 2 == 0 then 44 else 16

/-- DECOMPOSE: MODULUS when α is not an even integer. -/
def semDecompose (i : SaivoFields) (e : Env) : Res :=
  let q := e.modulus i
  let v := decomposeDiv i.c
  if q != 0 && ((q - 1) % v != 0 || (q - 1) / v % 2 != 0) then .fault 0x04 0 0 e none
  else semRound i (fun q r => decomposeFn ((q - 1) / v) q r) e

/-- DECOMPOSE. -/
def execDecompose (u : FurrowRef) (i : SaivoFields) (s : State) : Host.Outcome State Fault Refusal :=
  .next (s.issue u 0x3B i (semDecompose i))

end Sys2Proof.Machine
end

