-- ==== Sys2Proof/Machine/SaivoMemory.lean ====
section
/-! DEFINITION. Saivo: vector memory instructions and the shuffled order (R356 to R361). -/
namespace Sys2Proof.Machine

/-- Active lanes in order. -/
def Env.lanes (e : Env) (i : SaivoFields) : List Nat := (List.range (laneCount i.l)).filter (e.lane i)

/-- Active elements in order. -/
def Env.actives (e : Env) (i : SaivoFields) : List Nat := (List.range (elCount i.t i.l)).filter (e.act i)

/-- VLD: lane ℓ from word W + π(ℓ). -/
def semVld (i : SaivoFields) (e : Env) : Res :=
  e.unsealed i.l [i.d] fun e =>
    let w := e.wordAddr i i.a
    let as := (e.lanes i).map fun l => ({ idx := elPer i.t * l, addr := w + e.order i l } : Acc)
    e.access as false (fun _ e => e.putLanes i i.l i.d fun l => e.read (w + e.order i l)) 0

/-- VLD. -/
def execVld (u : FurrowRef) (i : SaivoFields) (s : State) : Host.Outcome State Fault Refusal := .next (s.issue u 0x40 i (semVld i))

/-- VST: lane ℓ to word W + π(ℓ). -/
def semVst (i : SaivoFields) (e : Env) : Res :=
  e.unsealed i.l [i.b] fun e =>
    let w := e.wordAddr i i.a
    let as := (e.lanes i).map fun l => ({ idx := elPer i.t * l, addr := w + e.order i l, write := true } : Acc)
    e.access as false (fun _ e => (e.lanes i).foldl (fun x l => x.write (w + e.order i l) ((e.vec i.l i.b).getD l 0)) e) 0

/-- VST. -/
def execVst (u : FurrowRef) (i : SaivoFields) (s : State) : Host.Outcome State Fault Refusal := .next (s.issue u 0x41 i (semVst i))

/-- Position of element k in memory under the shuffled order (R361). -/
def Env.place (e : Env) (i : SaivoFields) (k : Nat) : Nat := elPer i.t * e.order i (k / elPer i.t) + k % elPer i.t

/-- Element address of field f of position k of an LDn or STn (R356). -/
def Env.fieldAddr (e : Env) (i : SaivoFields) (n k f : Nat) : Nat := elPer i.t * e.wordAddr i i.a + n * e.place i k + f

/-- The accesses of an LDn or STn, in position order. -/
def Env.structAccs (e : Env) (i : SaivoFields) (n : Nat) (write : Bool) : List Acc :=
  (e.actives i).flatMap fun k => (List.range n).map fun f =>
    ({ idx := k, addr := e.fieldAddr i n k f / elPer i.t, write := write, part := write && i.t != 0 } : Acc)

/-- LDn: the active positions from start up to a bound. -/
def semLdk (n : Nat) (i : SaivoFields) (e : Env) : Res :=
  e.unsealed i.l ((List.range n).map (i.d + ·)) fun e =>
    e.access (e.structAccs i n false) true
      (fun upTo e => (List.range n).foldl (fun x f =>
        let old := x.elems i (i.d + f)
        x.putElems i (i.d + f) fun k => if e.start ≤ k && k < upTo then e.readElem i.t (e.fieldAddr i n k f) else elAt old k) e)
      (elCount i.t i.l)

/-- LD2 to LD4. -/
def execLd2Ld4 (u : FurrowRef) (k : Nat) (i : SaivoFields) (s : State) : Host.Outcome State Fault Refusal :=
  .next (if 2 ≤ k && k ≤ 4 then s.issue u (0x40 + k) i (semLdk k i) else s)

/-- STn: the active positions from start up to a bound. -/
def semStk (n : Nat) (i : SaivoFields) (e : Env) : Res :=
  e.unsealed i.l ((List.range n).map (i.b + ·)) fun e =>
    e.access (e.structAccs i n true) true
      (fun upTo e => ((e.actives i).filter fun k => e.start ≤ k && k < upTo).foldl (fun x k =>
        (List.range n).foldl (fun x f => x.writeElem i.t (e.fieldAddr i n k f) (elAt (e.elems i (i.b + f)) k)) x) e)
      (elCount i.t i.l)

/-- ST2 to ST4. -/
def execSt2St4 (u : FurrowRef) (k : Nat) (i : SaivoFields) (s : State) : Host.Outcome State Fault Refusal :=
  .next (if 2 ≤ k && k ≤ 4 then s.issue u (0x43 + k) i (semStk k i) else s)

/-- Element address of element k of a gather or scatter: E0 + B[k] (R357). -/
def Env.indexAddr (e : Env) (i : SaivoFields) (k : Nat) : Nat := elPer i.t * e.wordAddr i i.a + elAt (e.elems i i.b) k

/-- The accesses of a gather or scatter; only local data memory is open to them (R320). -/
def Env.indexAccs (e : Env) (i : SaivoFields) (write : Bool) : List Acc :=
  (e.actives i).map fun k =>
    ({ idx := k, addr := e.indexAddr i k / elPer i.t, write := write, part := write && i.t != 0, locl := true } : Acc)

/-- GATHER (R357). -/
def semGather (i : SaivoFields) (e : Env) : Res :=
  e.unsealed i.l [i.d, i.b] fun e =>
    e.access (e.indexAccs i false) true
      (fun upTo e =>
        let old := e.elems i i.d
        e.putElems i i.d fun k => if e.start ≤ k && k < upTo then e.readElem i.t (e.indexAddr i k) else elAt old k)
      (elCount i.t i.l)

/-- GATHER. -/
def execGather (u : FurrowRef) (i : SaivoFields) (s : State) : Host.Outcome State Fault Refusal := .next (s.issue u 0x48 i (semGather i))

/-- SCATTER (R357): in element order, so the higher-numbered element's value remains. -/
def semScatter (i : SaivoFields) (e : Env) : Res :=
  e.unsealed i.l [i.d, i.b] fun e =>
    e.access (e.indexAccs i true) true
      (fun upTo e => ((e.actives i).filter fun k => e.start ≤ k && k < upTo).foldl (fun x k =>
        x.writeElem i.t (e.indexAddr i k) (elAt (e.elems i i.d) k)) e)
      (elCount i.t i.l)

/-- SCATTER. -/
def execScatter (u : FurrowRef) (i : SaivoFields) (s : State) : Host.Outcome State Fault Refusal :=
  .next (s.issue u 0x49 i (semScatter i))

/-- The element-resumable instruction of an OP, as DIAG_RESUME carries on with it (R339). -/
def resumeSem (op : Nat) (i : SaivoFields) : Env → Res :=
  match op with
  | 0x42 => semLdk 2 i
  | 0x43 => semLdk 3 i
  | 0x44 => semLdk 4 i
  | 0x45 => semStk 2 i
  | 0x46 => semStk 3 i
  | 0x47 => semStk 4 i
  | 0x48 => semGather i
  | _ => semScatter i

/-! ### SHUF (R360) -/

/-- One butterfly stage: switch j exchanges the two lanes it joins, h apart, when its bit is set. -/
def butterfly (h : Nat) (bitAt : Nat → Bool) (π : List Nat) : List Nat :=
  π.zipIdx.map fun p =>
    let pos := p.2
    let sw := pos / (2 * h) * h + pos % h
    if bitAt sw then π.getD (pos ^^^ h) 0 else p.1

/-- The permutation of k stages of n switches each: stage j joins lanes 2^j apart and takes bits nj to nj + n − 1 of the draw. -/
def shuffle (k n : Nat) (draw : Nat → Bool) : List Nat :=
  (List.range k).foldl (fun π j => butterfly (2 ^ j) (fun sw => draw (n * j + sw)) π) (List.range (2 * n))

/-- Bit k of the leaf bits drawn: a free value (log entry 7). -/
def Env.leafBit (e : Env) (k : Nat) : Bool := (Config.fresh e.free (k / 8)).getLsbD (k % 8)

/-- SHUF. -/
def semShuf (i : SaivoFields) (e : Env) : Res :=
  let id := i.f % 2 == 1
  if i.l == 1 then .next { e with u := { e.u with o64 := if id then List.range 64 else shuffle 6 32 e.leafBit } }
  else .next { e with u := { e.u with o8 := if id then List.range 8 else shuffle 3 4 e.leafBit } }

/-- SHUF. -/
def execShuf (u : FurrowRef) (i : SaivoFields) (s : State) : Host.Outcome State Fault Refusal := .next (s.issue u 0x4A i (semShuf i))

end Sys2Proof.Machine
end

