-- ==== Sys2Proof/Machine/SaivoShares.lean ====
section
/-! DEFINITION. Saivo: the masked-share instructions (R323, R324, R358, R362 to R365). -/
namespace Sys2Proof.Machine

/-- K, the Boolean kind. -/
def isBool (i : SaivoFields) : Bool := i.f / 16 == 1

/-- Share j of set x as elements. -/
def Env.share (e : Env) (i : SaivoFields) (x j : Nat) : List Nat := toElems i.t (e.vec 1 (4 * x + j))

/-- Element k of the shares of a set, share 0 first. -/
def Env.sharesAt (e : Env) (i : SaivoFields) (x k : Nat) : List Nat := (List.range (e.d + 1)).map fun j => elAt (e.share i x j) k

/-- The group operation of a kind on elements: addition modulo q, or XOR. -/
def gAdd (bool : Bool) (q a b : Nat) : Nat := if bool then a ^^^ b else (a + b) % q

/-- Its inverse. -/
def gSub (bool : Bool) (q a b : Nat) : Nat := if bool then a ^^^ b else (((a : Int) - b) % q).toNat

/-- The value of shares (*Share sets*): Σ mod Q or ⊕. -/
def shareVal (bool : Bool) (q : Nat) (xs : List Nat) : Nat := xs.foldl (gAdd bool q) 0

/-- A random element of a kind (R345). -/
def Env.randEl (e : Env) (bool : Bool) (w q k : Nat) : Nat := if bool then e.rand k % 2 ^ w else e.rand k % q

/-- An instruction of a kind: the arithmetic kind faults as R354 says. -/
def Env.kind (e : Env) (i : SaivoFields) (bool : Bool) (k : Nat → Res) : Res := if bool then k 1 else e.withQ i k

/-- Write element k of share j of set x, where active, from a table of shares by element. -/
def Env.putShares (e : Env) (i : SaivoFields) (x : Nat) (g : Nat → List Nat) : Env :=
  (List.range (e.d + 1)).foldl (fun y j => y.putElems { i with l := 1 } (4 * x + j) fun k => elAt (g k) j) e

/-- Shares 1 to d random, share 0 completing the value: place of the first random element is base. -/
def Env.freshShares (e : Env) (bool : Bool) (w q base v : Nat) : List Nat :=
  let ms := (List.range e.d).map fun j => e.randEl bool w q (base + j)
  gSub bool q v (shareVal bool q ms) :: ms

/-- The randoms of one element's ISW step: r of the pair (j, k), j < k ≤ d. -/
def Env.iswRand (e : Env) (bool : Bool) (w q el j k : Nat) : Nat := e.randEl bool w q (16 * el + 4 * j + k)

/-- A refresh with one random element per pair of shares. -/
def Env.refresh (e : Env) (bool : Bool) (w q el : Nat) (xs : List Nat) : List Nat :=
  (List.range (e.d + 1)).map fun j =>
    let up := (List.range (e.d + 1)).filter (j < ·)
    let down := List.range j
    down.foldl (fun acc k => gSub bool q acc (e.iswRand bool w q el k j))
      (up.foldl (fun acc k => gAdd bool q acc (e.iswRand bool w q el j k)) (elAt xs j))

/-- ISW multiplication of one element's shares. -/
def Env.isw (e : Env) (bool : Bool) (w q el : Nat) (xs ys : List Nat) : List Nat :=
  let mul := fun (a b : Nat) => if bool then a &&& b else a * b % q
  (List.range (e.d + 1)).map fun j =>
    let up := (List.range (e.d + 1)).filter (j < ·)
    let down := List.range j
    let own := mul (elAt xs j) (elAt ys j)
    let acc := up.foldl (fun acc k => gAdd bool q acc (e.iswRand bool w q el j k)) own
    down.foldl (fun acc k =>
      gAdd bool q acc (gSub bool q (gAdd bool q (mul (elAt xs k) (elAt ys j)) (mul (elAt xs j) (elAt ys k)))
        (e.iswRand bool w q el k j))) acc

/-- A share instruction from sets to set: g gives element k's new shares from those of S[A] and S[B]; S[D] is SEALED when a source
is (R362). -/
def semShare (i : SaivoFields) (bool : Bool) (two : Bool) (g : Env → Nat → Nat → List Nat → List Nat → List Nat) (e : Env) : Res :=
  e.kind i bool fun q =>
    .next ((e.putShares i i.d fun k => g e q k (e.sharesAt i i.a k) (e.sharesAt i i.b k)).sealSet i.d
      (e.sealedSet i.a || (two && e.sealedSet i.b)))

/-- SHMASK. -/
def semShmask (i : SaivoFields) (e : Env) : Res :=
  e.kind i (isBool i) fun q => e.unsealed 1 [i.a] fun e =>
    let a := toElems i.t (e.vec 1 i.a)
    .next (e.putShares i i.d fun k =>
      e.freshShares (isBool i) (elWidth i.t) q (4 * k) (if isBool i then elAt a k else elAt a k % q))

/-- SHMASK. -/
def execShmask (u : FurrowRef) (i : SaivoFields) (s : State) : Host.Outcome State Fault Refusal := .next (s.issue u 0x50 i (semShmask i))

/-- SHADD. -/
def execShadd (u : FurrowRef) (i : SaivoFields) (s : State) : Host.Outcome State Fault Refusal :=
  .next (s.issue u 0x51 i (semShare i (isBool i) true fun _ q _ xs ys => xs.zipWith (gAdd (isBool i) q) ys))

/-- SHSUB. -/
def execShsub (u : FurrowRef) (i : SaivoFields) (s : State) : Host.Outcome State Fault Refusal :=
  .next (s.issue u 0x52 i (semShare i false true fun _ q _ xs ys => xs.zipWith (gSub false q) ys))

/-- One element's shares under the function F[2:0] of SHPUB with public b (R363), F 0 to 6. -/
def shpubFn (i : SaivoFields) (q : Nat) (xs : List Nat) (b : Nat) : List Nat :=
  let w := elWidth i.t
  match i.f % 8 with
  | 0 => gAdd (isBool i) q (xs.headD 0) b :: xs.tail
  | 1 => gSub false q b (xs.headD 0) :: xs.tail.map (gSub false q 0)
  | 2 => xs.map fun x => x * b % q
  | 3 => xs.map fun x => x * b % q * montInv q % q
  | 4 => xs.map fun x => x &&& b
  | 5 => xs.map fun x => x * 2 ^ (i.c % 32) % 2 ^ w
  | _ => xs.map fun x => x / 2 ^ (i.c % 32)

/-- SHPUB. -/
def semShpub (i : SaivoFields) (e : Env) : Res :=
  e.kind i (isBool i) fun q =>
    if i.f % 8 == 7 then
      .next (((List.range (e.d + 1)).foldl (fun y j =>
        y.putLanes i 1 (4 * i.d + j) fun k => xchLane (e.vec 1 (4 * i.a + j)) (i.c % 8) k) e).sealSet i.d (e.sealedSet i.a))
    else
      e.unsealed 1 (if i.f % 8 ≤ 4 then [i.b] else []) fun e =>
        let b := toElems i.t (e.vec 1 i.b)
        .next ((e.putShares i i.d fun k => shpubFn i q (e.sharesAt i i.a k) (elAt b k)).sealSet i.d (e.sealedSet i.a))

/-- SHPUB. -/
def execShpub (u : FurrowRef) (i : SaivoFields) (s : State) : Host.Outcome State Fault Refusal := .next (s.issue u 0x53 i (semShpub i))

/-- SHMUL, by the ISW construction. -/
def execShmul (u : FurrowRef) (i : SaivoFields) (s : State) : Host.Outcome State Fault Refusal :=
  .next (s.issue u 0x54 i (semShare i (isBool i) true fun e q k xs ys => e.isw (isBool i) (elWidth i.t) q k xs ys))

/-- SREFRESH. -/
def execSrefresh (u : FurrowRef) (i : SaivoFields) (s : State) : Host.Outcome State Fault Refusal :=
  .next (s.issue u 0x55 i (semShare i (isBool i) false fun e q k xs _ => e.refresh (isBool i) (elWidth i.t) q k xs))

/-- SA2B: a fresh Boolean sharing of the arithmetic value. -/
def execSa2b (u : FurrowRef) (i : SaivoFields) (s : State) : Host.Outcome State Fault Refusal :=
  .next (s.issue u 0x56 i (semShare i false false fun e q k xs _ =>
    e.freshShares true (elWidth i.t) q (4 * k) (shareVal false q xs)))

/-- SB2A: a fresh arithmetic sharing of the Boolean value mod Q. -/
def execSb2a (u : FurrowRef) (i : SaivoFields) (s : State) : Host.Outcome State Fault Refusal :=
  .next (s.issue u 0x57 i (semShare i false false fun e q k xs _ =>
    e.freshShares false (elWidth i.t) q (4 * k) (shareVal true q xs % q)))

/-- SCMP (R364). -/
def semScmp (i : SaivoFields) (e : Env) : Res :=
  let pub := i.f / 8 % 2 == 1
  e.kind i (isBool i) fun q => e.unsealed 1 (if pub then [i.b] else []) fun e =>
    let b := toElems i.t (e.vec 1 i.b)
    let same := (e.actives i).all fun k =>
      shareVal (isBool i) q (e.sharesAt i i.a k) == (if pub then elAt b k else shareVal (isBool i) q (e.sharesAt i i.b k))
    let sealed_ := e.sealedSet i.a || (!pub && e.sealedSet i.b)
    .next { e with u := { e.u with tally := BitVec.ofNat 24 (sealed_.toNat * 2 ^ 16 + if same then passPair else failPair) } }

/-- SCMP. -/
def execScmp (u : FurrowRef) (i : SaivoFields) (s : State) : Host.Outcome State Fault Refusal := .next (s.issue u 0x58 i (semScmp i))

/-- SSEL (R365): it consumes the Tally register. -/
def semSsel (i : SaivoFields) (e : Env) : Res :=
  let pair := e.u.tally.toNat % 65536
  if pair != passPair && pair != failPair then .quit .faultDetected
  else semShare i (isBool i) true (fun e q k xs ys =>
    e.refresh (isBool i) (elWidth i.t) q k (if pair == passPair then xs else ys)) e

/-- SSEL. -/
def execSsel (u : FurrowRef) (i : SaivoFields) (s : State) : Host.Outcome State Fault Refusal := .next (s.issue u 0x59 i (semSsel i))

/-- RECOMB (R363): of a SEALED set only with RELEASE; its D is a public operand (R362). -/
def semRecomb (i : SaivoFields) (e : Env) : Res :=
  e.kind i (isBool i) fun q =>
    if e.sealedSet i.a && !e.r.image.release then .fault 0x03 0 0 e none
    else e.unsealed 1 [i.d] fun e =>
      .next (e.putElems i i.d fun k => shareVal (isBool i) q (e.sharesAt i i.a k))

/-- RECOMB. -/
def execRecomb (u : FurrowRef) (i : SaivoFields) (s : State) : Host.Outcome State Fault Refusal := .next (s.issue u 0x5A i (semRecomb i))

/-- The words of a share set in memory: lane ℓ of share j at W + 64j + π(ℓ), lanes first (R361, R363). -/
def Env.shareAccs (e : Env) (i : SaivoFields) (w : Nat) (write : Bool) : List Acc :=
  (e.lanes i).flatMap fun l => (List.range (e.d + 1)).map fun j =>
    ({ idx := elPer i.t * l, addr := w + 64 * j + e.order i l, write := write, locl := true, sealOk := true } : Acc)

/-- SHST: the words it writes are sealed when S[A] is (R358). -/
def semShst (i : SaivoFields) (e : Env) : Res :=
  let w := e.wordAddr i i.b
  e.access (e.shareAccs i w true) false (fun _ e =>
    (e.lanes i).foldl (fun x l => (List.range (e.d + 1)).foldl (fun y j =>
      let a := w + 64 * j + e.order i l
      let y := y.write a ((e.vec 1 (4 * i.a + j)).getD l 0)
      if e.sealedSet i.a then y.sealWord a else y) x) e) 0

/-- SHST. -/
def execShst (u : FurrowRef) (i : SaivoFields) (s : State) : Host.Outcome State Fault Refusal := .next (s.issue u 0x5B i (semShst i))

/-- SHLD: S[D] becomes SEALED if any word read is sealed. -/
def semShld (i : SaivoFields) (e : Env) : Res :=
  let w := e.wordAddr i i.a
  let as := e.shareAccs i w false
  e.access as false (fun _ e =>
    ((List.range (e.d + 1)).foldl (fun x j => x.putLanes i 1 (4 * i.d + j) fun l => e.read (w + 64 * j + e.order i l)) e).sealSet i.d
      (as.any fun a => e.u.seals.contains a.addr)) 0

/-- SHLD. -/
def execShld (u : FurrowRef) (i : SaivoFields) (s : State) : Host.Outcome State Fault Refusal := .next (s.issue u 0x5C i (semShld i))

end Sys2Proof.Machine
end

