-- ==== Sys2Proof/Machine/Programs.lean ====
section
/-! DEFINITION. The program commands, the diagnostics of furrows, and the events of runs (R326 to R335, R339, R416, R523). -/
namespace Sys2Proof.Machine

/-! ### Images (R327, R335) -/

/-- The image's length as R327 gives it. -/
def imageLen (b : Bytes) : Nat := 64 + 6 * num b 12 2 + 3 * num b 20 2 + sigLen

/-- OUTTYPE and OUTSIZE of set k are valid: a class 0 key of its length, or zero where the set is unused. -/
def outSetOk (b : Bytes) (k : Nat) : Bool :=
  let t := byteAt b (28 + k)
  let l := num b (32 + 2 * k) 2
  if k < byteAt b 26 then
    t ≤ 4 && (if t == 4 then 16 ≤ l && l ≤ 128 else secretLen t 0 == some l)
  else t == 0 && l == 0

/-- Step 8: the header (*Image header*). -/
def imageHeaderOk (b : Bytes) : Bool :=
  let caps := byteAt b 9
  let orders := byteAt b 10
  let gang := byteAt b 11
  let icount := num b 12 2
  slice b 0 4 == [0x53, 0x41, 0x49, 0x56] && byteAt b 4 == 1 && byteAt b 5 ≤ 1 && caps < 4 && !(bit caps 0 && byteAt b 5 != 0) &&
  orders < 16 && !bit orders 0 && (gang == 1 || gang == 2 || gang == 4) && 1 ≤ icount && icount ≤ 8192 && num b 14 2 < icount &&
  (num b 16 2 < icount || num b 16 2 == 0xFFFF) && 1 ≤ num b 18 2 && num b 18 2 ≤ 32768 && num b 20 2 ≤ num b 18 2 &&
  num b 22 2 ≤ 1024 && (gang != 1 || num b 22 2 == 0) && byteAt b 24 ≤ 128 && byteAt b 25 ≤ 4 && byteAt b 26 ≤ 4 && byteAt b 27 == 0 &&
  (List.range 4).all (outSetOk b) && 1 ≤ num b 40 4 && allZero (slice b 44 20)

/-- The image as the table holds it. -/
def imageOf (h : Nat) (b : Bytes) : Image :=
  { handle := h, header := b.take 64, instrs := readInstrs (num b 12 2) (b.drop 64),
    dinit := toWords (num b 20 2) (b.drop (64 + 6 * num b 12 2)), bytes := b.length }

/-- The program region of a field, 16 MiB (R329). -/
def programRegion : Nat := 16 * 1024 * 1024

/-- Bytes of the program region in use: images and the copy of the open image (R329, R385). -/
def State.regionUsed (s : State) : Nat := (s.images.map (·.bytes)).sum + ((s.pkg.openImg.map fun o => o.data.length).getD 0)

/-- Table indices in use. -/
def State.imageAt (s : State) (k : Nat) : Bool := s.images.any fun m => bits m.handle 39 32 == k

/-- The lowest free table index. -/
def State.freeImage (s : State) : Option Nat := (List.range 256).find? fun k => !s.imageAt k

/-- Times a table index has been allocated. -/
def State.imageGen (s : State) (k : Nat) : Nat := (s.pkg.imageGens.lookup k).getD 0

/-- PROGRAM_LOAD (R329). -/
def programLoadDesc : Desc where
  op := 0x0A01
  pre _ c := [(c.len != imageLen c.params, .badLength), (!imageHeaderOk c.params, .badParameter)]
  post s c :=
    let b := c.params
    [(!s.sigOk .saivo (byteAt b 5) b || !allAssigned (readInstrs (num b 12 2) (b.drop 64)), .imageRejected),
     (s.freeImage.isNone || s.regionUsed + b.length > programRegion || !roomFor c.shares.gddr6 (s.usedG6 c.inst) b.length, .shareExhausted)]
  body s c :=
    let k := s.freeImage.getD 0
    let g := s.imageGen k + 1
    let h := c.inst * 2 ^ 40 + k * 2 ^ 32 + g % 2 ^ 24
    let s := { s with images := s.images ++ [imageOf h c.params] }
    let s := s.modPkg fun p => { p with imageGens := (k, g) :: p.imageGens.filter fun e => e.1 != k }
    (s.modCmd c.inst c.tag fun e => { e with made := e.made ++ [(0, h)] }, ok (toBE 6 h ++ slice c.params 6 3))

/-- PROGRAM_LOAD. -/
def execProgramLoad (r : CmdRec) (s : State) : Host.Outcome State Fault Refusal := .next (runCommand programLoadDesc r s)

/-- The image a valid handle names (R329, R122). -/
def State.image? (s : State) (inst h : Nat) : Option Image :=
  s.images.find? fun m => m.handle == h && hInst h == inst && !m.unloading

/-- Commands that run an image or are past their checks to run it. -/
def State.imageBusy (s : State) (h : Nat) : Bool :=
  s.runs.any (fun r => r.image.handle == h) ||
    s.cmds.any fun c => c.checked && !c.isDone && basicOp c.op == 0x0A02 && num c.params 0 6 == h

/-- PROGRAM_UNLOAD (R329): the entry is freed after every run of the image has ended. -/
def programUnloadDesc : Desc where
  op := 0x0A03
  pre _ c := [(c.len != 6, .badLength)]
  nine s c := [((s.image? c.inst (c.p 0 6)).isNone, .keyNotFound)]
  body s c :=
    let h := c.p 0 6
    if s.imageBusy h then
      ({ s with images := s.images.map fun m => if m.handle == h then { m with unloading := true } else m }, none)
    else (s.dropImage h, ok)

/-- PROGRAM_UNLOAD. -/
def execProgramUnload (r : CmdRec) (s : State) : Host.Outcome State Fault Refusal := .next (runCommand programUnloadDesc r s)

/-- PROGRAM_INFO (R326). -/
def programInfoDesc : Desc where
  op := 0x0A04
  pre _ c := [(c.len != 6, .badLength)]
  nine s c := [((s.image? c.inst (c.p 0 6)).isNone, .keyNotFound)]
  body s c := (s, ok (((s.image? c.inst (c.p 0 6)).map (·.header)).getD []))

/-- PROGRAM_INFO. -/
def execProgramInfo (r : CmdRec) (s : State) : Host.Outcome State Fault Refusal := .next (runCommand programInfoDesc r s)

/-! ### PROGRAM_RUN (R332, R335) -/

/-- PROG as the command names it; one being unloaded stays for the runs past their checks (R329). -/
def State.prog (s : State) (c : Cmd) : Image := (s.images.find? fun m => m.handle == c.p 0 6).getD default

/-- The four KEYS. -/
def runKeys (c : Cmd) : List Nat := (List.range 4).map fun k => c.p (6 + 6 * k) 6

/-- MASK; 0 at the basic level. -/
def runMask (c : Cmd) : Nat := if c.expert then c.tail 2 0 1 else 0

/-- OUTATTR suits every output set: R129, and transient, as R333 makes every output key. -/
def outAttrOk (m : Image) (a : Nat) : Bool :=
  a < 2 ^ 20 && !bit a aPersistent && (List.range m.nkeyout).all fun k => attrOk (m.outType k) a

/-- Blob bytes of the output keys (step 12). -/
def outBlobs (m : Image) : Nat := ((List.range m.nkeyout).map fun k => secretBlob (m.outSize k)).sum

/-- Acre SRAM the run of a block takes. -/
def blockSram (m : Image) (c : Cmd) : Nat := 3 * (wordsFor (c.p 37 3) + wordsFor (c.p 34 3) + m.a2words)

/-- The run a PROGRAM_RUN block asks for, on a field. -/
def programRun (m : Image) (c : Cmd) (f order : Nat) (keys : List Key) (draw : Bytes) : Run :=
  { id := 0, inst := c.inst, tag := c.tag, field := f, image := m, order := order, keys := keys.map fun k => (k.body, k.handle),
    draw := draw, input := slice c.params 40 (c.p 37 3), outMax := c.p 34 3, outAttr := c.p 30 3 }

/-- The fields of the executions of a command: one, or two for a twinned one (R335). -/
def Cmd.executions (c : Cmd) : List Nat :=
  if !c.twinned then [c.fld] else [c.fld, c.field2.getD c.fld]

/-- The leaf streams of the acres the runs of a command will take run (R335); where no acre qualifies the run waits for one first. -/
def State.runStreams (s : State) (c : Cmd) : Bool :=
  let r := fun (f : Nat) => programRun (s.prog c) c f 1 [] []
  match c.executions with
  | [f] => (s.pickAcre (r f)).all (s.acreUp f)
  | f :: g :: _ =>
    let a := s.pickAcre (r f)
    a.all (s.acreUp f) && (s.pickAcre (r g) (if f == g then a.toList else [])).all (s.acreUp g)
  | [] => true

/-- PROGRAM_RUN (R332): its runs start, or wait for an acre; the reply follows when they have halted. -/
def programRunDesc : Desc where
  op := 0x0A02
  pre s c :=
    let m := s.image? c.inst (c.p 0 6)
    [(c.len < 40 || c.len != c.p 37 3 + (if c.expert then 42 else 40), .badLength),
     (c.p 33 1 != 0 || c.p 34 3 > 262144 || c.p 37 3 > 1048575 || (c.expert && (badMask (runMask c) || c.tail 2 1 1 != 0)) || c.p 30 3 ≥ 2 ^ 20 ||
       (m.any fun m => ((runKeys c).drop m.nkeyin).any (· != 0) || !outAttrOk m (c.p 30 3)), .badParameter)]
  keys s c := (runKeys c).take (s.prog c).nkeyin
  nine s c := [((s.image? c.inst (c.p 0 6)).isNone, .keyNotFound)]
  post s c :=
    let m := s.prog c
    [(c.keys.any (fun k => tClass k.type != 0 || tPublic k.type || k.body.length > 128 || !bit k.attr aDerive), .usageDenied),
     (m.nkeyout != 0 && !attrBounded (c.p 30 3) c.keys, .usageDenied),
     (c.maskLow c.keys (runMask c) || !bit (byteAt m.header 10) (c.raised c.keys (runMask c)), .usageDenied),
     (s.noRoom c m.nkeyout (outBlobs m) || blockSram m c > acreSram, .shareExhausted)]
  draw s c := some (s.prog c).drawlen
  streams s c := s.runStreams c
  seals s c := (s.prog c).nkeyout != 0
  body s c :=
    if c.aux != 0 then (s, none)
    else
      let m := s.prog c
      let s := s.modCmd c.inst c.tag fun e => { e with aux := 1 }
      let keys := (runKeys c).take m.nkeyin |>.map c.key
      (c.executions.foldl (fun s f => s.beginRun (programRun m c f c.order keys c.drawn)) s, none)

/-- PROGRAM_RUN. -/
def execProgramRun (r : CmdRec) (s : State) : Host.Outcome State Fault Refusal := .next (runCommand programRunDesc r s)

/-- ACRE_FREE_RUN_START (R416): the waiting run with the lowest virtual time takes the acre. -/
def execAcreFreeRunStart (field acre : Nat) (s : State) : Host.Outcome State Fault Refusal :=
  .next (match (if acre < 4 && field < s.n then s.nextRun field acre else none) with
    | some r => s.startRun r.id acre
    | none => s)

/-- FURROW_WATCHDOG (R334, R337): a furrow that has not halted faults with cause WATCHDOG, FIDX 0 and FADDR 0. -/
def execFurrowWatchdog (u : FurrowRef) (s : State) : Host.Outcome State Fault Refusal :=
  .next (let f := s.furrow u
    match (if f.halted || f.held.isSome then none else f.run.bind s.run?) with
    | none => s
    | some r =>
      (s.modFurrow u fun f => { f with atBarrier := false, waitLeaf := false }).furrowFault u r 0
        { t := 0, l := 0, m := 0, d := 0, a := 0, b := 0, q := 0, f := 0, c := 0 } 0x05 0 0 none)

/-! ### Furrow diagnostics (R339, R523) -/

/-- The furrow a diagnostics command names. -/
def diagRef (c : Cmd) (at0 : Nat) : FurrowRef := ⟨c.p 0 1, c.p at0 1⟩

/-- The furrow is stopped with a fault held. -/
def State.heldRun (s : State) (u : FurrowRef) : Option Run :=
  if (s.furrow u).held.isSome then (s.furrow u).run.bind s.run? else none

/-- Release a furrow: its run is dropped and it is zeroised (R340). -/
def State.releaseHeld (s : State) (u : FurrowRef) : State :=
  match s.heldRun u with
  | none => s
  | some r => { s.modFurrow u Furrow.stop with runs := s.runs.filter fun x => x.id != r.id }

/-- The run of a test program (R523) on a furrow. -/
def testRun (c : Cmd) (u : FurrowRef) (id : Nat) : Run :=
  { id := id, inst := c.inst, tag := c.tag, field := u.field, acre := some (u.furrow / 4), furrows := [u.furrow],
    image := imageOf 0 (Config.testImage (c.p 1 1)), outMax := 262144, test := true }

/-- DIAG_RUN (R523). -/
def diagRunDesc : Desc where
  op := 0x0D20
  pre s c :=
    [(c.len != 4, .badLength), (c.p 0 1 ≥ s.n || c.p 1 1 > 8 || c.p 2 1 ≥ 16 || c.p 3 1 != 0, .badParameter),
     ((s.field (c.p 0 1)).gone, .fieldUnavailable)]
  post s c :=
    let u := diagRef c 2
    [(c.runAt != .recovery || ((s.furrow u).run.isSome && (s.furrow u).held.isNone), .stateForbids)]
  body s c :=
    if c.aux != 0 then (s, none)
    else
      let u := diagRef c 2
      let s := (s.releaseHeld u).modCmd c.inst c.tag fun e => { e with aux := 1 }
      let r := testRun c u s.pkg.nextRun
      let s := ({ s with runs := s.runs ++ [r] }).modPkg fun p => { p with nextRun := p.nextRun + 1 }
      (s.modFurrow u fun f => f.start r 0 0, none)

/-- DIAG_RUN. -/
def execDiagRun (r : CmdRec) (s : State) : Host.Outcome State Fault Refusal := .next (runCommand diagRunDesc r s)

/-- The word and its flags as DIAG_WORD returns them. -/
def Env.diagWord (e : Env) (a : Nat) : Bytes :=
  toBE 3 (e.read a).toNat ++ toBE 1 ((e.poisoned a).toNat + 2 * (a < 0x8000 && e.u.seals.contains a).toNat)

/-- The held furrow's environment. -/
def State.heldEnv (s : State) (u : FurrowRef) : Option Env := (s.heldRun u).map fun r => { u := s.furrow u, r := r }

/-- DIAG_WORD (R523): OP 2 stores a full word. -/
def diagWordDesc : Desc where
  op := 0x0D21
  pre s c :=
    [(c.len != 10, .badLength), (c.p 0 1 ≥ s.n || c.p 1 1 ≥ 16 || c.p 2 1 == 0 || c.p 2 1 > 2 || c.p 3 1 != 0, .badParameter),
     ((s.field (c.p 0 1)).gone, .fieldUnavailable)]
  post s c :=
    [(c.runAt != .recovery || (s.heldEnv (diagRef c 1)).isNone, .stateForbids),
     ((s.heldEnv (diagRef c 1)).any fun e => !e.window (c.p 4 3) (c.p 2 1 == 2), .badParameter)]
  body s c :=
    let u := diagRef c 1
    match s.heldEnv u with
    | none => (s, st .stateForbids)
    | some e =>
      let e := if c.p 2 1 == 2 then e.write (c.p 4 3) (BitVec.ofNat 24 (c.p 7 3)) else e
      (s.store u e, ok (e.diagWord (c.p 4 3)))

/-- DIAG_WORD. -/
def execDiagWord (r : CmdRec) (s : State) : Host.Outcome State Fault Refusal := .next (runCommand diagWordDesc r s)

/-- DIAG_RESUME (R339, R523): the held instruction carries on from element FIDX, and the program after it. -/
def diagResumeDesc : Desc where
  op := 0x0D22
  pre s c :=
    [(c.len != 4, .badLength), (c.p 0 1 ≥ s.n || c.p 1 1 ≥ 16 || c.p 2 2 != 0, .badParameter),
     ((s.field (c.p 0 1)).gone, .fieldUnavailable)]
  post s c := [(c.runAt != .recovery || (s.heldRun (diagRef c 1)).isNone, .stateForbids)]
  body s c :=
    let u := diagRef c 1
    if c.aux != 0 then (s, none)
    else
      match s.heldRun u, (s.furrow u).held with
      | some r, some (op, i) =>
        let r := { r with inst := c.inst, tag := c.tag }
        let s := (s.modCmd c.inst c.tag fun e => { e with aux := 1 }).modRun r.id fun _ => r
        let s := s.modFurrow u fun f => { f with held := none }
        (s.runInstr u op i r (s.furrow u).frec.idx (resumeSem op i), none)
      | _, _ => (s, st .stateForbids)

/-- DIAG_RESUME. -/
def execDiagResume (r : CmdRec) (s : State) : Host.Outcome State Fault Refusal := .next (runCommand diagResumeDesc r s)

end Sys2Proof.Machine
end

