-- ==== Sys2Proof/Machine/Microcode.lean ====
section
/-! DEFINITION. Caddy threads of customer opcodes: microwords, call gates, the end of a routine (R366 to R371, R376 to R381). -/
namespace Sys2Proof.Machine

/-- A thread. -/
def State.thread (s : State) (t : ThreadRef) : Thread := (s.field t.field).threads.getD t.thread {}

/-- Microwords the open image fills in a field's store. -/
def State.openWords (s : State) (f : Nat) : Nat := ((s.field f).openCopy.map fun o => o.words.length).getD 0

/-- The opcode entry of a command. -/
def State.opEntry (s : State) (c : Cmd) : Bytes := (customerEntry s c.op).getD []

/-- The opcode is declared MASKED. -/
def State.maskedOp (s : State) (c : Cmd) : Bool := bit (byteAt (s.opEntry c) 10) 3

/-- At a microcode boundary its acre suspends a command that needs the leaf stream while that is stopped (R305, R368): once it has drawn, one of
an opcode declared MASKED. -/
def State.threadSuspended (s : State) (t : ThreadRef) (c : Cmd) : Bool :=
  !(s.thread t).atom && (s.thread t).drawMade && s.maskedOp c && !s.leafUp c t.field

/-- The command a thread runs, when it can issue: it is outstanding and not suspended, and waits for no run of its PROGRAM gate. -/
def State.threadCmd (s : State) (t : ThreadRef) : Option Cmd :=
  let h := s.thread t
  if !h.busy || s.runs.any (fun r => r.field == t.field && r.thread == some t.thread) || (s.field t.field).mcheck then none
  else (s.cmd? h.inst h.tag).filter fun c => !c.isDone && !s.threadSuspended t c

/-- Every status of *Status codes*. -/
def statuses : List Status :=
  [.ok, .pending, .badOpcode, .badLength, .lengthShort, .lengthLong, .badParameter, .queueFull, .shareExhausted, .pinClaimed,
   .fieldUnavailable, .transfersFull, .keyNotFound, .usageDenied, .keyExhausted, .keyQuarantined, .verdictFail, .seqOutOfWindow,
   .transferAborted, .destPoisoned, .sourcePoisoned, .entropyPending, .rngFault, .faultDetected, .alarmErased, .machineCheck,
   .stateForbids, .tokenRejected, .programFault, .imageRejected, .instanceReset, .notManager, .noSuchInstance, .internalError]

/-- The status of a code, or INTERNAL_ERROR (R378). In classes 0 and 5 every value of the low bits is the same code (R112). -/
def statusOf (code : Nat) : Status :=
  if code / 0x1000 == 0 then .ok
  else if code / 0x1000 == 5 then .verdictFail
  else (statuses.find? fun x => x.code == code).getD .internalError

/-- The reply of END (R378): an opcode declared VERDICT takes its status and verdict bytes from the Tally pair, whatever x0 holds. Where the
routine has reached no verdict it ends with the status x0 holds, and one of class 0 or 5 gives FAULT_DETECTED (R110; log entry 122). -/
def State.endReply (s : State) (c : Cmd) (h : Thread) : Reply :=
  let st := statusOf ((h.x.getD 0 0).toNat % 65536)
  let results := if st.cls == 0 || st.cls == 5 then h.results else []
  if bit (byteAt (s.opEntry c) 10) 0 then
    match h.verdict with
    | .pass => { status := .ok, verdict := .pass, results := h.results }
    | .fail => { status := .verdictFail, verdict := .fail, results := h.results }
    | .none => { status := if st.cls == 0 || st.cls == 5 then .faultDetected else st }
  else { status := st, results := results }

/-! ### The scratch ALU (R371) -/

/-- Write a scratch register and the flags. -/
def Thread.setX (h : Thread) (k : Nat) (v : Word32) : Thread :=
  { h with x := h.x.set k v, zero := v == 0, neg := v.getLsbD 31 }

/-- A scratch register. -/
def Thread.reg (h : Thread) (k : Nat) : Word32 := h.x.getD k 0

/-- XOP on a thread whose command has these parameters. -/
def Thread.alu (h : Thread) (w : Micro) (params : Bytes) : Thread :=
  let a := h.reg w.xa
  let b := h.reg w.xb
  let imm := BitVec.ofNat 32 (w.imm % 65536)
  match w.xop with
  | 1 => h.setX w.xd (a + b)
  | 2 => h.setX w.xd (a - b)
  | 3 => h.setX w.xd (a &&& b)
  | 4 => h.setX w.xd (a ||| b)
  | 5 => h.setX w.xd (a ^^^ b)
  | 6 => h.setX w.xd (a <<< (b.toNat % 32))
  | 7 => h.setX w.xd (a >>> (b.toNat % 32))
  | 8 => h.setX w.xd imm
  | 9 => h.setX w.xd (BitVec.ofNat 32 ((h.reg w.xd).toNat % 65536 + w.imm % 65536 * 65536))
  | 10 => h.setX w.xd (a + imm)
  | 11 => h.setX w.xd (BitVec.ofNat 32 (num params (a + imm).toNat 4))
  | 12 => h.setX w.xd (BitVec.ofNat 32 (byteAt params (a + imm).toNat))
  | _ => h

/-! ### Microwords (R369, R372, R380) -/

/-- The following word. -/
def Thread.following (h : Thread) : Nat := (h.pc + 1) % 16384

/-- A microcode boundary (R368): a command that an INSTANCE_RESET has come to meanwhile is abandoned here. -/
def State.boundary (s : State) (t : ThreadRef) (c : Cmd) : State :=
  if !(s.thread t).atom && (s.cmd? c.inst c.tag).any (fun e => e.reset && !e.isDone) then s.setDone c.inst c.tag { status := .instanceReset } else s

/-- A microword issues on a thread, whose turn in the rotation it was (R366). In the open region a word that breaks R380 ends its command
with PROGRAM_FAULT; else the scratch ALU works and g sequences. -/
def State.word (s : State) (t : ThreadRef) (nxt : Nat) (w : Micro) (g : State → Cmd → Thread → State) : State :=
  match s.threadCmd t with
  | none => s
  | some c =>
    let s := s.modField t.field fun x => { x with lastThread := t.thread, threads := x.threads.map fun y => { y with resting := false } }
    let h := s.thread t
    if h.pc ≥ openBase && !openMicroOk (s.openWords t.field) nxt w then s.complete c.inst c.tag { status := .programFault }
    else
      let h := { (h.alu w c.params) with words := h.words + 1, atom := w.atom }
      (g (s.modThread t fun _ => h) c h).boundary t c

/-- Go to a word. -/
def State.goto (s : State) (t : ThreadRef) (pc : Nat) : State := s.modThread t fun h => { h with pc := pc }

/-- NEXT. -/
def execNextWord (t : ThreadRef) (w : Micro) (s : State) : Host.Outcome State Fault Refusal :=
  .next (s.word t 0 w fun s _ h => s.goto t h.following)

/-- JUMP. -/
def execJumpWord (t : ThreadRef) (w : Micro) (s : State) : Host.Outcome State Fault Refusal :=
  .next (s.word t 1 w fun s _ _ => s.goto t w.addr)

/-- The status of a stack error (R367): by the region the word was fetched from. -/
def stackError (h : Thread) : Status := if h.pc ≥ openBase then .programFault else .internalError

/-- CALL (R367, R376): a reserved gate ends the command. -/
def execCallWord (t : ThreadRef) (w : Micro) (s : State) : Host.Outcome State Fault Refusal :=
  .next (s.word t 2 w fun s c h =>
    if 0x40 ≤ w.addr && w.addr < 0x100 then s.complete c.inst c.tag { status := .programFault }
    else if h.stack.length ≥ 8 then s.complete c.inst c.tag { status := stackError h }
    else s.modThread t fun h => { h with stack := h.following :: h.stack, pc := w.addr })

/-- RET (R367). -/
def execRetWord (t : ThreadRef) (w : Micro) (s : State) : Host.Outcome State Fault Refusal :=
  .next (s.word t 3 w fun s c h =>
    match h.stack with
    | [] => s.complete c.inst c.tag { status := stackError h }
    | a :: rest => s.modThread t fun h => { h with stack := rest, pc := a })

/-- COND (R369), with the flags after this word's scratch ALU. -/
def Thread.cond (h : Thread) (k : Nat) : Bool :=
  match k with
  | 0 => true
  | 1 => h.zero
  | 2 => !h.zero
  | 3 => h.neg
  | 4 => h.gateOk
  | 5 => !h.gateOk
  | _ => false

/-- BRANCH. -/
def execBranchWord (t : ThreadRef) (w : Micro) (s : State) : Host.Outcome State Fault Refusal :=
  .next (s.word t 4 w fun s _ h => s.goto t (if h.cond w.cond then w.addr else h.following))

/-- END (R378). -/
def execEndWord (t : ThreadRef) (w : Micro) (s : State) : Host.Outcome State Fault Refusal :=
  .next (s.word t 5 w fun s c h => s.complete c.inst c.tag (s.endReply c h))

/-- YIELD: the following word, after giving up one issue round. -/
def execYieldWord (t : ThreadRef) (w : Micro) (s : State) : Host.Outcome State Fault Refusal :=
  .next (s.word t 6 w fun s _ h => (s.goto t h.following).modThread t fun h => { h with resting := true })

/-- WAIT, vendor only: the wait ends at once. -/
def execWaitWord (t : ThreadRef) (w : Micro) (s : State) : Host.Outcome State Fault Refusal :=
  .next (s.word t 7 w fun s _ h => s.goto t h.following)

/-- DISPATCH, vendor only: the routine of the thread's opcode. Where a vendor routine begins is not in the spec: a free value (log
entry 7). -/
def execDispatchWord (t : ThreadRef) (w : Micro) (s : State) : Host.Outcome State Fault Refusal :=
  .next (s.word t 8 w fun s c _ =>
    match customerEntry s c.op with
    | some e => s.goto t (num e 2 2)
    | none =>
      let (b, s) := s.fresh 2
      s.goto t (256 + beNat b % (openBase - 256)))

/-- TRAP. -/
def execTrapWord (t : ThreadRef) (w : Micro) (s : State) : Host.Outcome State Fault Refusal :=
  .next (s.word t 15 w fun s c _ => s.complete c.inst c.tag { status := .internalError })

/-- MICROCODE_RUN_LIMIT (R378). -/
def execMicrocodeRunLimit (t : ThreadRef) (s : State) : Host.Outcome State Fault Refusal :=
  .next (match s.threadCmd t with
    | some c => if (s.thread t).words ≥ 2 ^ 30 then s.complete c.inst c.tag { status := .programFault } else s
    | none => s)

/-! ### Customer opcodes (R366, R381) -/

/-- The lowest free thread of a field. -/
def State.freeThread (s : State) (f : Nat) : Option Nat :=
  (List.range 64).find? fun k => !((s.field f).threads.getD k {}).busy

/-- A customer opcode: step 7 by PMIN and PMAX, then its thread enters ENTRY. -/
def customerDesc (op : Nat) : Desc where
  op := op
  pre s c := let e := s.opEntry c; [(c.len < num e 4 3 || c.len > num e 7 3, .badLength)]
  body s c :=
    match s.freeThread c.fld with
    | none => (s, none)
    | some k =>
      let s := s.modCmd c.inst c.tag fun e => { e with aux := k + 1 }
      (s.modThread ⟨c.fld, k⟩ fun _ => { busy := true, inst := c.inst, tag := c.tag, pc := num (s.opEntry c) 2 2 }, none)

/-- The thread of a command whose routine is running. -/
def State.inRoutine (s : State) (r : CmdRec) : Bool := (s.cmd? r.inst r.tag).any fun c => isCustomer c.op && c.aux != 0

/-- CUSTOMER_OPCODE (R381); a command whose routine is running goes on by its microwords. -/
def execCustomerOpcode (opcode : Nat) (r : CmdRec) (s : State) : Host.Outcome State Fault Refusal :=
  .next (if !isCustomer opcode || s.inRoutine r then s else runCommand (customerDesc opcode) r s)

/-- CADDY_THREAD_FREE (R366): the command dispatched first among those that wait for a thread takes the next free one. -/
def execCaddyThreadFree (field : Nat) (s : State) : Host.Outcome State Fault Refusal :=
  .next (if s.threadsUsed field ≥ 64 then s
    else
      match s.cmds.find? fun c => c.stage == .waitThread && (c.field == some field || c.field2 == some field) with
      | some c => s.modCmd c.inst c.tag fun c => { c with stage := .dispatched }
      | none => s)

/-! ### Call gates (R376, R377) -/

/-- A gate runs for a thread that stands at its entry. -/
def State.gate (s : State) (t : ThreadRef) (entry : Nat) (g : Cmd → Thread → State) : State :=
  match s.threadCmd t with
  | some c => if (s.thread t).pc == entry then g c (s.thread t) else s
  | none => s

/-- A gate's return with a status. -/
def State.gateRet (s : State) (t : ThreadRef) (st : Status) : State := s.modThread t fun h => h.gateReturn st

/-- The first failing check of a gate, or its effect. -/
def State.gateChecks (s : State) (t : ThreadRef) (cs : List (Bool × Status)) (ok : State) : State :=
  match firstFail cs with
  | some x => s.gateRet t x
  | none => ok

/-- x1 to x4 as numbers. -/
def Thread.arg (h : Thread) (k : Nat) : Nat := (h.reg k).toNat

/-- x5. -/
def Thread.result (h : Thread) (v : Nat) : Thread := { h with x := h.x.set 5 (BitVec.ofNat 32 v) }

/-- A handle lies inside the parameters at an offset; bytes past P read as zero. -/
def Thread.handleAt (h : Thread) (c : Cmd) : Nat := num c.params (h.arg 1) 6

/-- Step 13 of a gate: the command ends with RNG_FAULT or, under NOWAIT, ENTROPY_PENDING, is held at the gate's entry, or goes on. -/
def State.gateRandom (s : State) (c : Cmd) (needs up : Bool) (go : State) : State :=
  match s.random c needs up with
  | .fault => s.complete c.inst c.tag { status := .rngFault }
  | .hold =>
    if bit c.flags 1 then s.complete c.inst c.tag { status := .entropyPending }
    else s.modCmd c.inst c.tag fun c =>
      { c with stage := match c.stage with | .waitRng t => .waitRng t | _ => .waitRng s.clock.time, held := true, queued := 0 }
  | .there => go

/-- A gate's request of Whisk, of class k (R284): it waits for its turn, and while both engines are without masks (R305). -/
def State.gateWhisk (s : State) (t : ThreadRef) (c : Cmd) (k : Nat) (go : State) : State :=
  if !s.whiskUp t.field then s.modCmd c.inst c.tag fun e => { e with stage := .waitLeaf }
  else if !(s.field t.field).whiskTurn c.inst c.tag k then
    (s.modField t.field fun x => if x.whisk.any (fun w => w.2 == (c.inst, c.tag)) then x
      else { x with whisk := x.whisk ++ [(k, c.inst, c.tag)] }).modCmd c.inst c.tag fun e => { e with stage := .waitWhisk }
  else (go.modField t.field fun x => x.offWhisk c.inst c.tag).modCmd c.inst c.tag fun e =>
    { e with stage := match e.stage with | .waitWhisk => .running | .waitLeaf => .running | x => x }

/-- The command's secret keys are seated and the blobs a KEY gate needs are read; x5 is the slot reference, the place among those
reserved. A blob whose wrap or tag fails ends the command (R127). -/
def State.gateLoad (s : State) (t : ThreadRef) (hit : Hit) (c : Cmd) (key : List Key) (cold : List Key) : State :=
  match (customerDesc c.op).homes s c with
  | none => s.modCmd c.inst c.tag fun e => { e with stage := .waitSlots }
  | some homes =>
    let blobs := cold ++ key.filter fun x => tPublic x.type
    match s.loadKeys c blobs with
    | (false, s) => s.gateRet t .sourcePoisoned
    | (true, s) =>
      if hit == .blob && !blobs.isEmpty then s.complete c.inst c.tag { status := .faultDetected } else
      let s := (homes.foldl (fun s p => s.modField p.1 fun x => x.reseat p.2) s).modCmd c.inst c.tag fun e =>
        { e with keys := c.keys, stage := .running, keyLoaded := e.keyLoaded || !cold.isEmpty }
      s.modThread t fun h => ({ h with slots := h.slots ++ (key.map fun (x : Key) => x.handle) }.result h.slots.length).gateReturn .ok

/-- GATE_KEY: steps 9 and 10 for the handle, then step 13 where a key of the command is not resident (R307, R309), its slots and its blob.
The keys of its earlier KEY gates are loaded again where they have left their slots while the command waited with none reserved (R136). -/
def State.gateKey (s : State) (t : ThreadRef) (hit : Hit) (c : Cmd) (h : Thread) : State :=
  let k := h.handleAt c
  let s := (s.spoilDesc c [k] hit).readDesc c k
  let key := (s.key? c.inst k).toList
  let c := { c with keys := c.keys.filter (fun x => x.handle != k) ++ key }
  s.gateChecks t (s.keyChecks c [k] ++ s.commonChecks c key ++
      [(key.any fun x => (x.attr &&& (h.arg 2 % 2 ^ 12)) != h.arg 2 % 2 ^ 12, .usageDenied)])
    (let cold := c.keys.filter fun x => !tPublic x.type && c.coldKey s x
     s.gateRandom c (!cold.isEmpty) (s.streamsUp c false (!cold.isEmpty))
       (if cold.isEmpty then s.gateLoad t hit c key cold else s.gateWhisk t c 1 (s.gateLoad t hit c key cold)))

/-- GATE_KEY. -/
def execGateKey (g : GateRef) (s : State) : Host.Outcome State Fault Refusal := .next (s.gate g.thread 0x000 (s.gateKey g.thread g.hit))

/-- GATE_QUOTA: step 12. -/
def State.gateQuota (s : State) (t : ThreadRef) (c : Cmd) (h : Thread) : State :=
  s.gateChecks t [(s.noRoom c (h.arg 1) (h.arg 2), .shareExhausted)] (s.gateRet t .ok)

/-- GATE_QUOTA. -/
def execGateQuota (t : ThreadRef) (s : State) : Host.Outcome State Fault Refusal := .next (s.gate t 0x008 (s.gateQuota t))

/-- GATE_DRAW (R377, R381): once per command, at most DRAW bytes; step 13 holds the command, and it ends under R104. -/
def State.gateDraw (s : State) (t : ThreadRef) (c : Cmd) (h : Thread) : State :=
  let n := h.arg 1
  if h.drawMade || n > byteAt (s.opEntry c) 11 then s.complete c.inst c.tag { status := .programFault }
  else
    s.gateRandom c (n != 0) (s.streamsUp c (s.maskedOp c) (c.twinWrap (n != 0)))
      (if n != 0 && s.steepStalls t.field false 1 c.queued then s.waitForPool c
      else
        let (b, s) := if n == 0 then (([] : Bytes), s) else s.steep t.field n
        (s.modCmd c.inst c.tag fun c => { c with stage := .running, queued := 0 }).modThread t fun h =>
          { h with drawMade := true, drawBuf := b }.gateReturn .ok)

/-- GATE_DRAW. -/
def execGateDraw (t : ThreadRef) (s : State) : Host.Outcome State Fault Refusal := .next (s.gate t 0x010 (s.gateDraw t))

/-- The PROGRAM_RUN block a PROGRAM gate names, as a command of its own: its checks are those of R335. -/
def Thread.block (h : Thread) (c : Cmd) : Cmd :=
  let b := c.params.drop (h.arg 1)
  { c with params := b.take (40 + num b 37 3), op := 0x0A02 }

/-- The slot references of a PROGRAM gate. -/
def Thread.refs (h : Thread) (n : Nat) : List (Option Nat) := (List.range n).map fun k => if k < 3 then h.slots[h.arg (2 + k)]? else none

/-- GATE_PROGRAM (R332, R333, R376): the run's output goes to the thread's buffer, its selected sets to NEWKEY. -/
def State.gateProgram (s : State) (t : ThreadRef) (c : Cmd) (h : Thread) : State :=
  if !h.drawMade then s.complete c.inst c.tag { status := .programFault }
  else
    let b := h.block c
    let m := s.prog b
    let refs := h.refs m.nkeyin
    let ks := refs.map fun r => c.key (r.getD 0)
    s.gateChecks t
      [(b.len < 40 || b.len != 40 + b.p 37 3, .badLength),
       (b.p 33 1 != 0 || b.p 34 3 > 262144 || b.p 37 3 > 1048575, .badParameter),
       ((s.image? c.inst (b.p 0 6)).isNone || refs.any (·.isNone), .keyNotFound),
       (!outAttrOk m (b.p 30 3), .badParameter),
       (ks.any (fun k => tClass k.type != 0 || tPublic k.type || k.body.length > 128 || !bit k.attr aDerive), .usageDenied),
       (m.nkeyout != 0 && !attrBounded (b.p 30 3) ks, .usageDenied),
       (!bit (byteAt m.header 10) (c.raised ks 0), .usageDenied),
       (blockSram m b > acreSram, .shareExhausted)]
      (s.beginRun { programRun m b t.field (c.raised ks 0) ks h.drawBuf with thread := some t.thread })

/-- GATE_PROGRAM. -/
def execGateProgram (t : ThreadRef) (s : State) : Host.Outcome State Fault Refusal := .next (s.gate t 0x018 (s.gateProgram t))

/-- A range lies inside a byte string. -/
def within (b : Bytes) (off n : Nat) : Bool := off + n ≤ b.length

/-- GATE_DIGEST: an unkeyed digest of parameter bytes into the buffer. It has no output length, so an extendable function has none. It waits
for a context of its acre (R250). -/
def State.gateDigest (s : State) (t : ThreadRef) (c : Cmd) (h : Thread) : State :=
  let fn := (hashFn? (h.arg 3)).getD default
  s.gateChecks t [((hashFn? (h.arg 3)).isNone || fn.out == 0 || !within c.params (h.arg 1) (h.arg 2), .badParameter)]
    (if s.noContext c then (s.hashQueues c).modCmd c.inst c.tag fun c => { c with stage := .waitCtx }
     else ((s.hashServed c).modCmd c.inst c.tag fun c => { c with stage := .running }).modThread t fun h =>
      ({ h with buf := digestOf (h.arg 3) fn.out (slice c.params (h.arg 1) (h.arg 2)) }.result fn.out).gateReturn .ok)

/-- GATE_DIGEST. -/
def execGateDigest (t : ThreadRef) (s : State) : Host.Outcome State Fault Refusal := .next (s.gate t 0x020 (s.gateDigest t))

/-- GATE_TALLY: the buffer against the parameters; the thread's verdict pair. -/
def State.gateTally (s : State) (t : ThreadRef) (c : Cmd) (h : Thread) : State :=
  s.gateChecks t [(!within h.buf (h.arg 1) (h.arg 3) || !within c.params (h.arg 2) (h.arg 3), .badParameter)]
    (s.modThread t fun h =>
      { h with verdict := if slice h.buf (h.arg 1) (h.arg 3) == slice c.params (h.arg 2) (h.arg 3) then .pass else .fail }.gateReturn .ok)

/-- GATE_TALLY. -/
def execGateTally (t : ThreadRef) (s : State) : Host.Outcome State Fault Refusal := .next (s.gate t 0x028 (s.gateTally t))

/-- TYPE of NEWKEY: x2[23:16]; SIZE is x2[15:0] (log entry 25). -/
def Thread.newType (h : Thread) : Nat := h.arg 2 / 65536 % 256

/-- SIZE of NEWKEY. -/
def Thread.newSize (h : Thread) : Nat := h.arg 2 % 65536

/-- GATE_NEWKEY: an output set becomes a new key; x5 is its place among the thread's new handles. -/
def State.gateNewkey (s : State) (t : ThreadRef) (c : Cmd) (h : Thread) : State :=
  if !h.drawMade then s.complete c.inst c.tag { status := .programFault }
  else
    let ty := h.newType
    let size := if ty == 4 then h.newSize else 0
    let body := (h.sets.getD (h.arg 1) []).take ((secretLen ty size).getD 0)
    s.gateChecks t
      [(ty > 4 || !sizeOk ty h.newSize || !attrOk ty (h.arg 3) || bit (h.arg 3) aPersistent || h.sets.getD (h.arg 1) [] == [], .badParameter),
       (!attrBounded (h.arg 3) c.keys, .usageDenied), (s.noRoom c 1 (secretBlob body.length), .shareExhausted)]
      (s.gateWhisk t c 2
        (let (hd, s) := s.addKey c t.field none { type := ty, attr := h.arg 3, origin := 4, size := size, body := body }
         s.modThread t fun h => ({ h with made := h.made ++ [hd] }.result h.made.length).gateReturn .ok))

/-- GATE_NEWKEY. -/
def execGateNewkey (t : ThreadRef) (s : State) : Host.Outcome State Fault Refusal := .next (s.gate t 0x030 (s.gateNewkey t))

/-- The bytes RESULT takes from: the parameters, the buffer, or the new handles one after another. -/
def Thread.source (h : Thread) (c : Cmd) : Option Bytes :=
  match h.arg 1 with
  | 0 => some c.params
  | 1 => some h.buf
  | 2 => some (h.made.flatMap (toBE 6))
  | _ => none

/-- GATE_RESULT: appends bytes to the results; a new handle's place there is kept for R118. -/
def State.gateResult (s : State) (t : ThreadRef) (c : Cmd) (h : Thread) : State :=
  let src := (h.source c).getD []
  s.gateChecks t [((h.source c).isNone || !within src (h.arg 2) (h.arg 3), .badParameter)]
    (let at0 := h.results.length
     let placed := h.made.zipIdx.filterMap fun p =>
       if h.arg 1 == 2 && h.arg 2 ≤ 6 * p.2 && 6 * p.2 + 6 ≤ h.arg 2 + h.arg 3 then some (at0 + 6 * p.2 - h.arg 2, p.1) else none
     (s.modCmd c.inst c.tag fun e => { e with made := e.made ++ placed }).modThread t fun h =>
       { h with results := h.results ++ slice src (h.arg 2) (h.arg 3) }.gateReturn .ok)

/-- GATE_RESULT. -/
def execGateResult (t : ThreadRef) (s : State) : Host.Outcome State Fault Refusal := .next (s.gate t 0x038 (s.gateResult t))

end Sys2Proof.Machine
end

