-- ==== Sys2Proof/Machine/Stores.lean ====
section
/-! DEFINITION. The control store: versions, patches, the open region, machine checks and the scrub (R372 to R375, R382 to R385). -/
namespace Sys2Proof.Machine

/-- The patch slot in force: field 0's (R383). -/
def State.patchNow (s : State) : Bytes := (slotNow (s.gran.patches.headD [])).data

/-- PEND (R382): the level stored for the next start-up. -/
def State.pend (s : State) : Nat := if s.patchNow == [] then 0 else patchLevel s.patchNow

/-- The fields a store to Granary writes: those not lost and not in LOCKDOWN (R383). -/
def State.granaryFields (s : State) : List Nat := s.fieldNums.filter fun f => !s.unavailable f

/-- *Version record* (R382). -/
def State.versionRecord (s : State) : Bytes :=
  toBE 3 s.fuses.ucodeBase ++ toBE 3 (s.field 0).patch ++ toBE 3 ((s.pkg.openImg.map (·.ident)).getD 0) ++ toBE 3 s.pend ++
    toBE 2 s.pkg.cost.length ++ [0, 0] ++
    s.pkg.cost.flatMap fun e => toBE 2 e.1 ++ toBE 1 e.2.1 ++ toBE 1 e.2.2.1 ++ toBE 2 e.2.2.2

/-- UCODE_VERSION (R382). -/
def ucodeVersionDesc : Desc where
  op := 0x0A10
  pre _ c := [(c.len != 0, .badLength)]
  body s _ := (s, ok s.versionRecord)

/-- UCODE_VERSION. -/
def execUcodeVersion (r : CmdRec) (s : State) : Host.Outcome State Fault Refusal := .next (runCommand ucodeVersionDesc r s)

/-- UCODE_PATCH_STORE (R383). -/
def ucodePatchStoreDesc : Desc where
  op := 0x0A11
  pre _ c := [(!patchLenOk c.params, .badLength), (!patchHeaderOk c.params, .badParameter)]
  post s c :=
    let b := c.params
    [(!s.sigOk .ucode 0 b || num b 5 3 != s.fuses.ucodeBase || patchLevel b ≤ s.pend || !patchParityOk b, .imageRejected)]
  granary _ _ := true
  body s c :=
    let s := s.modGran fun g => { g with patches := slotWrites g.patches s.granaryFields c.params }
    (s.modCmd c.inst c.tag fun e => { e with durable := true }, ok (toBE 3 (patchLevel c.params)))

/-- UCODE_PATCH_STORE. -/
def execUcodePatchStore (r : CmdRec) (s : State) : Host.Outcome State Fault Refusal := .next (runCommand ucodePatchStoreDesc r s)

/-- A routine of the open region has not ended (R385). -/
def State.openBusy (s : State) : Bool := s.cmds.any fun c => isCustomer c.op && !c.isDone

/-- The open region of every field in OPERATIONAL or FALLOW is written (R385). -/
def State.putOpen (s : State) (o : Option OpenImage) : State :=
  (s.modFields fun x => if !x.lost && (x.run == .operational || x.run == .fallow) then x.putOpen o else x).modPkg fun p => { p with openImg := o }

/-- The image of OPEN_LOAD. -/
def openImage (c : Cmd) : Bytes := c.params.drop 4

/-- OPEN_LOAD (R385): it waits for every routine of the old image, then loads, and with PERSIST stores. -/
def openLoadDesc : Desc where
  op := 0x0A12
  pre _ c :=
    [(c.len < 4 || !openLenOk (openImage c), .badLength),
     (c.p 0 1 > 1 || c.p 1 3 != 0 || !openHeaderOk (openImage c), .badParameter)]
  post s c := [(!s.openAccepted (openImage c), .imageRejected)]
  granary _ c := bit (c.p 0 1) 0
  body s c :=
    if s.openBusy then (s, none)
    else
      let b := openImage c
      let s := s.putOpen (some (openOf b))
      let s := if bit (c.p 0 1) 0 then s.modGran fun g => { g with opens := slotWrites g.opens s.granaryFields b } else s
      (s.modCmd c.inst c.tag fun e => { e with durable := true }, ok (slice b 6 3))

/-- OPEN_LOAD. -/
def execOpenLoad (r : CmdRec) (s : State) : Host.Outcome State Fault Refusal := .next (runCommand openLoadDesc r s)

/-- OPEN_CLEAR (R385). -/
def openClearDesc : Desc where
  op := 0x0A13
  pre _ c := [(c.len != 4, .badLength), (c.p 0 1 > 1 || c.p 1 3 != 0, .badParameter)]
  granary _ c := bit (c.p 0 1) 0
  body s c :=
    if s.openBusy then (s, none)
    else
      let s := s.putOpen none
      let s := if bit (c.p 0 1) 0 then s.modGran fun g => { g with opens := slotWrites g.opens s.granaryFields [] } else s
      (s.modCmd c.inst c.tag fun e => { e with durable := true }, ok)

/-- OPEN_CLEAR. -/
def execOpenClear (r : CmdRec) (s : State) : Host.Outcome State Fault Refusal := .next (runCommand openClearDesc r s)

/-! ### Machine check (R372, R373) -/

/-- Objects a command had created, each with its opcode: those in its results, and its thread's new keys. -/
def State.madeBy (s : State) (f : Nat) (c : Cmd) : List (Nat × Nat) :=
  (c.made.map (·.2) ++ ((s.field f).threads.filter fun h => h.busy && h.inst == c.inst && h.tag == c.tag).flatMap (·.made)).map fun h => (c.op, h)

/-- Destroy an object that a command of an opcode had made, which a machine check leaves without an owner (R373). -/
def State.dropMade (s : State) (x : Nat × Nat) : State :=
  match basicOp x.1 with
  | 0x0510 => s.dropSa x.2
  | 0x0901 => s.dropIke x.2
  | 0x0A01 => s.dropImage x.2
  | _ => s.destroyKey x.2

/-- The field's Caddy fetches microwords: the field has started, is neither lost nor locked, and not already in machine check. -/
def State.caddyRuns (s : State) (f : Nat) : Bool :=
  let x := s.field f
  f < s.n && !x.lost && !x.mcheck && x.run != .lockdown && s.pkg.run != .inert

/-- A field enters machine check: Caddy stops, the field is not dispatchable, its runs are stopped and zeroised, its commands end with
MACHINE_CHECK and what they had created is destroyed (R373). -/
def State.machineCheck (s : State) (field : Nat) : State :=
  let cs := s.cmds.filter fun c => !c.isDone && (c.field == some field || c.field2 == some field)
  let made := cs.flatMap (s.madeBy field)
  let s := s.modField field fun x =>
    { x with mcheck := true, faults := (x.faults.filter fun t => s.clock.time < t + 60000000000) ++ [s.clock.time] }
  let s := s.endAll cs .machineCheck
  let s := { s with runs := s.runs.filter fun r => r.field != field }
  let s := s.modField field fun x => { x with furrows := x.furrows.map Furrow.stop }
  made.foldl State.dropMade s

/-- PARITY_ERROR (R372): no field of the failing word takes effect. -/
def execParityError (field word : Nat) (s : State) : Host.Outcome State Fault Refusal :=
  .next (if s.caddyRuns field && word < 16384 then s.machineCheck field else s)

/-- CONTROL_STORE_RELOAD_DONE (R372, R486): the store has been loaded again from ROM, Granary and the program-region copy of the open image;
the field is dispatchable again, or locks at the fourth fault event. -/
def execControlStoreReloadDone (field : Nat) (s : State) : Host.Outcome State Fault Refusal :=
  .next (if !(s.field field).mcheck then s
    else
      let n := s.faultCount field
      if n ≥ 4 then s.alarm field 7 59 (min 255 n)
      else
        ((s.reloadStore field).modField field fun x => { x with mcheck := false }).raise 0 0x0105 (toBE 1 field ++ toBE 1 n))

/-- CONTROL_STORE_SCRUB (R374): the next word is read; one with a parity error is repaired from its source and logged. -/
def execControlStoreScrub (field : Nat) (bad : Bool) (s : State) : Host.Outcome State Fault Refusal :=
  .next (let x := s.field field
    if field ≥ s.n || x.lost || x.run == .lockdown then s
    else
      let s := if bad then (s.repairWord field x.scrubAt).log field 32 6 0xFF (toBE 2 x.scrubAt) else s
      s.modField field fun x => { x with scrubAt := (x.scrubAt + 1) % 16384 })

end Sys2Proof.Machine
end

