-- ==== Sys2Proof/Machine/Memory.lean ====
section
/-! DEFINITION. GDDR6: refresh, training, EDC, Harrow, retirement, merge images, and the page metadata (R434 to R454, R519). -/
namespace Sys2Proof.Machine

/-- The field's GDDR6 is in use: the field is neither lost nor locked, and start-up is over. -/
def State.memoryUp (s : State) (f : Nat) : Bool :=
  let x := s.field f
  f < s.n && !x.lost && x.run != .lockdown && s.pkg.run != .inert

/-- GDDR6_REFRESH (R447): a due refresh takes a slot of the channel. -/
def execGddr6Refresh (field channel : Nat) (s : State) : Host.Outcome State Fault Refusal :=
  .next (if s.memoryUp field && channel < 2 then s.modField field fun x => { x with refreshes := x.refreshes.modify channel (· + 1) } else s)

/-- GDDR6_TEMPERATURE_READ (R449): the refresh rate is doubled above 85 °C and restored at 80 °C or below. -/
def execGddr6TemperatureRead (field : Nat) (celsius : Int) (s : State) : Host.Outcome State Fault Refusal :=
  .next (if s.memoryUp field then
      s.modField field fun x =>
        { x with refreshDoubled := if celsius > 85 then true else if celsius ≤ 80 then false else x.refreshDoubled }
    else s)

/-- The channels are trained now: the interval begins again. -/
def State.retrain (s : State) (f : Nat) : State := s.modField f fun x => { x with trainedAt := s.clock.time, retrainDeferred := false }

/-- RETRAIN_DUE (R449): at once, or deferred while foreground accesses are queued. -/
def execRetrainDue (field : Nat) (queued : Bool) (s : State) : Host.Outcome State Fault Refusal :=
  .next (if !s.memoryUp field then s
    else if queued then s.modField field fun x => { x with retrainDeferred := true }
    else s.retrain field)

/-- RETRAIN_DEFER_LIMIT (R449): 8 ms past its due time the retraining takes both channels. -/
def execRetrainDeferLimit (field : Nat) (s : State) : Host.Outcome State Fault Refusal :=
  .next (if s.memoryUp field && (s.field field).retrainDeferred then s.retrain field else s)

/-- A page is rewritten with POISON set (R450). -/
def State.poisonPage (s : State) (f p : Nat) : State :=
  let pg := s.pageOf f p
  s.modField f fun x => x.putPage { pg with poison := true, errors := 0, badNumber := false }

/-- EDC_FAILURE (R450): retries are logged; after three the controller retrains; if the last retry fails, a read ends its command with
SOURCE_POISONED and MEM_LINK is raised, and a write puts the field into machine check and poisons the page. -/
def execEdcFailure (e : EdcFault) (s : State) : Host.Outcome State Fault Refusal :=
  .next (if !s.memoryUp e.field || e.channel ≥ 2 || e.page ≥ 983040 then s
    else
      let log := fun (s : State) (n : Nat) => s.log e.field 45 8 e.inst (toBE 1 e.channel ++ toBE 1 n)
      match e.outcome with
      | .retried n => log s n
      | .retrained => (log s 4).retrain e.field
      | .final =>
        let s := (log s 4).retrain e.field
        if e.write then (if s.caddyRuns e.field then s.machineCheck e.field else s).poisonPage e.field e.page
        else
          let s := s.raise 0 0x0401 (toBE 1 e.field ++ toBE 1 e.channel ++ toBE 4 e.page)
          s.complete e.inst e.tag { status := .sourcePoisoned })

/-! ### Harrow (R451) -/

/-- Page positions of a sweep: data pages, then spare slots. -/
def sweepPositions : Nat := 986880

/-- Data pages. -/
def dataPages : Nat := 983040

/-- Spare slots (R435). -/
def spareSlots : Nat := 3840

/-- The logical page at a position: a spare slot in use holds the page it replaces; an unused one none. -/
def FieldSt.pageAt (x : FieldSt) (k : Nat) : Option Nat :=
  if k < dataPages then some k else (x.remap.find? fun r => r.2 == k - dataPages).map (·.1)

/-- Harrow runs: the rate is not 0, and the field is in OPERATIONAL, FALLOW or RECOVERY. -/
def State.harrowRuns (s : State) (f : Nat) : Bool :=
  let r := (s.field f).run
  s.memoryUp f && s.setting 0x12 != 0 && (r == .operational || r == .fallow || r == .recovery)

/-- The position after a visit; the sweep count wraps at 32 bits. -/
def FieldSt.advanceSweep (x : FieldSt) : FieldSt :=
  if x.sweepAt + 1 < sweepPositions then { x with sweepAt := x.sweepAt + 1 }
  else { x with sweepAt := 0, sweep := (x.sweep + 1) % 2 ^ 32 }

/-- A page takes further symbol errors, as the device lost them; symbols is what Harrow's read finds beyond those known. -/
def State.degrade (s : State) (f p symbols : Nat) : State :=
  if symbols == 0 then s
  else
    let pg := s.pageOf f p
    s.modField f fun x => x.putPage { pg with errors := pg.errors + symbols }

/-- HARROW_VISIT (R451): the page is read and decoded; a correctable one is repaired and verified, an uncorrectable one poisoned; what R452
names is called for retirement. An unused spare slot that fails is dead. -/
def execHarrowVisit (field symbols : Nat) (verifyBad : Bool) (s : State) : Host.Outcome State Fault Refusal :=
  .next (if !s.harrowRuns field then s
    else
      let s :=
        match (s.field field).pageAt (s.field field).sweepAt with
        | some p =>
          let pg := s.pageOf field p
          let s := if pg.retry then s.modField field fun x => x.putPage { pg with retry := false, due := true } else s
          match (s.degrade field p symbols).readPage field p with
          | (.correctable _, s) =>
            if verifyBad then
              let pg := s.pageOf field p
              s.modField field fun x => x.putPage { pg with due := true }
            else s
          | (_, s) => s
        | none =>
          if symbols > strengthT 1 / 2 || verifyBad then
            s.modField field fun x => { x with deadSpares := x.deadSpares ++ [x.sweepAt - dataPages] }
          else s
      s.modField field FieldSt.advanceSweep)

/-! ### Retirement (R452 to R454) -/

/-- The next unused good spare slot. -/
def FieldSt.spare (x : FieldSt) : Option Nat :=
  (List.range spareSlots).find? fun k => !x.deadSpares.contains k && !x.remap.any fun r => r.2 == k

/-- A page that no good spare can replace keeps its position until it is freed; a page no object holds is withdrawn at once (R454). -/
def State.noSpare (s : State) (f p : Nat) : State :=
  let pg := s.pageOf f p
  if pg.region == 0 then
    (s.modField f fun x => { x with pages := x.pages.filter (·.page != p) }).withdraw f [p]
  else s.modField f fun x => x.putPage { pg with due := false, drop := true }

/-- PAGE_RETIREMENT (R452): copy to the next good spare, record in Granary, remap; spareBad: the spare fails its read-back and is dead, so
that the retirement stays due; recordBad: the record fails three times and the page keeps its position. -/
def execPageRetirement (field page : Nat) (spareBad recordBad : Bool) (s : State) : Host.Outcome State Fault Refusal :=
  .next (let pg := s.pageOf field page
    if !s.memoryUp field || page ≥ dataPages || !pg.due then s
    else
      match (s.field field).spare with
      | none => s.noSpare field page
      | some k =>
        if spareBad then s.modField field fun x => { x with deadSpares := x.deadSpares ++ [k] }
        else if recordBad then
          let (b, s) := s.fresh 3
          (s.modField field fun x => x.putPage { pg with due := false, retry := true }).log field 48 13 0xFF b
        else
          let old := ((s.field field).remap.filter fun r => r.1 == page).map (·.2)
          let s := s.modGran fun g =>
            { g with retired := g.retired.filter (fun r => !(r.1 == field && r.2.1 == page)) ++ [(field, page, k)] }
          let s := s.modField field fun x =>
            { x.putPage { pg with due := false, errors := 0, badNumber := false } with
              remap := x.remap.filter (fun r => r.1 != page) ++ [(page, k)], deadSpares := x.deadSpares ++ old }
          s.raise 0 0x0402 (toBE 1 field ++ [0] ++ toBE 4 page ++ toBE 2 k))

/-! ### Merge images (R445, R446) -/

/-- MERGE_IDLE_TIMER (R445): no write for 2 µs. -/
def execMergeIdleTimer (field page : Nat) (s : State) : Host.Outcome State Fault Refusal :=
  .next (match (s.field field).merge.find? fun m => m.page == page with
    | some m => s.commitMerge field m
    | none => s)

/-! ### PAGE_META (R439, R440, R519) -/

/-- The metadata word. -/
def Page.meta (p : Page) : Nat :=
  p.poison.toNat * 2 ^ 63 + p.strength * 2 ^ 60 + p.region * 2 ^ 56 + p.version * 2 ^ 40 + p.owner * 2 ^ 32

/-- The state byte, in the order R440 lists the four. -/
def PageRead.code : PageRead → Nat
  | .clean => 0 | .correctable _ => 1 | .uncorrectable => 2 | .poisoned => 3

/-- PAGE_META (R519): from shadow copies, so that nothing is repaired (R447). -/
def pageMetaDesc : Desc where
  op := 0x0D10
  pre s c :=
    [(c.len != 8, .badLength), (c.p 0 1 ≥ s.n || c.p 1 3 != 0 || c.p 4 4 ≥ dataPages, .badParameter),
     ((s.field (c.p 0 1)).gone, .fieldUnavailable)]
  post _ c := [(c.runAt != .operational && c.runAt != .fallow && c.runAt != .recovery, .stateForbids)]
  body s c :=
    let pg := s.pageOf (c.p 0 1) (c.p 4 4)
    let spare := ((s.field (c.p 0 1)).remap.lookup (c.p 4 4)).getD 0xFFFF
    (s, ok (toBE 8 pg.meta ++ toBE 1 pg.read.code ++ toBE 2 spare ++ [0]))

/-- PAGE_META. -/
def execPageMeta (r : CmdRec) (s : State) : Host.Outcome State Fault Refusal := .next (runCommand pageMetaDesc r s)

end Sys2Proof.Machine
end

