-- ==== Sys2Proof/Machine/Thresher.lean ====
section
/-! DEFINITION. Thresher and Whisk: the AEAD and CMAC commands, security associations, and the packets of INLINE (R260 to R294). -/
namespace Sys2Proof.Machine

/-! ### AEAD commands (R260 to R268) -/

/-- FLAGS bit 0: the part draws the IV. -/
def aIvGen (c : Cmd) : Bool := bit (c.p 7 1) 0

/-- I: bytes of the IV in the block. -/
def aI (c : Cmd) : Nat := if aIvGen c then 0 else c.p 8 1

/-- IVLEN, TAGLEN and MLEN suit MODE (R264). -/
def aeadLimits (mode ivlen taglen mlen : Nat) : Bool :=
  match mode with
  | 1 => ivlen == 12 && 12 ≤ taglen && taglen ≤ 16
  | 2 => ivlen == 12 && taglen == 16
  | 3 => 7 ≤ ivlen && ivlen ≤ 13 && 4 ≤ taglen && taglen ≤ 16 && taglen % 2 == 0 && mlen < 2 ^ (8 * (15 - ivlen))
  | _ => false

/-- The key type suits MODE (R264). -/
def aeadKeyOk (mode t : Nat) : Bool := if mode == 2 then t == 0x03 else t ≤ 0x02

/-- Step 8 and step 10 of both AEAD commands. -/
def aeadBad (c : Cmd) (sealing : Bool) : Bool :=
  c.p 7 1 ≥ 2 || (!sealing && c.p 7 1 != 0) || !aeadLimits (c.p 6 1) (c.p 8 1) (c.p 9 1) (c.p 12 3)

/-- The key does not suit MODE, lacks its use bit, or is marked for order 2 or 3 (R261, R264). -/
def aeadDenied (c : Cmd) (use : Nat) : Bool :=
  !aeadKeyOk (c.p 6 1) (c.key (c.p 0 6)).type || c.lacks (c.p 0 6) use || attrOrder (c.key (c.p 0 6)).attr ≥ 2

/-- The staging space is beyond the GDDR6 share (R267). -/
def State.aeadNoRoom (s : State) (c : Cmd) : Bool :=
  !roomFor c.shares.gddr6 (s.usedG6 c.inst) (c.p 12 3 + c.p 9 1 + c.p 8 1)

/-- AEAD_SEAL (R263 to R265). -/
def aeadSealDesc : Desc where
  op := 0x0501
  pre _ c := [(c.len < 15 || c.len != 15 + aI c + c.p 10 2 + c.p 12 3, .badLength), (aeadBad c true, .badParameter)]
  keys _ c := [c.p 0 6]
  post s c := [(aeadDenied c aEncrypt, .usageDenied), (s.aeadNoRoom c, .shareExhausted)]
  draw _ c := some (if aIvGen c then c.p 8 1 else 0)
  head _ := some 15
  onPass s c := s.placeMessage c (c.p 0 6)
  early := true
  onStart s c := s.startAead c (c.p 0 6)
  body s c :=
    let iv := if aIvGen c then c.drawn else slice c.params 15 (aI c)
    let ad := slice c.params (15 + aI c) (c.p 10 2)
    let pt := slice c.params (15 + aI c + c.p 10 2) (c.p 12 3)
    let ct := std (c.p 12 3 + c.p 9 1) (.aeadSeal (c.p 6 1)) [(c.key (c.p 0 6)).body, iv, ad, pt, toBE 1 (c.p 9 1)]
    match s.releaseOut c (if aIvGen c then c.p 8 1 else 0) ((if aIvGen c then c.p 8 1 else 0) + c.p 12 3 + c.p 9 1) with
    | (some x, s) => (s, some { status := x })
    | (none, s) => (s, ok ((if aIvGen c then iv else []) ++ ct))

/-- AEAD_SEAL. -/
def execAeadSeal (r : CmdRec) (s : State) : Host.Outcome State Fault Refusal := .next (runCommand aeadSealDesc r s)

/-- AEAD_OPEN (R263, R264, R266). -/
def aeadOpenDesc : Desc where
  op := 0x0502
  pre _ c := [(c.len < 15 || c.len != 15 + aI c + c.p 10 2 + c.p 12 3 + c.p 9 1, .badLength), (aeadBad c false, .badParameter)]
  keys _ c := [c.p 0 6]
  post s c := [(aeadDenied c aDecrypt, .usageDenied), (s.aeadNoRoom c, .shareExhausted)]
  head _ := some 15
  onPass s c := s.placeMessage c (c.p 0 6)
  early := true
  onStart s c := s.startAead c (c.p 0 6)
  body s c :=
    let o := 15 + aI c
    let args := [(c.key (c.p 0 6)).body, slice c.params 15 (aI c), slice c.params o (c.p 10 2),
      slice c.params (o + c.p 10 2) (c.p 12 3), slice c.params (o + c.p 10 2 + c.p 12 3) (c.p 9 1)]
    if !Config.test (.aeadTag (c.p 6 1)) args then (s.wipeOut c, verdict false)
    else
      match s.releaseOut c 0 (c.p 12 3) with
      | (some x, s) => (s, some { status := x })
      | (none, s) => (s, verdict true (std (c.p 12 3) (.aeadOpen (c.p 6 1)) args))

/-- AEAD_OPEN. -/
def execAeadOpen (r : CmdRec) (s : State) : Host.Outcome State Fault Refusal := .next (runCommand aeadOpenDesc r s)

/-! ### CMAC (R289) -/

/-- CMAC_GEN and CMAC_VERIFY. -/
def cmacDesc (op use : Nat) (verify : Bool) : Desc where
  op := op
  pre _ c :=
    [(c.len < 11 || c.len != 11 + (if verify then c.p 6 1 else 0) + c.p 8 3, .badLength),
     (c.p 6 1 < 8 || c.p 6 1 > 16 || c.p 7 1 != 0 || c.p 8 3 > 65536, .badParameter)]
  keys _ c := [c.p 0 6]
  post _ c := [((c.key (c.p 0 6)).type > 0x02 || c.lacks (c.p 0 6) use, .usageDenied)]
  body s c :=
    let t := c.p 6 1
    let o := 11 + if verify then t else 0
    let mac := (std 16 .aesCmac [(c.key (c.p 0 6)).body, slice c.params o (c.p 8 3)]).take t
    (s, if verify then verdict (mac == slice c.params 11 t) else ok mac)

/-- CMAC_GEN. -/
def execCmacGen (r : CmdRec) (s : State) : Host.Outcome State Fault Refusal := .next (runCommand (cmacDesc 0x0520 aMacGen false) r s)

/-- CMAC_VERIFY. -/
def execCmacVerify (r : CmdRec) (s : State) : Host.Outcome State Fault Refusal := .next (runCommand (cmacDesc 0x0521 aMacVerify true) r s)

/-- The first request that is not of class 1 moves to class 1. -/
def promoteFirst : List (Nat × Nat × Nat) → List (Nat × Nat × Nat)
  | [] => []
  | (k, r) :: rest => if k == 1 then (k, r) :: promoteFirst rest else (1, r) :: rest

/-- WHISK_REQUEST_PROMOTION (R284): the request that has waited longest is promoted to class 1. -/
def execWhiskRequestPromotion (field : Nat) (s : State) : Host.Outcome State Fault Refusal :=
  .next (s.modField field fun x => { x with whisk := promoteFirst x.whisk })

/-! ### Security associations (R271 to R275, R280) -/

/-- The SA a valid handle names (R271). -/
def State.sa? (s : State) (inst h : Nat) : Option Sa :=
  s.sas.find? fun a => a.handle == h && hInst h == inst && h != 0

/-- Change an SA. -/
def State.modSa (s : State) (h : Nat) (g : Sa → Sa) : State :=
  { s with sas := s.sas.map fun a => if a.handle == h then g a else a }

/-- SA index of a handle. -/
def saIndex (h : Nat) : Nat := bits h 39 20

/-- SA indices a field homes. -/
def saEntries (n : Nat) : Nat := 2 ^ 20 / n

/-- Local SA indices taken on a field. -/
def State.takenSas (s : State) (f : Nat) : List Nat := (s.sas.filter (·.field == f)).map fun a => saIndex a.handle % saEntries s.n

/-- The handle the next SA on a field takes (R271). -/
def State.newSa (s : State) (inst f : Nat) : Option (Nat × Nat) :=
  let x := s.field f
  (nextFree x.lastSa (saEntries s.n) 0x3FFF x.saUses (s.takenSas f)).map fun i =>
    (inst * 2 ^ 40 + (f * saEntries s.n + i) * 2 ^ 20 + s.epoch f % 64 * 2 ^ 14 + (useOf x.saUses i + 1), i)

/-- The page of an SA's entry: the SA table follows the handle table (R272; log entry 13). -/
def saPage (n h : Nat) : Nat := 16384 + saIndex h % saEntries n / 16

/-- The sequence limit (R280). -/
def Sa.limit (a : Sa) : Nat := if (a.kind ≤ 2 && a.esn) || a.cipher == 4 then 2 ^ 64 - 1 else 2 ^ 32 - 1

/-- The last number an SA has sent, or the highest it has accepted. -/
def Sa.used (a : Sa) : Nat := a.next - 1

/-- AN of a MACsec SA. -/
def Sa.an (a : Sa) : Nat := (Config.an a.first).val

/-- Outer destination of an inbound ESP SA's template. -/
def Sa.outerDst (a : Sa) : Nat := beNat (a.tmpl.drop 12)

/-- Cause of a soft expiry that is due: 1 time, 2 bytes, 3 sequence (R280). -/
def Sa.softCause (a : Sa) (now : Nat) (time : Bool) : Option Nat :=
  if time then (if a.softS != 0 && now ≥ a.installed + a.softS * 1000000000 then some 1 else none)
  else if a.softB != 0 && a.octets ≥ a.softB then some 2
  else if a.used * 4 ≥ a.limit * 3 then some 3 else none

/-- Cause of a hard expiry that is due. -/
def Sa.hardCause (a : Sa) (now : Nat) (time : Bool) : Option Nat :=
  if time then (if a.hardS != 0 && now ≥ a.installed + a.hardS * 1000000000 then some 1 else none)
  else if a.hardB != 0 && a.octets ≥ a.hardB then some 2
  else if a.used ≥ a.limit then some 3 else none

/-- Data of SA_SOFT_EXPIRED and SA_HARD_EXPIRED. -/
def saEvent (h cause : Nat) : Bytes := toBE 6 h ++ toBE 1 cause ++ [0]

/-- Judge an SA's lifetimes (R280): time at the scan, bytes and sequence when it is installed or has processed a packet. -/
def State.judgeSa (s : State) (h : Nat) (time : Bool) : State :=
  match s.sas.find? (fun a => a.handle == h) with
  | none => s
  | some a =>
    let s := match a.softCause s.clock.time time with
      | some k => if a.state == 0 then (s.modSa h fun a => { a with state := 1 }).raise (hInst h) 0x0303 (saEvent h k) else s
      | none => s
    match a.hardCause s.clock.time time with
    | some k => if a.state != 2 then (s.modSa h fun a => { a with state := 2 }).raise (hInst h) 0x0304 (saEvent h k) else s
    | none => s

/-- The scan channel is needed and none is free (R280). -/
def State.noScanChannel (s : State) (timed : Bool) : Bool :=
  timed && !s.pkg.timers.contains .saScan && s.pkg.timers.length ≥ 4

/-- Thresher seals an SA's key under the table key, the entry's index as associated data (R272). The nonce is not in the spec: the opaque
cipher is given none (log entry 109). -/
def State.sealSa (s : State) (f h : Nat) (key : Bytes) : Bytes :=
  std (key.length + 16) (.aeadSeal 1) [(s.field f).saKey.getD [], [], toBE 4 (saIndex h), key, [16]]

/-- Add an SA to a field's table (R271, R274, R280): an SA that REPLACE displaces is hard-expired. -/
def State.addSa (s : State) (inst f : Nat) (replace : Bool) (a : Sa) : Nat × State :=
  match s.newSa inst f with
  | none => (0, s)
  | some (h, i) =>
    let s := if replace then { s with sas := s.sas.map fun b => if b.kind % 2 == 1 && b.state != 2 && b.sel == a.sel then { b with state := 2 } else b }
      else s
    let s := s.modField f fun x => { x with lastSa := i, saUses := useBump x.saUses i }
    let a := { a with handle := h, field := f, installed := s.clock.time, sealed := s.sealSa f h a.keyMaterial }
    let s := { s with sas := s.sas ++ [a] }
    let s := if a.timed && !s.pkg.timers.contains .saScan then s.modPkg fun p => { p with timers := p.timers ++ [.saScan] } else s
    (h, s.judgeSa h false)

/-- TMPLLEN by KIND and outer version (*SA templates*). -/
def tmplLen (kind : Nat) (v6 : Bool) : Nat :=
  match kind with
  | 1 => if v6 then 54 else 34
  | 2 => if v6 then 28 else 16
  | _ => 0

/-- The SA an SA_INSTALL block describes (R273). -/
def saOfBlock (c : Cmd) : Sa :=
  { handle := 0, field := c.fld, kind := c.p 0 1, cipher := c.p 1 1, esn := bit (c.p 2 1) 0, outerV6 := bit (c.p 2 1) 1,
    key := c.p 4 6, spi := c.p 10 4, salt := slice c.params 14 12, sci := c.p 26 8, next := c.p 34 8, first := c.p 34 8, sel := c.p 42 2,
    window := c.p 44 2, softS := c.p 46 4, hardS := c.p 50 4, softB := c.p 54 8, hardB := c.p 62 8, tmpl := c.params.drop 72,
    keyMaterial := (c.key (c.p 4 6)).body }

/-- The template names ESP as its protocol (*SA templates*). -/
def tmplOk (a : Sa) : Bool :=
  if a.kind != 1 then true
  else if a.outerV6 then byteAt a.tmpl 14 / 16 == 6 && byteAt a.tmpl 20 == 50 else byteAt a.tmpl 14 == 0x45 && byteAt a.tmpl 23 == 50

/-- A field of an SA is out of range (R273). -/
def saBad (flags reserved : Nat) (a : Sa) : Bool :=
  let esp := a.kind == 1 || a.kind == 2
  !(1 ≤ a.kind && a.kind ≤ 4) || !(if esp then a.cipher == 1 || a.cipher == 2 else a.cipher == 3 || a.cipher == 4) ||
  flags ≥ 8 || (!esp && flags % 4 != 0) || (flags ≥ 4 && a.kind % 2 == 0) || reserved != 0 ||
  (if esp then a.spi < 256 else a.cipher == 3 && a.spi != 0) ||
  (if esp then !allZero (a.salt.drop 4) else a.cipher == 3 && !allZero a.salt) || (esp && a.sci != 0) ||
  a.next == 0 || a.next > a.limit || a.sel == 0 || a.sel > 4094 ||
  (match a.kind with
    | 2 => a.window < 64 || a.window > 4096
    | 4 => false
    | _ => a.window != 0) ||
  (a.hardS != 0 && a.hardS ≤ a.softS) || (a.hardB != 0 && a.hardB ≤ a.softB) || !tmplOk a

/-- An inbound SPI is that of a child in the making with the same outer destination, or of a child whose keys the host holds: no other may take
it until then (R396; log entry 27). -/
def State.spiPromised (s : State) (spi : Nat) (v6 : Bool) (dst : Nat) : Bool :=
  s.ikes.any fun k =>
    let tmpl := openPart k.params 3
    (tmpl.length == 28) == v6 && beNat (tmpl.drop 12) == dst && (k.spiIn == spi || (!k.flag 0 && k.children.any fun x => x.spiIn == spi))

/-- The SA breaks a uniqueness rule (R274). -/
def State.saClash (s : State) (replace : Bool) (a : Sa) : Bool :=
  (a.kind == 2 && s.spiPromised a.spi a.outerV6 a.outerDst) || s.sas.any fun b =>
    match a.kind with
    | 2 => b.kind == 2 && b.spi == a.spi && b.outerV6 == a.outerV6 && b.outerDst == a.outerDst
    | 4 => b.kind == 4 && b.sci == a.sci && b.an == a.an
    | _ => b.kind % 2 == 1 && b.state != 2 && b.sel == a.sel && !replace

/-- An outbound SA takes a SEL that is reserved to an IKE SA (R394). -/
def State.selReserved (s : State) (sel : Nat) : Bool := sel != 0 && s.ikes.any fun k => num k.params 20 2 == sel

/-- The key type CIPHER takes (R273). -/
def saKeyOk (cipher t : Nat) : Bool :=
  match cipher with
  | 1 => t == 0x00 || t == 0x02
  | 2 => t == 0x03
  | _ => t == 0x02

/-- SA_INSTALL (R273, R274). An SA of a persistent key survives INSTANCE_RESET (R116, R118). -/
def saInstallDesc : Desc where
  op := 0x0510
  pre s c :=
    let a := saOfBlock c
    [(c.len < 72 || c.len != 72 + c.p 70 2 || (1 ≤ a.kind && a.kind ≤ 4 && c.p 70 2 != tmplLen a.kind a.outerV6), .badLength),
     (saBad (c.p 2 1) (c.p 3 1) a, .badParameter), (s.saClash (bit (c.p 2 1) 2) a || (a.kind % 2 == 1 && s.selReserved a.sel), .badParameter)]
  keys _ c := [c.p 4 6]
  post s c :=
    let k := c.key (c.p 4 6)
    [(!saKeyOk (c.p 1 1) k.type || c.lacks (c.p 4 6) (if c.p 0 1 % 2 == 1 then aEncrypt else aDecrypt) || attrOrder k.attr ≥ 2, .usageDenied),
     (!c.mode .inline, .stateForbids),
     (!roomFor c.shares.sas (s.usedSas c.inst) 1 || (s.newSa c.inst c.fld).isNone, .shareExhausted),
     (s.noScanChannel (saOfBlock c).timed, .pinClaimed)]
  writes s c := (s.newSa c.inst c.fld).toList.map fun p => (c.fld, 16384 + p.2 / 16)
  body s c :=
    let (h, s) := s.addSa c.inst c.fld (bit (c.p 2 1) 2) (saOfBlock c)
    let lasts := bit (c.key (c.p 4 6)).attr aPersistent
    (s.modCmd c.inst c.tag fun e => { e with made := e.made ++ [(0, h)], durable := e.durable || lasts }, ok (toBE 6 h))

/-- SA_INSTALL. -/
def execSaInstall (r : CmdRec) (s : State) : Host.Outcome State Fault Refusal := .next (runCommand saInstallDesc r s)

/-- Step 9 for an SA handle (R271, R33). -/
def State.saChecks (s : State) (c : Cmd) (h : Nat) : List (Bool × Status) :=
  [((s.sa? c.inst h).isNone, .keyNotFound), ((s.sa? c.inst h).any (fun a => s.unavailable a.field), .fieldUnavailable)]

/-- SA_RETIRE (R275). -/
def saRetireDesc : Desc where
  op := 0x0511
  pre _ c := [(c.len != 6, .badLength)]
  nine s c := s.saChecks c (c.p 0 6)
  writes s c := [(c.fld, saPage s.n (c.p 0 6))]
  body s c :=
    ((s.dropSa (c.p 0 6)).loseHalf true (c.p 0 6), ok)

/-- SA_RETIRE. -/
def execSaRetire (r : CmdRec) (s : State) : Host.Outcome State Fault Refusal := .next (runCommand saRetireDesc r s)

/-- *SA_INFO results* (R275). -/
def Sa.info (a : Sa) : Bytes :=
  toBE 1 a.kind ++ toBE 1 a.cipher ++ toBE 1 a.state ++ toBE 1 a.field ++ [0, 0, 0, 0] ++
    toBE 8 (if a.kind % 2 == 1 then a.next else a.used) ++ toBE 8 a.packets ++ toBE 8 a.octets ++ toBE 8 a.replay ++ toBE 8 a.icvFail

/-- SA_INFO (R275). An entry on a page that cannot be read ends the command with SOURCE_POISONED (R441). -/
def saInfoDesc : Desc where
  op := 0x0512
  pre _ c := [(c.len != 6, .badLength)]
  nine s c := s.saChecks c (c.p 0 6)
  body s c :=
    match s.readPage c.fld (saPage s.n (c.p 0 6)) with
    | (.uncorrectable, s) => (s, st .sourcePoisoned)
    | (.poisoned, s) => (s, st .sourcePoisoned)
    | (r, s) =>
      (if r == .clean then s else s.modCmd c.inst c.tag fun e => { e with corrected := true }, ok (((s.sa? c.inst (c.p 0 6)).map Sa.info).getD []))

/-- SA_INFO. -/
def execSaInfo (r : CmdRec) (s : State) : Host.Outcome State Fault Refusal := .next (runCommand saInfoDesc r s)

/-- SA_LIFETIME_SCAN (R280): once per second while the scan channel is owned. -/
def execSaLifetimeScan (s : State) : Host.Outcome State Fault Refusal :=
  .next (if s.pkg.timers.contains .saScan then (s.sas.filter Sa.timed).foldl (fun s a => s.judgeSa a.handle true) s else s)

/-! ### INLINE packets (R276 to R282) -/

/-- A discarded packet of an SA. -/
def State.dropSaPacket (s : State) (p : Nat) : State := s.drop p fun d => { d with sa := d.sa + 1 }

/-- An SA processes packets: it is not hard-expired and its home field is in OPERATIONAL (R280, R282). -/
def State.saLive (s : State) (a : Sa) : Bool := a.state != 2 && s.fieldRun a.field == .operational && !(s.field a.field).lost

/-- A packet's request reaches a pipeline with the SA's key (R260, R272): cached there, or unsealed from the entry's page. A packet whose
entry cannot be opened is discarded (R290). -/
def State.withSa (s : State) (p : Nat) (a : Sa) (g : State → State) : State :=
  if !s.saLive a then s.dropSaPacket p
  else if ((s.field a.field).cachedOn (saSlot a.handle)).isSome then g s
  else if (s.field a.field).saKey.isNone then s.dropSaPacket p
  else
    match s.readPage a.field (saPage s.n a.handle) with
    | (.uncorrectable, s) => s.dropSaPacket p
    | (.poisoned, s) => s.dropSaPacket p
    | (_, s) => g (s.modField a.field fun x => x.cacheKey (s.pipeFor a.field (saSlot a.handle) []) (saSlot a.handle))

/-- A frame's bytes after its addresses and 802.1Q tag. -/
def frameTail (f : RxFrame) : Bytes := toBE 2 f.ethertype ++ f.body

/-- The same bytes as they stood on the wire: under MACsec from the SecTAG to the ICV. -/
def wireTail (f : RxFrame) : Bytes :=
  match f.sec with
  | none => frameTail f
  | some t => t.wire

/-- A frame no SA takes is dropped and counted, or passes unchanged under INLINE_MISS (R276). -/
def State.inlineMiss (s : State) (f : RxFrame) : State :=
  if s.setting 0x14 == 1 then
    { s with tx := s.tx ++ [.packet (1 - f.port) f.tci (toBE 6 f.dst ++ toBE 6 f.src ++ wireTail f)] }
  else s.drop f.port fun d => { d with miss := d.miss + 1 }

/-- Ones' complement sum of 16-bit words. -/
def sum16 : Bytes → Nat
  | a :: b :: rest => a.toNat * 256 + b.toNat + sum16 rest
  | [a] => a.toNat * 256
  | [] => 0

/-- The IPv4 header checksum. -/
def ipChecksum (h : Bytes) : Nat :=
  let s1 := sum16 h
  let s2 := s1 % 65536 + s1 / 65536
  65535 - (s2 % 65536 + s2 / 65536)

/-- The template's outer header with the fields the part fills in (R277). -/
def outerHeader (a : Sa) (espLen : Nat) : Bytes :=
  let h := a.tmpl.drop 14
  if a.outerV6 then h.take 4 ++ toBE 2 espLen ++ h.drop 6
  else
    let g := h.take 2 ++ toBE 2 (20 + espLen) ++ toBE 2 a.ipId ++ slice h 6 4 ++ [0, 0] ++ h.drop 12
    g.take 10 ++ toBE 2 (ipChecksum g) ++ g.drop 12

/-- The IP packet in a frame, its Ethernet padding left out, and whether it is IPv6. -/
def innerPacket (f : RxFrame) : Option (Bool × Bytes) :=
  let b := f.body
  if f.ethertype == 0x0800 && byteAt b 0 / 16 == 4 && num b 2 2 ≥ 20 && num b 2 2 ≤ b.length then some (false, b.take (num b 2 2))
  else if f.ethertype == 0x86DD && byteAt b 0 / 16 == 6 && 40 + num b 4 2 ≤ b.length then some (true, b.take (40 + num b 4 2))
  else none

/-- The ESP trailer (R277): pad bytes 1, 2, 3, their number, and Next Header. -/
def espTrailer (len : Nat) (v6 : Bool) : Bytes :=
  let p := (4 - (len + 2) % 4) % 4
  (List.range p).map (fun i => BitVec.ofNat 8 (i + 1)) ++ toBE 1 p ++ [if v6 then 41 else 4]

/-- ESP associated data: SPI and the sequence number, 64 bits under ESN (RFC 4106, RFC 7634). -/
def espAad (a : Sa) (seq : Nat) : Bytes := toBE 4 a.spi ++ (if a.esn then toBE 8 seq else toBE 4 seq)

/-- An outbound packet is sent: NEXT, the counters and the identification advance, and the lifetimes are judged. -/
def State.sentBySa (s : State) (a : Sa) (octets : Nat) : State :=
  (s.modSa a.handle fun a => { a with next := a.next + 1, packets := a.packets + 1, octets := a.octets + octets,
                                      ipId := (a.ipId + 1) % 65536 }).judgeSa a.handle false

/-- An outbound ESP SA processes a frame (R277). -/
def State.espOut (s : State) (f : RxFrame) (a : Sa) : State :=
  match innerPacket f with
  | none => s.dropSaPacket f.port
  | some (v6, inner) =>
    let iv := toBE 8 a.next
    let pt := inner ++ espTrailer inner.length v6
    let ct := std (pt.length + 16) (.aeadSeal a.cipher) [a.keyMaterial, a.salt.take 4 ++ iv, espAad a a.next, pt, [16]]
    let esp := toBE 4 a.spi ++ toBE 4 a.next ++ iv ++ ct
    let out := a.tmpl.take 14 ++ outerHeader a esp.length ++ esp
    if out.length + 4 > s.setting 0x15 then s.dropSaPacket f.port
    else State.sentBySa { s with tx := s.tx ++ [.packet 1 none out] } a inner.length

/-- The MACsec nonce of an SA for a packet number. -/
def macsecIv (a : Sa) (pn : Nat) : Bytes :=
  if a.cipher == 3 then toBE 8 a.sci ++ toBE 4 pn else xorBytes a.salt (toBE 4 a.spi ++ toBE 8 pn)

/-- A transmit MACsec SA protects a frame (R279): the original addresses, an explicit SCI, the frame encrypted. -/
def State.macsecOut (s : State) (f : RxFrame) (a : Sa) : State :=
  let inner := frameTail f
  let sl := if inner.length < 48 then inner.length else 0
  let head := toBE 6 f.dst ++ toBE 6 f.src ++ [0x88, 0xE5] ++ toBE 1 (0x2C + a.an) ++ toBE 1 sl ++ toBE 4 a.next ++ toBE 8 a.sci
  let ct := std (inner.length + 16) (.aeadSeal 1) [a.keyMaterial, macsecIv a a.next, head, inner, [16]]
  State.sentBySa { s with tx := s.tx ++ [.packet 1 none (head ++ ct)] } a inner.length

/-- The SA a host-port frame goes to: the active one whose SEL its VID matches, else an expired one. -/
def State.saForVid (s : State) (f : RxFrame) : Option Sa :=
  let m := s.sas.filter fun a => a.kind % 2 == 1 && f.tci.any (fun t => t % 4096 == a.sel)
  (m.find? (fun a => a.state != 2)).or m.head?

/-- A Drill frame on the host port goes to Headland (R276). -/
def State.drillFrame (s : State) (f : RxFrame) : State :=
  if s.pkg.failover then s.bufferFrame f
  else
    match (Header.read f.body).type with
    | 0 => s.request f
    | 3 => s.segment f
    | 4 => s.mailbox f
    | _ => s.creditQuery f

/-- A host-port packet in Thresher (R276). -/
def State.hostPacket (s : State) (f : RxFrame) : State :=
  match s.saForVid f with
  | none => s.inlineMiss f
  | some a => s.withSa 0 a fun s => if a.kind == 1 then s.espOut f a else s.macsecOut f a

/-- The sequence number RFC 4303 recovers from the 32 bits on the wire, for an SA that has accepted numbers up to used. -/
def espSeq (a : Sa) (low : Nat) : Nat :=
  if !a.esn then low
  else
    let tl := a.used % 2 ^ 32
    let th := a.used / 2 ^ 32
    if tl + 1 ≥ a.window then (if low + a.window ≥ tl + 1 then th else th + 1) * 2 ^ 32 + low
    else (if low + a.window ≥ tl + 1 + 2 ^ 32 then th - 1 else th) * 2 ^ 32 + low

/-- A sequence number passes the replay check of an ESP SA. -/
def espFresh (a : Sa) (seq : Nat) : Bool :=
  a.first ≤ seq && seq ≤ a.limit && (seq ≥ a.next || (seq + a.window ≥ a.next && !a.seen.contains seq))

/-- Accept a number: the window moves, and the lifetimes are judged with the packet counted. -/
def State.acceptedBySa (s : State) (a : Sa) (seq octets : Nat) : State :=
  (s.modSa a.handle fun a =>
    let top := max a.next (seq + 1)
    { a with next := top, seen := seq :: a.seen.filter (fun x => x + a.window ≥ top), packets := a.packets + 1,
             octets := a.octets + octets }).judgeSa a.handle false

/-- An ESP packet in a line-port frame: SPI, outer destination, whether the outer header is IPv6, and the bytes from the SPI on. -/
def espIn (f : RxFrame) : Option (Nat × Nat × Bool × Bytes) :=
  match innerPacket f with
  | none => none
  | some (v6, b) =>
    let h := if v6 then 40 else 4 * (byteAt b 0 % 16)
    if byteAt b (if v6 then 6 else 9) != 50 || b.length < h + 8 then none
    else some (num b h 4, if v6 then num b 24 16 else num b 16 4, v6, b.drop h)

/-- Deliver a frame on the host port with the SA's SEL tag, PCP 0. -/
def State.deliver (s : State) (a : Sa) (bytes : Bytes) : State :=
  if (s.port 0).up then { s with tx := s.tx ++ [.packet 0 (some a.sel) bytes] } else s.dropSaPacket 0

/-- The inner packet of an ESP plaintext and its Next Header: the trailer's pad is taken off. -/
def espInner (pt : Bytes) : Bytes × Nat :=
  let n := pt.length
  (pt.take (n - 2 - byteAt pt (n - 2)), byteAt pt (n - 1))

/-- An inbound ESP SA checks and delivers a packet (R278). -/
def State.espAccept (s : State) (a : Sa) (esp : Bytes) : State :=
  let seq := espSeq a (num esp 4 4)
  let n := esp.length - 32
  let args := [a.keyMaterial, a.salt.take 4 ++ slice esp 8 8, espAad a seq, slice esp 16 n, esp.drop (16 + n)]
  if !espFresh a seq then s.modSa a.handle fun a => { a with replay := a.replay + 1 }
  else if esp.length < 34 || !Config.test (.aeadTag a.cipher) args then s.modSa a.handle fun a => { a with icvFail := a.icvFail + 1 }
  else
    let (inner, nh) := espInner (std n (.aeadOpen a.cipher) args)
    let s := s.acceptedBySa a seq inner.length
    if nh == 59 then s
    else if nh == 4 && byteAt inner 0 / 16 == 4 then s.deliver a (a.tmpl.take 12 ++ [0x08, 0x00] ++ inner)
    else if nh == 41 && byteAt inner 0 / 16 == 6 then s.deliver a (a.tmpl.take 12 ++ [0x86, 0xDD] ++ inner)
    else s.dropSaPacket 1

/-- The packet number of a frame under a receive MACsec SA: XPN recovers the upper half from the lowest acceptable one (log entry 96). -/
def Sa.pn (a : Sa) (t : SecTag) : Nat := if a.cipher == 4 then xpn (a.next - a.window) t.pn else t.pn

/-- A receive MACsec SA checks and delivers a frame (R279): with WINDOW 0 only rising numbers pass. -/
def State.macsecAccept (s : State) (a : Sa) (f : RxFrame) (t : SecTag) : State :=
  if a.pn t < a.first || a.pn t + a.window < a.next then s.modSa a.handle fun a => { a with replay := a.replay + 1 }
  else if !t.icvOk || !t.encrypted then s.modSa a.handle fun a => { a with icvFail := a.icvFail + 1 }
  else (s.acceptedBySa a (a.pn t) (frameTail f).length).deliver a (toBE 6 f.dst ++ toBE 6 f.src ++ frameTail f)

/-- The receive SA a line-port frame is for (R274, R276). -/
def State.lineSa (s : State) (f : RxFrame) : Option Sa :=
  match f.sec, espIn f with
  | some t, _ => s.sas.find? fun a => a.kind == 4 && a.sci == t.sci && a.an == t.an
  | none, some (spi, dst, v6, _) => s.sas.find? fun a => a.kind == 2 && a.spi == spi && a.outerV6 == v6 && a.outerDst == dst
  | none, none => none

/-- A line-port packet in Thresher (R276). -/
def State.linePacket (s : State) (f : RxFrame) : State :=
  match s.lineSa f with
  | none => s.inlineMiss f
  | some a => s.withSa 1 a fun s =>
    match f.sec, espIn f with
    | some t, _ => s.macsecAccept a f t
    | none, some (_, _, _, esp) => s.espAccept a esp
    | none, none => s

/-! ### The packet buffer (R281) -/

/-- The field in whose buffer a packet waits: its SA's home, else field 0. -/
def State.packetHome (s : State) (f : RxFrame) : Nat := ((if f.port == 0 then s.saForVid f else s.lineSa f).map (·.field)).getD 0

/-- A packet goes through Thresher. -/
def State.passPacket (s : State) (f : RxFrame) : State := if f.port == 0 then s.hostPacket f else s.linePacket f

/-- Thresher takes no packet while the power ceiling throttles the part (R545): it waits in the packet buffer. Past three quarters of INLINE's
part the arriving priority is paused, under PFC or 802.3x; a port with neither that nothing else pauses drops what does not fit and counts it
at step 1 (R89, R281). That the load exceeds Thresher's capacity just while the part is throttled is the model's choice (DESIGN CHOICE, log
entry 118). -/
def State.holdPacket (s : State) (f : RxFrame) : State :=
  let home := s.packetHome f
  let used := s.packetsOn home + f.len
  let x := s.port f.port
  if used > s.inlinePart && x.flow == .off && !s.pkg.pausing then s.drop f.port fun d => { d with mac := d.mac + 1 }
  else
    let s := s.modPkg fun p => { p with packets := p.packets ++ [{ field := home, frame := f }] }
    let k := if x.flow == .pfc then tciPrio f.tci else 0
    if x.flow != .off && used * 4 > s.inlinePart * 3 && !x.xoff.getD k false then
      { s.modPort f.port fun x => { x with xoff := x.xoff.set k true } with
          tx := s.tx ++ (x.pauses k).map fun q => Sent.pause f.port q true }
    else s

/-- A packet arrives at Thresher: the packets of an SA keep their order (R281). -/
def State.takePacket (s : State) (f : RxFrame) : State := if s.power.throttle then s.holdPacket f else s.passPacket f

/-- XON of a port for every priority stopped for the packet buffer. -/
def State.resumePort (s : State) (p : Nat) : State :=
  let stopped := ((List.range 8).filter fun k => (s.port p).xoff.getD k false).flatMap (s.port p).pauses
  { s.modPort p fun x => { x with xoff := List.replicate 8 false } with tx := s.tx ++ stopped.map fun k => Sent.pause p k false }

/-- Throttling has ended: the packets that waited go through Thresher in their order, and the ports resume. -/
def State.drainPackets (s : State) : State :=
  if s.pkg.packets.isEmpty then s
  else
    let s := s.pkg.packets.foldl (fun s k => s.passPacket k.frame) (s.modPkg fun p => { p with packets := [] })
    if s.pkg.failover then s else (s.resumePort 0).resumePort 1

/-- HOST_PORT_INLINE_FRAME (R276). -/
def execHostPortInlineFrame (f : RxFrame) (s : State) : Host.Outcome State Fault Refusal :=
  let f := { f with port := 0 }
  .next (if !s.mode .inline || !(s.port 0).up then s
    else if f.ethertype == s.settingF 0x01 then s.drillFrame f
    else if !f.fcsOk || f.len > 9216 then s.drop 0 fun d => { d with mac := d.mac + 1 }
    else s.takePacket f)

/-- LINE_PORT_FRAME (R276). -/
def execLinePortFrame (f : RxFrame) (s : State) : Host.Outcome State Fault Refusal :=
  let f := { f with port := 1 }
  .next (if !s.mode .inline || !(s.port 1).up then s
    else if !f.fcsOk || f.len > 9216 then s.drop 1 fun d => { d with mac := d.mac + 1 }
    else if f.sec.isNone && f.ethertype == s.settingF 0x01 then s.drop 1 fun d => { d with line := d.line + 1 }
    else s.takePacket f)

end Sys2Proof.Machine
end

