-- ==== Sys2Proof/Machine/Power.lean ====
section
/-! DEFINITION. The power ceiling: throttle, scaling, gating and their reversal (R56, R269, R270, R544 to R546). -/
namespace Sys2Proof.Machine

/-- The ceiling in force, in milliwatts (R544). -/
def State.ceiling (s : State) : Option Nat :=
  if s.pkg.brownLow then some (500 * s.setting 0x05) else if s.mode .capped then some (500 * s.setting 0x04) else none

/-- Step 2 of R545: the set points of the dispatchable fields at a quiescent point fall by 50 MHz, down to 0.6 GHz. -/
def State.scaleDown (s : State) : State :=
  let per := fun (x : FieldSt × Nat) =>
    if s.dispatchable x.2 && s.quiescent x.2 && x.1.setPoint > 600 then { x.1 with setPoint := max 600 (x.1.setPoint - 50) } else x.1
  { s with fields := s.fields.zipIdx.map per, power := { s.power with scaled := true } }

/-- A command runs on a field and has not completed. -/
def State.runsOn (s : State) (f : Nat) (c : Cmd) : Bool :=
  !c.isDone && (c.field == some f || c.field2 == some f) && f < s.n

/-- The field holds live service state (R389): an IKE SA not ESTABLISHED, or a SHEAF_SIGN it runs. -/
def State.liveService (s : State) (f : Nat) : Bool :=
  s.ikes.any (fun k => k.field == f && k.state != 5) || s.cmds.any (fun c => basicOp c.op == 0x0910 && s.runsOn f c)

/-- CAPPED may gate the field now (R55, R269, R270). -/
def State.gateable (s : State) (f : Nat) : Bool :=
  s.dispatchable f && f != 0 && !s.liveService f &&
    !s.cmds.any (fun c => c.aead && s.runsOn f c && !(s.n == 8 && c.stage == .receiving))

/-- The fields CAPPED gates next (R55, R56): descending; whole twin pairs under TWINNED, and field 1 alone at the end. Of a pair
with one field lost, locked or gated already, the other is gated alone (log entry 99). -/
def State.nextGate (s : State) : List Nat :=
  let down := s.fieldNums.reverse
  if s.mode .twinned then
    let live := fun (f : Nat) => [f, f + 1].filter s.dispatchable
    match down.find? (fun f => f % 2 == 0 && f != 0 && !(live f).isEmpty && (live f).all s.gateable) with
    | some f => live f
    | none =>
      if (down.any fun f => f > 1 && s.dispatchable f) then [] else if s.gateable 1 then [1] else []
  else ((down.find? s.gateable).map fun f => [f]).getD []

/-- What has arrived of a command's block. -/
def State.arrived (s : State) (c : Cmd) : Bytes :=
  ((s.xfers.find? fun (x : Xfer) => x.inst == c.inst && x.tag == c.tag).map fun (x : Xfer) => x.staged.drop 10).getD []

/-- The wrapped chaining state of an open AEAD command (R269): 96 bytes under the key "THRESHER MIG", 104 wrapped. -/
def State.migImage (s : State) (f : Nat) (c : Cmd) : Bytes :=
  let got := s.arrived c
  std 104 .aesKeyWrap [kdfCounter (s.kek f) (ascii "THRESHER MIG") [] 32, std 96 (.aeadState (byteAt got 6)) [(c.keys.map (·.body)).headD [], got]]

/-- An open AEAD command leaves a field (R269): its image goes to a page of the field that holds Headland, it is dispatched again under
*Dispatch order*, and its message goes on in pipelines of the new field, which loads the key and unwraps the image. It waits while Whisk does not
serve its wrap, in class 3 (R284). -/
def State.moveAead (s : State) (f : Nat) (c : Cmd) : State :=
  if !(s.whiskUp f && (s.field f).whiskTurn c.inst c.tag 3) then s else
  match s.place c.twinned { c.record with whole := false } with
  | .error _ => s
  | .ok p =>
    let img := s.migImage f c
    let s := s.turnStart
    let (ps, s) := s.allocPages s.pkg.headland 1 5 c.inst
    let s := s.modCmd c.inst c.tag fun e => { e with field := p.field, field2 := p.field2, twinLocal := p.twinLocal, image := img, pipes := [],
                                                     begun := false, whiskAt := 0,
                                                     imgPages := e.imgPages ++ ps.map fun q => (s.pkg.headland, q) }
    let s := match s.cmd? c.inst c.tag with
      | some e => s.placeMessage e (num (s.arrived c) 0 6)
      | none => s
    match s.pageWrite c.inst c.tag s.pkg.headland (ps.headD 0) 104 with
    | (true, s) => s
    | (false, s) => s.complete c.inst c.tag { status := .destPoisoned }

/-- On an IXN-8, open AEAD commands move to another field (R269). -/
def State.migrate (s : State) (f : Nat) : State :=
  (s.cmds.filter fun c => c.aead && c.stage == .receiving && c.field == some f).foldl (fun s c => s.moveAead f c) s

/-- Step 3 of R545: admission to the next fields stops; they are gated once their commands have finished (R45, R47). -/
def State.gateNext (s : State) : State :=
  let fs := s.nextGate
  let s := fs.foldl (fun s f => s.modField f fun x => { x with gating := true }) s
  fs.foldl State.migrate s

/-- Every dispatchable field is at 0.6 GHz. -/
def State.allScaled (s : State) : Bool := s.fieldNums.all fun f => !s.dispatchable f || (s.field f).setPoint ≤ 600

/-- POWER_WINDOW (R55, R544, R545). -/
def execPowerWindow (m : PowerReading) (s : State) : Host.Outcome State Fault Refusal :=
  let above := s.ceiling.any (fun c => m.average > c)
  let s := { s with power := { s.power with average := m.average, throttle := above } }
  let s := (if above then s else s.drainPackets).settlePause
  .next (if !above then s
    else if !s.allScaled then s.scaleDown
    else if s.mode .capped && !s.fields.any (·.gating) then s.gateNext
    else s)

/-- CAPPED_GATE_DRAINED (R45, R47): the last command of a field being gated has completed, what could not move before having
moved (R269), and it holds no live service state (R388); the field is in FALLOW. -/
def execCappedGateDrained (field : Nat) (s : State) : Host.Outcome State Fault Refusal :=
  .next (if !(s.field field).gating then s
    else
      let s := s.migrate field
      if s.cmds.any (s.runsOn field) || s.liveService field then s
      else s.modField field fun x => { x with gating := false, gated := true, run := .fallow })

/-- An estimate is at least 1 W below the ceiling in force (R545). -/
def State.underCeiling (s : State) (mw : Nat) : Bool := s.ceiling.all fun c => mw + 1000 ≤ c

/-- Ungate a field: it returns at the set point it had (R45, R545). -/
def State.ungate (s : State) (f : Nat) : State :=
  s.modField f fun x => { x with gated := false, run := if s.pkg.run == .fallow then .fallow else .operational }

/-- The highest 50 MHz point an estimate allows, above the lowest set point in force (R545). -/
def State.raiseTo (s : State) (es : List (Nat × Nat)) : Option Nat :=
  (es.filter fun e => e.1 % 50 == 0 && s.underCeiling e.2).foldl (fun b e => match b with
    | none => some e.1
    | some x => some (max x e.1)) none

/-- Raise the set points of the dispatchable fields at a quiescent point, up to what they were before scaling (R545). -/
def State.raisePoints (s : State) (p : Nat) : State :=
  let per := fun (x : FieldSt × Nat) =>
    if s.dispatchable x.2 && s.quiescent x.2 then { x.1 with setPoint := max x.1.setPoint (min p x.1.fullPoint) } else x.1
  let s := { s with fields := s.fields.zipIdx.map per }
  { s with power := { s.power with scaled := s.fields.any fun x => x.setPoint < x.fullPoint } }

/-- POWER_REVERSAL_STEP (R545): one step back, when the average and the estimate allow one. -/
def execPowerReversalStep (m : PowerReading) (s : State) : Host.Outcome State Fault Refusal :=
  .next (if !s.underCeiling m.average then s
    else
      match s.fieldNums.find? (fun f => (s.field f).gated), s.underCeiling m.ungateEstimate with
      | some f, true => s.ungate f
      | _, _ =>
        match s.raiseTo m.raiseEstimates with
        | some p => s.raisePoints p
        | none => s)

/-- BROWN_N_LOW (R546): recognised low after 200 ns; BROWN_CEIL is the ceiling in force. -/
def execBrownNLow (s : State) : Host.Outcome State Fault Refusal := .next (s.modPkg fun p => { p with brownLow := true })

/-- BROWN_N_HIGH (R546): high for 10 ms without a break. -/
def execBrownNHigh (s : State) : Host.Outcome State Fault Refusal := .next (s.modPkg fun p => { p with brownLow := false })

end Sys2Proof.Machine
end

