-- ==== Sys2Proof/Machine/SeedRows.lean ====
section
/-! DEFINITION. Seedbed, Steep and the leaf streams: the random commands and the events of the entropy source (R295 to R313). -/
namespace Sys2Proof.Machine

/-- Saturating 32-bit count. -/
def sat32 (v : Nat) : Nat := sat (2 ^ 32 - 1) v

/-- Saturating 64-bit count. -/
def sat64 (v : Nat) : Nat := sat (2 ^ 64 - 1) v

/-! ### The random commands -/

/-- PR of RANDOM_GENERATE. -/
def rgPr (c : Cmd) : Bool := c.expert && bit (c.p 4 1) 0

/-- RANDOM_GENERATE (R311). ADDIN enters the request and shows in nothing but its output, which is a free value. -/
def randomGenerateDesc : Desc where
  op := 0x0701
  pre _ c :=
    [(c.len < (if c.expert then 8 else 4) || c.len != (if c.expert then 8 + c.p 6 2 else 4), .badLength),
     (c.p 0 3 == 0 || c.p 0 3 > 65536 || c.p 3 1 != 0 || (c.expert && (c.p 4 1 ≥ 2 || c.p 5 1 != 0 || c.p 6 2 > 256)), .badParameter)]
  draw _ c := some (c.p 0 3)
  reseed _ c := rgPr c
  body s c := (s, ok c.drawn)

/-- RANDOM_GENERATE. -/
def execRandomGenerate (r : CmdRec) (s : State) : Host.Outcome State Fault Refusal := .next (runCommand randomGenerateDesc r s)

/-- *Source block* (R312). -/
def Source.block (x : Source) : Bytes :=
  toBE 8 (sat64 x.samples) ++ toBE 4 (sat32 x.rctFail) ++ toBE 4 (sat32 x.aptFail) ++ toBE 2 x.ones ++
    ((List.range 4).map fun k => toBEInt 2 (x.ac.getD k 0)).flatten ++ toBE 4 (sat32 x.drift) ++ [0, 0]

/-- FAILS: a latched or stopped Seedbed keeps the count it had (R308, R312). -/
def State.failsShown (s : State) (f : Nat) : Nat :=
  match (s.field f).seed.state with
  | .latched | .stopped => (s.field f).seed.fails.length
  | _ => (s.recentFails f).length

/-- *RNG_HEALTH results* (R312). -/
def State.rngHealth (s : State) (f : Nat) : Bytes :=
  let x := s.field f
  toBE 1 f ++ toBE 1 x.seed.state.code ++ toBE 1 x.seed.lim.cond ++ toBE 1 (sat 255 (s.failsShown f)) ++
    toBE 2 x.seed.reqs ++ [0, 0] ++ toBE 8 (sat64 x.seed.reseeds) ++ ((List.range 4).map fun a => toBE 8 (sat64 (x.leaf.getD a {}).reseeds)).flatten ++
    ((List.range 2).map fun k => (x.seed.sources.getD k {}).block).flatten

/-- RNG_HEALTH (R312). -/
def rngHealthDesc : Desc where
  op := 0x0702
  pre s c :=
    [(c.len != 4, .badLength), (c.p 0 1 ≥ s.n || c.p 1 3 != 0, .badParameter), ((s.field (c.p 0 1)).gone, .fieldUnavailable)]
  body s c := (s, ok (s.rngHealth (c.p 0 1)))

/-- RNG_HEALTH. -/
def execRngHealth (r : CmdRec) (s : State) : Host.Outcome State Fault Refusal := .next (runCommand rngHealthDesc r s)

/-- The fields RNG_CONFIG names: FIELD, or every field neither lost nor in LOCKDOWN (R313). -/
def State.rngNamed (s : State) (f : Nat) : List Nat := if f == 0xFF then s.fieldNums.filter fun g => !s.unavailable g else [f]

/-- Steep serves the requests that already wait on the named fields before RNG_CONFIG restarts it (R313). -/
def State.rngTurn (s : State) (c : Cmd) : Bool := basicOp c.op != 0x0710 || !(s.rngNamed (c.p 0 1)).any s.poolQueue

/-- The end of an RNG_CONFIG: when each of its fields has completed its start-up or can no longer, OK, or RNG_FAULT where one has latched, is
lost or has stopped (R313). -/
def State.rngDone (s : State) (c : Cmd) : Option Reply :=
  let fs := s.fieldNums.filter fun f => bit c.aux f
  if fs.any fun f => !s.unavailable f && ((s.field f).seed.state == .starting || (s.field f).seed.state == .restarting) then none
  else st (if fs.any (fun f => s.unavailable f || (s.field f).seed.state != .ready) then .rngFault else .ok)

/-- The RNG_CONFIG commands that have ended. -/
def State.finishRngConfig (s : State) : State :=
  (s.cmds.filter fun c => basicOp c.op == 0x0710 && c.stage == .running).foldl (fun s c =>
    match s.rngDone c with
    | none => s
    | some r => s.complete c.inst c.tag r) s

/-- RNG_CONFIG (R313): the named fields restart their start-up with the new values; the reply follows when each has completed or
latched (rngDone). -/
def rngConfigDesc : Desc where
  op := 0x0710
  turn s c := s.rngTurn c
  pre s c :=
    [(c.len != 12, .badLength),
     ((c.p 0 1 ≥ s.n && c.p 0 1 != 0xFF) || c.p 1 1 == 0 || c.p 1 1 > 2 || c.p 2 1 < 10 || c.p 2 1 > 100 || c.p 3 1 != 0 ||
       c.p 4 2 < 513 || c.p 4 2 > 1024 || c.p 6 2 > 2048 || c.p 8 2 > 4096 || c.p 10 2 != 0, .badParameter)]
  post s c := [((s.rngNamed (c.p 0 1)).any fun f => s.unavailable f || (s.field f).seed.state == .latched, .stateForbids)]
  body s c :=
    if c.aux != 0 then (s, s.rngDone c)
    else
      let lim : SeedLimits := { cond := c.p 1 1, rct := c.p 2 1, apt := c.p 4 2, bias := c.p 6 2, ac := c.p 8 2 }
      let s' := (s.rngNamed (c.p 0 1)).foldl (fun s f => s.modField f fun x =>
        { x with seed := { x.seed.restart s.clock.time lim with lim := lim, fixed := false, prior := some x.seed.lim } }) s
      (s'.modCmd c.inst c.tag fun e => { e with aux := ((s.rngNamed (c.p 0 1)).map fun f => 2 ^ f).sum + 2 ^ 16 }, none)

/-- RNG_CONFIG. -/
def execRngConfig (r : CmdRec) (s : State) : Host.Outcome State Fault Refusal := .next (runCommand rngConfigDesc r s)

/-! ### Events of the entropy source -/

/-- The field's Seedbed is powered and tests its sources. -/
def State.seedTests (s : State) (f : Nat) : Bool :=
  f < s.n && !(s.field f).lost && (s.field f).run != .lockdown && [SeedState.starting, .ready, .restarting].contains (s.field f).seed.state

/-- A start-up that is done has pooled what Steep is instantiated from: 576 bits of each source at least (R299; log entry 123). -/
def Source.filled (n : Source) : Source := { n with pooled := max 576 n.pooled }

/-- SEEDBED_STARTUP_DONE (R299, R305): Steep is instantiated from 1,152 pooled bits, the four generators are seeded, the field is ready,
suspended work goes on, and a DNONCE or an RNG_CONFIG that waited is served. -/
def execSeedbedStartupDone (field : Nat) (s : State) : Host.Outcome State Fault Refusal :=
  .next (if !s.seedTests field || (s.field field).seed.state == .ready then s
    else
      let s := s.modField field fun x =>
        let y := ({ x with seed := { x.seed with sources := x.seed.sources.map Source.filled } }).instantiate
        { y with seed := { y.seed with state := .ready, fixed := x.seed.fixed || x.seed.prior.isSome, prior := none,
                                       pids := toBE 8 s.fuses.deviceId ++ toBE 1 field ++ toBE 4 x.seed.starts } }
      let s := if field == s.pkg.headland && s.pkg.dnonceDue && s.pkg.run != .inert then s.newNonce else s
      s.finishRngConfig)

/-- Commands on a field that are held at step 13 or whose draw waits for Steep (R306). -/
def State.awaitSteep (s : State) (f : Nat) : List Cmd :=
  s.cmds.filter fun c => (c.fields s).contains f && !c.isDone && (c.queued != 0 || (match c.stage with | .waitRng _ => true | _ => false))

/-- The commands of acres whose generators have stopped are suspended on a field (R305, R482): furrow runs that wait for bits or, under
HARDENED, for their acre, commands and open routines. a is one acre, or none for all. -/
def State.suspendedOn (s : State) (f : Nat) (a : Option Nat) : List Cmd :=
  let down := fun k => !((s.field f).leaf.getD k {}).running && (a == none || a == some k)
  s.cmds.filter fun c => !c.isDone && (c.fields s).contains f &&
    (s.runs.any (fun r => r.inst == c.inst && r.tag == c.tag && r.field == f &&
        (r.acre.any fun k => down k && (c.mode .hardened || r.furrows.any fun u => ((s.field f).furrows.getD u {}).waitLeaf))) ||
      (c.stage == .waitLeaf && (List.range 4).any down) ||
      (c.aux != 0 && isCustomer c.op && s.threadSuspended ⟨f, c.aux - 1⟩ c))

/-- The third failure within 3,600 s latches the field's Seedbed failed: what its stopped leaf streams suspend ends (R308), and the values of an
RNG_CONFIG in progress do not apply (R313). -/
def State.latchSeed (s : State) (f : Nat) : State :=
  let s := s.modField f fun x =>
    { x with seed := { x.seed.stop with state := .latched, lim := x.seed.prior.getD x.seed.lim, prior := none } }
  let s := s.endAll (s.suspendedOn f none) .rngFault
  let s := s.raise 0 0x0202 (toBE 1 f)
  let s := if f == s.pkg.headland && s.pkg.dnonceDue then s.modPkg fun p => { p with dnonceDue := false } else s
  s.finishRngConfig

/-- HEALTH_FAILURE (R306, R308): Steep and the pool are zeroised, what waits for Steep ends with RNG_FAULT, RNG_FAILURE is raised and the
start-up begins again, or the Seedbed latches. -/
def execHealthFailure (field source : Nat) (apt : Bool) (s : State) : Host.Outcome State Fault Refusal :=
  .next (if !s.seedTests field || source ≥ 2 then s
    else
      let waiting := s.awaitSteep field
      let s := s.modField field fun x =>
        let count := fun (n : Source) => if apt then { n with aptFail := n.aptFail + 1 } else { n with rctFail := n.rctFail + 1 }
        { x with seed := { ({ x.seed with sources := x.seed.sources.modify source count }).restart s.clock.time s.seedLimits with fails := s.recentFails field ++ [s.clock.time] } }
      let s := s.log field 44 9 0xFF (toBE 1 source ++ toBE 1 (if apt then 2 else 1))
      let s := s.endAll waiting .rngFault
      let s := s.raise 0 0x0201 (toBE 1 field ++ toBE 1 source)
      if (s.recentFails field).length ≥ 3 then s.latchSeed field else s)

/-- SEEDBED_HEALTH_WINDOW (R297, R298): the estimates of a complete window of 4,096 bits; at most one RNG_DRIFT. -/
def execSeedbedHealthWindow (field source ones : Nat) (ac : List Int) (s : State) : Host.Outcome State Fault Refusal :=
  .next (if !s.seedTests field || source ≥ 2 || ones > 4096 then s
    else
      let lim := (s.field field).seed.lim
      let ac4 := (List.range 4).map fun k => ac.getD k 0
      let drift := (ones - 2048) + (2048 - ones) ≥ lim.bias || ac4.any (fun a => a.natAbs ≥ lim.ac)
      let s := s.modField field fun x =>
        { x with seed := { x.seed with sources := x.seed.sources.modify source fun n =>
            { n with samples := n.samples + (4096 - n.tests.seen), ones := ones, ac := ac4, drift := if drift then n.drift + 1 else n.drift,
                     tests := n.tests.nextWindow } } }
      if drift then s.raise 0 0x0203 (toBE 1 field ++ toBE 1 source ++ toBE 2 ones ++ (ac4.map (toBEInt 2)).flatten) else s)

/-- A generator's request is served: a running one has its next seed, a stopped one is reseeded (R302, R305). -/
def LeafGen.serve (g : LeafGen) : LeafGen := if g.running then { g with nextSeed := true, asked := 0 } else g.seed

/-- Furrows of an acre go on. -/
def FieldSt.resumeAcre (x : FieldSt) (a : Nat) : FieldSt :=
  { x with furrows := x.furrows.zipIdx.map fun (u, k) => if k / 4 == a then { u with waitLeaf := false } else u }

/-- The leaf stream's request with a place in the queue is served by one generate request (R301, R302). -/
def State.serveLeaf (s : State) (f place : Nat) : State :=
  match (List.range 4).find? fun a => ((s.field f).leaf.getD a {}).asked == place with
  | none => s
  | some a => (s.steep f 64).2.modField f fun x => ({ x with leaf := x.leaf.modify a LeafGen.serve }).resumeAcre a

/-- The request at the head of the queue goes on: a leaf stream has its seed, a command makes its draw (R301). -/
def State.servePool (s : State) (f : Nat) : State :=
  match (s.poolPlaces f).min? with
  | none => s
  | some p =>
    if (s.field f).leaf.any (·.asked == p) then s.serveLeaf f p
    else { s with cmds := s.cmds.map fun (c : Cmd) => if c.queued == p && c.stage == .waitPool then { c with stage := .dispatched } else c }

/-- STEEP_RESEED (R301, R302): after the 4,096th request, from 512 pooled bits of each source; the request at the head of the queue goes on,
one that asks for a reseed of its own (R311) among them, and a DNONCE where nothing waits before it. -/
def execSteepReseed (field : Nat) (s : State) : Host.Outcome State Fault Refusal :=
  .next (if (s.field field).seed.state != .ready || ((s.field field).seed.reqs < 4096 && !s.poolQueue field) ||
      !(s.field field).seed.holds 512 then s
    else
      let s := if (s.field field).seed.reqs < 4096 then s else s.modField field fun x => { x with seed := x.seed.reseed }
      let s := if field == s.pkg.headland && s.pkg.dnonceDue && !s.poolQueue field then s.newNonce else s
      s.servePool field)

/-- LEAF_SEED_REQUEST (R304): at 2^20 − 2^16 blocks a running generator asks Steep for its next 64 bytes; behind a reseed the request
waits (R302). -/
def execLeafSeedRequest (field acre : Nat) (s : State) : Host.Outcome State Fault Refusal :=
  .next (if (s.field field).seed.state != .ready || !((s.field field).leaf.getD acre {}).running then s
    else if s.steepStalls field false then
      let (p, s) := s.nextPlace
      s.modField field fun x => { x with leaf := x.leaf.modify acre fun g => { g with asked := if g.asked == 0 then p else g.asked } }
    else
      let (_, s) := s.steep field 64
      s.modField field fun x => { x with leaf := x.leaf.modify acre fun g => { g with nextSeed := true } })

/-- LEAF_SWITCH_POINT (R304, R305, R308): the generator takes its next seed, or stops; where the Seedbed has latched the commands it
suspends end with RNG_FAULT. -/
def execLeafSwitchPoint (field acre : Nat) (s : State) : Host.Outcome State Fault Refusal :=
  .next (let g := (s.field field).leaf.getD acre {}
    if !g.running then s
    else if g.nextSeed && (s.field field).seed.state != .latched then
      s.modField field fun x => { x with leaf := x.leaf.modify acre LeafGen.seed }
    else
      let s := s.modField field fun x => { x with leaf := x.leaf.modify acre fun g => { g with running := false, nextSeed := false } }
      if (s.field field).seed.state == .latched then
        s.endAll (s.suspendedOn field (some acre)) .rngFault
      else s)

end Sys2Proof.Machine
end

