-- ==== Sys2Proof/Machine/Time.lean ====
section
/-! DEFINITION. Package time: its discipline, holdover and the time commands (R513 to R515, R535). -/
namespace Sys2Proof.Machine

/-- Change the time base. -/
def State.modClock (s : State) (g : Clock → Clock) : State := { s with clock := g s.clock }

/-- Nanoseconds of a second. -/
def second : Nat := 1000000000

/-- The last measured offset as the events carry it (R516). -/
def State.offsetData (s : State) : Bytes := toBEInt 8 s.clock.offset

/-- Enter holdover, with TIME_UNLOCKED (R515). -/
def State.holdover (s : State) : State :=
  if s.clock.holdover then s
  else (s.modClock fun c => { c with holdover := true, locked := false }).raise 0 0x0106 s.offsetData

/-- Lock; TIME_LOCKED goes out when it is regained (R515). -/
def State.relock (s : State) : State :=
  let was := s.clock.holdover
  let s := s.modClock fun c => { c with holdover := false, locked := true }
  if was then s.raise 0 0x0107 s.offsetData else s

/-- Apply a correction: forward by more than 1 ms as a step, any other by slewing (R515). -/
def State.correct (s : State) (d : Int) : State :=
  s.modClock fun c =>
    if d > 1000000 then { c with time := c.time + d.toNat, offset := d, slew := 0 } else { c with offset := d, slew := d }

/-- PTP_SYNC_RX (R514, R515): a Sync exchange on the disciplining port gives the offset from the master. -/
def execPtpSyncRx (port : Nat) (offset : Int) (s : State) : Host.Outcome State Fault Refusal :=
  .next (if s.clock.source == 1 && s.clock.port == port && (s.port port).up then (s.correct offset).relock else s)

/-- PTP_SYNC_TIMEOUT (R515): no Sync for 10 s. -/
def execPtpSyncTimeout (s : State) : Host.Outcome State Fault Refusal :=
  .next (if s.clock.source == 1 then s.holdover else s)

/-- PPS_IN is assigned to a pin (R535). -/
def State.ppsIn (s : State) : Bool := (s.mfPin 1).isSome

/-- PPS_IN_EDGE (R514): the time base moves to the whole second the edge marks, counted from BASE. -/
def execPpsInEdge (s : State) : Host.Outcome State Fault Refusal :=
  .next (if s.clock.source == 2 && s.ppsIn then
      let d : Int := (s.clock.base : Int) - (s.clock.time : Int)
      ((s.modClock fun c => { c with base := c.base + second }).correct d).relock
    else s)

/-- PPS_IN_MISSED (R515): three successive edges have been missed; the count of seconds goes on. -/
def execPpsInMissed (s : State) : Host.Outcome State Fault Refusal :=
  .next (if s.clock.source == 2 then (s.modClock fun c => { c with base := c.base + 3 * second }).holdover else s)

/-- PPS_OUT_SECOND (R515, R536): the pin goes high for 1 µs at a whole second. -/
def execPpsOutSecond (s : State) : Host.Outcome State Fault Refusal :=
  .next (match s.mfPin 2 with
    | some k => { s with tx := s.tx ++ [.pulse k] }
    | none => s)

/-- TIME_GET (R519). -/
def timeGetDesc : Desc where
  op := 0x0D04
  pre _ c := [(c.len != 0, .badLength)]
  body s _ := (s, ok (toBE 8 s.clock.time ++ toBE 1 s.clock.source ++ toBE 1 s.clock.locked.toNat ++ [0, 0]))

/-- TIME_GET. -/
def execTimeGet (r : CmdRec) (s : State) : Host.Outcome State Fault Refusal := .next (runCommand timeGetDesc r s)

/-- TIME_CTL (R514, R519). -/
def timeCtlDesc : Desc where
  op := 0x0D05
  pre _ c := [(c.len != 12, .badLength), (c.p 0 1 > 2 || c.p 1 1 > 1 || c.p 2 2 != 0, .badParameter)]
  post s c :=
    [(c.runAt != .operational && c.runAt != .fallow, .stateForbids), (c.p 0 1 == 2 && !s.ppsIn, .stateForbids)]
  body s c :=
    let new : Clock :=
      { s.clock with source := c.p 0 1, port := c.p 1 1, base := if c.p 4 8 == 0 then s.clock.base else c.p 4 8, locked := false,
                     holdover := false, slew := 0 }
    ({ s with clock := new }, ok)

/-- TIME_CTL. -/
def execTimeCtl (r : CmdRec) (s : State) : Host.Outcome State Fault Refusal := .next (runCommand timeCtlDesc r s)

end Sys2Proof.Machine
end

