-- ==== Sys2Proof/Machine/Settings.lean ====
section
/-! DEFINITION. The settings commands (R457 to R460, R535). -/
namespace Sys2Proof.Machine

/-- The value a scope byte and an instance byte select. -/
def scopeOf (sc inst : Nat) : Option Nat := if sc == 0 then none else some inst

/-- A value lies in the range of its setting (R458, R528, R535). -/
def State.settingInRange (s : State) (id v : Nat) : Bool :=
  match id with
  | 0x01 => 0x0600 ≤ v && ! [0x8100, 0x88E5, 0x88F7].contains v
  | 0x02 => v < 64
  | 0x03 => v == 2 || v == 3
  | 0x04 => ceilMin s.n ≤ v && v ≤ ceilMax s.n
  | 0x05 => ceilMin s.n ≤ v && v ≤ ceilMax s.n && v ≤ s.setting 0x04
  | 0x06 => v ≤ 1
  | 0x07 => 1 ≤ v && v ≤ 1000
  | 0x08 => 1 ≤ v && v ≤ 1000
  | 0x09 => 1 ≤ v && v ≤ 2
  | 0x0A => 10 ≤ v && v ≤ 100
  | 0x0B => 513 ≤ v && v ≤ 1024
  | 0x0C => v ≤ 2048
  | 0x0D => v ≤ 4096
  | 0x0E => 1 ≤ v && v ≤ 4096
  | 0x0F => 24 ≤ v && v ≤ 36
  | 0x10 => (List.range 16).all fun k => let b := settingByte 16 v k; if 1 ≤ k && k ≤ 5 then 1 ≤ b && b ≤ 3 else b == 0
  | 0x11 => (List.range 16).all fun k => let b := settingByte 16 v k; if 1 ≤ k && k ≤ 5 then 1 ≤ b && b ≤ 2 else b == 0
  | 0x12 => v ≤ 4194304
  | 0x13 => ((List.range 8).map (settingByte 8 v)).sum == 64
  | 0x14 => v ≤ 1
  | 0x15 => 64 ≤ v && v ≤ 9216
  | 0x16 => 1 ≤ v && v ≤ 600
  | 0x17 => settingByte 14 v 0 < 4 && settingByte 14 v 1 == 0 && v / 2 ^ 64 % 2 ^ 32 ≤ 2 ^ 30
  | 0x18 => bits v 2 0 ≤ 4 && bits v 5 3 ≤ 3 && !(bits v 2 0 == 4 && bits v 5 3 != 0) && v % 64 != 0
  | 0x19 =>
    let fs := (List.range 4).map fun k => v / 256 ^ k % 256
    fs.all (· ≤ 4) && (fs.filter (· != 0)).Nodup
  | 0x40 => 64 ≤ v && v ≤ 9216
  | 0x41 => v ≤ 1
  | 0x42 => !bit v 12
  | _ => false

/-- The ID, SCOPE and INSTANCE bytes at an offset are wrong (R459): an unassigned ID, a scope the setting does not have, an
instance beside SCOPE 0. -/
def settingNameBad (c : Cmd) : Bool :=
  match settingInfo (c.p 0 2) with
  | none => true
  | some r => c.p 2 1 > 1 || (c.p 2 1 == 0 && (c.p 3 1 != 0 || !r.pkg)) || (c.p 2 1 == 1 && !r.inst)

/-- Length of the setting a command names; 0 for none. -/
def namedLen (c : Cmd) : Nat := ((settingInfo (c.p 0 2)).map (·.len)).getD 0

/-- The instance SCOPE 1 names does not exist. -/
def State.scopeGone (s : State) (sc inst : Nat) : Bool := sc == 1 && !s.hasInst inst

/-- A value in 16 bytes, zero-padded (R459). -/
def value16 (len v : Nat) : Bytes := fit 16 (toBE len v)

/-- The working value a command names. -/
def State.namedWorking (s : State) (c : Cmd) : Nat :=
  if c.p 2 1 == 0 then s.setting (c.p 0 2) else s.settingI (c.p 3 1) (c.p 0 2)

/-- SETTING_GET (R459). -/
def settingGetDesc : Desc where
  op := 0x0B01
  pre s c := [(c.len != 4, .badLength), (settingNameBad c, .badParameter), (s.scopeGone (c.p 2 1) (c.p 3 1), .noSuchInstance)]
  post _ c := [(c.notOperational, .stateForbids)]
  body s c :=
    let stored := s.gran.stored.get? (c.p 0 2) (scopeOf (c.p 2 1) (c.p 3 1))
    (s, ok (value16 (namedLen c) (stored.getD 0) ++ value16 (namedLen c) (s.namedWorking c)))

/-- SETTING_GET. -/
def execSettingGet (r : CmdRec) (s : State) : Host.Outcome State Fault Refusal := .next (runCommand settingGetDesc r s)

/-- The value SETTING_SET gives; LEN 0 stands for the factory default (R459). -/
def State.newValue (s : State) (c : Cmd) : Nat := if c.p 4 1 == 0 then settingDefault s.n (c.p 0 2) else c.p 5 (c.p 4 1)

/-- A byte of MF_FUNC changes from one function to another (R535). -/
def State.mfClash (s : State) (v : Nat) : Bool :=
  (List.range 4).any fun k =>
    let a := s.setting 0x19 / 256 ^ k % 256
    let b := v / 256 ^ k % 256
    a != 0 && b != 0 && a != b

/-- MF_FUNC assigns a function. -/
def mfHas (v f : Nat) : Bool := (List.range 4).any fun k => v / 256 ^ k % 256 == f

/-- The change assigns PPS_OUT while all four timer channels are owned (R535). -/
def State.mfNoTimer (s : State) (v : Nat) : Bool := mfHas v 2 && !mfHas (s.setting 0x19) 2 && s.pkg.timers.length ≥ 4

/-- What a new MF_FUNC does besides (R57, R515, R535): PPS_OUT claims or releases its timer channel, and a time base that loses
its PPS_IN goes into holdover. -/
def State.mfEffect (s : State) (old new : Nat) : State :=
  let s := if mfHas new 2 && !mfHas old 2 then s.modPkg fun p => { p with timers := p.timers ++ [.ppsOut] }
    else if !mfHas new 2 then s.modPkg fun p => { p with timers := p.timers.filter (· != .ppsOut) } else s
  if mfHas old 1 && !mfHas new 1 && s.clock.source == 2 then s.holdover else s

/-- An expert MODE_SET admitted later has already set this value, which is the one that stands (R53). -/
def State.setOver (s : State) (c : Cmd) : Bool :=
  [0x03, 0x04, 0x05].contains (c.p 0 2) && c.p 2 1 == 0 && c.number < s.pkg.modeSetAt

/-- SETTING_SET (R458, R459). LEN 0 makes the working value named, of the package or of an instance, the factory default. The value survives
an INSTANCE_RESET (R118). Frames that wait for a larger TX_FRAME_MAX leave where they now fit (log entry 90). -/
def settingSetDesc : Desc where
  op := 0x0B02
  pre s c :=
    [(c.len < 5 || c.len != 5 + c.p 4 1 || (namedLen c != 0 && c.p 4 1 != 0 && c.p 4 1 != namedLen c), .badLength),
     (settingNameBad c || (c.p 4 1 != 0 && !s.settingInRange (c.p 0 2) (s.newValue c)), .badParameter),
     (s.scopeGone (c.p 2 1) (c.p 3 1), .noSuchInstance)]
  post s c :=
    [(c.notOperational, .stateForbids),
     (c.p 0 2 == 0x19 && (s.mfClash (s.newValue c) || s.mfNoTimer (s.newValue c)), .pinClaimed)]
  body s c :=
    let sc := scopeOf (c.p 2 1) (c.p 3 1)
    let old := s.setting 0x19
    let s := if s.setOver c then s else { s with working := s.working.set (c.p 0 2) sc (s.newValue c) }
    let s := if c.p 0 2 == 0x19 then s.mfEffect old (s.newValue c) else if c.p 0 2 == 0x40 then s.flushTx else s
    (s.modCmd c.inst c.tag fun e => { e with durable := true }, ok (value16 (namedLen c) (s.namedWorking c)))

/-- SETTING_SET. -/
def execSettingSet (r : CmdRec) (s : State) : Host.Outcome State Fault Refusal := .next (runCommand settingSetDesc r s)

/-- A stored value as the comparison of R460 sees it: a package value, or an I-only one, counts as stored at its default. -/
def State.countsAs (s : State) (v : Values) (id : Nat) (sc : Option Nat) : Option Nat :=
  (v.get? id sc).or (if sc.isNone || (settingInfo id).any (fun r => !r.pkg) then some (settingDefault s.n id) else none)

/-- The values in the scope of STORE_SETTINGS: every setting and scope with a working or stored value. -/
def State.storeScope (s : State) (c : Cmd) : List (Nat × Option Nat) :=
  (((s.working ++ s.gran.stored).map fun e => (e.1, e.2.1)).eraseDups).filter fun e => c.p 0 1 == 0 || e.2 == some (c.p 1 1)

/-- The records STORE_SETTINGS writes: those whose working value differs from the stored one (R460). -/
def State.toStore (s : State) (c : Cmd) : List (Nat × Option Nat) :=
  (s.storeScope c).filter fun e => s.countsAs s.working e.1 e.2 != s.countsAs s.gran.stored e.1 e.2

/-- Write one record: the working value. -/
def State.storeOne (s : State) (e : Nat × Option Nat) : State :=
  s.modGran fun g => { g with stored := g.stored.set e.1 e.2 ((s.working.get? e.1 e.2).getD (settingDefault s.n e.1)) }

/-- STORE_SETTINGS (R459, R460). -/
def storeSettingsDesc : Desc where
  op := 0x0B03
  pre s c :=
    [(c.len != 4, .badLength), (c.p 0 1 > 1 || (c.p 0 1 == 0 && c.p 1 1 != 0) || c.p 2 2 != 0, .badParameter),
     (s.scopeGone (c.p 0 1) (c.p 1 1), .noSuchInstance)]
  post _ c := [(c.notOperational, .stateForbids)]
  granary s c := !(s.toStore c).isEmpty
  body s c :=
    let es := s.toStore c
    let s := es.foldl State.storeOne s
    let s := s.modGran fun g => { g with storeSeq := if es.isEmpty then g.storeSeq else g.storeSeq + 1 }
    (s.modCmd c.inst c.tag fun e => { e with durable := !es.isEmpty }, ok (toBE 2 es.length ++ [0, 0]))

/-- STORE_SETTINGS. -/
def execStoreSettings (r : CmdRec) (s : State) : Host.Outcome State Fault Refusal := .next (runCommand storeSettingsDesc r s)

end Sys2Proof.Machine
end

