-- ==== Sys2Proof/Machine/Sheaf.lean ====
section
/-! DEFINITION. Sheaf signing (R402 to R404) and attestation (R405, R465, R467). -/
namespace Sys2Proof.Machine

/-! ### The Merkle tree (R403) -/

/-- HASH is assigned. -/
def sheafHashOk (h : Nat) : Bool := h == 1 || h == 2 || h == 4

/-- A leaf. -/
def sheafLeaf (h i : Nat) (m : Bytes) : Bytes := phDigest h ([0x00] ++ toBE 4 i ++ m)

/-- The node over a pair. -/
def sheafNode (h : Nat) (a b : Bytes) : Bytes := phDigest h ([0x01] ++ a ++ b)

/-- The level above: pairs from the left, an unpaired last node unchanged. -/
def sheafUp (h : Nat) : List Bytes → List Bytes
  | a :: b :: r => sheafNode h a b :: sheafUp h r
  | r => r

/-- The levels of the tree from the leaves up; fuel bounds its height. -/
def sheafLevels (h : Nat) : Nat → List Bytes → List (List Bytes)
  | 0, l => [l]
  | k + 1, l => if l.length ≤ 1 then [l] else l :: sheafLevels h k (sheafUp h l)

/-- The siblings of a node, from its level up. -/
def sheafSiblings : List (List Bytes) → Nat → List Bytes
  | [], _ => []
  | l :: up, i =>
    (if l.length ≤ 1 then [] else if i % 2 == 1 then [l.getD (i - 1) []] else if i + 1 < l.length then [l.getD (i + 1) []] else []) ++
      sheafSiblings up (i / 2)

/-- The root a proof rebuilds, from a node at place i of a level of n nodes, and the siblings left over. -/
def sheafRebuild (h : Nat) : Nat → Bytes → Nat → Nat → List Bytes → Bytes × Bool
  | 0, x, _, n, sib => (x, n ≤ 1 && sib.isEmpty)
  | k + 1, x, i, n, sib =>
    if n ≤ 1 then (x, sib.isEmpty)
    else
      let up := fun (y : Bytes) (r : List Bytes) => sheafRebuild h k y (i / 2) ((n + 1) / 2) r
      if i % 2 == 1 then
        match sib with
        | [] => (x, false)
        | y :: r => up (sheafNode h y x) r
      else if i + 1 < n then
        match sib with
        | [] => (x, false)
        | y :: r => up (sheafNode h x y) r
      else up x sib

/-- Messages from their bytes: each a 3-byte length and the message; none unless exactly n use the bytes up. -/
def sheafMessages : Nat → Bytes → Option (List Bytes)
  | 0, b => if b.isEmpty then some [] else none
  | k + 1, b =>
    if b.length < 3 || b.length < 3 + num b 0 3 then none
    else (sheafMessages k (b.drop (3 + num b 0 3))).map fun r => slice b 3 (num b 0 3) :: r

/-- The header. -/
def sheafHeader (h sigType sigLen count : Nat) (id root : Bytes) : Bytes :=
  [0x53, 0x48, 0x46, 0x31] ++ toBE 1 h ++ toBE 1 sigType ++ toBE 2 sigLen ++ toBE 4 count ++ id ++ root

/-- A proof. -/
def sheafProof (i : Nat) (sib : List Bytes) : Bytes := toBE 4 i ++ toBE 1 sib.length ++ [0] ++ sib.flatten

/-- The context of the signature. -/
def sheafCtx : Bytes := ascii "IXN SHEAF"

/-! ### SHEAF_SIGN (R402) -/

/-- Signature length of an ML-DSA or SLH-DSA type. -/
def sheafSigLen (t : Nat) : Nat := if tClass t == 2 then dsaSig (tSet t) else slhSig (tSet t)

/-- The messages of SHEAF_SIGN. -/
def sheafMsgs (c : Cmd) : Option (List Bytes) :=
  sheafMessages (c.p 16 4) ((c.params.drop 20).take (c.len - 20 - if c.expert then 2 else 0))

/-- Signing draw: none with DET. -/
def sheafDraw (c : Cmd) : Nat :=
  let t := (c.key (c.p 0 6)).type
  if bit (c.p 7 1) 1 then 0 else if tClass t == 2 then 32 else slhN (tSet t)

/-- The pure signature of a header (R403). -/
def sheafSignature (t : Nat) (det : Bool) (sk m drawn : Bytes) : Bytes :=
  if tClass t == 2 then dsaPure (tSet t) sk sheafCtx m (if det then List.replicate 32 0 else drawn.take 32)
  else
    let n := slhN (tSet t)
    std (slhSig (tSet t)) (.slhSign (tSet t)) [sk, messageRep 0 0 sheafCtx m, if det then slice sk (2 * n) n else drawn.take n]

/-- SHEAF_SIGN (R402, R403). -/
def sheafSignDesc : Desc where
  op := 0x0910
  pre _ c :=
    let x := if c.expert then 2 else 0
    [(c.len < 20 + x || (c.p 16 4 ≤ 16384 && (sheafMsgs c).isNone), .badLength),
     (!sheafHashOk (c.p 6 1) || c.p 7 1 ≥ 4 || c.p 16 4 == 0 || c.p 16 4 > 16384 || (c.expert && (badMask (c.tail 2 0 1) || c.tail 2 1 1 != 0)),
      .badParameter)]
  keys _ c := [c.p 0 6]
  post _ c :=
    [(!c.mode .service, .stateForbids), (notDsaSk c (c.p 0 6) && notSlhSk c (c.p 0 6), .usageDenied),
     (c.expert && c.maskLow c.keys (c.tail 2 0 1), .usageDenied)]
  draw _ c := some (sheafDraw c)
  body s c :=
    let h := c.p 6 1
    let k := c.key (c.p 0 6)
    let ms := (sheafMsgs c).getD []
    let levels := sheafLevels h 15 (ms.zipIdx.map fun m => sheafLeaf h m.2 m.1)
    let root := ((levels.getLast?).bind List.head?).getD []
    let head := sheafHeader h (k.type + 0x80) (sheafSigLen k.type) ms.length (slice c.params 8 8) root
    let proofs := if bit (c.p 7 1) 0 then [] else (List.range ms.length).flatMap fun i => sheafProof i (sheafSiblings levels i)
    (s, ok (head ++ sheafSignature k.type (bit (c.p 7 1) 1) k.body head c.drawn ++ proofs))

/-- SHEAF_SIGN. -/
def execSheafSign (r : CmdRec) (s : State) : Host.Outcome State Fault Refusal := .next (runCommand sheafSignDesc r s)

/-! ### SHEAF_VERIFY (R404) -/

/-- The inline key's length: what SHLEN, PRLEN and MLEN leave. -/
def sheafInline (c : Cmd) : Nat := c.len - 16 - c.p 8 3 - c.p 11 2 - c.p 13 3

/-- The header and signature. -/
def sheafHead (c : Cmd) : Bytes := slice c.params (16 + sheafInline c) (c.p 8 3)

/-- The proof. -/
def sheafPr (c : Cmd) : Bytes := slice c.params (16 + sheafInline c + c.p 8 3) (c.p 11 2)

/-- SIGTYPE is an ML-DSA or SLH-DSA public type. -/
def sheafTypeOk (t : Nat) : Bool := tPublic t && (tClass t == 2 || tClass t == 3) && typeAssigned t

/-- A pure signature of a header verifies. -/
def sheafSigOk (t : Nat) (pk m sig : Bytes) : Bool :=
  if tClass t == 2 then dsaPureOk (tSet t) pk sheafCtx m sig
  else Config.test (.slh (tSet t)) [pk, messageRep 0 0 sheafCtx m, sig]

/-- SHEAF_VERIFY (R404): both halves run to completion. A length is checked where the codes that fix it are assigned (R555). -/
def sheafVerifyDesc : Desc where
  op := 0x0911
  pre _ c :=
    let hd := sheafHead c
    let h := byteAt hd 4
    let t := byteAt hd 5
    let hash := sheafHashOk h
    let type := sheafTypeOk t
    [(c.len < 16 + c.p 8 3 + c.p 11 2 + c.p 13 3 || c.p 8 3 < 20 || c.p 11 2 < 6 || (!c.inline 0 && sheafInline c != 0) ||
       (hash && type && c.p 8 3 != 20 + phLen h + sheafSigLen t) || (hash && c.p 11 2 != 6 + byteAt (sheafPr c) 4 * phLen h) ||
       (type && c.inline 0 && sheafInline c != publicLen t 0), .badLength),
     (!(hash && type) || c.p 6 2 != 0 || byteAt (sheafPr c) 5 != 0, .badParameter)]
  keys _ c := c.handlesAt [0]
  post _ c :=
    [(!c.mode .service, .stateForbids),
     (!c.inline 0 && c.notKey (c.p 0 6) (byteAt (sheafHead c) 5) aVerify, .usageDenied)]
  body s c :=
    let hd := sheafHead c
    let h := byteAt hd 4
    let t := byteAt hd 5
    let l := phLen h
    let pr := sheafPr c
    let msg := slice c.params (16 + sheafInline c + c.p 8 3 + c.p 11 2) (c.p 13 3)
    let pk := if c.inline 0 then slice c.params 16 (sheafInline c) else (c.key (c.p 0 6)).body
    let sigOk := hd.take 4 == [0x53, 0x48, 0x46, 0x31] && num hd 6 2 == sheafSigLen t && sheafSigOk t pk (hd.take (20 + l)) (hd.drop (20 + l))
    let sib := (List.range (byteAt pr 4)).map fun i => slice pr (6 + i * l) l
    let r := sheafRebuild h 33 (sheafLeaf h (num pr 0 4) msg) (num pr 0 4) (num hd 8 4) sib
    let rootOk := r.2 && r.1 == slice hd 20 l
    (s, verdict (sigOk && rootOk))

/-- SHEAF_VERIFY. -/
def execSheafVerify (r : CmdRec) (s : State) : Host.Outcome State Fault Refusal := .next (runCommand sheafVerifyDesc r s)

/-! ### Attestation (R405, R465, R467) -/

/-- The device identity private keys in Production: ML-DSA-87 and P-384 (R465). -/
def State.identityKeys (s : State) : Bytes × Bytes :=
  let ctx := toBE 1 s.lc.code ++ toBE 1 s.debugBit.toNat
  ((genPair 0x22 0 0 (kdfCounter s.fuses.packageRoot (ascii "IXN IDENTITY") ctx 32)).1,
   (genPair 0x71 0 0 (kdfCounter s.fuses.packageRoot (ascii "IXN IDENTITY EC") ctx 56)).1)

/-- The public half PUBDIGEST covers: the key itself, or its pair (R405). -/
def State.attestHalf (s : State) (k : Key) : Option Key :=
  if tPublic k.type then some k else if k.pair == 0 then none else s.keys.find? fun x => x.handle == k.pair

/-- Its body. -/
def State.attestPublic (s : State) (k : Key) : Option Bytes := (s.attestHalf k).map (·.body)

/-- *Attestation statement*. -/
def State.statement (s : State) (c : Cmd) (nonce : Bytes) (key : Option Key) (user : Bytes) : Bytes :=
  [0x49, 0x58, 0x4E, 0x41, 0x01] ++ toBE 1 s.n ++ toBE 1 s.fuses.stepping ++ toBE 1 s.lc.code ++ toBE 8 s.fuses.deviceId ++
    s.versionRecord.take 9 ++ toBE 1 s.pkg.unlocked.toNat ++ toBE 2 c.modes ++ toBE 1 (if c.mode .hardened then c.hardOrder else 1) ++
    toBE 1 c.inst ++ [0, 0] ++ toBE 8 s.clock.time ++ fit 32 nonce ++
    ((List.range 8).flatMap fun f => toBE 1 (if f < s.n then s.fieldCode f else 0xFE)) ++
    toBE 6 ((key.map (·.handle)).getD 0) ++
    ((key.map fun k => toBE 1 k.type ++ toBE 1 k.origin ++ toBE 3 k.attr ++ toBE 1 k.flagsByte).getD (List.replicate 6 0)) ++ [0, 0, 0, 0] ++
    (((key.bind s.attestPublic).map fun b => digestOf 0x12 32 b).getD (List.replicate 32 0)) ++ toBE 2 user.length ++ user

/-- The statement and its two signatures. -/
def State.attested (s : State) (c : Cmd) (m : Bytes) : Bytes :=
  let ks := s.identityKeys
  m ++ dsaPure 2 ks.1 (ascii "IXN ATTEST") m (c.drawn.take 32) ++
    ecdsaSignature 1 2 false ks.2 (phDigest 2 m) (c.drawn.drop 32)

/-- ATTEST (R405). -/
def attestDesc : Desc where
  op := 0x0920
  pre _ c :=
    let x := if c.expert then 2 else 0
    [(c.len < 40 + x || c.p 38 2 > 256 || c.len != 40 + c.p 38 2 + x, .badLength),
     (c.expert && (badMask (c.tail 2 0 1) || c.tail 2 1 1 != 0), .badParameter)]
  keys _ c := c.handlesAt [32]
  secrets _ _ := false
  reads s c := ((c.keys.head?).bind s.attestHalf).toList
  post s c := [(s.lc != .production, .stateForbids), (c.expert && c.maskLow c.keys (c.tail 2 0 1), .usageDenied)]
  draw _ _ := some 88
  reqs _ _ := 2
  body s c :=
    let key := if c.p 32 6 == 0 then none else some (c.key (c.p 32 6))
    (s, ok (s.attested c (s.statement c (c.params.take 32) key (slice c.params 40 (c.p 38 2)))))

/-- ATTEST. -/
def execAttest (r : CmdRec) (s : State) : Host.Outcome State Fault Refusal := .next (runCommand attestDesc r s)

/-- ATTEST_BOOT (R467). In BOOTSTRAP no leaf stream is asked of it: no acre runs yet. -/
def attestBootDesc : Desc where
  op := 0x0C02
  pre _ c := [(c.len != 32, .badLength)]
  post s c := [((c.runAt != .bootstrap && c.runAt != .operational) || s.lc != .production, .stateForbids)]
  draw _ _ := some 88
  reqs _ _ := 2
  body s c := (s, ok (s.attested c (s.statement c c.params none [])))

/-- ATTEST_BOOT. -/
def execAttestBoot (r : CmdRec) (s : State) : Host.Outcome State Fault Refusal := .next (runCommand attestBootDesc r s)

end Sys2Proof.Machine
end

