-- ==== Sys2Proof/Machine/Telemetry.lean ====
section
/-! DEFINITION. Glean: counters, the error log, alarm causes and periodic telemetry (R517 to R522). -/
namespace Sys2Proof.Machine

/-- A field number that names no field, or a lost field (R519). -/
def State.fieldLost (s : State) (f : Nat) : Bool := (s.field f).gone

/-- Usable capacity of a field in KiB (R435, R454, R520). -/
def FieldSt.capacityKiB (x : FieldSt) : Nat := 2 * (983040 - x.withdrawn.length)

/-- The 64-byte block of a field (R520). -/
def FieldSt.glean (x : FieldSt) : Bytes :=
  if x.gone then 0xFF :: List.replicate 63 0
  else
    toBE 1 x.run.code ++ toBE 1 x.seed.state.code ++ toBE 8 x.ops ++ toBE 8 x.padOverrun ++ toBE 8 x.saves ++ toBE 8 x.restores ++
      toBE 8 x.corrected ++ toBE 4 x.sweep ++ toBE 4 x.sweepAt ++ toBE 4 x.capacityKiB ++
      ((List.range 3).flatMap fun p => toBE 1 (x.links.getD p {}).state.code) ++ List.replicate 7 0

/-- GLEAN_READ results with FIELDS set (R520). -/
def State.gleanFields (s : State) : Bytes := s.fields.flatMap FieldSt.glean

/-- The 128 bytes of an instance (R520). -/
def Inst.glean (i : Inst) : Bytes :=
  toBE 6 i.stats.admitted ++ ((List.range 16).flatMap fun k => toBE 6 (i.stats.classes.getD k 0)) ++ toBE 6 i.stats.octIn ++
    toBE 6 i.stats.octOut ++ toBE 6 i.stats.discarded ++ toBE 6 i.evLost ++ [0, 0]

/-- GLEAN_READ (R520). -/
def gleanReadDesc : Desc where
  op := 0x0D01
  pre s c :=
    let fl := c.p 1 1
    [(c.len != 4, .badLength), (fl ≥ 4 || c.p 2 2 != 0 || (bit fl 1 && (c.p 0 1 != 0 || bit fl 0)), .badParameter),
     (!s.hasInst (c.p 0 1), .noSuchInstance)]
  body s c :=
    if bit (c.p 1 1) 1 then (s, ok s.gleanFields)
    else
      let out := (s.inst (c.p 0 1)).glean
      let s := if bit (c.p 1 1) 0 then s.modInst (c.p 0 1) fun i => { i with stats := {}, evLost := 0 } else s
      (s, ok out)

/-- GLEAN_READ. -/
def execGleanRead (r : CmdRec) (s : State) : Host.Outcome State Fault Refusal := .next (runCommand gleanReadDesc r s)

/-- A log entry as LOG_READ returns it (R518). -/
def LogEntry.bytes (e : LogEntry) : Bytes :=
  toBE 8 e.seq ++ toBE 8 e.time ++ toBE 2 e.island ++ toBE 1 e.kind ++ toBE 1 e.inst ++ fit 12 e.detail

/-- LOG_READ (R521). -/
def logReadDesc : Desc where
  op := 0x0D02
  pre s c :=
    [(c.len != 12, .badLength), (c.p 0 1 ≥ s.n || c.p 1 1 == 0 || c.p 2 2 != 0, .badParameter),
     (s.fieldLost (c.p 0 1), .fieldUnavailable)]
  body s c :=
    let f := c.p 0 1
    let from0 := c.p 4 8
    let l := (s.field f).log
    let es := (l.ring.filter fun e => e.seq ≥ from0).take (c.p 1 1)
    let gap := l.ring.head?.any fun e => from0 < e.seq
    let upTo := (es.getLast?.map fun e => e.seq + 1).getD l.read
    let s := s.modField f fun x => { x with log := { x.log with lost := 0, read := upTo } }
    (s, ok (toBE 4 l.lost ++ toBE 1 gap.toNat ++ toBE 1 es.length ++ [0, 0] ++ es.flatMap LogEntry.bytes))

/-- LOG_READ. -/
def execLogRead (r : CmdRec) (s : State) : Host.Outcome State Fault Refusal := .next (runCommand logReadDesc r s)

/-- ALARM_READ (R497, R519): a lost field's register reads as zero. -/
def alarmReadDesc : Desc where
  op := 0x0D03
  pre _ c := [(c.len != 0, .badLength)]
  body s _ := (s, ok (s.fields.flatMap fun x => toBE 4 (if x.gone then 0 else x.alarm.toNat)))

/-- ALARM_READ. -/
def execAlarmRead (r : CmdRec) (s : State) : Host.Outcome State Fault Refusal := .next (runCommand alarmReadDesc r s)

/-- GLEAN_CTL needs a timer channel and none is free (R57, R522). -/
def State.noChannel (s : State) (period : Nat) : Bool :=
  period != 0 && !s.pkg.timers.contains .telemetry && s.pkg.timers.length ≥ 4

/-- GLEAN_CTL (R522). -/
def gleanCtlDesc : Desc where
  op := 0x0D06
  pre _ c := [(c.len != 4, .badLength), (c.p 0 4 != 0 && (c.p 0 4 < 10 || c.p 0 4 > 60000), .badParameter)]
  post s c := [(c.notOperational, .stateForbids), (s.noChannel (c.p 0 4), .pinClaimed)]
  body s c :=
    let rest := s.pkg.timers.filter (· != .telemetry)
    (s.modPkg fun p => { p with telemetry := c.p 0 4, timers := if c.p 0 4 == 0 then rest else rest ++ [.telemetry] }, ok)

/-- GLEAN_CTL. -/
def execGleanCtl (r : CmdRec) (s : State) : Host.Outcome State Fault Refusal := .next (runCommand gleanCtlDesc r s)

/-- TELEMETRY_PERIOD (R522). -/
def execTelemetryPeriod (s : State) : Host.Outcome State Fault Refusal :=
  .next (if s.pkg.telemetry != 0 then s.raise 0 0x0601 s.gleanFields else s)

end Sys2Proof.Machine
end

