-- ==== Sys2Proof/Machine/Ike.lean ====
section
/-! DEFINITION. IKEv2 as the tunnel-keying service speaks it (R389, R391, R397): messages and payloads, proposals, the AUTH payload.
The layouts and numbers are those of RFC 7296, RFC 7427, RFC 9242 and RFC 9370 (log entry 26); the keys SK_*, KEYMAT and the signed
octets are opaque functions of what the exchange has drawn, sent and received (log entry 11). -/
namespace Sys2Proof.Machine

/-! ### The TK_OPEN block (R394) -/

/-- The IKE SA is an initiator's. -/
def Ike.initiator (k : Ike) : Bool := byteAt k.params 0 == 0

/-- The ADDKE methods that are not none. -/
def addkeOf (p : Bytes) : List Nat := [byteAt p 3 % 16, byteAt p 3 / 16].filter (· != 0)

/-- Key exchange method of KE: Curve25519 or the 384-bit ECP group. -/
def keGroup (ke : Nat) : Nat := if ke == 1 then 31 else 20

/-- Curve of KE. -/
def keCurve (ke : Nat) : Nat := if ke == 1 then 3 else 1

/-- e of *Service randomness* (R407). -/
def keDraw (ke : Nat) : Nat := if ke == 1 then 32 else 56

/-- Transform ID of an encryption: 20 or 28. -/
def encId (e : Nat) : Nat := if e == 1 then 20 else 28

/-- The policy's transforms of the IKE SA: type and ID. -/
def ikePolicy (p : Bytes) : List (Nat × Nat) :=
  [(1, encId (byteAt p 4)), (2, if byteAt p 5 == 1 then 5 else 6), (4, keGroup (byteAt p 2))] ++
    (addkeOf p).zipIdx.map fun a => (6 + a.2, 34 + a.1)

/-- The policy's transforms of a child: CHILDENC, ESN, and with PFS the IKE SA's own method. -/
def childPolicy (p : Bytes) (pfs : Bool) : List (Nat × Nat) :=
  [(1, encId (byteAt p 6)), (5, (bit (byteAt p 1) 1).toNat)] ++ if pfs then [(4, keGroup (byteAt p 2))] else []

/-! ### Payloads -/

/-- A chain of payloads from its bytes: type and whole payload. None for a malformed one. -/
def readPayloads : Nat → Nat → Bytes → Option (List (Nat × Bytes))
  | 0, _, _ => none
  | k + 1, next, b =>
    if next == 0 then (if b.isEmpty then some [] else none)
    else
      let l := num b 2 2
      if l < 4 || l > b.length then none
      else (readPayloads k (byteAt b 0) (b.drop l)).map fun r => (next, b.take l) :: r

/-- A payload's body. -/
def payloadBody (p : Nat × Bytes) : Bytes := p.2.drop 4

/-- Body of the first payload of a type. -/
def payloadOf (ps : List (Nat × Bytes)) (t : Nat) : Option Bytes := (ps.find? (·.1 == t)).map payloadBody

/-- An unknown payload is marked critical: the notify UNSUPPORTED_CRITICAL_PAYLOAD and the payload's type (RFC 7296, 2.5). -/
def criticalUnknown (ps : List (Nat × Bytes)) : Option (Nat × Bytes) :=
  (ps.find? fun p => !(33 ≤ p.1 && p.1 ≤ 48) && bit (byteAt p.2 1) 7).map fun p => (1, toBE 1 p.1)

/-- Types of the notifies of a message. -/
def notifies (ps : List (Nat × Bytes)) : List Nat := (ps.filter (·.1 == 41)).map fun p => num p.2 6 2

/-- The first error notify of a message. -/
def errorNotify (ps : List (Nat × Bytes)) : Option Nat := (notifies ps).find? (· < 16384)

/-- Data of the first notify of a type. -/
def notifyData (ps : List (Nat × Bytes)) (t : Nat) : Bytes :=
  ((ps.find? fun p => p.1 == 41 && num p.2 6 2 == t).map fun p => p.2.drop (8 + byteAt p.2 5)).getD []

/-- INFO (R396): the IDi or IDr, CERT, CERTREQ, SA and TS payloads of a message, unchanged. -/
def infoOf (ps : List (Nat × Bytes)) : Bytes := (ps.filter fun p => [33, 35, 36, 37, 38, 44, 45].contains p.1).flatMap (·.2)

/-- Whole payloads one after another, split by their lengths: CERT, or TSi and TSr. -/
def splitBodies : Nat → Bytes → List Bytes
  | 0, _ => []
  | k + 1, b => if b.length < 4 || num b 2 2 < 4 then [] else slice b 4 (num b 2 2 - 4) :: splitBodies k (b.drop (num b 2 2))

/-- A chain of payloads with generic headers. -/
def buildPayloads : List (Nat × Bytes) → Bytes
  | [] => []
  | [(_, b)] => [0, 0] ++ toBE 2 (4 + b.length) ++ b
  | (_, b) :: (t, c) :: r => toBE 1 t ++ [0] ++ toBE 2 (4 + b.length) ++ b ++ buildPayloads ((t, c) :: r)

/-- A notify payload. -/
def notifyPayload (t : Nat) (data : Bytes := []) : Nat × Bytes := (41, [0, 0] ++ toBE 2 t ++ data)

/-- CERT payloads of the TK_OPEN block. -/
def certPayloads (p : Bytes) : List (Nat × Bytes) := (splitBodies (openPart p 1).length (openPart p 1)).map fun b => (37, b)

/-- TSi and TSr from whole payloads. -/
def tsPayloads (b : Bytes) : List (Nat × Bytes) := ((splitBodies b.length b).take 2).zipIdx.map fun x => (44 + x.2, x.1)

/-- TSi and TSr with their roles exchanged: for an exchange that the responder of the IKE SA begins (RFC 7296, 2.9). -/
def tsSwapped (b : Bytes) : List (Nat × Bytes) := (((splitBodies b.length b).take 2).reverse).zipIdx.map fun x => (44 + x.2, x.1)

/-! ### Proposals -/

/-- A transform: AES-GCM has its key length as an attribute. -/
def transform (last : Bool) (t : Nat × Nat) : Bytes :=
  let attr : Bytes := if t == (1, 20) then [0x80, 0x0E, 0x01, 0x00] else []
  [if last then 0 else 3, 0] ++ toBE 2 (8 + attr.length) ++ toBE 1 t.1 ++ [0] ++ toBE 2 t.2 ++ attr

/-- Transforms one after another. -/
def transforms : List (Nat × Nat) → Bytes
  | [] => []
  | [t] => transform true t
  | t :: r => transform false t ++ transforms r

/-- Body of an SA payload with one proposal. -/
def saBody (number proto : Nat) (spi : Bytes) (ts : List (Nat × Nat)) : Bytes :=
  [0, 0] ++ toBE 2 (8 + spi.length + (transforms ts).length) ++ toBE 1 number ++ toBE 1 proto ++ toBE 1 spi.length ++ toBE 1 ts.length ++
    spi ++ transforms ts

/-- A proposal as read. -/
structure Proposal where
  number : Nat
  proto : Nat
  spi : Bytes
  ts : List (Nat × Nat × Nat)   -- type, ID, key length
deriving DecidableEq, Repr, Inhabited

/-- Read transforms. -/
def readTransforms : Nat → Bytes → List (Nat × Nat × Nat)
  | 0, _ => []
  | k + 1, b =>
    let l := num b 2 2
    if l < 8 || l > b.length then []
    else (byteAt b 4, num b 6 2, if l ≥ 12 && num b 8 2 == 0x800E then num b 10 2 else 0) :: readTransforms k (b.drop l)

/-- Read the proposals of an SA payload's body. -/
def readProposals : Nat → Bytes → List Proposal
  | 0, _ => []
  | k + 1, b =>
    let l := num b 2 2
    if l < 8 || l > b.length then []
    else
      let n := byteAt b 6
      { number := byteAt b 4, proto := byteAt b 5, spi := slice b 8 n, ts := readTransforms (byteAt b 7) (slice b (8 + n) (l - 8 - n)) } ::
        readProposals k (b.drop l)

/-- Transforms fill their bytes exactly: n of them, each longer than its header, all but the last marked as followed by another. -/
def transformsOk : Nat → Bytes → Bool
  | 0, b => b.isEmpty
  | n + 1, b =>
    let l := num b 2 2
    8 ≤ l && l ≤ b.length && byteAt b 0 == (if n == 0 then 0 else 3) && transformsOk n (b.drop l)

/-- Proposals fill their bytes exactly, each with its SPI and its transforms, all but the last marked as followed by another. -/
def proposalsOk : Nat → Bytes → Bool
  | 0, _ => false
  | k + 1, b =>
    let l := num b 2 2
    let n := byteAt b 6
    8 + n ≤ l && l ≤ b.length && transformsOk (byteAt b 7) (slice b (8 + n) (l - 8 - n)) &&
      if l == b.length then byteAt b 0 == 0 else byteAt b 0 == 2 && proposalsOk k (b.drop l)

/-- n traffic selectors fill their bytes exactly: IPv4 ranges of 16 bytes, IPv6 ranges of 40. -/
def selectorsOk : Nat → Bytes → Bool
  | 0, b => b.isEmpty
  | n + 1, b =>
    let l := num b 2 2
    8 ≤ l && l ≤ b.length && (byteAt b 0 != 7 || l == 16) && (byteAt b 0 != 8 || l == 40) && selectorsOk n (b.drop l)

/-- A payload's body is well formed (RFC 7296, section 3): the lengths and counts it holds fit it (R397; log entry 130). -/
def payloadOk (p : Nat × Bytes) : Bool :=
  let b := payloadBody p
  match p.1 with
  | 33 => proposalsOk (b.length + 1) b
  | 34 => b.length ≥ 4
  | 35 => b.length ≥ 4
  | 36 => b.length ≥ 4
  | 37 => b.length ≥ 1
  | 38 => b.length ≥ 1
  | 39 => b.length ≥ 4
  | 41 => b.length ≥ 4 + byteAt b 1
  | 42 => b.length ≥ 4 && b.length == 4 + byteAt b 1 * num b 2 2
  | 44 => b.length ≥ 4 && selectorsOk (byteAt b 0) (b.drop 4)
  | 45 => b.length ≥ 4 && selectorsOk (byteAt b 0) (b.drop 4)
  | _ => true

/-- A proposal offers every transform of a policy, and asks for no type beyond it that it does not also leave out. -/
def Proposal.suits (policy : List (Nat × Nat)) (p : Proposal) : Bool :=
  policy.all (fun w => p.ts.any fun t => t.1 == w.1 && t.2.1 == w.2 && (w.2 != 20 || w.1 != 1 || t.2.2 == 256)) &&
    p.ts.all fun t => policy.any (·.1 == t.1) || p.ts.any fun u => u.1 == t.1 && u.2.1 == 0

/-- The proposal chosen from an SA payload's body: the first of a protocol that suits, or the one with a number. -/
def chooseProposal (proto : Nat) (policy : List (Nat × Nat)) (number : Nat) (body : Bytes) : Option Proposal :=
  (readProposals body.length body).find? fun p => p.proto == proto && p.suits policy && (number == 0 || p.number == number)

/-! ### Messages -/

/-- The header of a message. -/
def ikeHeader (spiI spiR : Bytes) (first exch flags id len : Nat) : Bytes :=
  spiI ++ spiR ++ toBE 1 first ++ [0x20] ++ toBE 1 exch ++ toBE 1 flags ++ toBE 4 id ++ toBE 4 len

/-- FLAGS of a message the part sends. -/
def Ike.ownFlags (k : Ike) (response : Bool) : Nat := (if k.initiator then 8 else 0) + if response then 0x20 else 0

/-- Type of the first payload. -/
def firstType (ps : List (Nat × Bytes)) : Nat := ((ps.head?).map (·.1)).getD 0

/-- A message in the clear. -/
def Ike.clear (k : Ike) (exch : Nat) (response : Bool) (id : Nat) (ps : List (Nat × Bytes)) : Bytes :=
  let b := buildPayloads ps
  ikeHeader k.spiI k.spiR (firstType ps) exch (k.ownFlags response) id (28 + b.length) ++ b

/-- An SK-protected message (R397): the IV is the count of those the part has sent on the IKE SA. -/
def Ike.protect (k : Ike) (exch : Nat) (response : Bool) (id : Nat) (ps : List (Nat × Bytes)) : Bytes :=
  let inner := buildPayloads ps
  let n := 4 + 8 + inner.length + 1 + 16
  let head := ikeHeader k.spiI k.spiR 46 exch (k.ownFlags response) id (28 + n) ++ toBE 1 (firstType ps) ++ [0] ++ toBE 2 n
  let iv := toBE 8 (k.ivs + 1)
  head ++ iv ++ std (inner.length + 17) .ikeSeal (k.image ++ [head, iv, inner ++ [0]])

/-- The header of a received message is well formed and its SPIs are the IKE SA's. An initiator without a responder SPI takes any. -/
def Ike.headerOk (k : Ike) (m : Bytes) : Bool :=
  m.length ≥ 28 && num m 24 4 == m.length && byteAt m 17 / 16 == 2 && slice m 0 8 == k.spiI &&
    (slice m 8 8 == k.spiR || (k.initiator && k.state == 1) || (!k.initiator && byteAt m 18 == 34 && allZero (slice m 8 8))) && bit (byteAt m 19) 3 != k.initiator

/-- Exchange type, response bit and message ID of a message. -/
def mExch (m : Bytes) : Nat := byteAt m 18

/-- The message is a response. -/
def mResponse (m : Bytes) : Bool := bit (byteAt m 19) 5

/-- Message ID. -/
def mId (m : Bytes) : Nat := num m 20 4

/-- The SK payload's integrity holds; IKE_SA_INIT has none. -/
def Ike.integrityOk (k : Ike) (m : Bytes) : Bool :=
  mExch m == 34 || (byteAt m 16 == 46 && m.length ≥ 57 && num m 30 2 + 28 == m.length && Config.test .ikeIntegrity (k.image ++ [m]))

/-- The payloads of a message, decrypted where it is protected: none where they are malformed. -/
def Ike.open (k : Ike) (m : Bytes) : Option (List (Nat × Bytes)) :=
  if mExch m == 34 then readPayloads (m.length + 1) (byteAt m 16) (m.drop 28)
  else
    let x := std (m.length - 56) .ikeOpen (k.image ++ [m])
    let pad := (x.getLastD 0).toNat + 1
    if pad > x.length then none else readPayloads (x.length + 1) (byteAt m 28) (x.take (x.length - pad))

/-! ### Key exchange values -/

/-- The part's KE payload: method, and the public value of an ephemeral. -/
def kePayload (ke : Nat) (eph : Bytes) : Nat × Bytes :=
  let pub := ecPublicOf (keCurve ke) (ecScalar (keCurve ke) eph)
  (34, toBE 2 (keGroup ke) ++ [0, 0] ++ if ke == 1 then pub else pub.drop 1)

/-- A peer's public value passes R168. -/
def keValueOk (ke : Nat) (v : Bytes) : Bool :=
  if ke == 1 then v.length == 32 && ecPointOk 3 v else v.length == 96 && ecPointOk 1 ([0x04] ++ v)

/-- What is wrong with the KE payload of a message: 17 for the method, 7 for the value. -/
def keFault (ke : Nat) (body : Bytes) : Option Nat :=
  if num body 0 2 != keGroup ke then some 17 else if !keValueOk ke (body.drop 4) then some 7 else none

/-- What is wrong with the KE payload of an IKE_INTERMEDIATE message: ek from an initiator, ciphertext from a responder. -/
def addFault (add : Nat) (request : Bool) (body : Bytes) : Option Nat :=
  if num body 0 2 != 34 + add then some 17
  else
    let v := body.drop 4
    if request then (if v.length == kemEk (add - 1) && encodingOk (0x90 + (add - 1)) 0 v then none else some 7)
    else if v.length == kemCt (add - 1) then none else some 7

/-! ### AUTH (R389, R399) -/

/-- AlgorithmIdentifier of an authentication type, public bit aside. -/
def authAlg (t : Nat) : Bytes :=
  match t with
  | 0x20 => [0x30, 0x0B, 0x06, 0x09, 0x60, 0x86, 0x48, 0x01, 0x65, 0x03, 0x04, 0x03, 0x11]
  | 0x21 => [0x30, 0x0B, 0x06, 0x09, 0x60, 0x86, 0x48, 0x01, 0x65, 0x03, 0x04, 0x03, 0x12]
  | 0x22 => [0x30, 0x0B, 0x06, 0x09, 0x60, 0x86, 0x48, 0x01, 0x65, 0x03, 0x04, 0x03, 0x13]
  | 0x70 => [0x30, 0x0A, 0x06, 0x08, 0x2A, 0x86, 0x48, 0xCE, 0x3D, 0x04, 0x03, 0x02]
  | 0x71 => [0x30, 0x0A, 0x06, 0x08, 0x2A, 0x86, 0x48, 0xCE, 0x3D, 0x04, 0x03, 0x03]
  | _ => [0x30, 0x05, 0x06, 0x03, 0x2B, 0x65, 0x70]

/-- The authentication types (R389): private type codes. -/
def authTypes : List Nat := [0x20, 0x21, 0x22, 0x70, 0x71, 0x75]

/-- The draws of a command that makes several are one generate request each (R301; log entry 106). -/
def requests (draws : List Nat) : Nat := draws.countP (· != 0)

/-- s of *Service randomness*: the signing draw of a key's chapter. -/
def authDraw (t : Nat) : Nat := if t == 0x70 then 40 else if t == 0x71 then 56 else if t == 0x75 then 0 else 32

/-- ECDSA-Sig-Value of r ‖ s. -/
def derSig (b : Bytes) : Bytes :=
  derElement 0x30 (derInt (beNat (b.take (b.length / 2))) ++ derInt (beNat (b.drop (b.length / 2))))

/-- r ‖ s of an ECDSA-Sig-Value, each of l bytes. -/
def derSigRead (l : Nat) (b : Bytes) : Option Bytes :=
  let n := byteAt b 3
  let r := slice b 4 n
  let m := byteAt b (5 + n)
  let s := slice b (6 + n) m
  let fitTo := fun (v : Bytes) => toBE l (beNat v)
  let x := fitTo r ++ fitTo s
  if beNat r < 256 ^ l && beNat s < 256 ^ l && derSig x == b then some x else none

/-- A signature of the octets AUTH covers. -/
def authSignature (t : Nat) (sk octets rnd : Bytes) : Bytes :=
  match t with
  | 0x70 => derSig (ecdsaSignature 0 1 false sk (phDigest 1 octets) rnd)
  | 0x71 => derSig (ecdsaSignature 1 2 false sk (phDigest 2 octets) rnd)
  | 0x75 => std 64 (.eddsaSign 0) [sk, [], octets]
  | _ => dsaPure (tSet t) sk [] octets rnd

/-- A peer's signature verifies under a public key of a type. -/
def authVerifies (t : Nat) (pk octets sig : Bytes) : Bool :=
  match t with
  | 0x70 => (derSigRead 32 sig).any fun x => ecdsaVerifies 0 pk (phDigest 1 octets) x
  | 0x71 => (derSigRead 48 sig).any fun x => ecdsaVerifies 1 pk (phDigest 2 octets) x
  | 0x75 => sig.length == 64 && leNat (sig.drop 32) < 2 ^ 252 + 27742317777372353535851937790883648493 &&
      Config.test (.eddsa 0) [pk, [], octets, sig]
  | _ => sig.length == dsaSig (tSet t) && dsaPureOk (tSet t) pk [] octets sig

/-- The octets an AUTH payload signs (RFC 7296, extended by RFC 9242): the part's own or the peer's, with the body of the ID payload. -/
def Ike.octets (k : Ike) (own : Bool) (id : Bytes) : Bytes := Config.std (.ikeOctets own) (k.image ++ [id])

/-- The part's AUTH payload. -/
def Ike.authPayload (k : Ike) (t : Nat) (sk rnd : Bytes) : Nat × Bytes :=
  (39, [14, 0, 0, 0] ++ toBE 1 (authAlg t).length ++ authAlg t ++ authSignature t sk (k.octets true (openPart k.params 0)) rnd)

/-- The AUTH payload of the peer's message is of method 14, names the algorithm the key fixes, and verifies (R397, R399). -/
def Ike.peerAuthOk (k : Ike) (t : Nat) (pk : Bytes) : Bool :=
  let body := (payloadOf k.peer 39).getD []
  let id := (payloadOf k.peer (if k.initiator then 36 else 35)).getD []
  let l := byteAt body 4
  byteAt body 0 == 14 && slice body 5 l == authAlg t && authVerifies t pk (k.octets false id) (body.drop (5 + l))

end Sys2Proof.Machine
end

