-- ==== Sys2Proof/Machine/Tunnel.lean ====
section
/-! DEFINITION. The tunnel-keying commands TK_OPEN to TK_CLOSE, TK_IDLE and the SERVICE part of the packet buffer (R386 to R401,
R406, R407). -/
namespace Sys2Proof.Machine

/-! ### IKE SA objects (R390 to R393) -/

/-- The IKE SA a valid handle names: a closed one too, until the reply that says so is released (R401). -/
def State.ike? (s : State) (inst h : Nat) : Option Ike :=
  s.ikes.find? fun k => k.handle == h && hInst h == inst && h != 0

/-- The IKE SA a command names at byte 0. -/
def State.ikeOf (s : State) (c : Cmd) : Ike := (s.ike? c.inst (c.p 0 6)).getD default

/-- The key an IKE state image is wrapped under (R391). The rule gives the KDF's label and no context: it is empty (log entry 119; DESIGN
CHOICE). -/
def State.tkKey (s : State) (f : Nat) : Bytes := kdfCounter (s.kek f) (ascii "SERVICE TK") [] 32

/-- The state image as Whisk wraps it (R391). -/
def State.wrapIke (s : State) (k : Ike) : Bytes :=
  std (8 + 8 * ceilDiv k.image.flatten.length 8) .aesKeyWrap (s.tkKey k.field :: k.image)

/-- An IKE SA as a command leaves it: its state image is wrapped anew and written in full pages (R391, R442). -/
def State.putIke (s : State) (k : Ike) : State :=
  let s := k.pages.foldl (fun s p => s.fullWrite k.field p) s
  { s with ikes := s.ikes.map fun x => if x.handle == k.handle then { k with sealed := s.wrapIke k } else x }

/-- IKE SA entries of a field. -/
def ikeEntries : Nat := 65536

/-- The handle the next IKE SA of an instance on a field takes (R390). -/
def State.newIke (s : State) (inst f : Nat) : Option (Nat × Nat) :=
  let x := s.field f
  let taken := (s.ikes.filter (·.field == f)).map fun k => bits k.handle 39 20 % ikeEntries
  (nextFree x.lastIke ikeEntries 0x3FFF x.ikeUses taken).map fun i =>
    (inst * 2 ^ 40 + (f * ikeEntries + i) * 2 ^ 20 + s.epoch f % 64 * 2 ^ 14 + (useOf x.ikeUses i + 1), i)

/-- No earlier command that names the same IKE SA is still to execute (R393). -/
def State.ikeTurn (s : State) (c : Cmd) : Bool :=
  !s.cmds.any fun d => d.inst == c.inst && [0x0902, 0x0903, 0x0904, 0x0905].contains (basicOp d.op) && d.p 0 6 == c.p 0 6 &&
    d.number < c.number && !d.isDone

/-- Step 9 for the IKE SA (R390, R33). -/
def State.ikeChecks (s : State) (c : Cmd) : List (Bool × Status) :=
  [((s.ike? c.inst (c.p 0 6)).isNone, .keyNotFound), ((s.ike? c.inst (c.p 0 6)).any (fun k => s.unavailable k.field), .fieldUnavailable)]

/-- SERVICE is off (R387); an exchange already begun goes on. -/
def State.serviceOff (s : State) (c : Cmd) (begun : Bool) : Bool :=
  !c.mode .service && !(begun && (s.ikeOf c).state < 5)

/-- Read the state image of an IKE SA (R391, R441). -/
def State.readIke (s : State) (c : Cmd) (k : Ike) : Bool × State := s.readBlob c.inst c.tag k.field k.pages

/-! ### Step results (R396) -/

/-- *Child record*: the handles stand with INSTALL 1 and INSTALL 0 alike. -/
def childRecord (x : Child) (saltIn saltOut : Bytes) : Bytes :=
  toBE 4 x.spiIn ++ toBE 4 x.spiOut ++ toBE 6 x.hIn ++ toBE 6 x.hOut ++ fit 4 saltIn ++ fit 4 saltOut

/-- *Step result*. -/
def stepResult (h state outcome notify : Nat) (out info child : Bytes) : Bytes :=
  toBE 6 h ++ toBE 1 state ++ toBE 1 outcome ++ toBE 2 notify ++ toBE 1 (if child.isEmpty then 0 else 1) ++ [0] ++
    toBE 3 out.length ++ toBE 3 info.length ++ out ++ info ++ child

/-- A command ends and leaves its IKE SA so. -/
def State.tkEnd (s : State) (k : Ike) (outcome : Nat) (notify : Nat := 0) (out info child : Bytes := []) : State × Option Reply :=
  (s.putIke k, ok (stepResult k.handle k.state outcome notify out info child))

/-- A command ends and changes nothing of its IKE SA (R397). -/
def State.tkSame (s : State) (k : Ike) (outcome : Nat) (out : Bytes := []) : State × Option Reply :=
  (s, ok (stepResult k.handle k.state outcome 0 out [] []))

/-- OUTCOME 3: the IKE SA is destroyed. -/
def State.tkReject (s : State) (k : Ike) (notify : Nat) (out : Bytes := []) : State × Option Reply :=
  (s.dropIke k.handle, ok (stepResult k.handle 6 3 notify out [] []))

/-! ### The SERVICE part of the packet buffer (R58, R388) -/

/-- Bytes the messages of the other TK commands of a field hold, until their replies are released. -/
def State.serviceUsed (s : State) (c : Cmd) : Nat :=
  (((s.tkOn c.field).filter fun d => !(d.inst == c.inst && d.tag == c.tag)).map Cmd.tkBytes).sum

/-- A TK command waits while its messages, in and out, do not fit: its body is tried for the length of the message out. -/
def tkWait (body : State → Cmd → State × Option Reply) (draw : Nat) (s : State) (c : Cmd) : Option Stage :=
  let out := match (body s { c with drawn := List.replicate draw 0 }).2 with
    | some r => num r.results 12 3
    | none => 0
  if s.serviceUsed c + tkInLen c + out > s.servicePart then some .waitSpace else none

/-- SERVICE_BUFFER_SPACE_FREE (R58, R388): the commands that wait for space are ready to try again, and a pause that waited for the space
ends. -/
def execServiceBufferSpaceFree (s : State) : Host.Outcome State Fault Refusal :=
  let s := s.settlePause
  .next { s with cmds := s.cmds.map fun c => if c.stage == .waitSpace then { c with stage := .dispatched } else c }

/-! ### Children (R392, R399, R401) -/

/-- An inbound SPI unique under R274, from a drawn value on (log entry 27). -/
def State.freeSpi (s : State) (tmpl : Bytes) (v : Nat) : Nat :=
  let v6 := tmpl.length == 28
  let dst := beNat (tmpl.drop 12)
  let more := s.sas.length + s.ikes.length + (s.ikes.map (·.children.length)).sum
  (((List.range (more + 257)).map fun i => (v + i) % 2 ^ 32).find? fun x =>
    x ≥ 256 && !s.spiPromised x v6 dst && !s.sas.any fun b => b.kind == 2 && b.spi == x && b.outerV6 == v6 && b.outerDst == dst).getD v

/-- The SA entry of one direction of a child. -/
def Ike.childSa (k : Ike) (kind spi : Nat) (km : Bytes) : Sa :=
  let p := k.params
  let tmpl := openPart p (if kind == 1 then 2 else 3)
  { handle := 0, field := k.field, kind := kind, cipher := byteAt p 6, esn := k.flag 1, outerV6 := tmpl.length == (if kind == 1 then 54 else 28),
    key := 0, spi := spi, salt := fit 12 (slice km 32 4), sci := 0, next := 1, sel := num p 20 2, window := if kind == 2 then num p 22 2 else 0,
    softS := num p 24 4, hardS := num p 28 4, softB := num p 32 8, hardB := num p 40 8, tmpl := tmpl, keyMaterial := km.take 32,
    ofTk := k.handle }

/-- Create a child: KEYMAT, then SAs with INSTALL 1 or transient keys with INSTALL 0. Of KEYMAT the first half is for traffic from the side that
began the exchange (RFC 7296, 2.17). The answer is the child record. -/
def State.makeChild (s : State) (c : Cmd) (k : Ike) (spiIn spiOut : Nat) (began replace : Bool) : Bytes × Ike × State :=
  let km := std 72 .ikeKeymat (k.image ++ [toBE 4 spiIn, toBE 4 spiOut])
  let kIn := if began then km.drop 36 else km.take 36
  let kOut := if began then km.take 36 else km.drop 36
  if k.flag 0 then
    let (a, s) := s.addSa c.inst k.field false (k.childSa 2 spiIn kIn)
    let (b, s) := s.addSa c.inst k.field replace (k.childSa 1 spiOut kOut)
    let x : Child := { hIn := a, hOut := b, spiIn := spiIn, spiOut := spiOut }
    (childRecord x [] [], { k with children := k.children ++ [x], spiIn := 0 }.recharge, s)
  else
    let t := if byteAt k.params 6 == 1 then 0x02 else 0x03
    let (a, s) := s.addKey c k.field none { type := t, attr := 0x02, origin := 4, body := kIn.take 32 }
    let (b, s) := s.addKey c k.field none { type := t, attr := 0x01, origin := 4, body := kOut.take 32 }
    let x : Child := { hIn := a, hOut := b, spiIn := spiIn, spiOut := spiOut }
    (childRecord x (kIn.drop 32) (kOut.drop 32), { k with children := k.children ++ [x], spiIn := 0 }.recharge, s)

/-- The pages that a child's two entries take: those of its SAs in the SA table, or of its keys' descriptors. None where there is no room for
both. -/
def State.childPages (s : State) (c : Cmd) (k : Ike) : Option (List (Nat × Nat)) :=
  if k.flag 0 then
    let next := fun (s : State) => (s.newSa c.inst k.field).map fun p => (k.field, 16384 + p.2 / 16)
    (next s).bind fun p => (next (s.addSa c.inst k.field false (k.childSa 2 0 [])).2).map fun q => [p, q]
  else if (s.takenKeys k.field).length + 2 ≤ homeEntries then some (s.descPages { c with field := some k.field } 2)
  else none

/-- The pages that children's entries lie on, which retiring them writes (R401). -/
def State.goneWrites (s : State) (k : Ike) (xs : List Child) : List (Nat × Nat) :=
  (xs.flatMap fun x => [x.hIn, x.hOut].filter (· != 0)).map fun h =>
    if k.flag 0 then (k.field, saPage s.n h) else (k.field, ((s.keyAt h).map (·.descPage)).getD (descPageOf h))

/-- Retire a child: its charge is released, down to what TK_OPEN charged (R392, R401). -/
def State.retireChild (s : State) (k : Ike) (x : Child) : Ike × State :=
  ({ k with children := k.children.filter (· != x) }.recharge, State.dropChild (k.flag 0) s x)

/-- Retire several children. -/
def State.retireChildren (s : State) (k : Ike) (xs : List Child) : Ike × State :=
  xs.foldl (fun r x => r.2.retireChild r.1 x) (k, s)

/-- There is room for two more SAs, or two more keys (R392). -/
def State.childRoom (s : State) (c : Cmd) (install : Bool) : Bool :=
  if install then roomFor c.shares.sas (s.usedSas c.inst) 2 else roomFor c.shares.keys (s.usedKeys c.inst) 2

/-! ### TK_OPEN (R394) -/

/-- Step 7. -/
def tkOpenLenBad (c : Cmd) : Bool :=
  let p := c.params
  let x := if c.expert then 2 else 0
  c.len < 62 + x || c.len != 62 + (openLens p).sum + x || num p 48 2 < 5 || num p 48 2 > 256 || num p 50 2 > 8192 ||
  ! [0, 34, 54].contains (byteAt p 52) || ! [0, 16, 28].contains (byteAt p 53) || (num p 54 2 != 0 && num p 54 2 < 16) || num p 54 2 > 1024 ||
  (num p 56 3 != 0 && num p 56 3 < 28) || num p 56 3 > 16384

/-- Step 8. -/
def tkOpenBad (s : State) (c : Cmd) : Bool :=
  let p := c.params
  let k : Ike := { handle := 0, field := 0, params := p }
  let sel := num p 20 2
  byteAt p 0 > 1 || byteAt p 1 ≥ 8 || (k.flag 2 && !k.initiator) || byteAt p 2 == 0 || byteAt p 2 > 2 || byteAt p 3 % 16 > 3 ||
  byteAt p 3 / 16 > 3 || (byteAt p 3 / 16 != 0 && byteAt p 3 % 16 == 0) || byteAt p 4 == 0 || byteAt p 4 > 2 || byteAt p 5 == 0 ||
  byteAt p 5 > 2 || byteAt p 6 == 0 || byteAt p 6 > 2 || byteAt p 7 != 0 || (num p 14 6 != 0 && !k.flag 2) ||
  num p 59 3 != 0 ||
  (if k.flag 0 then
    sel == 0 || sel > 4094 || s.selReserved sel || s.sas.any (fun b => b.kind % 2 == 1 && b.state != 2 && b.sel == sel) ||
      num p 22 2 < 64 || num p 22 2 > 4096 || byteAt p 52 == 0 || byteAt p 53 == 0 || !tmplOk (k.childSa 1 0 [])
  else sel != 0 || byteAt p 52 != 0 || byteAt p 53 != 0) ||
  (num p 28 4 != 0 && num p 28 4 ≤ num p 24 4) || (num p 40 8 != 0 && num p 40 8 ≤ num p 32 8) ||
  (if k.initiator then num p 54 2 == 0 || num p 56 3 != 0 else num p 54 2 != 0 || num p 56 3 == 0) ||
  (c.expert && (badMask (c.tail 2 0 1) || c.tail 2 1 1 != 0))

/-- A key is no private key of an authentication type with SIGN (R394). -/
def Cmd.notAuthKey (c : Cmd) (h : Nat) : Bool := !authTypes.contains (c.key h).type || c.lacks h aSign

/-- Notifies of the part's IKE_SA_INIT message, as RFC 7427, RFC 9242 and, in a response, RFC 4739 ask for them. -/
def initNotifies (k : Ike) : List (Nat × Bytes) :=
  [notifyPayload 16431 [0, 2, 0, 3, 0, 5]] ++ (if (addkeOf k.params).isEmpty then [] else [notifyPayload 16438]) ++
    if k.initiator then [] else [notifyPayload 16404]

/-- The IKE_SA_INIT payloads of the part, from the draw of TK_OPEN: SPI, nonce, ephemeral. -/
def Ike.initPayloads (k : Ike) (number : Nat) (drawn : Bytes) : List (Nat × Bytes) :=
  [(33, saBody number 1 [] (ikePolicy k.params)), kePayload (byteAt k.params 2) (drawn.drop 40), (40, slice drawn 8 32)] ++ initNotifies k

/-- What is wrong with an IKE_SA_INIT message: an error notify and its data. -/
def initFault (p : Bytes) (ps : List (Nat × Bytes)) : Option (Nat × Bytes) :=
  match criticalUnknown ps with
  | some x => some x
  | none =>
    match payloadOf ps 33, payloadOf ps 34, payloadOf ps 40 with
    | some sa, some ke, some nonce =>
      if (chooseProposal 1 (ikePolicy p) 0 sa).isNone then some (14, [])
      else
        match keFault (byteAt p 2) ke with
        | some n => some (n, if n == 17 then toBE 2 (keGroup (byteAt p 2)) else [])
        | none => if nonce.length < 16 || nonce.length > 256 then some (7, []) else none
    | _, _, _ => some (7, [])

/-- A received IKE_SA_INIT request has a well-formed header: an initiator's, of message ID 0, with no responder SPI. -/
def initHeaderOk (m : Bytes) : Bool :=
  m.length ≥ 28 && num m 24 4 == m.length && byteAt m 17 / 16 == 2 && mExch m == 34 && bits (byteAt m 19) 5 3 == 1 && mId m == 0 &&
    !allZero (slice m 0 8) && allZero (slice m 8 8)

/-- The new IKE SA object and its charges. -/
def State.openIke (s : State) (c : Cmd) (h : Nat) (i : Nat) : Ike × State :=
  let f := c.fld
  let (ps, s) := s.allocPages f 10 5 c.inst
  let s := s.modField f fun x => { x with lastIke := i, ikeUses := useBump x.ikeUses i }
  let k : Ike := { handle := h, field := f, params := c.params, pair := c.field2, pages := ps,
                   order := c.order, image := [c.drawn], chargedG6 := 20480, lastCmd := s.clock.time }
  let k := k.recharge
  (k, State.modCmd { s with ikes := s.ikes ++ [k] } c.inst c.tag fun e => { e with made := e.made ++ [(0, h)] })

/-- The effect of TK_OPEN. -/
def tkOpenBody (s : State) (c : Cmd) : State × Option Reply :=
  match s.newIke c.inst c.fld with
  | none => (s, st .shareExhausted)
  | some (h, i) =>
    let initiator := c.p 0 1 == 0
    let m := openPart c.params 5
    let ps := readPayloads (m.length + 1) (byteAt m 16) (m.drop 28)
    if !initiator && (!initHeaderOk m || ps.isNone) then (s, ok (stepResult 0 6 2 0 [] [] []))
    else
      let (k, s) := s.openIke c h i
      if initiator then
        let k := { k with spiI := c.drawn.take 8, spiR := List.replicate 8 0, asked := 34 }
        let out := k.clear 34 false 0 (k.initPayloads 1 c.drawn)
        s.tkEnd { k with request := out, image := k.image ++ [out] } 0 0 out
      else
        let ps := ps.getD []
        let k := { k with spiI := slice m 0 8, spiR := c.drawn.take 8 }
        match initFault k.params ps with
        | some (n, d) => s.tkReject k n (k.clear 34 true 0 [notifyPayload n d])
        | none =>
          let number := ((chooseProposal 1 (ikePolicy k.params) 0 ((payloadOf ps 33).getD [])).map (·.number)).getD 1
          let out := k.clear 34 true 0 (k.initPayloads number c.drawn)
          s.tkEnd { k with response := out, recvId := 1, image := k.image ++ [m, out] } 0 0 out

/-- TK_OPEN (R394). -/
def tkOpenDesc : Desc where
  op := 0x0901
  pre s c := [(tkOpenLenBad c, .badLength), (tkOpenBad s c, .badParameter)]
  keys _ c := c.p 8 6 :: if bit (c.p 1 1) 2 then [c.p 14 6] else []
  post s c :=
    [(s.serviceOff c false, .stateForbids), (bit (c.p 1 1) 0 && !c.mode .inline, .stateForbids),
     (c.notAuthKey (c.p 8 6) || (c.p 14 6 != 0 && c.notAuthKey (c.p 14 6)), .usageDenied),
     (c.expert && c.maskLow c.keys (c.tail 2 0 1), .usageDenied),
     (!roomFor c.shares.gddr6 (s.usedG6 c.inst) 20480 || !s.childRoom c (bit (c.p 1 1) 0) || (s.newIke c.inst c.fld).isNone, .shareExhausted)]
  draw _ c := some (40 + keDraw (c.p 2 1))
  reqs _ _ := 3
  wait s c := tkWait tkOpenBody (40 + keDraw (c.p 2 1)) s c
  body := tkOpenBody

/-- TK_OPEN. -/
def execTkOpen (r : CmdRec) (s : State) : Host.Outcome State Fault Refusal := .next (runCommand tkOpenDesc r s)

/-! ### What a received message calls for (R397) -/

/-- A row of *Message outcomes*, or the exchange goes on with the message's payloads. -/
inductive TkPlan where
  | discard
  | replay
  | reject (notify : Nat) (data : Bytes)      -- an error notify is sent
  | received (notify : Nat)                   -- an error notify has come in a response
  | again (ps : List (Nat × Bytes))           -- an initiator builds a new IKE_SA_INIT request
  | proceed (ps : List (Nat × Bytes))
deriving DecidableEq, Repr

/-- The exchange types a request may have in the IKE SA's state. -/
def Ike.expects (k : Ike) (exch : Nat) : Bool :=
  match k.state with
  | 5 => exch == 36 || exch == 37
  | 4 => !k.initiator && exch == 35
  | 3 => false
  | 6 => false
  | _ => !k.initiator && exch == (if k.mids < (addkeOf k.params).length then 43 else 35)

/-- What is wrong with the payloads of an expected message. -/
def Ike.fault (k : Ike) (exch : Nat) (ps : List (Nat × Bytes)) : Option (Nat × Bytes) :=
  if exch == 34 then initFault k.params ps
  else if (criticalUnknown ps).isSome then criticalUnknown ps
  else if !ps.all payloadOk then some (7, [])
  else if exch == 43 then
    match payloadOf ps 34 with
    | none => some (7, [])
    | some ke =>
      let add := (addkeOf k.params).getD k.mids 0
      (addFault add (!k.initiator) ke).map fun n => (n, if n == 17 then toBE 2 (34 + add) else [])
  else if exch == 35 then
    if k.initiator && k.peerAuths > 0 then none
    else if (payloadOf ps 39).isNone || (payloadOf ps (if k.initiator then 36 else 35)).isNone then some (7, []) else none
  else if exch == 36 then
    match payloadOf ps 33, payloadOf ps 40 with
    | some _, some nonce =>
      if nonce.length < 16 || nonce.length > 256 then some (7, [])
      else
        match if ps.any (fun p => p.1 == 41 && num p.2 6 2 == 16393) || k.rekeying then payloadOf ps 34 else none with
        | none => none
        | some ke => (keFault (byteAt k.params 2) ke).map fun n => (n, if n == 17 then toBE 2 (keGroup (byteAt k.params 2)) else [])
    | _, _ => some (7, [])
  else none

/-- Judge the payloads of a message whose header and integrity hold. -/
def Ike.judge (k : Ike) (m : Bytes) : TkPlan :=
  match k.open m with
  | none => if mExch m == 34 then .discard else .reject 7 []
  | some ps =>
    if mResponse m && mExch m == 34 && (notifies ps).contains 16390 then .again ps
    else if mResponse m && mExch m == 34 && (notifies ps).contains 17 && [31, 20].contains (num (notifyData ps 17) 0 2) then .again ps
    else
      match if mResponse m then errorNotify ps else none with
      | some n => .received n
      | none =>
        match k.fault (mExch m) ps with
        | some (n, d) => .reject n d
        | none => .proceed ps

/-- *Message outcomes* (R397). -/
def Ike.plan (k : Ike) (m : Bytes) : TkPlan :=
  if !k.headerOk m then .discard
  else if mResponse m then
    if k.request.isEmpty || mId m != k.sendId || mExch m != k.asked || !k.integrityOk m then .discard else k.judge m
  else if !k.response.isEmpty && mId m + 1 == k.recvId then (if k.integrityOk m then .replay else .discard)
  else if mId m != k.recvId || k.awaiting || !k.expects (mExch m) || !k.integrityOk m then .discard
  else k.judge m

/-- The message a TK_STEP brings. -/
def tkMsg (c : Cmd) : Bytes := c.params.drop 12

/-- The message calls for the part's next request: the peer has answered IKE_SA_INIT or IKE_INTERMEDIATE. -/
def Ike.buildsNext (k : Ike) (m : Bytes) : Bool :=
  match k.plan m with
  | .proceed _ => mResponse m && (k.asked == 34 || k.asked == 43)
  | _ => false

/-- IKE_INTERMEDIATE exchanges done once this response is taken. -/
def Ike.midsAfter (k : Ike) : Nat := k.mids + if k.asked == 43 then 1 else 0

/-- The part's next request is an IKE_AUTH request. -/
def Ike.nextIsAuth (k : Ike) : Bool := k.midsAfter ≥ (addkeOf k.params).length

/-- The handle of the key for the part's next own AUTH. -/
def Ike.authKey (k : Ike) : Nat := num k.params (if k.auths == 0 then 8 else 14) 6

/-- Steep bytes of an own AUTH of an initiator: the signature, and with the first the SPI its SAi2 proposes (log entry 28). -/
def Ike.authDraws (k : Ike) (t : Nat) : List Nat := [authDraw t, if k.auths == 0 then 4 else 0]

/-- The part's next IKE_AUTH request (R389, R399). -/
def State.authRequest (s : State) (c : Cmd) (k : Ike) : Bytes × Ike :=
  let h := k.authKey
  let t := (c.key h).type
  let spi := s.freeSpi (openPart k.params 3) (num c.drawn (authDraw t) 4)
  let k := if k.auths == 0 then { k with spiIn := spi } else k
  let first : List (Nat × Bytes) :=
    if k.auths == 0 then
      [(33, saBody 1 3 (toBE 4 spi) (childPolicy k.params false))] ++ tsPayloads (openPart k.params 4) ++
        if k.flag 2 then [notifyPayload 16404, notifyPayload 16405] else []
    else []
  let ps := [(35, openPart k.params 0)] ++ certPayloads k.params ++ [k.authPayload t (c.key h).body (c.drawn.take (authDraw t))] ++ first
  let out := k.protect 35 false (k.sendId + 1) ps
  (out, { k with request := out, asked := 35, sendId := k.sendId + 1, state := 4, auths := k.auths + 1, ivs := k.ivs + 1,
                 image := k.image ++ [out] })

/-- The part's next IKE_INTERMEDIATE request: a fresh ML-KEM key pair. -/
def Ike.midRequest (k : Ike) (drawn : Bytes) : Bytes × Ike :=
  let add := (addkeOf k.params).getD k.mids 1
  let ek := (genPair (0x10 + (add - 1)) 0 0 (drawn.take 64)).2
  let k := { k with image := k.image ++ [drawn] }
  let out := k.protect 43 false (k.sendId + 1) [(34, toBE 2 (34 + add) ++ [0, 0] ++ ek)]
  (out, { k with request := out, asked := 43, sendId := k.sendId + 1, state := 2, ivs := k.ivs + 1, image := k.image ++ [out] })

/-- An answer of the part: it is stored until the next request (R397). -/
def Ike.answer (k : Ike) (m : Bytes) (ps : List (Nat × Bytes)) : Bytes × Ike :=
  let out := k.protect (mExch m) true (mId m) ps
  (out, { k with response := out, recvId := mId m + 1, ivs := k.ivs + 1, image := k.image ++ [m, out] })

/-- The message that carries an error notify: an answer, or a new INFORMATIONAL request. -/
def Ike.errorMessage (k : Ike) (m : Bytes) (n : Nat) (d : Bytes) : Bytes :=
  if mResponse m then
    if mExch m == 34 then k.clear 37 false (k.sendId + 1) [notifyPayload n d] else k.protect 37 false (k.sendId + 1) [notifyPayload n d]
  else if mExch m == 34 then k.clear 34 true 0 [notifyPayload n d]
  else k.protect (mExch m) true (mId m) [notifyPayload n d]

/-- The child an initiator creates from SAr2, if its proposal is the policy's (R399): IKE SA and reply. -/
def State.initiatorChild (s : State) (c : Cmd) (k : Ike) (ps : List (Nat × Bytes)) (info : Bytes) : State × Option Reply :=
  let k := { k with state := 5, request := [], peer := [] }
  match chooseProposal 3 (childPolicy k.params false) 0 ((payloadOf ps 33).getD []) with
  | none => s.tkEnd { k with spiIn := 0 } 0 0 [] info
  | some p =>
    let (r, k, s) := s.makeChild c k k.spiIn (num p.spi 0 4) true false
    s.tkEnd k 1 0 [] info r

/-! ### Exchanges on an established IKE SA (R401) -/

/-- What a CREATE_CHILD_SA request calls for: a refusal, or the new child from a proposal. -/
inductive ChildPlan where
  | refuse (notify : Nat)
  | make (p : Proposal) (pfs : Bool)
deriving DecidableEq, Repr

/-- Judge a CREATE_CHILD_SA request. -/
def State.childPlan (s : State) (c : Cmd) (k : Ike) (ps : List (Nat × Bytes)) : ChildPlan :=
  let body := (payloadOf ps 33).getD []
  match ps.find? fun p => p.1 == 41 && num p.2 6 2 == 16393 with
  | none => .refuse (if byteAt body 5 == 1 then 14 else 35)
  | some n =>
    if !k.children.any (fun x => x.spiOut == num n.2 8 4) then .refuse 44
    else
      let pfs := (payloadOf ps 34).isSome
      match chooseProposal 3 (childPolicy k.params pfs) 0 body with
      | none => .refuse 14
      | some p => if s.childRoom c (k.flag 0) then .make p pfs else .refuse 35

/-- A CREATE_CHILD_SA request is answered. -/
def State.answerChild (s : State) (c : Cmd) (k : Ike) (m : Bytes) (ps : List (Nat × Bytes)) : State × Option Reply :=
  match s.childPlan c k ps with
  | .refuse n =>
    let (out, k) := k.answer m [notifyPayload n]
    s.tkEnd k 0 n out (infoOf ps)
  | .make p pfs =>
    let spi := s.freeSpi (openPart k.params 3) (num c.drawn 32 4)
    let k := { k with image := k.image ++ [c.drawn] }
    let ke : List (Nat × Bytes) := if pfs then [kePayload (byteAt k.params 2) (c.drawn.drop 36)] else []
    let (out, k) := k.answer m ([(33, saBody p.number 3 (toBE 4 spi) (childPolicy k.params pfs)), (40, c.drawn.take 32)] ++ ke ++
      (ps.filter fun x => x.1 == 44 || x.1 == 45).map fun x => (x.1, payloadBody x))
    let (r, k, s) := s.makeChild c k spi (num p.spi 0 4) false true
    s.tkEnd k 1 0 out (infoOf ps) r

/-- The SPIs a delete payload for ESP names. -/
def deleteSpis (b : Bytes) : List Nat := if byteAt b 0 == 3 then (List.range (num b 2 2)).map fun i => num b (4 + 4 * i) 4 else []

/-- An INFORMATIONAL request is answered: liveness, delete of a child, delete of the IKE SA. -/
def State.answerInfo (s : State) (k : Ike) (m : Bytes) (ps : List (Nat × Bytes)) : State × Option Reply :=
  let ds := (ps.filter (·.1 == 42)).map payloadBody
  if ds.any fun b => byteAt b 0 == 1 then
    let (out, k) := k.answer m []
    let (k, s) := s.retireChildren k k.children
    s.tkEnd { k with state := 6 } 0 0 out (infoOf ps)
  else
    let gone := k.children.filter fun x => (ds.flatMap deleteSpis).contains x.spiOut
    let (out, k) := k.answer m (if gone.isEmpty then [] else
      [(42, [3, 4] ++ toBE 2 gone.length ++ gone.flatMap fun x => toBE 4 x.spiIn)])
    let (k, s) := s.retireChildren k gone
    s.tkEnd k 0 0 out (infoOf ps)

/-- A CREATE_CHILD_SA response ends a rekeying the host began. -/
def State.finishRekey (s : State) (c : Cmd) (k : Ike) (m : Bytes) (ps : List (Nat × Bytes)) : State × Option Reply :=
  let k := { k with request := [], sendId := k.sendId + 1, image := k.image ++ [m] }
  match chooseProposal 3 (childPolicy k.params k.pfs) 0 ((payloadOf ps 33).getD []) with
  | none => s.tkEnd { k with spiIn := 0 }.recharge 0 0 [] (infoOf ps)
  | some p =>
    let (r, k, s) := s.makeChild c k k.spiIn (num p.spi 0 4) true true
    s.tkEnd k 1 0 [] (infoOf ps) r

/-! ### TK_STEP (R395 to R398) -/

/-- An expected message is taken. -/
def State.tkProceed (s : State) (c : Cmd) (k : Ike) (m : Bytes) (ps : List (Nat × Bytes)) : State × Option Reply :=
  if mResponse m then
    match k.asked with
    | 34 | 43 =>
      let k := { k with image := k.image ++ [m], mids := k.midsAfter, spiR := slice m 8 8 }
      let (out, k) := if k.mids < (addkeOf k.params).length then k.midRequest c.drawn else s.authRequest c k
      s.tkEnd k 0 0 out (if k.mids == 0 then [] else infoOf ps)
    | 35 =>
      let k := { k with image := k.image ++ [m], request := [] }
      if k.peerAuths == 0 then s.tkEnd { k with state := 3, peer := ps } 0 0 [] (infoOf ps)
      else s.initiatorChild c { k with sendId := k.sendId + 1 } ps (infoOf ps)
    | 36 => s.finishRekey c k m ps
    | _ => s.tkEnd { k with request := [], sendId := k.sendId + 1, image := k.image ++ [m] } 0 0 [] (infoOf ps)
  else
    match mExch m with
    | 43 =>
      let add := (addkeOf k.params).getD k.mids 1
      let ek := ((payloadOf ps 34).getD []).drop 4
      let ct := (kemEncaps (add - 1) ek (digestOf 0x12 32 ek) c.drawn).2
      let k := { k with image := k.image ++ [c.drawn], mids := k.mids + 1, state := 2 }
      let (out, k) := k.answer m [(34, toBE 2 (34 + add) ++ [0, 0] ++ ct)]
      s.tkEnd k 0 0 out (infoOf ps)
    | 35 =>
      let k := { k with image := k.image ++ [m], awaiting := true, state := 3, peer := ps,
                        offer := if k.peerAuths == 0 then (payloadOf ps 33).getD [] else k.offer }
      s.tkEnd k 0 0 [] (infoOf ps)
    | 36 => s.answerChild c k m ps
    | _ => s.answerInfo k m ps

/-- A new IKE_SA_INIT request with the cookie, or with the named group (R397). -/
def State.tkAgain (s : State) (k : Ike) (ps : List (Nat × Bytes)) : State × Option Reply :=
  let drawn := k.image.headD []
  if (notifies ps).contains 16390 then
    let out := k.clear 34 false 0 (notifyPayload 16390 (notifyData ps 16390) :: k.initPayloads 1 drawn)
    s.tkEnd { k with request := out, image := [drawn, out] } 0 0 out
  else
    let ke : Byte := if num (notifyData ps 17) 0 2 == 31 then 1 else 2
    let k := { k with params := k.params.set 2 ke }
    let out := k.clear 34 false 0 (k.initPayloads 1 drawn)
    s.tkEnd { k with request := out, image := [drawn, out] } 0 17 out

/-- Steep bytes of a CREATE_CHILD_SA exchange: nonce, SPI and, with PFS, an ephemeral (R407). -/
def Ike.childDraws (k : Ike) (pfs : Bool) : List Nat := [32, 4, if pfs then keDraw (byteAt k.params 2) else 0]

/-- Steep bytes of a TK_STEP (R407). -/
def tkStepDraws (s : State) (c : Cmd) : List Nat :=
  let k := s.ikeOf c
  let m := tkMsg c
  match k.plan m with
  | .proceed ps =>
    if k.buildsNext m then (if k.nextIsAuth then k.authDraws (c.key k.authKey).type else [64])
    else if mResponse m then []
    else if mExch m == 43 then [32]
    else if mExch m == 36 then
      match s.childPlan c k ps with
      | .make _ pfs => k.childDraws pfs
      | _ => []
    else []
  | _ => []

/-- The effect of TK_STEP. -/
def tkStepBody (s : State) (c : Cmd) : State × Option Reply :=
  let k := s.ikeOf c
  match s.readIke c k with
  | (false, s) => (s, st .sourcePoisoned)
  | (true, s) =>
    let m := tkMsg c
    match k.plan m with
    | .discard => s.tkSame k 2
    | .replay => s.tkSame k 4 k.response
    | .reject n d => s.tkReject k n (k.errorMessage m n d)
    | .received n => s.tkReject k n
    | .again ps => s.tkAgain k ps
    | .proceed ps => s.tkProceed c k m ps

/-- The key a TK_STEP signs with, where it builds an own AUTH. -/
def tkStepKeys (s : State) (c : Cmd) : List Nat :=
  let k := s.ikeOf c
  if k.buildsNext (tkMsg c) && k.nextIsAuth then [k.authKey] else []

/-- A TK_STEP creates a child: an initiator's last authentication, or a CREATE_CHILD_SA whose proposal is chosen (R399, R401). -/
def tkStepMakes (s : State) (c : Cmd) : Bool :=
  let k := s.ikeOf c
  let m := tkMsg c
  match k.plan m with
    | .proceed ps =>
      let chosen := fun pfs => (chooseProposal 3 (childPolicy k.params pfs) 0 ((payloadOf ps 33).getD [])).isSome
      if mResponse m then (k.asked == 35 && k.peerAuths != 0 && chosen false) || (k.asked == 36 && chosen k.pfs)
      else mExch m == 36 && match s.childPlan c k ps with
        | .make _ _ => true
        | .refuse _ => false
    | _ => false

/-- A TK_STEP installs SAs. -/
def tkStepInstalls (s : State) (c : Cmd) : Bool := (s.ikeOf c).flag 0 && tkStepMakes s c

/-- The children a delete that a TK_STEP takes retires. -/
def tkStepGone (s : State) (c : Cmd) : List Child :=
  let k := s.ikeOf c
  let m := tkMsg c
  match k.plan m with
  | .proceed ps =>
    let ds := (ps.filter (·.1 == 42)).map payloadBody
    if mResponse m || mExch m != 37 then []
    else if ds.any fun b => byteAt b 0 == 1 then k.children
    else k.children.filter fun x => (ds.flatMap deleteSpis).contains x.spiOut
  | .reject _ _ => k.children
  | .received _ => k.children
  | _ => []

/-- The entry pages a TK command writes: of the child it creates and of those it retires (R399, R401, R443). -/
def State.childWrites (s : State) (c : Cmd) (makes : Bool) (gone : List Child) : List (Nat × Nat) :=
  let k := s.ikeOf c
  (if makes then (s.childPages c k).getD [] else []) ++ s.goneWrites k gone

/-- The lifetime-scan channel a child's SAs need is not there (R280). -/
def State.childNoScan (s : State) (k : Ike) : Bool := s.noScanChannel (k.childSa 1 0 []).timed

/-- TK_STEP (R395). -/
def tkStepDesc : Desc where
  op := 0x0902
  pre _ c := [(c.len < 12 || c.p 8 3 < 28 || c.p 8 3 > 16384 || c.len != 12 + c.p 8 3, .badLength), (c.p 6 2 != 0 || c.p 11 1 != 0, .badParameter)]
  keys s c := tkStepKeys s c
  first s c := s.ikeChecks c
  post s c :=
    [(s.serviceOff c true, .stateForbids), (tkStepInstalls s c && !c.mode .inline, .stateForbids),
     ((tkStepKeys s c).any c.notAuthKey, .usageDenied),
     (tkStepMakes s c && (s.childPages c (s.ikeOf c)).isNone, .shareExhausted), (tkStepInstalls s c && s.childNoScan (s.ikeOf c), .pinClaimed)]
  draw s c := some (tkStepDraws s c).sum
  reqs s c := requests (tkStepDraws s c)
  wait s c := tkWait tkStepBody (tkStepDraws s c).sum s c
  writes s c := s.childWrites c (tkStepMakes s c) (tkStepGone s c)
  turn s c := s.ikeTurn c
  body := tkStepBody

/-- TK_STEP. -/
def execTkStep (r : CmdRec) (s : State) : Host.Outcome State Fault Refusal := .next (runCommand tkStepDesc r s)

/-! ### TK_DECIDE (R398, R399) -/

/-- The length of an inline peer key: what is left of the block. -/
def decideInline (c : Cmd) : Nat := c.len - 26 - c.p 18 2

/-- The private type code of the peer's key: of the handle's key, or by the inline length. -/
def decideType (c : Cmd) : Nat :=
  if c.inline 10 then (authTypes.find? fun t => publicLen (t + 0x80) 0 == decideInline c).getD 0 else (c.key (c.p 10 6)).type - 0x80

/-- The peer's public key. -/
def decideKey (c : Cmd) : Bytes := if c.inline 10 then slice c.params 26 (decideInline c) else (c.key (c.p 10 6)).body

/-- TS payloads to return. -/
def decideTs (c : Cmd) : Bytes := c.params.drop (c.len - c.p 18 2)

/-- A further authentication follows the one under decision (RFC 4739). -/
def Ike.further (k : Ike) : Bool :=
  if k.initiator then k.flag 2 && k.auths == 1 else (notifies k.peer).contains 16405

/-- The decision accepts, and the peer's AUTH verifies. -/
def decideOk (k : Ike) (c : Cmd) : Bool := c.p 6 1 == 1 && k.peerAuthOk (decideType c) (decideKey c)

/-- An own AUTH is built: the responder's with its first answer, the initiator's second. -/
def Ike.buildsOwn (k : Ike) : Bool := if k.initiator then k.further else k.auths == 0

/-- The proposal of SAi2 a responder accepts at the last authentication. -/
def decideProposal (k : Ike) (c : Cmd) : Option Proposal := chooseProposal 3 (childPolicy k.params false) (c.p 16 1) k.offer

/-- Steep bytes of a TK_DECIDE (R407). -/
def tkDecideDraws (s : State) (c : Cmd) : List Nat :=
  let k := s.ikeOf c
  if !decideOk k c then []
  else
    (if k.buildsOwn then (if k.initiator then k.authDraws (c.key k.authKey).type else [authDraw (c.key k.authKey).type]) else []) ++
      [if !k.initiator && !k.further && (decideProposal k c).isSome then 4 else 0]

/-- The message ID of the request a responder's answer goes with. -/
def Ike.authRequestHead (k : Ike) : Bytes := ikeHeader k.spiI k.spiR 46 35 8 k.recvId 0

/-- The responder's answer to an accepted AUTH. -/
def State.decideAnswer (s : State) (c : Cmd) (k : Ike) : State × Option Reply :=
  let t := (c.key k.authKey).type
  let n := if k.buildsOwn then authDraw t else 0
  let own : List (Nat × Bytes) :=
    if k.buildsOwn then [(36, openPart k.params 0)] ++ certPayloads k.params ++ [k.authPayload t (c.key k.authKey).body (c.drawn.take n)] else []
  let further := k.further
  let k := { k with awaiting := false, peerAuths := k.peerAuths + 1, auths := k.auths + own.length.min 1, peer := [] }
  if further then
    let (out, k) := k.answer k.authRequestHead own
    s.tkEnd { k with state := 4 } 0 0 out
  else
    match decideProposal k c with
    | none =>
      let (out, k) := k.answer k.authRequestHead (own ++ [notifyPayload 14])
      s.tkEnd { k with state := 5 } 0 14 out
    | some p =>
      let spi := s.freeSpi (openPart k.params 3) (num c.drawn n 4)
      let (out, k) := k.answer k.authRequestHead (own ++ [(33, saBody p.number 3 (toBE 4 spi) (childPolicy k.params false))] ++ tsPayloads (decideTs c))
      let (r, k, s) := s.makeChild c { k with state := 5, ts := decideTs c } spi (num p.spi 0 4) false false
      s.tkEnd k 1 0 out [] r

/-- The effect of TK_DECIDE. -/
def tkDecideBody (s : State) (c : Cmd) : State × Option Reply :=
  let k := s.ikeOf c
  match s.readIke c k with
  | (false, s) => (s, st .sourcePoisoned)
  | (true, s) =>
    if !decideOk k c then
      let n := if c.p 6 1 == 1 then 24 else c.p 8 2
      s.tkReject k n (if k.initiator then k.protect 37 false (k.sendId + 1) [notifyPayload n] else k.protect 35 true k.recvId [notifyPayload n])
    else if !k.initiator then s.decideAnswer c k
    else if k.further then
      let (out, k) := s.authRequest c { k with peerAuths := k.peerAuths + 1, peer := [] }
      s.tkEnd k 0 0 out
    else s.initiatorChild c { k with peerAuths := k.peerAuths + 1, sendId := k.sendId + 1 } k.peer []

/-- A TK_DECIDE creates a child: the last authentication is accepted, verifies, and a proposal matches (R399). -/
def tkDecideMakes (s : State) (c : Cmd) : Bool :=
  let k := s.ikeOf c
  decideOk k c && !k.further &&
    if k.initiator then (chooseProposal 3 (childPolicy k.params false) 0 ((payloadOf k.peer 33).getD [])).isSome else (decideProposal k c).isSome

/-- The handles TK_DECIDE reads: the peer's key, and the key of the own AUTH it builds. -/
def tkDecideKeys (s : State) (c : Cmd) : List Nat :=
  let k := s.ikeOf c
  c.handlesAt [10] ++ if c.p 6 1 == 1 && k.buildsOwn then [k.authKey] else []

/-- Step 8. -/
def tkDecideBad (s : State) (c : Cmd) : Bool :=
  let k := s.ikeOf c
  let lastAccept := c.p 6 1 == 1 && !k.initiator && !k.further
  c.p 6 1 == 0 || c.p 6 1 > 2 || c.p 7 1 != 0 || c.p 17 1 != 0 || c.p 20 6 != 0 ||
  (if c.p 6 1 == 1 then c.p 8 2 != 0 else ! [24, 38, 14].contains (c.p 8 2)) ||
  ((s.ike? c.inst (c.p 0 6)).isSome && k.state == 3 && (if lastAccept then c.p 18 2 == 0 else c.p 18 2 != 0 || c.p 16 1 != 0)) ||
  (c.inline 10 && [0x70, 0x71, 0x75].contains (decideType c) && !ecPointOk (tSet (decideType c)) (decideKey c))

/-- TK_DECIDE (R398). -/
def tkDecideDesc : Desc where
  op := 0x0903
  pre s c :=
    [(c.len < 26 || c.p 18 2 > 1024 || (c.p 18 2 != 0 && c.p 18 2 < 16) || c.len < 26 + c.p 18 2 ||
       (if c.inline 10 then decideType c == 0 else decideInline c != 0), .badLength),
     (tkDecideBad s c, .badParameter)]
  keys s c := tkDecideKeys s c
  first s c := s.ikeChecks c
  post s c :=
    let k := s.ikeOf c
    [(s.serviceOff c true, .stateForbids), (k.flag 0 && !c.mode .inline, .stateForbids), (k.state != 3, .stateForbids),
     (!c.inline 10 && (!authTypes.contains (decideType c) || !tPublic (c.key (c.p 10 6)).type || c.lacks (c.p 10 6) aVerify), .usageDenied),
     (c.p 6 1 == 1 && k.buildsOwn && c.notAuthKey k.authKey, .usageDenied),
     (tkDecideMakes s c && (s.childPages c k).isNone, .shareExhausted), (c.p 6 1 == 1 && k.flag 0 && !k.further && s.childNoScan k, .pinClaimed)]
  draw s c := some (tkDecideDraws s c).sum
  reqs s c := requests (tkDecideDraws s c)
  wait s c := tkWait tkDecideBody (tkDecideDraws s c).sum s c
  writes s c := s.childWrites c (tkDecideMakes s c) []
  turn s c := s.ikeTurn c
  body := tkDecideBody

/-- TK_DECIDE. -/
def execTkDecide (r : CmdRec) (s : State) : Host.Outcome State Fault Refusal := .next (runCommand tkDecideDesc r s)

/-! ### TK_SEND (R400, R401) -/

/-- The child TK_SEND names. -/
def tkSendChild (s : State) (c : Cmd) : Option Child := (s.ikeOf c).children.find? fun x => x.hIn == c.p 8 6 && c.p 8 6 != 0

/-- The children a TK_SEND retires. -/
def tkSendGone (s : State) (c : Cmd) : List Child :=
  if !(s.ikeOf c).request.isEmpty then []
  else if c.p 6 1 == 2 then (tkSendChild s c).toList
  else if c.p 6 1 == 3 then (s.ikeOf c).children
  else []

/-- Steep bytes of a TK_SEND (R407). -/
def tkSendDraws (s : State) (c : Cmd) : List Nat :=
  let k := s.ikeOf c
  if k.request.isEmpty && c.p 6 1 == 4 then k.childDraws (bit (c.p 7 1) 0) else []

/-- A request of the part goes out. -/
def Ike.ask (k : Ike) (exch : Nat) (ps : List (Nat × Bytes)) : Bytes × Ike :=
  let out := k.protect exch false k.sendId ps
  (out, { k with request := out, asked := exch, ivs := k.ivs + 1, image := k.image ++ [out] })

/-- The effect of TK_SEND. -/
def tkSendBody (s : State) (c : Cmd) : State × Option Reply :=
  let k := s.ikeOf c
  match s.readIke c k with
  | (false, s) => (s, st .sourcePoisoned)
  | (true, s) =>
    if !k.request.isEmpty then s.tkSame k 4 k.request
    else
      let x := (tkSendChild s c).getD default
      match c.p 6 1 with
      | 1 =>
        let (out, k) := k.ask 37 []
        s.tkEnd k 0 0 out
      | 2 =>
        let (out, k) := k.ask 37 [(42, [3, 4, 0, 1] ++ toBE 4 x.spiIn)]
        let (k, s) := s.retireChild k x
        s.tkEnd k 0 0 out
      | 3 =>
        let (out, k) := k.ask 37 [(42, [1, 0, 0, 0])]
        let (k, s) := s.retireChildren k k.children
        s.tkEnd { k with state := 6 } 0 0 out
      | _ =>
        let pfs := bit (c.p 7 1) 0
        let spi := s.freeSpi (openPart k.params 3) (num c.drawn 32 4)
        let k := { k with spiIn := spi, pfs := pfs, image := k.image ++ [c.drawn] }
        let ts := if k.ts.isEmpty then openPart k.params 4 else k.ts
        let ke : List (Nat × Bytes) := if pfs then [kePayload (byteAt k.params 2) (c.drawn.drop 36)] else []
        let (out, k) := k.ask 36 ([(41, [3, 4, 0x40, 0x09] ++ toBE 4 x.spiIn), (33, saBody 1 3 (toBE 4 spi) (childPolicy k.params pfs)),
          (40, c.drawn.take 32)] ++ ke ++ if k.initiator then tsPayloads ts else tsSwapped ts)
        s.tkEnd k.recharge 0 0 out

/-- TK_SEND (R400). -/
def tkSendDesc : Desc where
  op := 0x0904
  pre _ c :=
    let kind := c.p 6 1
    [(c.len != 14, .badLength),
     (kind == 0 || kind > 4 || c.p 7 1 > (if kind == 4 then 1 else 0) || ((kind == 1 || kind == 3) && c.p 8 6 != 0), .badParameter)]
  nine s c := s.ikeChecks c ++ [((s.ikeOf c).request.isEmpty && (c.p 6 1 == 2 || c.p 6 1 == 4) && (tkSendChild s c).isNone, .keyNotFound)]
  post s c :=
    let k := s.ikeOf c
    [(s.serviceOff c false, .stateForbids), (k.state != 5, .stateForbids),
     (k.request.isEmpty && c.p 6 1 == 4 && !s.childRoom c (k.flag 0), .shareExhausted)]
  draw s c := some (tkSendDraws s c).sum
  reqs s c := requests (tkSendDraws s c)
  wait s c := tkWait tkSendBody (tkSendDraws s c).sum s c
  writes s c := s.childWrites c false (tkSendGone s c)
  turn s c := s.ikeTurn c
  body := tkSendBody

/-- TK_SEND. -/
def execTkSend (r : CmdRec) (s : State) : Host.Outcome State Fault Refusal := .next (runCommand tkSendDesc r s)

/-! ### TK_CLOSE and TK_IDLE (R393, R395) -/

/-- TK_CLOSE (R395). -/
def tkCloseDesc : Desc where
  op := 0x0905
  pre _ c := [(c.len != 6, .badLength)]
  nine s c := s.ikeChecks c
  turn s c := s.ikeTurn c
  writes s c := s.childWrites c false (s.ikeOf c).children
  body s c := (s.dropIke (c.p 0 6), ok)

/-- TK_CLOSE. -/
def execTkClose (r : CmdRec) (s : State) : Host.Outcome State Fault Refusal := .next (runCommand tkCloseDesc r s)

/-- TK_IDLE_EXPIRY (R393): an IKE SA that is not ESTABLISHED is destroyed and its owner told. -/
def execTkIdleExpiry (handle : Nat) (s : State) : Host.Outcome State Fault Refusal :=
  .next (if s.ikes.any fun k => k.handle == handle && k.state < 5 then (s.dropIke handle).raise (hInst handle) 0x0305 (toBE 6 handle) else s)

end Sys2Proof.Machine
end

