-- ==== Sys2Proof/Machine/Winnow.lean ====
section
/-! DEFINITION. The commands of page 0x06xx: digests, keyed digests and comparisons, whole or in parts (R242 to R254). -/
namespace Sys2Proof.Machine

/-- The ALG is of the opcode's kind (R239, R242). -/
def wKindOk (op alg : Nat) : Bool := (winnowFn? alg).isSome && (isHmac alg || isKmac alg) == wKeyed op

/-- The ALG is a raw one (R241). -/
def wRaw (alg : Nat) : Bool := alg ≥ 0x80

/-- The output length is not the ALG's own. -/
def wXof (alg : Nat) : Bool := isKmac alg || (!isHmac alg && ((winnowFn? alg).any fun f => f.out == 0))

/-- OUTLEN is out of range (R244). -/
def wOutBad (op : Nat) (c : Cmd) : Bool :=
  let alg := wAlg c
  let n := c.p 10 2
  if wPartial c then n != 0
  else if alg == 0x61 || alg == 0x62 then n < 4
  else if wXof alg then n < (if wVerdict op then 4 else 1)
  else if wVerdict op then n < 4 || n > ((winnowFn? alg).map (·.out)).getD 0
  else n != 0

/-- NLEN and SLEN are out of range (R243). -/
def wStringsBad (c : Cmd) : Bool :=
  let alg := wAlg c
  let cs := alg == 0x31 || alg == 0x32
  (if cs then c.p 8 1 > 64 else c.p 8 1 != 0) || (!cs && !isKmac alg && c.p 9 1 != 0) ||
    (wResume c && (c.p 8 1 != 0 || c.p 9 1 != 0))

/-- The token is refused (R249). -/
def State.tokenBad (s : State) (c : Cmd) : Bool :=
  wResume c && (match s.tokenOf c with
    | none => true
    | some t => num t 0 1 != c.inst || num t 1 1 != wAlg c || num t 2 6 != c.p 0 6)

/-! ### The computation -/

/-- The length of the output computed: OUTLEN, or the full output of a fixed-output ALG. -/
def wOutLen (c : Cmd) : Nat := if wXof (wAlg c) then c.p 10 2 else ((winnowFn? (wAlg c)).map (·.out)).getD 0

/-- The output. -/
def State.wOutput (s : State) (op : Nat) (c : Cmd) : Bytes :=
  let (st, count, plain) := s.wStart c
  winnowFinish (wAlg c) (wOutLen c) plain (wKey c) st count (wMsg op c)

/-- The token a PARTIAL command returns. -/
def State.wToken (s : State) (op : Nat) (c : Cmd) : Bytes :=
  let (st, count, plain) := s.wStart c
  let f := (winnowFn? (wAlg c)).getD default
  let m := wMsg op c
  std 288 .aesKeyWrap [s.tokenKey c.fld, tokenBody c.inst (wAlg c) (c.p 0 6) (count + m.length) plain (f.absorbAll st m)]

/-- The four commands of the page (R242 to R254). -/
def winnowDesc (op : Nat) : Desc where
  op := op
  pre s c :=
    let f := (winnowFn? (wAlg c)).getD default
    [(c.len < 15 || c.len != 15 + wTok c + c.p 8 1 + c.p 9 1 + wXlen op c + c.p 12 3 ||
       ((winnowFn? (wAlg c)).isSome &&
         ((wRaw (wAlg c) && (c.p 12 3 == 0 || c.p 12 3 % f.block != 0)) || (wPartial c && c.p 12 3 % f.block != 0))), .badLength),
     (!wKindOk op (wAlg c), .badParameter), (!wKeyed op && c.p 0 6 != 0, .badParameter), (c.p 7 1 ≥ 4, .badParameter),
     (wPartial c && wVerdict op, .badParameter), (wStringsBad c || wOutBad op c, .badParameter), (s.tokenBad c, .badParameter)]
  keys _ c := if wKeyed op then [c.p 0 6] else []
  post s c :=
    let k := c.key (c.p 0 6)
    [(wKeyed op && (k.type != 0x04 || ((wAlg c == 0x62 || wAlg c == 0x64) && k.body.length < 32) ||
       c.lacks (c.p 0 6) (if wVerdict op then aMacVerify else aMacGen)), .usageDenied),
     ((wResume c || wPartial c) && wOrder c != 1, .usageDenied),
     (c.xfer.isSome && (!roomFor c.shares.wctx (s.usedWctx c.inst) 0 || !roomFor c.shares.gddr6 (s.usedG6 c.inst) 0), .shareExhausted)]
  absorbs c := if wOnWinnow op c then ((winnowFn? (wAlg c)).map (·.block)).getD 0 else 0
  head c := some (15 + wTok c + c.p 8 1 + c.p 9 1)
  body s c :=
    if wVerdict op then (s, verdict ((s.wOutput op c).take (c.p 10 2) == wExpected op c))
    else if wPartial c then (s, ok (s.wToken op c))
    else (s, ok (s.wOutput op c))

/-- DIGEST (R243). -/
def execDigest (r : CmdRec) (s : State) : Host.Outcome State Fault Refusal := .next (runCommand (winnowDesc 0x0601) r s)

/-- MAC_GEN (R243, R245). -/
def execMacGen (r : CmdRec) (s : State) : Host.Outcome State Fault Refusal := .next (runCommand (winnowDesc 0x0602) r s)

/-- MAC_VERIFY (R247). -/
def execMacVerify (r : CmdRec) (s : State) : Host.Outcome State Fault Refusal := .next (runCommand (winnowDesc 0x0603) r s)

/-- DIGEST_COMPARE (R247). -/
def execDigestCompare (r : CmdRec) (s : State) : Host.Outcome State Fault Refusal := .next (runCommand (winnowDesc 0x0604) r s)

/-! ### Contexts are saved, restored and given out (R250 to R253) -/

/-- Whisk serves the wrap or unwrap of a context's image: an engine works, and its turn has come; an unkeyed one needs none (R252, R284). -/
def State.imageServed (s : State) (f : Nat) (w : WCtx) : Bool := !w.keyed || (s.whiskUp f && (s.field f).whiskTurn w.inst (w.tag + 2 ^ 32) 3)

/-- The request of an image leaves Whisk's queue. -/
def FieldSt.servedImage (x : FieldSt) (w : WCtx) : FieldSt := { x with whisk := x.whisk.filter (·.2 != (w.inst, w.tag + 2 ^ 32)) }

/-- CONTEXT_SAVE_DONE (R251, R252): the image is in GDDR6, a partial write that may be refused (R442), and the slot goes to the user that
waits; a segment that arrived meanwhile has the context restored. -/
def execContextSaveDone (field ctx : Nat) (s : State) : Host.Outcome State Fault Refusal :=
  .next (match (s.field field).ctxs.find? (fun w => w.id == ctx && w.state == 2) with
    | none => s
    | some w =>
      if !s.imageServed field w then s else
      let s := s.modField field fun x => x.servedImage w
      let s := s.modField field fun x => { x.modCtx ctx (fun w => { w with state := 3, again := false }) with saves := sat48 (x.saves + 1) }
      let (good, s) := s.pageWrite w.inst w.tag field w.page w.image.length
      let s := if good then s else s.complete w.inst w.tag { status := .destPoisoned }
      let s := s.serveCtx field
      match w.again, s.cmd? w.inst w.tag with
      | true, some c => s.ctxSegment field c
      | _, _ => s)

/-- CONTEXT_RESTORE_DONE (R252, R253): the context absorbs the segment that caused the restore, or its command ends with SOURCE_POISONED on an uncorrectable page and
with FAULT_DETECTED on a keyed image whose wrap fails. -/
def execContextRestoreDone (field ctx : Nat) (wrapOk : Bool) (s : State) : Host.Outcome State Fault Refusal :=
  .next (match (s.field field).ctxs.find? (fun w => w.id == ctx && w.state == 4) with
    | none => s
    | some w =>
      if !s.imageServed field w then s else
      let s := s.modField field fun x => x.servedImage w
      let (r, s) := s.readPage field w.page
      let s := s.modField field fun x => { x with restores := sat48 (x.restores + 1) }
      if r == .uncorrectable || r == .poisoned then s.complete w.inst w.tag { status := .sourcePoisoned }
      else if w.keyed && !wrapOk then s.complete w.inst w.tag { status := .faultDetected }
      else
        let s := s.modField field fun x => x.modCtx ctx fun w => { w with state := 0 }
        let s := match s.cmd? w.inst w.tag with
          | some c => s.ctxSegment field c
          | none => s
        s.modCmd w.inst w.tag fun c => if c.stage == .waitCtx then { c with stage := .dispatched } else c)

/-- WINNOW_CONTEXT_FREE (R250). -/
def execWinnowContextFree (field : Nat) (s : State) : Host.Outcome State Fault Refusal := .next (s.serveCtx field)

end Sys2Proof.Machine
end

