-- ==== Sys2Proof/Machine/Dispatch.lean ====
section
/-! DEFINITION. exec: one direct call of a meaning per constructor of Instr. -/
namespace Sys2Proof.Machine

/-- The effect of a command on everything but the queue. -/
def exec (i : Instr) (s : State) : Host.Outcome State Fault Refusal :=
  match i with
  | .powerUp strap => Sys2Proof.Machine.execPowerUp strap s
  | .resetNAssert longEnough => Sys2Proof.Machine.execResetNAssert longEnough s
  | .powerDown => Sys2Proof.Machine.execPowerDown s
  | .resetNRelease => Sys2Proof.Machine.execResetNRelease s
  | .selfTestComplete failed => Sys2Proof.Machine.execSelfTestComplete failed s
  | .selfTestTimeout field => Sys2Proof.Machine.execSelfTestTimeout field s
  | .bootstrapLinkUp => Sys2Proof.Machine.execBootstrapLinkUp s
  | .hostLinkUp port partner => Sys2Proof.Machine.execHostLinkUp port partner s
  | .hostLinkDown port => Sys2Proof.Machine.execHostLinkDown port s
  | .refclkSdStop => Sys2Proof.Machine.execRefclkSdStop s
  | .refclkSysStop => Sys2Proof.Machine.execRefclkSysStop s
  | .requestFrame f => Sys2Proof.Machine.execRequestFrame f s
  | .dataSegment f => Sys2Proof.Machine.execDataSegment f s
  | .segGapExpiry inst xfer => Sys2Proof.Machine.execSegGapExpiry inst xfer s
  | .creditQuery f => Sys2Proof.Machine.execCreditQuery f s
  | .creditUpdateTimer inst => Sys2Proof.Machine.execCreditUpdateTimer inst s
  | .mailboxFrame f => Sys2Proof.Machine.execMailboxFrame f s
  | .mboxDoorbellRepeat tenant toTenant => Sys2Proof.Machine.execMboxDoorbellRepeat tenant toTenant s
  | .pauseFrameRx port prios on => Sys2Proof.Machine.execPauseFrameRx port prios on s
  | .replyRelease inst tag => Sys2Proof.Machine.execReplyRelease inst tag s
  | .padExpiry inst tag => Sys2Proof.Machine.execPadExpiry inst tag s
  | .pending inst tag => Sys2Proof.Machine.execPending inst tag s
  | .rngWaitExpiry inst tag => Sys2Proof.Machine.execRngWaitExpiry inst tag s
  | .eventSend inst => Sys2Proof.Machine.execEventSend inst s
  | .identify r => Sys2Proof.Machine.execIdentify r s
  | .enable r => Sys2Proof.Machine.execEnable r s
  | .reset r => Sys2Proof.Machine.execReset r s
  | .resetExecute => Sys2Proof.Machine.execResetExecute s
  | .instanceReset r => Sys2Proof.Machine.execInstanceReset r s
  | .fallow r => Sys2Proof.Machine.execFallow r s
  | .fallowDrainDone => Sys2Proof.Machine.execFallowDrainDone s
  | .wake r => Sys2Proof.Machine.execWake r s
  | .recover r => Sys2Proof.Machine.execRecover r s
  | .recoverDrainTimeout => Sys2Proof.Machine.execRecoverDrainTimeout s
  | .echo r => Sys2Proof.Machine.execEcho r s
  | .modeSet r => Sys2Proof.Machine.execModeSet r s
  | .macsecSa r => Sys2Proof.Machine.execMacsecSa r s
  | .keyGenerate r => Sys2Proof.Machine.execKeyGenerate r s
  | .keyLoad r => Sys2Proof.Machine.execKeyLoad r s
  | .keyLoadPublic r => Sys2Proof.Machine.execKeyLoadPublic r s
  | .keyUnwrap r => Sys2Proof.Machine.execKeyUnwrap r s
  | .keyWrap r => Sys2Proof.Machine.execKeyWrap r s
  | .keyDerive r => Sys2Proof.Machine.execKeyDerive r s
  | .keyDestroy r => Sys2Proof.Machine.execKeyDestroy r s
  | .keyNarrow r => Sys2Proof.Machine.execKeyNarrow r s
  | .keyInfo r => Sys2Proof.Machine.execKeyInfo r s
  | .keyExportPublic r => Sys2Proof.Machine.execKeyExportPublic r s
  | .siloSlotsFree field => Sys2Proof.Machine.execSiloSlotsFree field s
  | .mlkemKeygen r => Sys2Proof.Machine.execMlkemKeygen r s
  | .mlkemEncaps r => Sys2Proof.Machine.execMlkemEncaps r s
  | .mlkemDecaps r => Sys2Proof.Machine.execMlkemDecaps r s
  | .hybridEncaps r => Sys2Proof.Machine.execHybridEncaps r s
  | .hybridDecaps r => Sys2Proof.Machine.execHybridDecaps r s
  | .mldsaSign r => Sys2Proof.Machine.execMldsaSign r s
  | .mldsaVerify r => Sys2Proof.Machine.execMldsaVerify r s
  | .hybridSign r => Sys2Proof.Machine.execHybridSign r s
  | .hybridVerify r => Sys2Proof.Machine.execHybridVerify r s
  | .slhdsaSign r => Sys2Proof.Machine.execSlhdsaSign r s
  | .slhdsaVerify r => Sys2Proof.Machine.execSlhdsaVerify r s
  | .statefulKeygen r => Sys2Proof.Machine.execStatefulKeygen r s
  | .statefulSign r => Sys2Proof.Machine.execStatefulSign r s
  | .leafReservationDone handle ok => Sys2Proof.Machine.execLeafReservationDone handle ok s
  | .statefulVerify r => Sys2Proof.Machine.execStatefulVerify r s
  | .statefulStatus r => Sys2Proof.Machine.execStatefulStatus r s
  | .statefulSetBlock r => Sys2Proof.Machine.execStatefulSetBlock r s
  | .cacheRebuildDone handle => Sys2Proof.Machine.execCacheRebuildDone handle s
  | .mceEncaps r => Sys2Proof.Machine.execMceEncaps r s
  | .mceDecaps r => Sys2Proof.Machine.execMceDecaps r s
  | .rsaEncrypt r => Sys2Proof.Machine.execRsaEncrypt r s
  | .rsaDecrypt r => Sys2Proof.Machine.execRsaDecrypt r s
  | .rsaSign r => Sys2Proof.Machine.execRsaSign r s
  | .rsaVerify r => Sys2Proof.Machine.execRsaVerify r s
  | .ecdsaSign r => Sys2Proof.Machine.execEcdsaSign r s
  | .ecdsaVerify r => Sys2Proof.Machine.execEcdsaVerify r s
  | .ecAgree r => Sys2Proof.Machine.execEcAgree r s
  | .eddsaSign r => Sys2Proof.Machine.execEddsaSign r s
  | .eddsaVerify r => Sys2Proof.Machine.execEddsaVerify r s
  | .digest r => Sys2Proof.Machine.execDigest r s
  | .macGen r => Sys2Proof.Machine.execMacGen r s
  | .macVerify r => Sys2Proof.Machine.execMacVerify r s
  | .digestCompare r => Sys2Proof.Machine.execDigestCompare r s
  | .contextSaveDone field ctx => Sys2Proof.Machine.execContextSaveDone field ctx s
  | .contextRestoreDone field ctx wrapOk => Sys2Proof.Machine.execContextRestoreDone field ctx wrapOk s
  | .winnowContextFree field => Sys2Proof.Machine.execWinnowContextFree field s
  | .aeadSeal r => Sys2Proof.Machine.execAeadSeal r s
  | .aeadOpen r => Sys2Proof.Machine.execAeadOpen r s
  | .saInstall r => Sys2Proof.Machine.execSaInstall r s
  | .saRetire r => Sys2Proof.Machine.execSaRetire r s
  | .saInfo r => Sys2Proof.Machine.execSaInfo r s
  | .cmacGen r => Sys2Proof.Machine.execCmacGen r s
  | .cmacVerify r => Sys2Proof.Machine.execCmacVerify r s
  | .hostPortInlineFrame f => Sys2Proof.Machine.execHostPortInlineFrame f s
  | .linePortFrame f => Sys2Proof.Machine.execLinePortFrame f s
  | .saLifetimeScan => Sys2Proof.Machine.execSaLifetimeScan s
  | .randomGenerate r => Sys2Proof.Machine.execRandomGenerate r s
  | .rngHealth r => Sys2Proof.Machine.execRngHealth r s
  | .rngConfig r => Sys2Proof.Machine.execRngConfig r s
  | .seedbedStartupDone field => Sys2Proof.Machine.execSeedbedStartupDone field s
  | .healthFailure field source apt => Sys2Proof.Machine.execHealthFailure field source apt s
  | .seedbedHealthWindow field source ones ac => Sys2Proof.Machine.execSeedbedHealthWindow field source ones ac s
  | .steepReseed field => Sys2Proof.Machine.execSteepReseed field s
  | .leafSeedRequest field acre => Sys2Proof.Machine.execLeafSeedRequest field acre s
  | .leafSwitchPoint field acre => Sys2Proof.Machine.execLeafSwitchPoint field acre s
  | .programLoad r => Sys2Proof.Machine.execProgramLoad r s
  | .programRun r => Sys2Proof.Machine.execProgramRun r s
  | .programUnload r => Sys2Proof.Machine.execProgramUnload r s
  | .programInfo r => Sys2Proof.Machine.execProgramInfo r s
  | .acreFreeRunStart field acre => Sys2Proof.Machine.execAcreFreeRunStart field acre s
  | .furrowWatchdog u => Sys2Proof.Machine.execFurrowWatchdog u s
  | .li u f => Sys2Proof.Machine.execLi u f s
  | .alu u f => Sys2Proof.Machine.execAlu u f s
  | .alui u f => Sys2Proof.Machine.execAlui u f s
  | .ld u f => Sys2Proof.Machine.execLd u f s
  | .st u f => Sys2Proof.Machine.execSt u f s
  | .br u f => Sys2Proof.Machine.execBr u f s
  | .jmp u f => Sys2Proof.Machine.execJmp u f s
  | .jal u f => Sys2Proof.Machine.execJal u f s
  | .jr u f => Sys2Proof.Machine.execJr u f s
  | .loop u f => Sys2Proof.Machine.execLoop u f s
  | .barrier u f => Sys2Proof.Machine.execBarrier u f s
  | .halt u f => Sys2Proof.Machine.execHalt u f s
  | .retry u f => Sys2Proof.Machine.execRetry u f s
  | .abort u f => Sys2Proof.Machine.execAbort u f s
  | .frec u f => Sys2Proof.Machine.execFrec u f s
  | .qld u f => Sys2Proof.Machine.execQld u f s
  | .tread u f => Sys2Proof.Machine.execTread u f s
  | .mop u f => Sys2Proof.Machine.execMop u f s
  | .mset u f => Sys2Proof.Machine.execMset u f s
  | .mget u f => Sys2Proof.Machine.execMget u f s
  | .vmov u f => Sys2Proof.Machine.execVmov u f s
  | .vbcast u f => Sys2Proof.Machine.execVbcast u f s
  | .vext u f => Sys2Proof.Machine.execVext u f s
  | .vins u f => Sys2Proof.Machine.execVins u f s
  | .valu u f => Sys2Proof.Machine.execValu u f s
  | .valui u f => Sys2Proof.Machine.execValui u f s
  | .vcmp u f => Sys2Proof.Machine.execVcmp u f s
  | .qadd u f => Sys2Proof.Machine.execQadd u f s
  | .qsub u f => Sys2Proof.Machine.execQsub u f s
  | .qmulh u f => Sys2Proof.Machine.execQmulh u f s
  | .qrshr u f => Sys2Proof.Machine.execQrshr u f s
  | .modadd u f => Sys2Proof.Machine.execModadd u f s
  | .modsub u f => Sys2Proof.Machine.execModsub u f s
  | .modmul u f => Sys2Proof.Machine.execModmul u f s
  | .barrett u f => Sys2Proof.Machine.execBarrett u f s
  | .compress u f => Sys2Proof.Machine.execCompress u f s
  | .decompress u f => Sys2Proof.Machine.execDecompress u f s
  | .p2round u f => Sys2Proof.Machine.execP2round u f s
  | .decompose u f => Sys2Proof.Machine.execDecompose u f s
  | .vld u f => Sys2Proof.Machine.execVld u f s
  | .vst u f => Sys2Proof.Machine.execVst u f s
  | .ld2Ld4 u k f => Sys2Proof.Machine.execLd2Ld4 u k f s
  | .st2St4 u k f => Sys2Proof.Machine.execSt2St4 u k f s
  | .gather u f => Sys2Proof.Machine.execGather u f s
  | .scatter u f => Sys2Proof.Machine.execScatter u f s
  | .shuf u f => Sys2Proof.Machine.execShuf u f s
  | .shmask u f => Sys2Proof.Machine.execShmask u f s
  | .shadd u f => Sys2Proof.Machine.execShadd u f s
  | .shsub u f => Sys2Proof.Machine.execShsub u f s
  | .shpub u f => Sys2Proof.Machine.execShpub u f s
  | .shmul u f => Sys2Proof.Machine.execShmul u f s
  | .srefresh u f => Sys2Proof.Machine.execSrefresh u f s
  | .sa2b u f => Sys2Proof.Machine.execSa2b u f s
  | .sb2a u f => Sys2Proof.Machine.execSb2a u f s
  | .scmp u f => Sys2Proof.Machine.execScmp u f s
  | .ssel u f => Sys2Proof.Machine.execSsel u f s
  | .recomb u f => Sys2Proof.Machine.execRecomb u f s
  | .shst u f => Sys2Proof.Machine.execShst u f s
  | .shld u f => Sys2Proof.Machine.execShld u f s
  | .ucodeVersion r => Sys2Proof.Machine.execUcodeVersion r s
  | .ucodePatchStore r => Sys2Proof.Machine.execUcodePatchStore r s
  | .openLoad r => Sys2Proof.Machine.execOpenLoad r s
  | .openClear r => Sys2Proof.Machine.execOpenClear r s
  | .customerOpcode opcode r => Sys2Proof.Machine.execCustomerOpcode opcode r s
  | .caddyThreadFree field => Sys2Proof.Machine.execCaddyThreadFree field s
  | .nextWord t w => Sys2Proof.Machine.execNextWord t w s
  | .jumpWord t w => Sys2Proof.Machine.execJumpWord t w s
  | .callWord t w => Sys2Proof.Machine.execCallWord t w s
  | .retWord t w => Sys2Proof.Machine.execRetWord t w s
  | .branchWord t w => Sys2Proof.Machine.execBranchWord t w s
  | .endWord t w => Sys2Proof.Machine.execEndWord t w s
  | .yieldWord t w => Sys2Proof.Machine.execYieldWord t w s
  | .waitWord t w => Sys2Proof.Machine.execWaitWord t w s
  | .dispatchWord t w => Sys2Proof.Machine.execDispatchWord t w s
  | .trapWord t w => Sys2Proof.Machine.execTrapWord t w s
  | .gateKey g => Sys2Proof.Machine.execGateKey g s
  | .gateQuota t => Sys2Proof.Machine.execGateQuota t s
  | .gateDraw t => Sys2Proof.Machine.execGateDraw t s
  | .gateProgram t => Sys2Proof.Machine.execGateProgram t s
  | .gateDigest t => Sys2Proof.Machine.execGateDigest t s
  | .gateTally t => Sys2Proof.Machine.execGateTally t s
  | .gateNewkey t => Sys2Proof.Machine.execGateNewkey t s
  | .gateResult t => Sys2Proof.Machine.execGateResult t s
  | .microcodeRunLimit t => Sys2Proof.Machine.execMicrocodeRunLimit t s
  | .parityError field word => Sys2Proof.Machine.execParityError field word s
  | .controlStoreReloadDone field => Sys2Proof.Machine.execControlStoreReloadDone field s
  | .controlStoreScrub field bad => Sys2Proof.Machine.execControlStoreScrub field bad s
  | .tkOpen r => Sys2Proof.Machine.execTkOpen r s
  | .tkStep r => Sys2Proof.Machine.execTkStep r s
  | .tkDecide r => Sys2Proof.Machine.execTkDecide r s
  | .tkSend r => Sys2Proof.Machine.execTkSend r s
  | .tkClose r => Sys2Proof.Machine.execTkClose r s
  | .tkIdleExpiry handle => Sys2Proof.Machine.execTkIdleExpiry handle s
  | .sheafSign r => Sys2Proof.Machine.execSheafSign r s
  | .sheafVerify r => Sys2Proof.Machine.execSheafVerify r s
  | .attest r => Sys2Proof.Machine.execAttest r s
  | .instanceCreate r => Sys2Proof.Machine.execInstanceCreate r s
  | .instanceDestroy r => Sys2Proof.Machine.execInstanceDestroy r s
  | .shareSet r => Sys2Proof.Machine.execShareSet r s
  | .instanceInfo r => Sys2Proof.Machine.execInstanceInfo r s
  | .instanceBind r => Sys2Proof.Machine.execInstanceBind r s
  | .instanceList r => Sys2Proof.Machine.execInstanceList r s
  | .mboxStatus r => Sys2Proof.Machine.execMboxStatus r s
  | .settingGet r => Sys2Proof.Machine.execSettingGet r s
  | .settingSet r => Sys2Proof.Machine.execSettingSet r s
  | .storeSettings r => Sys2Proof.Machine.execStoreSettings r s
  | .lifecycleStatus r => Sys2Proof.Machine.execLifecycleStatus r s
  | .attestBoot r => Sys2Proof.Machine.execAttestBoot r s
  | .debugUnlock r => Sys2Proof.Machine.execDebugUnlock r s
  | .lcAdvance r => Sys2Proof.Machine.execLcAdvance r s
  | .ownerSet r => Sys2Proof.Machine.execOwnerSet r s
  | .identityInfo r => Sys2Proof.Machine.execIdentityInfo r s
  | .gleanRead r => Sys2Proof.Machine.execGleanRead r s
  | .logRead r => Sys2Proof.Machine.execLogRead r s
  | .alarmRead r => Sys2Proof.Machine.execAlarmRead r s
  | .timeGet r => Sys2Proof.Machine.execTimeGet r s
  | .timeCtl r => Sys2Proof.Machine.execTimeCtl r s
  | .gleanCtl r => Sys2Proof.Machine.execGleanCtl r s
  | .pageMeta r => Sys2Proof.Machine.execPageMeta r s
  | .diagRun r => Sys2Proof.Machine.execDiagRun r s
  | .diagWord r => Sys2Proof.Machine.execDiagWord r s
  | .diagResume r => Sys2Proof.Machine.execDiagResume r s
  | .telemetryPeriod => Sys2Proof.Machine.execTelemetryPeriod s
  | .ptpSyncRx port offset => Sys2Proof.Machine.execPtpSyncRx port offset s
  | .ptpSyncTimeout => Sys2Proof.Machine.execPtpSyncTimeout s
  | .ppsInEdge => Sys2Proof.Machine.execPpsInEdge s
  | .ppsInMissed => Sys2Proof.Machine.execPpsInMissed s
  | .ppsOutSecond => Sys2Proof.Machine.execPpsOutSecond s
  | .fieldAliveFall field => Sys2Proof.Machine.execFieldAliveFall field s
  | .headlandFailover => Sys2Proof.Machine.execHeadlandFailover s
  | .plolysCrcFail field port => Sys2Proof.Machine.execPlolysCrcFail field port s
  | .plolysLinkDown field port => Sys2Proof.Machine.execPlolysLinkDown field port s
  | .sensorTrip field cls island detail => Sys2Proof.Machine.execSensorTrip field cls island detail s
  | .alarmLineReceived field source => Sys2Proof.Machine.execAlarmLineReceived field source s
  | .tamperMismatch input => Sys2Proof.Machine.execTamperMismatch input s
  | .tempSensorReading field sensor celsius => Sys2Proof.Machine.execTempSensorReading field sensor celsius s
  | .thermalShutdown field => Sys2Proof.Machine.execThermalShutdown field s
  | .powerWindow m => Sys2Proof.Machine.execPowerWindow m s
  | .cappedGateDrained field => Sys2Proof.Machine.execCappedGateDrained field s
  | .powerReversalStep m => Sys2Proof.Machine.execPowerReversalStep m s
  | .brownNLow => Sys2Proof.Machine.execBrownNLow s
  | .brownNHigh => Sys2Proof.Machine.execBrownNHigh s
  | .gddr6Refresh field channel => Sys2Proof.Machine.execGddr6Refresh field channel s
  | .gddr6TemperatureRead field celsius => Sys2Proof.Machine.execGddr6TemperatureRead field celsius s
  | .retrainDue field queued => Sys2Proof.Machine.execRetrainDue field queued s
  | .retrainDeferLimit field => Sys2Proof.Machine.execRetrainDeferLimit field s
  | .edcFailure e => Sys2Proof.Machine.execEdcFailure e s
  | .harrowVisit field symbols verifyBad => Sys2Proof.Machine.execHarrowVisit field symbols verifyBad s
  | .pageRetirement field page spareBad recordBad => Sys2Proof.Machine.execPageRetirement field page spareBad recordBad s
  | .mergeIdleTimer field page => Sys2Proof.Machine.execMergeIdleTimer field page s
  | .whiskRequestPromotion field => Sys2Proof.Machine.execWhiskRequestPromotion field s
  | .serviceBufferSpaceFree => Sys2Proof.Machine.execServiceBufferSpaceFree s
  | .lcAdvanceDrainTimeout => Sys2Proof.Machine.execLcAdvanceDrainTimeout s
  | .refclkSdReturn => Sys2Proof.Machine.execRefclkSdReturn s
  | .refclkSysReturn => Sys2Proof.Machine.execRefclkSysReturn s
  | .vddCoreBelow075V field => Sys2Proof.Machine.execVddCoreBelow075V field s
  | .vppFuseVoltageOutsideTest field => Sys2Proof.Machine.execVppFuseVoltageOutsideTest field s
  | .jtagTapAccess j => Sys2Proof.Machine.execJtagTapAccess j s
  | .pauseRefresh port prio => Sys2Proof.Machine.execPauseRefresh port prio s
  | .pauseTimerExpiry port prio => Sys2Proof.Machine.execPauseTimerExpiry port prio s

end Sys2Proof.Machine
end

