-- ==== Sys2Proof/Machine/Tick.lean ====
section
/-! DEFINITION. What the block does by itself when no command waits (log entry 3): the row of the table that is due, or the passing of
time. -/
namespace Sys2Proof.Machine

/-- The row of a command that a frame has admitted. -/
def commandRow (c : Cmd) : Option Instr :=
  let r : CmdRec := { inst := c.inst, tag := c.tag, expert := c.expert, flags := c.flags, params := [], seq := c.seq, pos := c.pos,
                      prio := c.prio, ordered := c.ordered, ctx := c.ctx, admitted := true, hit := .none }
  if isCustomer c.op then some (.customerOpcode c.op r)
  else
    match basicOp c.op with
    | 0x0001 => some (.identify r)
    | 0x0002 => some (.enable r)
    | 0x0003 => some (.reset r)
    | 0x0004 => some (.instanceReset r)
    | 0x0005 => some (.fallow r)
    | 0x0006 => some (.wake r)
    | 0x0007 => some (.recover r)
    | 0x0008 => some (.echo r)
    | 0x0010 => some (.modeSet r)
    | 0x0020 => some (.macsecSa r)
    | 0x0101 => some (.keyGenerate r)
    | 0x0102 => some (.keyLoad r)
    | 0x0103 => some (.keyLoadPublic r)
    | 0x0104 => some (.keyUnwrap r)
    | 0x0105 => some (.keyWrap r)
    | 0x0106 => some (.keyDerive r)
    | 0x0107 => some (.keyDestroy r)
    | 0x0108 => some (.keyNarrow r)
    | 0x0109 => some (.keyInfo r)
    | 0x010A => some (.keyExportPublic r)
    | 0x0201 => some (.mlkemKeygen r)
    | 0x0202 => some (.mlkemEncaps r)
    | 0x0203 => some (.mlkemDecaps r)
    | 0x0210 => some (.hybridEncaps r)
    | 0x0211 => some (.hybridDecaps r)
    | 0x0301 => some (.mldsaSign r)
    | 0x0302 => some (.mldsaVerify r)
    | 0x0310 => some (.hybridSign r)
    | 0x0311 => some (.hybridVerify r)
    | 0x0320 => some (.slhdsaSign r)
    | 0x0321 => some (.slhdsaVerify r)
    | 0x0801 => some (.statefulKeygen r)
    | 0x0802 => some (.statefulSign r)
    | 0x0803 => some (.statefulVerify r)
    | 0x0804 => some (.statefulStatus r)
    | 0x0805 => some (.statefulSetBlock r)
    | 0x0220 => some (.mceEncaps r)
    | 0x0221 => some (.mceDecaps r)
    | 0x0401 => some (.rsaEncrypt r)
    | 0x0402 => some (.rsaDecrypt r)
    | 0x0403 => some (.rsaSign r)
    | 0x0404 => some (.rsaVerify r)
    | 0x0410 => some (.ecdsaSign r)
    | 0x0411 => some (.ecdsaVerify r)
    | 0x0412 => some (.ecAgree r)
    | 0x0420 => some (.eddsaSign r)
    | 0x0421 => some (.eddsaVerify r)
    | 0x0601 => some (.digest r)
    | 0x0602 => some (.macGen r)
    | 0x0603 => some (.macVerify r)
    | 0x0604 => some (.digestCompare r)
    | 0x0501 => some (.aeadSeal r)
    | 0x0502 => some (.aeadOpen r)
    | 0x0510 => some (.saInstall r)
    | 0x0511 => some (.saRetire r)
    | 0x0512 => some (.saInfo r)
    | 0x0520 => some (.cmacGen r)
    | 0x0521 => some (.cmacVerify r)
    | 0x0701 => some (.randomGenerate r)
    | 0x0702 => some (.rngHealth r)
    | 0x0710 => some (.rngConfig r)
    | 0x0A01 => some (.programLoad r)
    | 0x0A02 => some (.programRun r)
    | 0x0A03 => some (.programUnload r)
    | 0x0A04 => some (.programInfo r)
    | 0x0A10 => some (.ucodeVersion r)
    | 0x0A11 => some (.ucodePatchStore r)
    | 0x0A12 => some (.openLoad r)
    | 0x0A13 => some (.openClear r)
    | 0x0901 => some (.tkOpen r)
    | 0x0902 => some (.tkStep r)
    | 0x0903 => some (.tkDecide r)
    | 0x0904 => some (.tkSend r)
    | 0x0905 => some (.tkClose r)
    | 0x0910 => some (.sheafSign r)
    | 0x0911 => some (.sheafVerify r)
    | 0x0920 => some (.attest r)
    | 0x0E01 => some (.instanceCreate r)
    | 0x0E02 => some (.instanceDestroy r)
    | 0x0E03 => some (.shareSet r)
    | 0x0E04 => some (.instanceInfo r)
    | 0x0E05 => some (.instanceBind r)
    | 0x0E06 => some (.instanceList r)
    | 0x0E20 => some (.mboxStatus r)
    | 0x0B01 => some (.settingGet r)
    | 0x0B02 => some (.settingSet r)
    | 0x0B03 => some (.storeSettings r)
    | 0x0C01 => some (.lifecycleStatus r)
    | 0x0C02 => some (.attestBoot r)
    | 0x0C03 => some (.debugUnlock r)
    | 0x0C10 => some (.lcAdvance r)
    | 0x0C11 => some (.ownerSet r)
    | 0x0C12 => some (.identityInfo r)
    | 0x0D01 => some (.gleanRead r)
    | 0x0D02 => some (.logRead r)
    | 0x0D03 => some (.alarmRead r)
    | 0x0D04 => some (.timeGet r)
    | 0x0D05 => some (.timeCtl r)
    | 0x0D06 => some (.gleanCtl r)
    | 0x0D10 => some (.pageMeta r)
    | 0x0D20 => some (.diagRun r)
    | 0x0D21 => some (.diagWord r)
    | 0x0D22 => some (.diagResume r)
    | _ => none

/-- The row of an instruction of a furrow, by its OP. -/
def saivoRow (u : FurrowRef) (op : Nat) (i : SaivoFields) : Option Instr :=
  match op with
  | 0x01 => some (.li u i)
  | 0x02 => some (.alu u i)
  | 0x03 => some (.alui u i)
  | 0x04 => some (.ld u i)
  | 0x05 => some (.st u i)
  | 0x08 => some (.br u i)
  | 0x09 => some (.jmp u i)
  | 0x0A => some (.jal u i)
  | 0x0B => some (.jr u i)
  | 0x0C => some (.loop u i)
  | 0x0D => some (.barrier u i)
  | 0x0E => some (.halt u i)
  | 0x0F => some (.retry u i)
  | 0x10 => some (.abort u i)
  | 0x11 => some (.frec u i)
  | 0x12 => some (.qld u i)
  | 0x13 => some (.tread u i)
  | 0x18 => some (.mop u i)
  | 0x19 => some (.mset u i)
  | 0x1A => some (.mget u i)
  | 0x20 => some (.vmov u i)
  | 0x21 => some (.vbcast u i)
  | 0x22 => some (.vext u i)
  | 0x23 => some (.vins u i)
  | 0x24 => some (.valu u i)
  | 0x25 => some (.valui u i)
  | 0x26 => some (.vcmp u i)
  | 0x28 => some (.qadd u i)
  | 0x29 => some (.qsub u i)
  | 0x2A => some (.qmulh u i)
  | 0x2B => some (.qrshr u i)
  | 0x30 => some (.modadd u i)
  | 0x31 => some (.modsub u i)
  | 0x32 => some (.modmul u i)
  | 0x33 => some (.barrett u i)
  | 0x38 => some (.compress u i)
  | 0x39 => some (.decompress u i)
  | 0x3A => some (.p2round u i)
  | 0x3B => some (.decompose u i)
  | 0x40 => some (.vld u i)
  | 0x41 => some (.vst u i)
  | 0x48 => some (.gather u i)
  | 0x49 => some (.scatter u i)
  | 0x4A => some (.shuf u i)
  | 0x50 => some (.shmask u i)
  | 0x51 => some (.shadd u i)
  | 0x52 => some (.shsub u i)
  | 0x53 => some (.shpub u i)
  | 0x54 => some (.shmul u i)
  | 0x55 => some (.srefresh u i)
  | 0x56 => some (.sa2b u i)
  | 0x57 => some (.sb2a u i)
  | 0x58 => some (.scmp u i)
  | 0x59 => some (.ssel u i)
  | 0x5A => some (.recomb u i)
  | 0x5B => some (.shst u i)
  | 0x5C => some (.shld u i)
  | 0x42 => some (.ld2Ld4 u 2 i)
  | 0x43 => some (.ld2Ld4 u 3 i)
  | 0x44 => some (.ld2Ld4 u 4 i)
  | 0x45 => some (.st2St4 u 2 i)
  | 0x46 => some (.st2St4 u 3 i)
  | 0x47 => some (.st2St4 u 4 i)
  | _ => none

/-- The row of a microword, by its NXT. -/
def microRow (t : ThreadRef) (nxt : Nat) (w : Micro) : Option Instr :=
  match nxt with
  | 0 => some (.nextWord t w)
  | 1 => some (.jumpWord t w)
  | 2 => some (.callWord t w)
  | 3 => some (.retWord t w)
  | 4 => some (.branchWord t w)
  | 5 => some (.endWord t w)
  | 6 => some (.yieldWord t w)
  | 7 => some (.waitWord t w)
  | 8 => some (.dispatchWord t w)
  | _ => some (.trapWord t w)

/-- The gate that begins at a word (R376). -/
def gateRow (t : ThreadRef) (pc : Nat) : Option Instr :=
  match pc with
  | 0x000 => some (.gateKey { thread := t })
  | 0x008 => some (.gateQuota t)
  | 0x010 => some (.gateDraw t)
  | 0x018 => some (.gateProgram t)
  | 0x020 => some (.gateDigest t)
  | 0x028 => some (.gateTally t)
  | 0x030 => some (.gateNewkey t)
  | 0x038 => some (.gateResult t)
  | _ => none

/-! ### What is due -/

/-- A command stands before step 7 and nothing holds it back; one in its open routine goes on by its microwords. -/
def State.canStart (s : State) (c : Cmd) : Bool :=
  c.stage == .dispatched && !(isCustomer c.op && c.aux != 0) &&
    (! [0x0902, 0x0903, 0x0904, 0x0905].contains (basicOp c.op) || c.checked || s.ikeTurn c) && (c.checked || (s.targetTurn c && s.rngTurn c))

/-- The row of the next command that can start, in the order of arrival. -/
def State.dueCommand (s : State) : Option Instr := (s.cmds.find? s.canStart).bind commandRow

/-- The next reply that can be released (R28 to R31). -/
def State.dueReply (s : State) : Option Instr := (s.cmds.find? s.releasable).map fun c => .replyRelease c.inst c.tag

/-- The next event that can leave (R516). -/
def State.dueEvent (s : State) : Option Instr :=
  (s.insts.find? fun i => !i.evq.isEmpty && (s.eventRoute i.bind.id).any fun p => s.canSend p.1 i.bind.id (tciPrio (s.eventTci i.bind.id)) 2 none).map
    fun i => .eventSend i.bind.id

/-- What a thread does next: the gate it stands at, or the word its field's control store holds in the open region, whose parity is checked
as it is fetched (R372); a vendor word is not the model's to read. -/
def State.threadRow (s : State) (t : ThreadRef) : Option Instr :=
  match s.threadCmd t with
  | none => none
  | some c =>
    if c.stage != .running && c.stage != .dispatched then none
    else
      let pc := (s.thread t).pc
      if (s.thread t).words ≥ 2 ^ 30 then some (.microcodeRunLimit t)
      else if pc ≥ openBase then
        let w := (s.field t.field).word pc
        if !microParityOk w then some (.parityError t.field pc) else microRow t (microNxt w) (microFields w)
      else gateRow t pc

/-- The threads of the part, each field's in rotation from the one after the last that issued, those that gave up a round last (R366, R369). -/
def State.threadRefs (s : State) : List ThreadRef :=
  s.fieldNums.flatMap fun f =>
    let ts := (List.range 64).map fun k => (⟨f, ((s.field f).lastThread + 1 + k) % 64⟩ : ThreadRef)
    ts.filter (fun t => !(s.thread t).resting) ++ ts.filter fun t => (s.thread t).resting

/-- The next microword or gate. -/
def State.dueThread (s : State) : Option Instr := s.threadRefs.findSome? s.threadRow

/-- What a furrow does next (R331, R334): the instruction at its pc, or the watchdog. -/
def State.furrowRow (s : State) (u : FurrowRef) : Option Instr :=
  match s.issuing u with
  | none => none
  | some r =>
    let f := s.furrow u
    if f.cycles ≥ r.image.maxCycles || f.pc ≥ r.image.instrs.length then some (.furrowWatchdog u)
    else if f.waitLeaf && !((s.field u.field).leaf.getD (u.furrow / 4) {}).running then none
    else
      let w := r.image.instrs.getD f.pc 0
      saivoRow u (saivoOp w) (saivoFields w)

/-- Every furrow of the part. -/
def State.furrowRefs (s : State) : List FurrowRef := s.fieldNums.flatMap fun f => (List.range 16).map fun k => ⟨f, k⟩

/-- The next instruction of a furrow: the furrow that has used the fewest cycles goes first. -/
def State.dueFurrow (s : State) : Option Instr :=
  (((s.furrowRefs.filter fun u => (s.furrowRow u).isSome).foldl (fun (b : Option FurrowRef) u => match b with
    | none => some u
    | some v => if (s.furrow u).cycles < (s.furrow v).cycles then some u else b) none)).bind s.furrowRow

/-- An acre a waiting run can take (R416). -/
def State.dueAcre (s : State) : Option Instr :=
  (s.fieldNums.flatMap fun f => (List.range 4).map fun a => (f, a)).findSome? fun p =>
    (s.nextRun p.1 p.2).map fun _ => .acreFreeRunStart p.1 p.2

/-- A time limit that has passed: RNG_WAIT_LIMIT (R104), SEG_GAP (R78), TK_IDLE (R393). -/
def State.dueTimer (s : State) : Option Instr :=
  let held := s.cmds.find? fun c => match c.stage with
    | .waitRng t => s.clock.time ≥ t + 1000000 * s.setting 0x08
    | _ => false
  let gap := s.xfers.find? fun x => s.clock.time ≥ x.last + 1000000 * s.settingI x.inst 0x07
  let idle := s.ikes.find? fun k => k.state < 5 && s.clock.time ≥ k.lastCmd + 1000000000 * s.setting 0x16 &&
    !s.cmds.any fun c => c.onIke && c.inst == hInst k.handle && c.p 0 6 == k.handle && !c.isDone
  ((held.map fun c => .rngWaitExpiry c.inst c.tag).or (gap.map fun x => .segGapExpiry x.inst x.id)).or
    (idle.map fun k => .tkIdleExpiry k.handle)

/-- The request at the head of a field's Steep queue still waits, and the pool allows it (R301, R302). -/
def State.headWaits (s : State) (f : Nat) : Bool :=
  match (s.poolPlaces f).min? with
  | none => false
  | some p => (s.field f).leaf.any (·.asked == p) || s.cmds.any fun c => c.queued == p && c.stage == .waitPool

/-- A reseed that requests wait for and the pool allows (R302). -/
def State.dueReseed (s : State) : Option Instr :=
  (s.fieldNums.find? fun f => (s.field f).seed.state == .ready && (s.field f).seed.holds 512 &&
    (s.headWaits f || ((s.field f).seed.reqs ≥ 4096 && f == s.pkg.headland && s.pkg.dnonceDue))).map fun f => .steepReseed f

/-- A source's tests have come to a limit, or its window of 4,096 bits is full (R297). -/
def State.dueHealth (s : State) : Option Instr :=
  s.fieldNums.findSome? fun f =>
    if !s.seedTests f then none
    else [0, 1].findSome? fun k =>
      let n := (s.field f).seed.sources.getD k {}
      if n.tests.run ≥ (s.field f).seed.lim.rct then some (.healthFailure f k false)
      else if n.tests.aptCount ≥ (s.field f).seed.lim.apt then some (.healthFailure f k true)
      else if n.tests.seen ≥ 4096 then some (.seedbedHealthWindow f k n.tests.ones n.tests.ac)
      else none

/-- Contexts are free for a user that waits for them (R250). -/
def State.dueContext (s : State) : Option Instr :=
  (s.fieldNums.find? fun f => (s.nextUser f).isSome).map fun f => .winnowContextFree f

/-- The row that is due. -/
def State.due (s : State) : Option Instr :=
  ((((((((((s.pkg.alarmLine.head?.map fun p => Instr.alarmLineReceived p.1 p.2).or s.dueReply).or s.dueEvent).or
    (if s.pkg.resetPending then some Instr.resetExecute else none)).or (s.dueHealth.or s.dueReseed)).or s.dueContext).or s.dueCommand).or s.dueThread).or
      s.dueAcre).or s.dueFurrow).or s.dueTimer

/-! ### The passing of time -/

/-- A command that waits, whose execution goes on in steps of its own, or that streams and is not yet judged (R80), tries again, one held at a
gate there (R377): one in turn as time passes. -/
def State.retryRow (s : State) : Option Instr :=
  let ws := s.cmds.filter fun c => !c.isDone && !(c.stage == .receiving && ((c.checked && !(c.aead && !c.begun)) || !opStreaming s c.op c.params)) && c.stage != .dispatched &&
    !(isCustomer c.op && c.aux != 0 && c.stage == .running)
  (ws[s.clock.time % ws.length]?).bind fun c =>
    if isCustomer c.op && c.aux != 0 then gateRow ⟨c.fld, c.aux - 1⟩ (s.thread ⟨c.fld, c.aux - 1⟩).pc else commandRow c

/-- A Seedbed tests and conditions its raw bits: in service, and in a start-up once its 2.45 ms of warm-up are over (R297, R299). -/
def Seedbed.senses (x : Seedbed) (now : Nat) : Bool :=
  x.state == .ready || ((x.state == .starting || x.state == .restarting) && now ≥ x.since + 2450000)

/-- Each source delivers a raw bit, 40 million a second, and what is conditioned enters the pool (R295 to R297). -/
def Seedbed.sense (x : Seedbed) (f now : Nat) : Seedbed :=
  if now % 25 == 0 && x.senses now then
    ({ x with sources := x.sources.zipIdx.map fun ((n : Source), k) => n.take x.lim.cond (Config.noise f k now) }).enter
  else x

/-- One nanosecond passes (R513, R515): a correction slews the time base by one part in a thousand, the pools fill, and EVENT pulses
come to an end (R536). -/
def State.passTime (s : State) : State :=
  let c := s.clock
  let c := if c.phase ≥ 999 then
      (if c.slew > 0 then { c with time := c.time + 2, slew := c.slew - 1, phase := 0 }
      else if c.slew < 0 then { c with slew := c.slew + 1, phase := 0 }
      else { c with time := c.time + 1, phase := 0 })
    else { c with time := c.time + 1, phase := c.phase + 1 }
  let s := { s with clock := c }
  let s := { s with fields := s.fields.zipIdx.map fun (x, f) => if s.seedTests f then { x with seed := x.seed.sense f c.time } else x }
  if c.time % 2000 == 0 then s.modPkg fun p => { p with pulses := p.pulses - 1 } else s

/-- The tick (log entry 3). -/
def State.tick (s : State) : Host.Outcome State Fault Refusal :=
  match s.due with
  | some i => exec i s
  | none =>
    match s.retryRow with
    | none => .next s.passTime
    | some i =>
      match exec i s with
      | .next t => .next t.passTime
      | r => r

end Sys2Proof.Machine
end

