-- ==== Sys2Proof/Safety.lean ====
section
/-! DEFINITION. What holds of every state the block can be in, and when a command of the block runs to its own effect: the terms the
statements use. -/
namespace Sys2Proof.Machine

/-! ### The invariant -/

/-- A furrow's local data memory is in canonical form (R319). -/
def Furrow.Sound (u : Furrow) : Prop := u.dmem.wf = true

/-- A field has its 16 furrows (R4) and its 64 Caddy threads (R366), and every furrow memory is canonical. -/
def FieldSt.Sound (x : FieldSt) : Prop :=
  x.furrows.length = 16 ∧ x.threads.length = 64 ∧ ∀ u ∈ x.furrows, u.Sound

/-- A run's areas A1 and A2 of acre SRAM are in canonical form (R319, R330). -/
def Run.Sound (r : Run) : Prop := r.a1.wf = true ∧ r.a2.wf = true

/-- The shape of the block: as many fields as the fuses say (R1, R4), two host ports (R524), every field with its furrows and threads,
and every furrow and acre memory canonical, so that equal memories are equal data. -/
def State.Sound (s : State) : Prop :=
  s.fields.length = s.fuses.fields ∧ s.ports.length = 2 ∧ (∀ x ∈ s.fields, x.Sound) ∧ ∀ r ∈ s.runs, r.Sound

/-! ### A command that runs to its own effect

The command rows carry an admitted command on from step 7 (R101). What follows says, on the state and the command alone, when nothing
refuses, holds or delays it before its commit point, and what the state is then. -/

/-- A page that no foreground read repairs or refuses (R440). -/
def State.clean (s : State) (f p : Nat) : Bool := (s.pageOf f p).read == .clean

/-- The state once step 9 has read the named descriptors (R126, R141). -/
def Desc.readState (d : Desc) (s : State) (c : Cmd) : State := (d.keys s c).foldl (fun s k => s.readDesc c k) s

/-- The command with its named keys, as steps 9 and 10 read them (R122, R126). -/
def Desc.readCmd (d : Desc) (s : State) (c : Cmd) : Cmd :=
  { c with keys := (d.keys s c).filterMap ((d.readState s c).key? c.inst),
           corrected := ((d.readState s c).cmd? c.inst c.tag).any (·.corrected) }

/-- The checks of steps 9 to 12 in their order (R101, R102). -/
def Desc.later (d : Desc) (s : State) (c : Cmd) : List (Bool × Status) :=
  let x := d.readState s c
  let c' := d.readCmd s c
  d.first x c' ++ x.keyChecks c' (d.keys s c) ++ d.nine x c' ++ x.commonChecks c' c'.keys ++ d.post x c'

/-- Steps 7 to 12 pass (R101). -/
def Desc.passes (d : Desc) (s : State) (c : Cmd) : Bool := (firstFail (d.pre s c)).isNone && (firstFail (d.later s c)).isNone

/-- The command that has passed steps 7 to 12: it holds a thread and its keys (R151, R366), runs at its masking order (R178), and twinned where
R132 has Headland do so. -/
def Desc.judgedCmd (d : Desc) (s : State) (c : Cmd) : Cmd :=
  let c' := d.readCmd s c
  { c' with order := (d.readState s c).orderOf c', checked := true, started := true, twinned := c'.twinned || c'.headTwin c'.keys, twinLocal := c'.twinLocal || c'.headTwin c'.keys }

/-- The state with the command that has passed steps 7 to 12. -/
def Desc.judgedState (d : Desc) (s : State) (c : Cmd) : State :=
  let c' := d.readCmd s c
  (d.onPass ((d.readState s c).modCmd c.inst c.tag fun e =>
    { e with keys := c'.keys, order := (d.readState s c).orderOf c', checked := true, started := true,
             twinned := e.twinned || c'.headTwin c'.keys, twinLocal := e.twinLocal || c'.headTwin c'.keys,
             hashAt := (d.head c').getD 0, hashBlock := d.absorbs c' }) c').absorbSegment c.inst c.tag

/-- The state in which Whisk has served every request of the command (R284). -/
def State.whiskServed (s : State) (c : Cmd) : State := s.queueWhisk c []

/-- Step 13 passes (R104, R284, R285, R301, R307): randomness is there or not needed, Whisk serves the command's requests and a furrow its masked
AES, and no reseed is due that the pool cannot serve. -/
def Desc.served (d : Desc) (s : State) (c : Cmd) : Bool :=
  let x := s.whiskServed c
  d.randomness s c == .there && (s.whiskLeft c (d.whiskReqs s c)).isEmpty && !(c.furrowAes && !(c.fields x).all x.furrowFree) &&
    !((d.draw x c).any (· != 0) && x.steepStalls (c.field.getD x.pkg.headland) (d.reseed x c) (d.reqs x c) c.queued)

/-- The state in which the command finds its slots and loads its keys (R136, R138). -/
def State.afterServed (s : State) (c : Cmd) : State := (s.whiskServed c).modCmd c.inst c.tag fun e => { e with queued := 0 }

/-- The state that step 13 leaves, where it passes. -/
def Desc.servedState (d : Desc) (s : State) (c : Cmd) : State := (d.judgedState s c).afterServed (d.judgedCmd s c)

/-- The state once the command has begun (R180), and what its description has follow that. -/
def Desc.startedState (d : Desc) (s : State) (c : Cmd) (hs : List (Nat × List Resident)) : State := d.onStart (d.begunState s c hs) c

/-- Every blob to be read lies on clean pages (R138). -/
def Desc.loadable (d : Desc) (s : State) (c : Cmd) : Bool :=
  (d.loads s c).all fun k => k.pages.all fun p => s.clean (hHome k.handle) p

/-- The command is outstanding, and no wait of its own, nor those of R196, R250 and R482, is left before the commit point. -/
def Desc.unwaiting (d : Desc) (s : State) (c : Cmd) : Bool :=
  (s.cmd? c.inst c.tag).any (!·.isDone) && !(c.mode .hardened && opAcre c.op && !(c.fields s).all (s.leafUp c)) && !s.leafBehind c &&
    (d.wait s c).isNone && !s.hashWaits c

/-- The draw at the commit point (R107, R301). -/
def Desc.drawn (d : Desc) (s : State) (c : Cmd) : Bytes × State :=
  let f := c.field.getD s.pkg.headland
  let s := if d.reseed s c then s.modField f fun x => { x with seed := x.seed.reseed } else s
  match d.draw s c with
  | none => ([], s)
  | some n => if n == 0 then ([], s) else s.steep f n (d.reqs s c)

/-- The state in which the effect is made: the draw is the command's, its twin check has passed, its partial writes have advanced their
pages (R107, R442). -/
def Desc.drawnState (d : Desc) (s : State) (c : Cmd) : State :=
  let x := (d.drawn s c).2
  (x.modCmd c.inst c.tag fun e => { e with drawn := (d.drawn s c).1, stage := .running, crossed := x.crossing c (d.drawn s c).1 }).markTwin c

/-- The pages the commit writes partially, each once. -/
def Desc.written (d : Desc) (s : State) (c : Cmd) : List (Nat × Nat) := (d.writes (d.drawnState s c) c).eraseDups

/-- Those pages are clean (R443). -/
def Desc.writable (d : Desc) (s : State) (c : Cmd) : Bool := (d.written s c).all fun w => (d.drawnState s c).clean w.1 w.2

/-- The effect and the reply of a command at its commit point (R107). -/
def Desc.effect (d : Desc) (s : State) (c : Cmd) : State × Option Reply :=
  d.body ((d.drawnState s c).writePages (d.written s c)) { c with drawn := (d.drawn s c).1, stage := .running, twinPassed := c.twinned }

/-- What the row answers: the reply staged once the merge images are flushed (R446), or the command going on. -/
def settled (i t : Nat) (p : State × Option Reply) : State :=
  match p with
  | (s, some r) => (s.flushMerges i t).complete i t r
  | (s, none) => s

/-- The state and the command at the commit point, where steps 7 to 13, the slots, the blobs and the command's own waits let it come
there at once. -/
def Desc.commitPoint (d : Desc) (s : State) (c : Cmd) : Option (State × Cmd) :=
  let s1 := d.judgedState s c
  let c1 := d.judgedCmd s c
  let s2 := d.servedState s c
  match d.homes s2 c1 with
  | none => none
  | some hs =>
    let s3 := d.startedState s2 c1 hs
    let s4 := s3.hashServed c1
    if d.passes s c && d.served s1 c1 && d.loadable s2 c1 && d.unwaiting s3 c1 && d.writable s4 c1 then some (s4, c1) else none

/-- An admitted command that no earlier row has judged and no physical fault strikes, as its row finds it (R80, R101, R366). -/
def Desc.fresh (d : Desc) (r : CmdRec) (s : State) (c : Cmd) : Bool :=
  r.admitted && r.hit == .none && s.cmd? r.inst r.tag == some c && basicOp c.op == d.op && c.stage == .dispatched && !c.checked && !c.begun &&
    d.turn s c && !s.noThread c

/-- The commit point of a record's command. -/
def Desc.at? (d : Desc) (r : CmdRec) (s : State) : Option (State × Cmd) :=
  match s.cmd? r.inst r.tag with
  | some c => if d.fresh r s c then d.commitPoint s c else none
  | none => none

/-- A record's command whose execution is in progress: its row calls its effect again. -/
def Desc.going? (d : Desc) (r : CmdRec) (s : State) : Option Cmd :=
  (s.cmd? r.inst r.tag).filter fun c => r.admitted && basicOp c.op == d.op && c.stage == .running

/-- Where a record's command comes to its commit point at once: the state its effect is made in and the command as the effect reads it,
with its draw (R107). -/
def Desc.effectAt? (d : Desc) (r : CmdRec) (s : State) : Option (State × Cmd) :=
  (d.at? r s).map fun p =>
    ((d.drawnState p.1 p.2).writePages (d.written p.1 p.2),
      { p.2 with drawn := (d.drawn p.1 p.2).1, stage := .running, twinPassed := p.2.twinned })

/-- A row's command completes its own effect: wherever a record's command comes to its commit point, the row answers the state that the
effect g leaves, with the reply staged or the command going on. -/
def Desc.Completes (d : Desc) (row : CmdRec → Instr) (g : State → Cmd → State × Option Reply) : Prop :=
  ∀ (r : CmdRec) (s x : State) (c : Cmd), d.effectAt? r s = some (x, c) → exec (row r) s = .next (settled c.inst c.tag (g x c))

/-- The same where p holds of the command and the state its effect is made in. -/
def Desc.CompletesWhere (d : Desc) (row : CmdRec → Instr) (p : State → Cmd → Prop) (g : State → Cmd → State × Option Reply) : Prop :=
  ∀ (r : CmdRec) (s x : State) (c : Cmd), d.effectAt? r s = some (x, c) → p x c → exec (row r) s = .next (settled c.inst c.tag (g x c))

/-- A row takes a command of several steps on: wherever its execution is in progress the row calls the effect g again. -/
def Desc.GoesOn (d : Desc) (row : CmdRec → Instr) (g : State → Cmd → State × Option Reply) : Prop :=
  ∀ (r : CmdRec) (s : State) (c : Cmd), d.going? r s = some c → exec (row r) s = .next (settled c.inst c.tag (g s c))

/-- No write-merge image holds a write of the command (R446). -/
def State.unmerged (s : State) (i t : Nat) : Bool :=
  s.fieldNums.all fun f => (s.field f).merge.all fun m => !m.writers.contains (i, t)

/-- The reply staged for a command. -/
def State.replyOf (s : State) (i t : Nat) : Option Reply :=
  (s.cmd? i t).bind fun c => match c.stage with
    | .done r => some r
    | _ => none

/-! ### An instruction that issues -/

/-- Where a Saivo instruction issues (R325, R331, R342, R482): the run, the furrow with the cycles of the instruction counted, and the
state with the draw of its leaf bits. -/
def State.issues? (s : State) (u : FurrowRef) (op : Nat) (i : SaivoFields) : Option (Env × State) :=
  match s.issuing u with
  | none => none
  | some r =>
    let e := s.env u r i
    if saivoOk r.image.icount op i && !i.ecc.imem && (e.leafBits op i == 0 || ((s.field u.field).leaf.getD (u.furrow / 4) {}).running) then
      some ({ e with u := { e.u with cycles := e.u.cycles + e.cycleCount op i, waitLeaf := false } },
        if e.leafBits op i == 0 then s else { s with free := s.free + 1 })
    else none

/-- The furrow goes on to the next instruction. -/
def Env.advance (e : Env) : Env := { e with u := { e.u with pc := e.u.pc + 1 } }

/-- The furrow goes on at a target; a taken BR or LOOP costs one more cycle. -/
def Env.go (e : Env) (pc cost : Nat) : Env := { e with u := { e.u with pc := pc, cycles := e.u.cycles + cost } }

/-- Wherever an instruction of this encoding issues and ok holds, it answers the state g gives. -/
def Gives (op : Nat) (row : FurrowRef → SaivoFields → Instr) (ok : SaivoFields → Env → Prop)
    (g : FurrowRef → SaivoFields → Env → State → State) : Prop :=
  ∀ (s x : State) (u : FurrowRef) (i : SaivoFields) (e : Env), s.issues? u op i = some (e, x) → ok i e →
    exec (row u i) s = .next (g u i e x)

/-- Wherever it issues and ok holds, it leaves the furrow and its run as g says, at the next instruction. -/
def Leaves (op : Nat) (row : FurrowRef → SaivoFields → Instr) (ok : SaivoFields → Env → Prop) (g : SaivoFields → Env → Env) : Prop :=
  Gives op row ok fun u i e x => x.store u (g i e).advance

/-- Wherever it issues and ok holds, it faults with the cause, element and word address g gives (R337 to R339). -/
def Faults (op : Nat) (row : FurrowRef → SaivoFields → Instr) (ok : SaivoFields → Env → Prop) (cause : Nat)
    (at_ : SaivoFields → Env → Nat × Nat) : Prop :=
  Gives op row ok fun u i e x => (x.store u e).furrowFault u e.r op i cause (at_ i e).1 (at_ i e).2 none

/-! ### A microword that issues -/

/-- Where a microword issues (R366, R369, R380): the state with its thread's turn taken and the scratch ALU's result, the command and the thread. -/
def State.micro? (s : State) (t : ThreadRef) (nxt : Nat) (w : Micro) : Option (State × Cmd × Thread) :=
  match s.threadCmd t with
  | none => none
  | some c =>
    let s := s.modField t.field fun x => { x with lastThread := t.thread, threads := x.threads.map fun y => { y with resting := false } }
    let h := s.thread t
    if h.pc ≥ openBase && !openMicroOk (s.openWords t.field) nxt w then none
    else
      let h := { (h.alu w c.params) with words := h.words + 1, atom := w.atom }
      some (s.modThread t fun _ => h, c, h)

/-- Where a thread stands at a call gate's entry (R376): its command and the thread. -/
def State.atGate? (s : State) (t : ThreadRef) (entry : Nat) : Option (Cmd × Thread) :=
  (s.threadCmd t).bind fun c => if (s.thread t).pc == entry then some (c, s.thread t) else none

/-- The modulus register an instruction names can serve it (R316, R354). -/
def Env.modOk (e : Env) (i : SaivoFields) : Bool := !(e.modulus i == 0 || (i.t == 1 && e.modulus i ≥ 4096))

/-- No register the instruction names lies in a SEALED set (R324). -/
def Env.clear (e : Env) (l : Nat) (ws : List Nat) : Bool := !(l == 1 && e.anySealed ws)

/-- No access of the instruction faults (R359). -/
def Env.reaches (e : Env) (as : List Acc) : Bool := (e.firstFault as).isNone

/-- A Tally register that holds a pass or a fail pair (R364, R365). -/
def Env.paired (e : Env) : Bool := e.u.tally.toNat % 65536 == passPair || e.u.tally.toNat % 65536 == failPair

/-! ### A command that a check refuses -/

/-- Where the first failing check of steps 7 to 12 refuses a record's command (R101, R102): the status, and the state that is left
before the reply is staged. -/
def Desc.refusal? (d : Desc) (r : CmdRec) (s : State) : Option (Status × State) :=
  match s.cmd? r.inst r.tag with
  | none => none
  | some c =>
    if d.fresh r s c then
      match firstFail (d.pre s c) with
      | some x => some (x, s)
      | none =>
        (firstFail (d.later s c)).map fun x => (x, d.onRefuse (d.readState s c) (d.readCmd s c) x)
    else none

/-- A row stages the status of the first failing check and does nothing else. -/
def Desc.Refuses (d : Desc) (row : CmdRec → Instr) : Prop :=
  ∀ (r : CmdRec) (s x : State) (st : Status), d.refusal? r s = some (st, x) →
    exec (row r) s = .next (x.complete r.inst r.tag { status := st })

/-! ### A packet of an SA -/

/-- The SA's home field processes its packets (R272, R280, R290): the key is in a pipeline's cache, or its entry can be unsealed. -/
def State.saServes (s : State) (a : Sa) : Bool :=
  s.saLive a && (((s.field a.field).cachedOn (saSlot a.handle)).isSome ||
    ((s.field a.field).saKey.isSome && s.clean a.field (saPage s.n a.handle)))

/-- The state once the SA's key is in a pipeline's cache (R260). -/
def State.cacheSa (s : State) (a : Sa) : State :=
  if ((s.field a.field).cachedOn (saSlot a.handle)).isSome then s
  else s.modField a.field fun x => x.cacheKey (s.pipeFor a.field (saSlot a.handle) []) (saSlot a.handle)

/-! ### A frame that is accepted -/

/-- Where a frame of a type passes receive checks 1 to 9 (R72): its header, the state, and the sequence window's new top (R84). -/
def State.accepts? (s : State) (f : RxFrame) (ty : Nat) : Option (Header × State × Nat) :=
  if s.pkg.failover then none
  else
    match s.rxHead f ty with
    | .error _ => none
    | .ok (h, x) =>
      match (x.inst h.inst).window.judge h.seq with
      | .accept top => if h.rsv || (lengthCheck f h).isSome then none else some (h, x, top)
      | _ => none

/-- Where a frame passes receive checks 1 to 6 (R72). -/
def State.hears? (s : State) (f : RxFrame) (ty : Nat) : Option (Header × State) :=
  if s.pkg.failover then none
  else
    match s.rxHead f ty with
    | .error _ => none
    | .ok p => some p

end Sys2Proof.Machine
end

