-- ==== Sys2Proof/Certificates/Slice0/Obligations.lean ====
section
/-! DEFINITION. The statements for the provers. -/

open Sys2Proof Sys2Proof.Machine

/-! ### The queue, reset and the invariant -/

/-- A step with a command at the front of the queue is that command's effect on the state with the queue's rest. -/
def Obligations.StepRunsFrontCommand : Prop :=
  ∀ (c : Instr) (s : State), step { s with pending := c :: s.pending } = exec c s

/-- With no command at the queue, a step is exec of the row that is due; with none due and no row to be tried again, the step lets one
nanosecond pass (that a step on an empty queue does so is the model's choice, log entry 3). -/
def Obligations.EmptyQueueRunsWhatIsDue : Prop :=
  ∀ s : State, s.pending = [] →
    (∀ c, s.due = some c → step s = exec c s) ∧ (s.due = none → s.retryRow = none → step s = .next s.passTime)

/-- What reset leaves: the package in INERT (R45) with the mode word 0, and no command, transfer, key, SA, IKE SA, image, run or waiting row;
only instance 0 (R409); every field in RECOVERY, not lost, with no alarm cause, no resident key, its furrows without a run or a fault and its
threads free; no port up or paused; DNONCE zero. That the part has two fields is the model's choice (log entry 1), and so is the zero
DNONCE (R473 draws it later). -/
def Obligations.ResetIsInert : Prop :=
  State.reset.pkg.run = .inert ∧ State.reset.modeWord = 0 ∧ State.reset.n = 2 ∧
    (∀ x ∈ State.reset.fields, x.run = .recovery ∧ x.alarm = 0 ∧ x.slots = [] ∧ x.lost = false ∧
      (∀ u ∈ x.furrows, u.run = none ∧ u.frec.cause = 0) ∧ ∀ h ∈ x.threads, h.busy = false) ∧
    State.reset.cmds = [] ∧ State.reset.xfers = [] ∧ State.reset.keys = [] ∧ State.reset.sas = [] ∧ State.reset.ikes = [] ∧
    State.reset.images = [] ∧ State.reset.runs = [] ∧ State.reset.pending = [] ∧ State.reset.insts.map (·.bind.id) = [0] ∧
    (∀ p ∈ State.reset.ports, p.up = false ∧ p.paused = 0) ∧ State.reset.pkg.dnonce = List.replicate 32 0

/-- The invariant of the block's shape holds at reset. -/
def Obligations.ResetIsSound : Prop := State.reset.Sound

/-- Every step that answers a next state keeps it, whatever command, event, instruction or microword runs: every field has its 16 furrows
and 64 threads, the part its fused field count and two host ports, and every furrow memory and acre area is canonical. -/
def Obligations.StepKeepsSound : Prop := ∀ s t : State, s.Sound → step s = .next t → t.Sound

/-! ### Commands: what comes before and after every effect -/

/-- A command whose whole block is here, with the descriptors it names all cached or all on clean pages, and that comes to its commit point, has
changed nothing before it but its own entry, and on fields the descriptors cached, the key slots and their stamps of use, the queues of Whisk
and of Winnow's contexts, the entropy pool, and the pages, and has taken its draw (R101, R107, R126, R136, R137, R250, R284, R301, R442).
This holds of every command for which passing its checks does at most place its message on Thresher pipelines (R260) and the load of its keys
sets nothing else going (R267). -/
def Obligations.CommitPointFrame : Prop :=
  ∀ (d : Desc) (r : CmdRec) (s x : State) (c : Cmd), d.effectAt? r s = some (x, c) →
    (∀ (y : State) (e : Cmd), d.onPass y e = y ∨ ∃ ps, d.onPass y e = y.modCmd e.inst e.tag fun o => { o with pipes := ps }) →
    (∀ (y : State) (e : Cmd), d.onStart y e = y) →
    s.xfers.any (fun y => y.inst == r.inst && y.tag == r.tag) = false →
    (∀ e, s.cmd? r.inst r.tag = some e → (∀ h ∈ d.keys s e, (s.field (e.reader s)).descCache.contains (hIndex h) = true) ∨
      ∀ h ∈ d.keys s e, ∀ k, s.keyAt h = some k → s.clean (hHome h) k.descPage = true) →
    c.inst = r.inst ∧ c.tag = r.tag ∧ c.stage = .running ∧
    x = { s with cmds := x.cmds, fields := x.fields, free := x.free } ∧
    (∀ i t, ¬ (i = r.inst ∧ t = r.tag) → x.cmd? i t = s.cmd? i t) ∧
    x.fields.length = s.fields.length ∧
    ∀ f, x.field f = { s.field f with
      slots := (x.field f).slots, nextUse := (x.field f).nextUse, whisk := (x.field f).whisk, ctxWait := (x.field f).ctxWait,
      descCache := (x.field f).descCache, seed := (x.field f).seed, pages := (x.field f).pages }

/-- Where a command that has no reply yet and has written into no merge image gets a reply other than INTERNAL_ERROR or FAULT_DETECTED (R30,
R107): that reply is staged, or under an INSTANCE_RESET that has come to the command what R117 makes of it; its transfer and its runs are
gone; and besides those nothing changes but the package record, instances, commands, IKE SAs and fields. Of a field the entropy pool, run
state, log and alarm stay, and its key slots but those of a destroyed or narrowed key that no command holds any more (R151). A reply with
status OK leaves the package record; with no run of its own to charge and no page to be withdrawn when freed (R416, R454), the instances; a
command that names no IKE SA leaves those (R393); and one that did not sign with a consumable key leaves every other command (R196). -/
def Obligations.StagingFrame : Prop :=
  ∀ (s : State) (i t : Nat) (c : Cmd) (rep : Reply), s.cmd? i t = some c → c.isDone = false → s.unmerged i t = true →
    rep.status ≠ .internalError → rep.status ≠ .faultDetected →
    let u := settled i t (s, some rep)
    u.replyOf i t = some (if c.reset then s.resetReply c rep else rep) ∧
    u = { s with pkg := u.pkg, insts := u.insts, cmds := u.cmds, ikes := u.ikes, fields := u.fields,
                 xfers := s.xfers.filter (fun x => !(x.inst == i && x.tag == t)),
                 runs := s.runs.filter (fun x => !(x.inst == i && x.tag == t)) } ∧
    (∀ f, (u.field f).seed = (s.field f).seed ∧ (u.field f).slots = (s.field f).slots.filterMap (fun r => r.left u) ∧
      (u.field f).run = (s.field f).run ∧
      (u.field f).log = (s.field f).log ∧ (u.field f).alarm = (s.field f).alarm) ∧
    (rep.status = .ok → u.pkg = s.pkg) ∧ (c.onIke = false → u.ikes = s.ikes) ∧
    (rep.status = .ok → (∀ x ∈ s.fields, ∀ p ∈ x.pages, p.drop = false) → s.runs.all (fun x => !(x.inst == i && x.tag == t)) = true → u.insts = s.insts) ∧
    (basicOp c.op ≠ 0x0802 → ∀ j k, ¬ (j = i ∧ k = t) → u.cmd? j k = s.cmd? j k)

/-- Every row that runs a command's description ends an admitted command that no earlier row has judged with the status of the first of its
checks of steps 7 to 12 that fails, in the state that reading the descriptors it names and that refusal itself leave (R101, R102). -/
def Obligations.FirstFailingCheckRefuses : Prop :=
  ∀ (d : Desc) (row : CmdRec → Instr), (∀ r s, exec (row r) s = .next (runCommand d r s)) → d.Refuses row

/-! ### Commands by page -/

/-- The control page but RESET (R43 to R54, R94 to R99, R115 to R118): each command, at its commit point, completes with exactly this effect
and reply. FALLOW and RECOVER reply there where every other command has ended and go on otherwise (R47, R48), RECOVER with STATE_FORBIDS where
the package has left OPERATIONAL; INSTANCE_RESET replies where no other command of its target is outstanding. That a MACSEC_SA displaces
the receive SAs of another SCI is the model's choice (log entry 116). -/
def Obligations.ControlCommandsComplete : Prop :=
  identifyDesc.Completes .identify (fun s _ => (s, some { status := .ok, results := s.identify })) ∧
  echoDesc.Completes .echo (fun s c => (s, some { status := .ok, results := c.params })) ∧
  enableDesc.Completes .enable (fun s _ => (s.enableAll, some { status := .ok, results := s.enableAll.enableResults })) ∧
  wakeDesc.Completes .wake (fun s _ =>
    ({ s with fields := s.fields.map fun x => if x.run == .fallow && !x.gated then { x with run := .operational } else x,
              pkg := { s.pkg with run := .operational } }, some { status := .ok })) ∧
  fallowDesc.Completes .fallow (fun s c =>
    let y := if c.aux == 0 then s.toFallow.modCmd c.inst c.tag fun e => { e with aux := 1 } else s
    if y.othersDone c then (y, some { status := .ok }) else (y, none)) ∧
  recoverDesc.Completes .recover (fun s c =>
    if s.pkg.run != .operational then (s, some { status := .stateForbids })
    else
      let s := s.stopAdmission .recover
      if s.othersDone c then (s.toRecovery, some { status := .ok }) else (s, none)) ∧
  modeSetDesc.Completes .modeSet (fun s c =>
    let s := (s.modeValues c).setModes (num c.params 0 2)
    let out := toBE 2 s.pkg.modes.toNat ++ toBE 1 (s.setting 0x03) ++ [0] ++ toBE 2 (s.setting 0x04) ++ toBE 2 (s.setting 0x05)
    (s.modCmd c.inst c.tag fun e => { e with durable := true }, some { status := .ok, results := out })) ∧
  macsecSaDesc.Completes .macsecSa (fun s c =>
    let y := s.modPort (num c.params 0 1) fun x =>
      { x with sas := (if saRetire c then [] else [secSaOf c]) ++ x.sas.filter fun a => !a.named c && !a.displaced c }
    let y := if !(s.port (num c.params 0 1)).secured && (y.port (num c.params 0 1)).secured then
        y.modCmd c.inst c.tag fun e => { e with aux := 1 }
      else y
    (if (y.port (num c.params 0 1)).pendingSa then y else y.flushTx, some { status := .ok })) ∧
  instanceResetDesc.Completes .instanceReset (fun s c =>
    let (b, s) := if c.aux == 0 then
        let (b, s) := s.resetInstance c (num c.params 0 1)
        (b, s.modCmd c.inst c.tag fun e => { e with aux := 1, drawn := b })
      else (c.drawn, s)
    if s.drainedOf c (num c.params 0 1) then (s, some { status := .ok, results := b }) else (s, none))

/-- RESET (R119 steps 1 to 3): wherever it comes to its commit point, with no merge image of its own and no INSTANCE_RESET come to it,
admission stops, its reply with status OK is staged, and the same row releases it, whatever ORDERED and PAD say; its entry is then gone and
the reset is due. -/
def Obligations.ResetReleasesItsReply : Prop :=
  ∀ (r : CmdRec) (s x : State) (c : Cmd), resetDesc.effectAt? r s = some (x, c) → x.unmerged c.inst c.tag = true →
    (x.cmd? c.inst c.tag).any (!·.reset) = true →
    let y := settled c.inst c.tag (x.stopAdmission .reset, some { status := .ok })
    ∃ e : Cmd, y.cmd? r.inst r.tag = some e ∧ e.stage = .done { status := .ok } ∧ y.pkg.stops.contains .reset = true ∧
      exec (.reset r) s = .next (y.release e { status := .ok }) ∧ (y.release e { status := .ok }).cmd? r.inst r.tag = none ∧
      (y.release e { status := .ok }).pkg.resetPending = true

/-- The key page (R142 to R151): each command, at its commit point, completes with exactly this effect and reply. A secret key's body is
the draw (R143), the parameters (R144), what the blob unwraps to (R149) or what the KDF derives (R287); KEY_UNWRAP of a blob that fails its
integrity check makes no key (R149). -/
def Obligations.KeyCommandsComplete : Prop :=
  keyGenerateDesc.CompletesWhere .keyGenerate (fun _ c => tClass (num c.params 0 1) = 0) (fun s c =>
    let (h, s) := s.addKey c c.fld (some 0)
      { type := num c.params 0 1, attr := num c.params 2 3, origin := 0, size := num c.params 6 2, body := c.drawn }
    (s, some { status := .ok, results := toBE 6 h ++ toBE 6 0 })) ∧
  keyGenerateDesc.CompletesWhere .keyGenerate (fun _ c => tClass (num c.params 0 1) ≠ 0) (fun s c =>
    let (h, g, s) := s.makePair c (num c.params 0 1) (num c.params 6 2) (genExponent c) (num c.params 2 3) (genPubAttr c) c.drawn
    (s, some { status := .ok, results := toBE 6 h ++ toBE 6 g })) ∧
  keyLoadDesc.Completes .keyLoad (fun s c =>
    let (h, s) := s.addKey c c.fld (some 0)
      { type := num c.params 0 1, attr := num c.params 2 3, origin := 1, size := num c.params 6 2, body := c.params.drop 8 }
    (s.modCmd c.inst c.tag fun e => { e with params := c.params.take 8 ++ List.replicate (c.params.length - 8) 0 },
      some { status := .ok, results := toBE 6 h })) ∧
  keyLoadPublicDesc.Completes .keyLoadPublic (fun s c =>
    let (h, s) := s.addKey c c.fld (some 0)
      { type := num c.params 0 1, attr := num c.params 2 3, origin := 5, size := num c.params 6 2, body := c.params.drop 8,
        ext := if tClass (num c.params 0 1) == 4 then loadedShape (tSet (num c.params 0 1)) (c.params.drop 8) else [] }
    (s, some { status := .ok, results := toBE 6 h })) ∧
  keyUnwrapDesc.CompletesWhere .keyUnwrap (fun _ c => unwrapOk c = true) (fun s c =>
    let (h, s) := s.addKey c c.fld (some 0)
      { type := num c.params 13 1, attr := unwrapAttr c, origin := 2, size := num c.params 18 2,
        body := std (num c.params 20 4) .aesKeyUnwrap [exportKey (c.key (num c.params 0 6)).body (slice c.params 12 16), c.params.drop 28] }
    (s, some { status := .ok, verdict := .pass, results := toBE 6 h })) ∧
  keyUnwrapDesc.CompletesWhere .keyUnwrap (fun _ c => unwrapOk c = false) (fun s _ =>
    (s, some { status := .verdictFail, verdict := .fail })) ∧
  keyWrapDesc.Completes .keyWrap (fun s c =>
    let k := c.key (num c.params 6 6)
    let hd := blobHeader k
    (s, some
      { status := .ok
        results := hd ++ std (8 + 8 * ceilDiv k.body.length 8) .aesKeyWrap [exportKey (c.key (num c.params 0 6)).body hd, k.body] })) ∧
  keyDeriveDesc.Completes .keyDerive (fun s c =>
    let n := (secretLen (num c.params 7 1) (deriveSize c)).getD 0
    let salt := slice c.params 14 (num c.params 11 1)
    let info := slice c.params (14 + num c.params 11 1) (num c.params 12 2)
    let (h, s) := s.addKey c c.fld (some 0)
      { type := num c.params 7 1, attr := num c.params 8 3, origin := 3, size := deriveSize c,
        body := derive (num c.params 6 1) (c.key (num c.params 0 6)).body salt info n }
    (s, some { status := .ok, results := toBE 6 h })) ∧
  keyDestroyDesc.Completes .keyDestroy (fun s c =>
    (((s.destroyKey (num c.params 0 6)).loseHalf false (num c.params 0 6)).modCmd c.inst c.tag fun e =>
      { e with durable := bit (c.key (num c.params 0 6)).attr aPersistent }, some { status := .ok })) ∧
  keyNarrowDesc.Completes .keyNarrow (fun s c =>
    let h := num c.params 0 6
    let a := num c.params 6 3
    let s := (c.key h).wholePages.foldl (fun s p => s.fullWrite (hHome h) p) s
    let resealed := s.narrowed a
    let s := s.modKey h resealed
    let s := s.modGran fun g => { g with keys := g.keys.map fun k => if k.key.handle == h then { k with key := resealed k.key } else k }
    let s := (s.modFields fun x => { x with descCache := x.descCache.filter (· != hIndex h) }).unseat (hIndex h)
    (s.modCmd c.inst c.tag fun e => { e with durable := bit a aPersistent }, some { status := .ok, results := toBE 3 a })) ∧
  keyInfoDesc.Completes .keyInfo (fun s c => (s, some { status := .ok, results := s.keyInfo (c.key (num c.params 0 6)) })) ∧
  keyExportPublicDesc.Completes .keyExportPublic (fun s c => (s, some { status := .ok, results := (c.key (num c.params 0 6)).body }))

/-- The lattice page (R152 to R179): each command, at its commit point, completes with exactly this effect and reply. The secrets come from
the named keys or the command's draw, an encapsulation or decapsulation leaves its secret in a new key and answers its handle, a signature is
the result, and a signature check answers with the verdict pair (R110). -/
def Obligations.LatticeCommandsComplete : Prop :=
  mlkemKeygenDesc.Completes .mlkemKeygen (fun s c =>
    let seed := if kemSeed c == 0 then c.drawn else (c.key (kemSeed c)).body
    let (h, g, s) := s.makePair c (0x10 + num c.params 0 1) 0 0 (num c.params 2 3) (kemPubAttr c) seed
    (s, some
      { status := .ok
        results := toBE 6 h ++ toBE 6 g ++ ((s.keys.find? (fun k => k.handle == g)).map (·.body)).getD [] })) ∧
  mlkemEncapsDesc.Completes .mlkemEncaps (fun s c =>
    let set := num c.params 0 1
    let m := if kemMseed c == 0 then c.drawn else (c.key (kemMseed c)).body
    let (ss, ct) := kemEncaps set (c.pubKey 2 8 (kemEk set)) (c.ekHash 2 8 (kemEk set)) m
    let (h, s) := s.addSecret c c.fld (c.ssAttr (c.tail 10 0 3)) ss
    (s, some { status := .ok, results := toBE 6 h ++ ct })) ∧
  mlkemDecapsDesc.Completes .mlkemDecaps (fun s c =>
    let set := num c.params 0 1
    let (h, s) := s.addSecret c c.fld (c.ssAttr (c.tail 4 0 3)) (kemDecaps set (c.key (num c.params 2 6)).body (slice c.params 8 (kemCt set)))
    (s, some { status := .ok, results := toBE 6 h })) ∧
  hybridEncapsDesc.Completes .hybridEncaps (fun s c =>
    let o := num c.params 0 1
    let cv := comboCurve o
    let e := c.inlineLen 2 (ecPubLen cv)
    let n := if o == 1 then 32 else 56
    let rpub := c.pubKey 2 14 (ecPubLen cv)
    let scalar := ecScalar cv (c.drawn.take n)
    let epk := ecPublicOf cv scalar
    let ssEc := std (agreeLen cv) (.ecAgree cv) [scalar, rpub]
    let k := kemEk (comboSet o)
    let (ssKem, ct) := kemEncaps (comboSet o) (c.pubKey 8 (14 + e) k) (c.ekHash 8 (14 + e) k) (c.drawn.drop n)
    let (h, s) := s.addSecret c c.fld (c.ssAttr (c.tail 6 1 3)) (combine o (combinerOf c) ssKem ssEc ct epk rpub)
    (s, some { status := .ok, results := toBE 6 h ++ epk ++ ct })) ∧
  hybridDecapsDesc.Completes .hybridDecaps (fun s c =>
    let o := num c.params 0 1
    let cv := comboCurve o
    let e := ecPubLen cv
    let epk := slice c.params 14 e
    let rpub := slice c.params (14 + e) e
    let ct := slice c.params (14 + 2 * e) (kemCt (comboSet o))
    let ssEc := std (agreeLen cv) (.ecAgree cv) [(c.key (num c.params 2 6)).body, epk]
    let ssKem := kemDecaps (comboSet o) (c.key (num c.params 8 6)).body ct
    let (h, s) := s.addSecret c c.fld (c.ssAttr (c.tail 6 1 3)) (combine o (combinerOf c) ssKem ssEc ct epk rpub)
    (s, some { status := .ok, results := toBE 6 h })) ∧
  mldsaSignDesc.Completes .mldsaSign (fun s c =>
    let sk := (c.key (num c.params 0 6)).body
    let mu := dsaMu (num c.params 6 1 % 4) (num c.params 7 1) (dsaTr sk) (slice c.params 12 (num c.params 8 1))
      (slice c.params (12 + num c.params 8 1) (num c.params 9 3))
    (s, some { status := .ok, results := dsaSignature (dsaSet c (num c.params 0 6)) sk mu (dsaRndBytes c (bit (num c.params 6 1) 2)) })) ∧
  mldsaVerifyDesc.Completes .mldsaVerify (fun s c =>
    let set := num c.params 6 1
    let o := 13 + c.inlineLen 0 (dsaPk set)
    let sig := slice c.params o (dsaSig set)
    let ctx := slice c.params (o + dsaSig set) (num c.params 9 1)
    let msg := slice c.params (o + dsaSig set + num c.params 9 1) (num c.params 10 3)
    let pk := c.pubKey 0 13 (dsaPk set)
    let good := dsaVerifies set pk (dsaMu (num c.params 7 1 % 4) (num c.params 8 1) (dsaTrOf pk) ctx msg) sig
    (s, some (if good then { status := .ok, verdict := .pass } else { status := .verdictFail, verdict := .fail }))) ∧
  hybridSignDesc.Completes .hybridSign (fun s c =>
    let det := bit (num c.params 12 1) 0
    let ctx := slice c.params 17 (num c.params 13 1)
    let msg := slice c.params (17 + num c.params 13 1) (num c.params 14 3)
    let cv := hybridCurve c
    let a := dsaPure (dsaSet c (num c.params 0 6)) (c.key (num c.params 0 6)).body ctx msg (dsaRndBytes c det)
    let b := ecdsaSignature cv (hybridHash cv) det (c.key (num c.params 6 6)).body (phDigest (hybridHash cv) msg)
      (c.drawn.drop (hybridDsaDraw c))
    (s, some { status := .ok, results := a ++ b })) ∧
  hybridVerifyDesc.Completes .hybridVerify (fun s c =>
    let set := num c.params 12 1
    let cv := num c.params 13 1
    let k1 := c.inlineLen 0 (dsaPk set)
    let o := 18 + k1 + c.inlineLen 6 (ecPubLen cv)
    let sig := slice c.params o (dsaSig set)
    let rs := slice c.params (o + dsaSig set) (ecdsaLen cv)
    let o2 := o + dsaSig set + ecdsaLen cv
    let ctx := slice c.params o2 (num c.params 14 1)
    let msg := slice c.params (o2 + num c.params 14 1) (num c.params 15 3)
    let a := dsaPureOk set (c.pubKey 0 18 (dsaPk set)) ctx msg sig
    let b := ecdsaVerifies cv (c.pubKey 6 (18 + k1) (ecPubLen cv)) (phDigest (hybridHash cv) msg) rs
    (s, if a && b then some { status := .ok, verdict := .pass }
      else some { status := .verdictFail, verdict := .fail, results := toBE 1 ((!a).toNat + 2 * (!b).toNat) }))

/-- Hash-based signatures and consumable keys (R182 to R213): each command, at its commit point, completes with exactly this effect and
reply. STATEFUL_SIGN issues a leaf and signs with it, STATEFUL_STATUS answers the key's counts, and a signature check answers with the
verdict pair. -/
def Obligations.HashSignatureCommandsComplete : Prop :=
  slhdsaSignDesc.Completes .slhdsaSign (fun s c =>
    let set := tSet (c.key (num c.params 0 6)).type
    let m := messageRep (num c.params 6 1 % 4) (num c.params 7 1) (slice c.params 12 (num c.params 8 1))
      (slice c.params (12 + num c.params 8 1) (num c.params 9 3))
    (s, some
      { status := .ok
        results := std (slhSig set) (.slhSign set) [(c.key (num c.params 0 6)).body, m, slhRand c (bit (num c.params 6 1) 2)] })) ∧
  slhdsaVerifyDesc.Completes .slhdsaVerify (fun s c =>
    let set := num c.params 6 1
    let o := 13 + c.inlineLen 0 (2 * slhN set)
    let sig := slice c.params o (slhSig set)
    let ctx := slice c.params (o + slhSig set) (num c.params 9 1)
    let msg := slice c.params (o + slhSig set + num c.params 9 1) (num c.params 10 3)
    let good := Config.test (.slh set) [c.pubKey 0 13 (2 * slhN set), messageRep (num c.params 7 1 % 4) (num c.params 8 1) ctx msg, sig]
    (s, some (if good then { status := .ok, verdict := .pass } else { status := .verdictFail, verdict := .fail }))) ∧
  statefulKeygenDesc.Completes .statefulKeygen (fun s c =>
    let set := skgSet c
    let levels := num c.params 1 1
    let shape := skgShape c
    let life := shapeLife set levels shape
    let ext := shapeExt levels shape life
    let pk := statefulPublic set levels shape c.drawn
    let size := cacheSize set levels shape
    let (cp, s) := s.allocRange c.fld (pagesFor size) 5 c.inst
    let leaf : Leaf := { life := life, block := skgBlock c, wseq := 1, cache := size, cachePage := cp }
    let (h, s) := s.addKey c c.fld (some 0)
      { type := num c.params 0 1, attr := num c.params 2 3, origin := 0, body := c.drawn, ext := ext, leaf := some leaf }
    let (g, s) := s.addKey c c.fld (some 6) { type := num c.params 0 1 + 0x80, attr := skgPubAttr c, origin := 0, body := pk, ext := ext }
    (s.pairUp h g, some { status := .ok, results := toBE 6 h ++ toBE 6 g ++ toBE 8 life ++ pk })) ∧
  statefulSignDesc.Completes .statefulSign (fun s c =>
    let (i, s) := s.issueLeaf (num c.params 0 6)
    let sig := statefulSignature (c.key (num c.params 0 6)) i c.drawn (slice c.params 9 (num c.params 6 3))
    (s, some { status := .ok, results := toBE 8 i ++ sig })) ∧
  statefulVerifyDesc.Completes .statefulVerify (fun s c =>
    let set := tSet (num c.params 6 1)
    let pk := c.pubKey 0 14 (svPkLen c)
    let sig := slice c.params (14 + svPkLen c) (num c.params 8 3)
    let msg := slice c.params (14 + svPkLen c + num c.params 8 3) (num c.params 11 3)
    let good := (!isHss set || hssOk set pk sig) && Config.test (.stateful (num c.params 6 1)) [pk, msg, sig]
    (s, some (if good then { status := .ok, verdict := .pass } else { status := .verdictFail, verdict := .fail }))) ∧
  statefulStatusDesc.Completes .statefulStatus (fun s c =>
    let l := (s.entryOf (num c.params 0 6)).leaves
    let flags := l.w90.toNat + 2 * l.w99.toNat + 4 * l.cacheReady.toNat
    (s, some { status := .ok, results := toBE 8 l.life ++ toBE 8 l.next ++ toBE 8 l.hwm ++ toBE 2 l.block ++ toBE 1 flags ++ [0] })) ∧
  statefulSetBlockDesc.Completes .statefulSetBlock (fun s c =>
    let h := num c.params 0 6
    let s := s.modLeaf h fun l => { l with block := setBlockValue c }
    ((s.recordLeaf h (s.entryOf h).leaves.hwm).modCmd c.inst c.tag fun e => { e with durable := true }, some { status := .ok }))

/-- Code-based and classical operations (R214 to R238): each command, at its commit point, completes with exactly this effect and reply. A
signature or a ciphertext is the result, an agreed or decapsulated secret a new key, RSA_DECRYPT answers the plaintext or a key of it, or
VERDICT_FAIL, and a signature check answers with the verdict pair. -/
def Obligations.ClassicalCommandsComplete : Prop :=
  mceEncapsDesc.Completes .mceEncaps (fun s c =>
    let set := num c.params 0 1
    let ek := (c.key (num c.params 2 6)).body
    let (h, s) := s.addSecret c c.fld (c.ssAttr (c.tail 4 0 3)) (std 32 (.mceEncaps (set / 2)) [ek, 0x4D :: c.drawn, [0]])
    (s, some { status := .ok, results := toBE 6 h ++ std (mceCt set) (.mceEncaps (set / 2)) [ek, 0x4D :: c.drawn, [1]] })) ∧
  mceDecapsDesc.Completes .mceDecaps (fun s c =>
    let set := num c.params 0 1
    let (h, s) := s.addSecret c c.fld (c.ssAttr (c.tail 4 0 3))
      (std 32 (.mceDecaps (set / 2)) [(c.key (num c.params 2 6)).body, slice c.params 8 (mceCt set)])
    (s, some { status := .ok, results := toBE 6 h })) ∧
  rsaEncryptDesc.Completes .rsaEncrypt (fun s c =>
    let o := 14 + rsaInline c
    (s, some { status := .ok, results := std (rsaK c) (.rsaEncrypt (num c.params 9 1)) [c.pubKey 0 14 (4 + rsaK c),
      slice c.params o (num c.params 10 1), slice c.params (o + num c.params 10 1) (num c.params 12 2), c.drawn] })) ∧
  rsaDecryptDesc.Completes .rsaDecrypt (fun s c =>
    match rsaPlain c with
    | none => (s, some { status := .verdictFail, verdict := .fail })
    | some plain =>
      if rsaOut c == 0 then (s, some { status := .ok, verdict := .pass, results := plain })
      else
        let (h, s) := s.addSecret c c.fld (c.tail 5 2 3) plain
        (s, some { status := .ok, verdict := .pass, results := toBE 6 h })) ∧
  rsaSignDesc.Completes .rsaSign (fun s c =>
    let d := signDigest (num c.params 10 1) (num c.params 9 1) (slice c.params 15 (num c.params 12 3))
    (s, some
      { status := .ok
        results := std (rsaK c) (.rsaSign (num c.params 8 1)) [(c.key (num c.params 0 6)).body, toBE 1 (num c.params 9 1), d, c.drawn] })) ∧
  rsaVerifyDesc.Completes .rsaVerify (fun s c =>
    let pk := c.pubKey 0 15 (4 + rsaK c)
    let o := 15 + rsaInline c
    let sig := slice c.params o (rsaK c)
    let d := signDigest (num c.params 10 1) (num c.params 9 1) (slice c.params (o + rsaK c) (num c.params 12 3))
    let good := beNat sig < num pk 4 (rsaK c) &&
      Config.test (.rsaVerify (num c.params 8 1)) [pk, toBE 1 (num c.params 9 1), toBE 1 (num c.params 11 1), d, sig]
    (s, some (if good then { status := .ok, verdict := .pass } else { status := .verdictFail, verdict := .fail }))) ∧
  ecdsaSignDesc.Completes .ecdsaSign (fun s c =>
    let d := signDigest (num c.params 8 1) (num c.params 7 1) (slice c.params 12 (num c.params 9 3))
    let sig := ecdsaSignature (num c.params 6 1) (num c.params 7 1) (bit (num c.params 8 1) 2) (c.key (num c.params 0 6)).body d c.drawn
    (s, some { status := .ok, results := sig })) ∧
  ecdsaVerifyDesc.Completes .ecdsaVerify (fun s c =>
    let cv := num c.params 6 1
    let o := 12 + c.inlineLen 0 (ecPubLen cv)
    let d := signDigest (num c.params 8 1) (num c.params 7 1) (slice c.params (o + ecdsaLen cv) (num c.params 9 3))
    let good := ecdsaVerifies cv (c.pubKey 0 12 (ecPubLen cv)) d (slice c.params o (ecdsaLen cv))
    (s, some (if good then { status := .ok, verdict := .pass } else { status := .verdictFail, verdict := .fail }))) ∧
  ecAgreeDesc.Completes .ecAgree (fun s c =>
    let cv := num c.params 6 1
    let (h, s) := s.addSecret c c.fld (c.ssAttr (c.tail 4 0 3))
      (std (agreeLen cv) (.ecAgree cv) [(c.key (num c.params 0 6)).body, c.pubKey 8 14 (ecPubLen cv)])
    (s, some { status := .ok, results := toBE 6 h })) ∧
  eddsaSignDesc.Completes .eddsaSign (fun s c =>
    let v := num c.params 6 1
    (s, some { status := .ok, results := std (edSig v) (.eddsaSign v) [(c.key (num c.params 0 6)).body,
      slice c.params 11 (num c.params 7 1), slice c.params (11 + num c.params 7 1) (num c.params 8 3)] })) ∧
  eddsaVerifyDesc.Completes .eddsaVerify (fun s c =>
    let v := num c.params 6 1
    let o := 11 + c.inlineLen 0 (edPk v)
    let sig := slice c.params o (edSig v)
    let ctx := slice c.params (o + edSig v) (num c.params 7 1)
    let msg := slice c.params (o + edSig v + num c.params 7 1) (num c.params 8 3)
    let good := ecPointOk (edSet v) (sig.take (edPk v)) && leNat (sig.drop (edPk v)) < edOrder v && Config.test (.eddsa v) [c.pubKey 0 11 (edPk v), ctx, msg, sig]
    (s, some (if good then { status := .ok, verdict := .pass } else { status := .verdictFail, verdict := .fail })))

/-- Winnow, Thresher and CMAC commands (R239 to R272): each command, at its commit point, completes with exactly this effect and reply; a
seal and an open whose tag is right do so where their staged output can be written and read (R265 to R267), SA_INFO where its table page can
be read (R272). An open whose tag is wrong overwrites its staged output and answers VERDICT_FAIL (R266). -/
def Obligations.HashAndCipherCommandsComplete : Prop :=
  (winnowDesc 0x0601).Completes .digest (fun s c =>
    (s, some { status := .ok, results := if wPartial c then s.wToken 0x0601 c else s.wOutput 0x0601 c })) ∧
  (winnowDesc 0x0602).Completes .macGen (fun s c =>
    (s, some { status := .ok, results := if wPartial c then s.wToken 0x0602 c else s.wOutput 0x0602 c })) ∧
  (winnowDesc 0x0603).Completes .macVerify (fun s c =>
    (s, some (if (s.wOutput 0x0603 c).take (num c.params 10 2) == wExpected 0x0603 c then { status := .ok, verdict := .pass }
      else { status := .verdictFail, verdict := .fail }))) ∧
  (winnowDesc 0x0604).Completes .digestCompare (fun s c =>
    (s, some (if (s.wOutput 0x0604 c).take (num c.params 10 2) == wExpected 0x0604 c then { status := .ok, verdict := .pass }
      else { status := .verdictFail, verdict := .fail }))) ∧
  (∀ (r : CmdRec) (s x y : State) (c : Cmd), aeadSealDesc.effectAt? r s = some (x, c) →
    let g := if aIvGen c then num c.params 8 1 else 0
    x.releaseOut c g (g + num c.params 12 3 + num c.params 9 1) = (none, y) →
    let iv := if aIvGen c then c.drawn else slice c.params 15 (aI c)
    let ad := slice c.params (15 + aI c) (num c.params 10 2)
    let pt := slice c.params (15 + aI c + num c.params 10 2) (num c.params 12 3)
    let ct := std (num c.params 12 3 + num c.params 9 1) (.aeadSeal (num c.params 6 1))
      [(c.key (num c.params 0 6)).body, iv, ad, pt, toBE 1 (num c.params 9 1)]
    exec (.aeadSeal r) s = .next (settled c.inst c.tag (y, some { status := .ok, results := (if aIvGen c then iv else []) ++ ct }))) ∧
  (∀ (r : CmdRec) (s x y : State) (c : Cmd), aeadOpenDesc.effectAt? r s = some (x, c) →
    let o := 15 + aI c
    let args := [(c.key (num c.params 0 6)).body, slice c.params 15 (aI c), slice c.params o (num c.params 10 2),
      slice c.params (o + num c.params 10 2) (num c.params 12 3), slice c.params (o + num c.params 10 2 + num c.params 12 3) (num c.params 9 1)]
    (Config.test (.aeadTag (num c.params 6 1)) args = true → x.releaseOut c 0 (num c.params 12 3) = (none, y) →
      exec (.aeadOpen r) s = .next (settled c.inst c.tag (y,
        some { status := .ok, verdict := .pass, results := std (num c.params 12 3) (.aeadOpen (num c.params 6 1)) args }))) ∧
    (Config.test (.aeadTag (num c.params 6 1)) args = false →
      exec (.aeadOpen r) s = .next (settled c.inst c.tag (x.wipeOut c, some { status := .verdictFail, verdict := .fail })))) ∧
  saInstallDesc.Completes .saInstall (fun s c =>
    let (h, s) := s.addSa c.inst c.fld (bit (num c.params 2 1) 2) (saOfBlock c)
    (s.modCmd c.inst c.tag fun e =>
        { e with made := e.made ++ [(0, h)], durable := e.durable || bit (c.key (num c.params 4 6)).attr aPersistent },
      some { status := .ok, results := toBE 6 h })) ∧
  saRetireDesc.Completes .saRetire (fun s c =>
    ((s.dropSa (num c.params 0 6)).loseHalf true (num c.params 0 6), some { status := .ok })) ∧
  saInfoDesc.CompletesWhere .saInfo (fun s c => s.clean c.fld (saPage s.n (num c.params 0 6)) = true) (fun s c =>
    (s, some { status := .ok, results := ((s.sa? c.inst (num c.params 0 6)).map Sa.info).getD [] })) ∧
  (cmacDesc 0x0520 aMacGen false).Completes .cmacGen (fun s c =>
    (s, some
      { status := .ok
        results := (std 16 .aesCmac [(c.key (num c.params 0 6)).body, slice c.params 11 (num c.params 8 3)]).take (num c.params 6 1) })) ∧
  (cmacDesc 0x0521 aMacVerify true).Completes .cmacVerify (fun s c =>
    let t := num c.params 6 1
    let mac := (std 16 .aesCmac [(c.key (num c.params 0 6)).body, slice c.params (11 + t) (num c.params 8 3)]).take t
    (s, some (if mac == slice c.params 11 t then { status := .ok, verdict := .pass } else { status := .verdictFail, verdict := .fail })))

/-- Random numbers, furrow programs and their diagnostics (R311 to R313, R326 to R335, R523): each command, at its commit point, has
exactly this effect. RANDOM_GENERATE answers the bytes of its one draw; RNG_CONFIG restarts the Seedbeds it names and goes on; PROGRAM_RUN
and DIAG_RUN begin runs and go on, and DIAG_RESUME the held one, at its element; PROGRAM_UNLOAD of an image in use marks it and goes on; the
others reply. -/
def Obligations.RandomAndProgramCommandsComplete : Prop :=
  randomGenerateDesc.Completes .randomGenerate (fun s c => (s, some { status := .ok, results := c.drawn })) ∧
  rngHealthDesc.Completes .rngHealth (fun s c => (s, some { status := .ok, results := s.rngHealth (num c.params 0 1) })) ∧
  rngConfigDesc.CompletesWhere .rngConfig (fun _ c => c.aux = 0) (fun s c =>
    let lim : SeedLimits := { cond := num c.params 1 1, rct := num c.params 2 1, apt := num c.params 4 2, bias := num c.params 6 2,
                              ac := num c.params 8 2 }
    (((s.rngNamed (num c.params 0 1)).foldl (fun s f => s.modField f fun x =>
        { x with seed := { x.seed.restart s.clock.time lim with lim := lim, fixed := false, prior := some x.seed.lim } }) s).modCmd c.inst c.tag fun e =>
      { e with aux := ((s.rngNamed (num c.params 0 1)).map fun f => 2 ^ f).sum + 2 ^ 16 }, none)) ∧
  programLoadDesc.Completes .programLoad (fun s c =>
    let k := s.freeImage.getD 0
    let g := s.imageGen k + 1
    let h := c.inst * 2 ^ 40 + k * 2 ^ 32 + g % 2 ^ 24
    ((State.modPkg { s with images := s.images ++ [imageOf h c.params] } fun p =>
        { p with imageGens := (k, g) :: p.imageGens.filter fun e => e.1 != k }).modCmd c.inst c.tag fun e => { e with made := e.made ++ [(0, h)] },
      some { status := .ok, results := toBE 6 h ++ slice c.params 6 3 })) ∧
  programRunDesc.CompletesWhere .programRun (fun _ c => c.aux = 0) (fun s c =>
    let m := s.prog c
    let y := s.modCmd c.inst c.tag fun e => { e with aux := 1 }
    let keys := ((runKeys c).take m.nkeyin).map c.key
    (c.executions.foldl (fun s f => s.beginRun (programRun m c f c.order keys c.drawn)) y, none)) ∧
  programUnloadDesc.Completes .programUnload (fun s c =>
    if s.imageBusy (num c.params 0 6) then
      ({ s with images := s.images.map fun m => if m.handle == num c.params 0 6 then { m with unloading := true } else m }, none)
    else (s.dropImage (num c.params 0 6), some { status := .ok })) ∧
  programInfoDesc.Completes .programInfo (fun s c =>
    (s, some { status := .ok, results := ((s.image? c.inst (num c.params 0 6)).map (·.header)).getD [] })) ∧
  diagRunDesc.CompletesWhere .diagRun (fun _ c => c.aux = 0) (fun s c =>
    let y := (s.releaseHeld (diagRef c 2)).modCmd c.inst c.tag fun e => { e with aux := 1 }
    let run := testRun c (diagRef c 2) y.pkg.nextRun
    ((State.modPkg { y with runs := y.runs ++ [run] } fun p => { p with nextRun := p.nextRun + 1 }).modFurrow (diagRef c 2) fun f =>
      f.start run 0 0, none)) ∧
  (∀ (r : CmdRec) (s x : State) (c : Cmd) (e : Env), diagWordDesc.effectAt? r s = some (x, c) → x.heldEnv (diagRef c 1) = some e →
    let e' := if num c.params 2 1 == 2 then e.write (num c.params 4 3) (BitVec.ofNat 24 (num c.params 7 3)) else e
    exec (.diagWord r) s = .next (settled c.inst c.tag
      (x.store (diagRef c 1) e', some { status := .ok, results := e'.diagWord (num c.params 4 3) }))) ∧
  ∀ (r : CmdRec) (s x : State) (c : Cmd) (run : Run) (op : Nat) (i : SaivoFields), diagResumeDesc.effectAt? r s = some (x, c) → c.aux = 0 →
    x.heldRun (diagRef c 1) = some run → (x.furrow (diagRef c 1)).held = some (op, i) →
    let mine := { run with inst := c.inst, tag := c.tag }
    let y := (x.modCmd c.inst c.tag fun e => { e with aux := 1 }).modRun run.id fun _ => mine
    let z := y.modFurrow (diagRef c 1) fun f => { f with held := none }
    exec (.diagResume r) s = .next (settled c.inst c.tag
      (z.runInstr (diagRef c 1) op i mine (z.furrow (diagRef c 1)).frec.idx (resumeSem op i), none))

/-- The control store (R381 to R385): each command, at its commit point, has exactly this effect. UCODE_VERSION and UCODE_PATCH_STORE reply;
OPEN_LOAD and OPEN_CLEAR change the open region of every field in OPERATIONAL or FALLOW and reply, but where a routine of it is outstanding
they go on; and a customer opcode's free thread enters its routine with every scratch register, stack and flag at zero (R367). -/
def Obligations.ControlStoreCommandsComplete : Prop :=
  ucodeVersionDesc.Completes .ucodeVersion (fun s _ => (s, some { status := .ok, results := s.versionRecord })) ∧
  ucodePatchStoreDesc.Completes .ucodePatchStore (fun s c =>
    ((s.modGran fun g => { g with patches := slotWrites g.patches s.granaryFields c.params }).modCmd c.inst c.tag fun e => { e with durable := true },
      some { status := .ok, results := toBE 3 (patchLevel c.params) })) ∧
  openLoadDesc.CompletesWhere .openLoad (fun s _ => s.openBusy = false) (fun s c =>
    let b := openImage c
    let y := s.putOpen (some (openOf b))
    let z := if bit (num c.params 0 1) 0 then y.modGran fun g => { g with opens := slotWrites g.opens y.granaryFields b } else y
    (z.modCmd c.inst c.tag fun e => { e with durable := true }, some { status := .ok, results := slice b 6 3 })) ∧
  openLoadDesc.CompletesWhere .openLoad (fun s _ => s.openBusy = true) (fun s _ => (s, none)) ∧
  openClearDesc.CompletesWhere .openClear (fun s _ => s.openBusy = false) (fun s c =>
    let y := s.putOpen none
    let z := if bit (num c.params 0 1) 0 then y.modGran fun g => { g with opens := slotWrites g.opens y.granaryFields [] } else y
    (z.modCmd c.inst c.tag fun e => { e with durable := true }, some { status := .ok })) ∧
  openClearDesc.CompletesWhere .openClear (fun s _ => s.openBusy = true) (fun s _ => (s, none)) ∧
  ∀ (op : Nat) (r : CmdRec) (s x : State) (c : Cmd), isCustomer op = true → s.inRoutine r = false →
    (customerDesc op).effectAt? r s = some (x, c) →
    exec (.customerOpcode op r) s = .next (match x.freeThread c.fld with
      | none => x
      | some k => (x.modCmd c.inst c.tag fun e => { e with aux := k + 1 }).modThread ⟨c.fld, k⟩ fun _ =>
          { busy := true, inst := c.inst, tag := c.tag, pc := num (x.opEntry c) 2 2 })

/-- The service page (R386 to R408): each command, at its commit point, completes with its effect. A TK_OPEN that finds a free IKE SA entry, and
a TK_STEP, TK_DECIDE or TK_SEND whose IKE SA can be read, answers OK with results. TK_STEP acts by what its message calls for; TK_DECIDE
rejects, answers, or goes on; TK_SEND answers the outstanding request, or asks anew for KIND 1. TK_CLOSE drops the IKE SA; a Sheaf's
header, signature and proofs, a verdict, and an attestation are the results of the others. -/
def Obligations.ServiceCommandsComplete : Prop :=
  tkOpenDesc.Completes .tkOpen tkOpenBody ∧
  (∀ (r : CmdRec) (s x : State) (c : Cmd), tkOpenDesc.effectAt? r s = some (x, c) → (x.newIke c.inst c.fld).isSome = true →
    ∃ y res, exec (.tkOpen r) s = .next (settled c.inst c.tag (y, some { status := .ok, results := res }))) ∧
  tkStepDesc.Completes .tkStep tkStepBody ∧
  (∀ (r : CmdRec) (s x : State) (c : Cmd), tkStepDesc.effectAt? r s = some (x, c) → (x.readIke c (x.ikeOf c)).1 = true →
    ∃ y res, exec (.tkStep r) s = .next (settled c.inst c.tag (y, some { status := .ok, results := res }))) ∧
  tkDecideDesc.Completes .tkDecide tkDecideBody ∧
  (∀ (r : CmdRec) (s x : State) (c : Cmd), tkDecideDesc.effectAt? r s = some (x, c) → (x.readIke c (x.ikeOf c)).1 = true →
    ∃ y res, exec (.tkDecide r) s = .next (settled c.inst c.tag (y, some { status := .ok, results := res }))) ∧
  tkSendDesc.Completes .tkSend tkSendBody ∧
  tkStepDesc.CompletesWhere .tkStep (fun s c => (s.readIke c (s.ikeOf c)).1 = true) (fun s c =>
    let k := s.ikeOf c
    let y := (s.readIke c k).2
    match k.plan (tkMsg c) with
    | .discard => y.tkSame k 2
    | .replay => y.tkSame k 4 k.response
    | .reject n d => y.tkReject k n (k.errorMessage (tkMsg c) n d)
    | .received n => y.tkReject k n
    | .again ps => y.tkAgain k ps
    | .proceed ps => y.tkProceed c k (tkMsg c) ps) ∧
  tkDecideDesc.CompletesWhere .tkDecide (fun s c => (s.readIke c (s.ikeOf c)).1 = true ∧ decideOk (s.ikeOf c) c = false) (fun s c =>
    let k := s.ikeOf c
    let n := if num c.params 6 1 == 1 then 24 else num c.params 8 2
    (s.readIke c k).2.tkReject k n
      (if k.initiator then k.protect 37 false (k.sendId + 1) [notifyPayload n] else k.protect 35 true k.recvId [notifyPayload n])) ∧
  tkDecideDesc.CompletesWhere .tkDecide (fun s c => (s.readIke c (s.ikeOf c)).1 = true ∧ decideOk (s.ikeOf c) c = true) (fun s c =>
    let k := s.ikeOf c
    let y := (s.readIke c k).2
    if !k.initiator then y.decideAnswer c k
    else if k.further then
      let (out, k) := y.authRequest c { k with peerAuths := k.peerAuths + 1, peer := [] }
      y.tkEnd k 0 0 out
    else y.initiatorChild c { k with peerAuths := k.peerAuths + 1, sendId := k.sendId + 1 } k.peer []) ∧
  tkSendDesc.CompletesWhere .tkSend (fun s c => (s.readIke c (s.ikeOf c)).1 = true ∧ (s.ikeOf c).request ≠ []) (fun s c =>
    (s.readIke c (s.ikeOf c)).2.tkSame (s.ikeOf c) 4 (s.ikeOf c).request) ∧
  tkSendDesc.CompletesWhere .tkSend
    (fun s c => (s.readIke c (s.ikeOf c)).1 = true ∧ (s.ikeOf c).request = [] ∧ num c.params 6 1 = 1) (fun s c =>
      (s.readIke c (s.ikeOf c)).2.tkEnd ((s.ikeOf c).ask 37 []).2 0 0 ((s.ikeOf c).ask 37 []).1) ∧
  (∀ (r : CmdRec) (s x : State) (c : Cmd), tkSendDesc.effectAt? r s = some (x, c) → (x.readIke c (x.ikeOf c)).1 = true →
    ∃ y res, exec (.tkSend r) s = .next (settled c.inst c.tag (y, some { status := .ok, results := res }))) ∧
  (∀ (s : State) (k : Ike) (o n : Nat) (out info child : Bytes), (s.tkEnd k o n out info child) =
    (s.putIke k, some { status := .ok, results := stepResult k.handle k.state o n out info child })) ∧
  (∀ (s : State) (k : Ike) (o : Nat) (out : Bytes), (s.tkSame k o out) =
    (s, some { status := .ok, results := stepResult k.handle k.state o 0 out [] [] })) ∧
  (∀ (s : State) (k : Ike) (n : Nat) (out : Bytes), s.tkReject k n out =
    (s.dropIke k.handle, some { status := .ok, results := stepResult k.handle 6 3 n out [] [] })) ∧
  tkCloseDesc.Completes .tkClose (fun s c => (s.dropIke (num c.params 0 6), some { status := .ok })) ∧
  sheafSignDesc.Completes .sheafSign (fun s c =>
    let h := num c.params 6 1
    let k := c.key (num c.params 0 6)
    let ms := (sheafMsgs c).getD []
    let levels := sheafLevels h 15 (ms.zipIdx.map fun m => sheafLeaf h m.2 m.1)
    let root := ((levels.getLast?).bind List.head?).getD []
    let head := sheafHeader h (k.type + 0x80) (sheafSigLen k.type) ms.length (slice c.params 8 8) root
    let proofs := if bit (num c.params 7 1) 0 then [] else (List.range ms.length).flatMap fun i => sheafProof i (sheafSiblings levels i)
    (s, some { status := .ok, results := head ++ sheafSignature k.type (bit (num c.params 7 1) 1) k.body head c.drawn ++ proofs })) ∧
  sheafVerifyDesc.Completes .sheafVerify (fun s c =>
    let hd := sheafHead c
    let h := byteAt hd 4
    let t := byteAt hd 5
    let l := phLen h
    let pr := sheafPr c
    let msg := slice c.params (16 + sheafInline c + num c.params 8 3 + num c.params 11 2) (num c.params 13 3)
    let pk := if c.inline 0 then slice c.params 16 (sheafInline c) else (c.key (num c.params 0 6)).body
    let sigOk := hd.take 4 == [0x53, 0x48, 0x46, 0x31] && num hd 6 2 == sheafSigLen t &&
      sheafSigOk t pk (hd.take (20 + l)) (hd.drop (20 + l))
    let sib := (List.range (byteAt pr 4)).map fun i => slice pr (6 + i * l) l
    let r := sheafRebuild h 33 (sheafLeaf h (num pr 0 4) msg) (num pr 0 4) (num hd 8 4) sib
    (s, some (if sigOk && (r.2 && r.1 == slice hd 20 l) then { status := .ok, verdict := .pass }
      else { status := .verdictFail, verdict := .fail }))) ∧
  attestDesc.Completes .attest (fun s c =>
    let key := if num c.params 32 6 == 0 then none else some (c.key (num c.params 32 6))
    (s, some { status := .ok, results := s.attested c (s.statement c (c.params.take 32) key (slice c.params 40 (num c.params 38 2))) }))

/-- Instances, mailboxes and settings (R409 to R433, R456 to R460): each command, at its commit point, completes with exactly this effect and
reply; INSTANCE_CREATE does so where it has an ID to give. INSTANCE_DESTROY replies there where no other command of its target is outstanding
and goes on otherwise (R424). -/
def Obligations.InstanceAndSettingCommandsComplete : Prop :=
  (∀ (r : CmdRec) (s x : State) (c : Cmd) (id : Nat), instanceCreateDesc.effectAt? r s = some (x, c) → x.createId c = some id →
    let new : Inst := { bind := bindingOf c id (readShares c.params 20) }
    let t := State.writeTable { x with insts := x.insts ++ [new] }
    exec (.instanceCreate r) s = .next (settled c.inst c.tag
      (x.limitZero (t.modCmd c.inst c.tag fun e => { e with durable := true }), some { status := .ok, results := toBE 1 id }))) ∧
  instanceDestroyDesc.Completes .instanceDestroy (fun s c =>
    let t := num c.params 0 1
    let y := if c.aux == 0 then ((s.resetInstance c t).2.clearInstance t).modCmd c.inst c.tag fun e => { e with aux := 1 } else s
    if y.drainedOf c t then
      let u := State.writeTable { y with insts := y.insts.filter fun x => x.bind.id != t, txq := y.txq.filter fun f => f.inst != t }
      (y.limitZero (u.modCmd c.inst c.tag fun e => { e with durable := true }), some { status := .ok })
    else (y, none)) ∧
  shareSetDesc.Completes .shareSet (fun s c =>
    let t := num c.params 0 1
    let old := (s.inst t).bind.shares
    let new := setShares old (readShares c.params 4) (num c.params 1 1)
    let a := s.modInst t fun i => { i with bind := { i.bind with shares := new } }
    let b := a.writeTable.modCmd c.inst c.tag fun e => { e with durable := true }
    let d := s.limitZero (if new.qslots != old.qslots then b.creditUncaused t else b)
    let e := if { new with qslots := old.qslots } != old then d.raise t 0x0501 (d.shareBlock t) else d
    (e, some { status := .ok, results := e.shareResults t })) ∧
  instanceInfoDesc.Completes .instanceInfo (fun s c => (s, some { status := .ok, results := s.instanceInfo (num c.params 0 1) })) ∧
  instanceBindDesc.Completes .instanceBind (fun s c =>
    ((s.modInst (num c.params 0 1) fun i => { i with bind := bindingOf c (num c.params 0 1) i.bind.shares }).writeTable.modCmd c.inst c.tag fun e =>
      { e with durable := true }, some { status := .ok })) ∧
  instanceListDesc.Completes .instanceList (fun s _ => (s, some { status := .ok, results := s.instanceMap })) ∧
  mboxStatusDesc.Completes .mboxStatus (fun s c =>
    (s, some { status := .ok, results := (s.queueTo (num c.params 0 1) c.inst).status ++ (s.queueTo c.inst (num c.params 0 1)).status })) ∧
  settingGetDesc.Completes .settingGet (fun s c =>
    let stored := s.gran.stored.get? (num c.params 0 2) (scopeOf (num c.params 2 1) (num c.params 3 1))
    (s, some { status := .ok, results := value16 (namedLen c) (stored.getD 0) ++ value16 (namedLen c) (s.namedWorking c) })) ∧
  settingSetDesc.Completes .settingSet (fun s c =>
    let sc := scopeOf (num c.params 2 1) (num c.params 3 1)
    let y := if s.setOver c then s else { s with working := s.working.set (num c.params 0 2) sc (s.newValue c) }
    let z := if num c.params 0 2 == 0x19 then y.mfEffect (s.setting 0x19) (y.newValue c) else if num c.params 0 2 == 0x40 then y.flushTx else y
    (z.modCmd c.inst c.tag fun e => { e with durable := true }, some { status := .ok, results := value16 (namedLen c) (z.namedWorking c) })) ∧
  storeSettingsDesc.Completes .storeSettings (fun s c =>
    let es := s.toStore c
    let y := (es.foldl State.storeOne s).modGran fun g => { g with storeSeq := if es.isEmpty then g.storeSeq else g.storeSeq + 1 }
    (y.modCmd c.inst c.tag fun e => { e with durable := !es.isEmpty }, some { status := .ok, results := toBE 2 es.length ++ [0, 0] }))

/-- The life cycle (R461 to R477): each command, at its commit point, completes with exactly this effect and reply. DEBUG_UNLOCK, and in
Production OWNER_SET and LC_ADVANCE, draw a new DNONCE (R473); LC_ADVANCE replies there where every other command has ended and goes on
otherwise (R469). IDENTITY_INFO before IDENTITY is recorded answers free values. -/
def Obligations.LifeCycleCommandsComplete : Prop :=
  lifecycleStatusDesc.Completes .lifecycleStatus (fun s _ => (s, some { status := .ok, results := s.lcStatus })) ∧
  attestBootDesc.Completes .attestBoot (fun s c =>
    (s, some { status := .ok, results := s.attested c (s.statement c c.params none []) })) ∧
  debugUnlockDesc.Completes .debugUnlock (fun s _ => (s.openDebug.newNonce, some { status := .ok })) ∧
  lcAdvanceDesc.Completes .lcAdvance (fun s c =>
    let y := s.stopAdmission .lcAdvance
    if y.othersDone c then ((if y.lc == .production then y.newNonce else y).advance, some { status := .ok }) else (y, none)) ∧
  ownerSetDesc.Completes .ownerSet (fun s c =>
    let seq := ((s.gran.owner.map (·.seq)).getD 0) + 1
    let y := s.modGran fun g => { g with owner := some { data := c.params.take ownerLen, seq := seq } }
    ((if y.lc == .production then y.newNonce else y).modCmd c.inst c.tag fun e => { e with durable := true }, some { status := .ok })) ∧
  identityInfoDesc.Completes .identityInfo (fun s _ =>
    match s.gran.identity with
    | some b => (s, some { status := .ok, results := b })
    | none => let (b, s) := s.fresh 2691; (s, some { status := .ok, results := b }))

/-- Telemetry, time and page metadata (R451, R513 to R522): each command, at its commit point, completes with exactly this effect and reply.
GLEAN_READ leaves the state but the counters it is told to clear, LOG_READ the read position and the lost count of the log it reads. -/
def Obligations.TelemetryCommandsComplete : Prop :=
  gleanReadDesc.Completes .gleanRead (fun s c =>
    if bit (num c.params 1 1) 1 then (s, some { status := .ok, results := s.gleanFields })
    else (if bit (num c.params 1 1) 0 then s.modInst (num c.params 0 1) fun i => { i with stats := {}, evLost := 0 } else s,
      some { status := .ok, results := (s.inst (num c.params 0 1)).glean })) ∧
  logReadDesc.Completes .logRead (fun s c =>
    let l := (s.field (num c.params 0 1)).log
    let es := (l.ring.filter fun e => e.seq ≥ num c.params 4 8).take (num c.params 1 1)
    let gap := l.ring.head?.any fun e => num c.params 4 8 < e.seq
    let upTo := (es.getLast?.map fun e => e.seq + 1).getD l.read
    (s.modField (num c.params 0 1) fun x => { x with log := { x.log with lost := 0, read := upTo } },
      some { status := .ok, results := toBE 4 l.lost ++ toBE 1 gap.toNat ++ toBE 1 es.length ++ [0, 0] ++ es.flatMap LogEntry.bytes })) ∧
  alarmReadDesc.Completes .alarmRead (fun s _ =>
    (s, some { status := .ok, results := s.fields.flatMap fun x => toBE 4 (if x.gone then 0 else x.alarm.toNat) })) ∧
  timeGetDesc.Completes .timeGet (fun s _ =>
    (s, some { status := .ok, results := toBE 8 s.clock.time ++ toBE 1 s.clock.source ++ toBE 1 s.clock.locked.toNat ++ [0, 0] })) ∧
  timeCtlDesc.Completes .timeCtl (fun s c =>
    ({ s with clock := { s.clock with source := num c.params 0 1, port := num c.params 1 1,
                                      base := if num c.params 4 8 == 0 then s.clock.base else num c.params 4 8,
                                      locked := false, holdover := false, slew := 0 } }, some { status := .ok })) ∧
  gleanCtlDesc.Completes .gleanCtl (fun s c =>
    let rest := s.pkg.timers.filter (· != .telemetry)
    ({ s with pkg := { s.pkg with telemetry := num c.params 0 4, timers := if num c.params 0 4 == 0 then rest else rest ++ [.telemetry] } },
      some { status := .ok })) ∧
  pageMetaDesc.Completes .pageMeta (fun s c =>
    let pg := s.pageOf (num c.params 0 1) (num c.params 4 4)
    let spare := ((s.field (num c.params 0 1)).remap.lookup (num c.params 4 4)).getD 0xFFFF
    (s, some { status := .ok, results := toBE 8 pg.meta ++ toBE 1 pg.read.code ++ toBE 2 spare ++ [0] }))

/-- While a command of several steps is in progress its row makes its effect again and stages the reply that this gives, if it gives one:
FALLOW, RECOVER, LC_ADVANCE, INSTANCE_RESET, INSTANCE_DESTROY, PROGRAM_UNLOAD, OPEN_LOAD and OPEN_CLEAR (R47, R48, R115, R329, R385, R424,
R469). -/
def Obligations.WaitingCommandsGoOn : Prop :=
  fallowDesc.GoesOn .fallow fallowDesc.body ∧
  recoverDesc.GoesOn .recover recoverDesc.body ∧
  lcAdvanceDesc.GoesOn .lcAdvance lcAdvanceDesc.body ∧
  instanceResetDesc.GoesOn .instanceReset instanceResetDesc.body ∧
  instanceDestroyDesc.GoesOn .instanceDestroy instanceDestroyDesc.body ∧
  programUnloadDesc.GoesOn .programUnload programUnloadDesc.body ∧
  openLoadDesc.GoesOn .openLoad openLoadDesc.body ∧
  openClearDesc.GoesOn .openClear openClearDesc.body

/-- GLEAN_CTL and the telemetry period (R522, R57): at its commit point a non-zero PERIOD claims a timer channel and PERIOD 0 releases it; with
all four owned by others a PERIOD in range ends an OPERATIONAL command with PIN_CLAIMED, which is then staged and nothing else done; a
period that passes raises one TELEMETRY event for instance 0, and none where PERIOD is 0. -/
def Obligations.TelemetryTimer : Prop :=
  gleanCtlDesc.Completes .gleanCtl (fun s c =>
    ({ s with pkg := { s.pkg with
        telemetry := num c.params 0 4,
        timers := s.pkg.timers.filter (· != .telemetry) ++ (if num c.params 0 4 = 0 then [] else [.telemetry]) } },
      some { status := .ok })) ∧
  (∀ (r : CmdRec) (s : State) (c : Cmd), s.cmd? r.inst r.tag = some c → gleanCtlDesc.fresh r s c = true → c.params.length = 4 →
    10 ≤ num c.params 0 4 → num c.params 0 4 ≤ 60000 → s.lc ≠ .blank → s.lc ≠ .endOfLife → c.runAt = .operational →
    s.pkg.timers.contains .telemetry = false → 4 ≤ s.pkg.timers.length →
    exec (.gleanCtl r) s = .next (s.complete r.inst r.tag { status := .pinClaimed })) ∧
  (∀ s : State, s.pkg.telemetry ≠ 0 → exec .telemetryPeriod s = .next (s.raise 0 0x0601 s.gleanFields)) ∧
  ∀ s : State, s.pkg.telemetry = 0 → exec .telemetryPeriod s = .next s

/-! ### Frames, replies and credits -/

/-- The sequence window (R84): a tag is accepted where the window is empty or the tag is later than H, and H becomes the tag; a tag
within the last 4,096 that has not been seen is accepted, and H stays; one that has been seen is a duplicate; any other is outside. A tag
that is recorded is seen. -/
def Obligations.SequenceWindow : Prop :=
  ∀ (w : Window) (t : Nat), t < 2 ^ 32 → (∀ h, w.h = some h → h < 2 ^ 32) →
    (w.h = none → w.judge t = .accept t) ∧
    (∀ h, w.h = some h → later t h = true → w.judge t = .accept t) ∧
    (∀ h, w.h = some h → later t h = false → (h + 2 ^ 32 - t) % 2 ^ 32 ≤ 4095 → t ∉ w.seen → w.judge t = .accept h) ∧
    (∀ h, w.h = some h → later t h = false → (h + 2 ^ 32 - t) % 2 ^ 32 ≤ 4095 → t ∈ w.seen → w.judge t = .duplicate) ∧
    (∀ h, w.h = some h → later t h = false → 4095 < (h + 2 ^ 32 - t) % 2 ^ 32 → w.judge t = .outside) ∧
    ∀ top, (w.record top t).h = some top ∧ t ∈ (w.record top t).seen

/-- What a frame that passes every receive check does (R72, R75, R79, R80, R88, R429): a request's records are admitted in order; segment 0
opens a transfer; a segment in its place is staged; a credit query is answered with a credit update, which carries the tag where ACK_REQ asks
for it; a mailbox frame has its effect. Its tag is recorded first, and ACK_REQ of the others is answered last. -/
def Obligations.AcceptedFramesTakeEffect : Prop :=
  (∀ (f : RxFrame) (s x : State) (h : Header) (top : Nat) (rs : List (Nat × Nat × Bytes × Nat)),
    s.accepts? f 0 = some (h, x, top) → h.more = false → h.xfer = 0 → h.segIdx = 0 → h.tlen = h.flen →
    readRecords (rxPayload f).length (rxPayload f) = .ok rs →
    exec (.requestFrame f) s = .next (((x.accept f h top).admitAll f h 0 rs).ackIf f h)) ∧
  (∀ (f : RxFrame) (s x : State) (h : Header) (top : Nat),
    s.accepts? f 0 = some (h, x, top) → h.more = true → h.segIdx = 0 → h.xfer ≠ 0 → h.flen < h.tlen →
    (x.xfers.any fun y => y.inst == h.inst && y.id == h.xfer) = false →
    segZeroCheck h (rxPayload f) = none → x.transferRoom h = none →
    exec (.requestFrame f) s = .next (((x.accept f h top).openXfer f h
      { recOf f h 0 (num (rxPayload f) 0 2, byteAt (rxPayload f) 2, (rxPayload f).drop 10, num (rxPayload f) 6 4) with
        whole := false }).ackIf f h)) ∧
  (∀ (f : RxFrame) (s x : State) (h : Header) (top : Nat) (y : Xfer),
    s.accepts? f 3 = some (h, x, top) → (x.xfers.find? fun z => z.inst == h.inst && z.id == h.xfer) = some y →
    h.segIdx = y.nextSeg → h.tlen = y.tlen → (if h.more then y.got + h.flen ≤ y.tlen else y.got + h.flen = y.tlen) →
    exec (.dataSegment f) s = .next (((x.accept f h top).stageSegment f h y).ackIf f h)) ∧
  (∀ (f : RxFrame) (s x : State) (h : Header) (top : Nat),
    s.accepts? f 5 = some (h, x, top) → h.more = false → h.segIdx = 0 → h.xfer = 0 → h.flen = 0 → h.tlen = 0 →
    exec (.creditQuery f) s =
      .next ((x.accept f h top).sendCredit h.inst (x.replyPort f.port) f.src (some f.port) (if h.ackReq then some h.seq else none))) ∧
  ∀ (f : RxFrame) (s x : State) (h : Header) (top : Nat),
    s.accepts? f 4 = some (h, x, top) → x.mboxCheck h (rxPayload f) = none →
    exec (.mailboxFrame f) s = .next (((x.accept f h top).mboxEffect f h (rxPayload f)).ackIf f h)

/-- What turns a request frame away (R72, R73, R84, R88): past receive checks 1 to 6, a duplicate is counted and its ACK_REQ answered, and a tag
outside the window, a reserved bit or a length that is wrong is answered with a frame status; a frame that fails one of checks 1 to 6 is
discarded, which changes no command and sends nothing. -/
def Obligations.TurnedAwayFrames : Prop :=
  (∀ (f : RxFrame) (s x : State) (h : Header), s.hears? f 0 = some (h, x) → h.rsv = false → h.more = false → h.xfer = 0 → h.segIdx = 0 →
    (x.inst h.inst).window.judge h.seq = .duplicate →
    exec (.requestFrame f) s = .next (((x.countTurned h.inst).drop f.port fun d => { d with dup := d.dup + 1 }).ackIf f h)) ∧
  (∀ (f : RxFrame) (s x : State) (h : Header), s.hears? f 0 = some (h, x) → h.rsv = false → h.more = false → h.xfer = 0 → h.segIdx = 0 →
    (x.inst h.inst).window.judge h.seq = .outside →
    exec (.requestFrame f) s = .next (x.frameStatus h.inst (rxCtx f) .seqOutOfWindow h.seq h.xfer)) ∧
  (∀ (f : RxFrame) (s x : State) (h : Header), s.hears? f 0 = some (h, x) → h.rsv = true →
    exec (.requestFrame f) s = .next (x.frameStatus h.inst (rxCtx f) .badParameter h.seq h.xfer)) ∧
  (∀ (f : RxFrame) (s x : State) (h : Header) (top : Nat) (e : Status), s.hears? f 0 = some (h, x) → h.rsv = false → h.more = false →
    h.xfer = 0 → h.segIdx = 0 → (x.inst h.inst).window.judge h.seq = .accept top → lengthCheck f h = some e →
    exec (.requestFrame f) s = .next (x.frameStatus h.inst (rxCtx f) e h.seq h.xfer)) ∧
  ∀ (f : RxFrame) (s x : State), s.pkg.failover = false → s.rxHead f 0 = .error x →
    exec (.requestFrame f) s = .next x ∧ x.cmds = s.cmds ∧ x.tx = s.tx ∧ x.txq = s.txq

/-- Replies and events leave, and what times out ends (R31, R79, R88, R104, R109, R181, R432, R516): a releasable reply is released; a long
command's PENDING goes out where none has; PAD's expiry marks a staged reply as padded and counts an overrun of a command that still runs; the
RNG wait ends with ENTROPY_PENDING; the event at an instance's head is sent; a gap in a transfer ends it with TRANSFER_ABORTED; a changed HELD
is reported; a queue that has not been pulled raises its doorbell again. -/
def Obligations.RepliesAndTimers : Prop :=
  (∀ (s : State) (i t : Nat) (c : Cmd) (r : Reply), s.cmd? i t = some c → c.stage = .done r → s.releasable c = true →
    exec (.replyRelease i t) s = .next (s.release c r)) ∧
  (∀ (s : State) (i t : Nat) (c : Cmd), s.cmd? i t = some c → opLong s c.op c.params = true → c.isDone = false → c.pendingSent = false →
    s.takesReply c = true →
    exec (.pending i t) s = .next ((s.sendRecord (s.replyPort c.ctx.port) c.ctx.src i c.ctx.tci (some c.ctx.port) 1
      (replyRecord c.op t 0 { status := .pending })).modCmd i t fun c => { c with pendingSent := true })) ∧
  (∀ (s : State) (i t : Nat) (c : Cmd), s.cmd? i t = some c → c.pad = true → c.begun = true → c.padDone = false → c.isDone = true →
    exec (.padExpiry i t) s = .next (s.modCmd i t fun c => { c with padDone := true })) ∧
  (∀ (s : State) (i t : Nat) (c : Cmd), s.cmd? i t = some c → c.pad = true → c.begun = true → c.padDone = false → c.isDone = false →
    exec (.padExpiry i t) s = .next ((s.modField (c.field.getD s.pkg.headland) fun x => { x with padOverrun := x.padOverrun + 1 }).modCmd i t
      fun c => { c with pad := false })) ∧
  (∀ (s : State) (i t k : Nat) (c : Cmd), s.cmd? i t = some c → c.stage = .waitRng k →
    exec (.rngWaitExpiry i t) s = .next (s.complete i t { status := .entropyPending })) ∧
  (∀ (s : State) (i : Nat), s.hasInst i = true → exec (.eventSend i) s = .next (s.eventSend i)) ∧
  (∀ (s : State) (i k : Nat) (x : Xfer), (s.xfers.find? fun y => y.inst == i && y.id == k) = some x →
    exec (.segGapExpiry i k) s =
      .next (State.complete { s with xfers := s.xfers.filter (· != x) } x.inst x.tag { status := .transferAborted })) ∧
  (∀ (s : State) (i : Nat), s.hasInst i = true → (s.inst i).heldSent ≠ s.held i →
    exec (.creditUpdateTimer i) s = .next (s.creditUncaused i)) ∧
  (∀ (s : State) (k : Nat), s.hasInst k = true → k ≠ 0 → (s.queueTo 0 k).msgs ≠ [] → (s.queueTo 0 k).pulled = false →
    exec (.mboxDoorbellRepeat k true) s = .next (s.raise k 0x0502 ((s.queueTo 0 k).doorbell 0))) ∧
  (∀ (s : State) (k : Nat), s.hasInst k = true → k ≠ 0 → (s.queueTo k 0).msgs ≠ [] → (s.queueTo k 0).pulled = false →
    exec (.mboxDoorbellRepeat k false) s = .next (s.raise 0 0x0502 ((s.queueTo k 0).doorbell k)))

/-- Pause frames (R55, R58, R89, R90): the host pauses and resumes priorities of a port that is up, and a pause it does not refresh ends; the
part refreshes the pause of a whole port, and else refreshes or lifts the XOFF it has sent for a priority: per priority under PFC, for the whole port and its whole
buffer where only 802.3x pause is on, and none where neither is. -/
def Obligations.PauseRows : Prop :=
  (∀ (s : State) (p : Nat) (m : BitVec 8), (s.port p).up = true →
    exec (.pauseFrameRx p m true) s = .next (s.modPort p fun x => { x with paused := x.paused ||| m })) ∧
  (∀ (s : State) (p : Nat) (m : BitVec 8), (s.port p).up = true →
    exec (.pauseFrameRx p m false) s = .next (s.modPort p fun x => { x with paused := x.paused &&& ~~~m }).flushTx) ∧
  (∀ (s : State) (p k : Nat), exec (.pauseTimerExpiry p k) s = .next (s.modPort p fun x => { x with paused := x.paused &&& ~~~(1#8 <<< k) }).flushTx) ∧
  (∀ (s : State) (p k : Nat), s.pkg.pausing = true → p < 2 → (s.port p).up = true →
    exec (.pauseRefresh p k) s = .next
      { s with tx := s.tx ++ ((s.port p).allPauses.filter fun q => q == 8 || q == k).map fun q => .pause p q true }) ∧
  (∀ (s : State) (p k : Nat), s.pkg.pausing = false → (s.port p).xoff.getD k false = true →
    (s.pkg.packets = [] → (s.ingressRoom p k).2 ≤ (s.ingressRoom p k).1 * 2) →
    exec (.pauseRefresh p k) s = .next { s with tx := s.tx ++ ((s.port p).pauses k).map fun q => .pause p q true }) ∧
  (∀ (s : State) (p k : Nat), s.pkg.pausing = false → (s.port p).xoff.getD k false = true → s.pkg.packets = [] →
    (s.ingressRoom p k).1 * 2 < (s.ingressRoom p k).2 →
    exec (.pauseRefresh p k) s = .next
      { s.modPort p (fun x => { x with xoff := x.xoff.set k false }) with tx := s.tx ++ ((s.port p).pauses k).map fun q => .pause p q false }) ∧
  ∀ (s : State) (p k : Nat),
    ((s.port p).flow = .pfc → s.ingressRoom p k = ((s.port p).occupancy.getD k 0, s.ingressPart k) ∧ (s.port p).pauses k = [k]) ∧
    ((s.port p).flow = .pause → s.ingressRoom p k = ((s.port p).occupancy.sum, 2097152) ∧ (s.port p).pauses k = [8]) ∧
    ((s.port p).flow = .off → (s.port p).pauses k = [])

/-! ### Power, reset, links and clocks -/

/-- Power and resets (R9, R45, R119, R499 to R506): power-up, an assertion of RESET_N long enough, its release and RESET's execution clear the
part, which keeps fuses and Granary and empties keys, commands and runs, in INERT with the mode word 0; the alarm causes survive RESET's
execution and no other; power lost with RESET_N high is a supply fault that leaves no command, transfer, run or frame to send; RESET's execution first
finishes the record writes in progress (R119), and it and RESET_N's release begin start-up; in INERT the end of self-test and a field's
self-test timeout have their effect. -/
def Obligations.ResetRows : Prop :=
  (∀ (s : State) (b : BitVec 6), s.pkg.railsUp = false →
    exec (.powerUp b) s = .next ((s.cleared false).modPkg fun p => { p with railsUp := true, resetN := false, strapPins := b })) ∧
  (∀ s : State, s.pkg.railsUp = true → s.pkg.resetN = false →
    exec .powerDown s = .next (s.modPkg fun p => { p with railsUp := false })) ∧
  (∀ s : State, s.pkg.railsUp = true → s.pkg.resetN = true →
    exec .powerDown s = .next (State.modPkg { s.glitch with cmds := [], xfers := [], runs := [], txq := [] } fun p => { p with railsUp := false })) ∧
  (∀ s : State, s.pkg.railsUp = true →
    exec (.resetNAssert true) s = .next ((s.cleared false).modPkg fun p => { p with resetN := false })) ∧
  (∀ s : State, s.pkg.railsUp = true → s.pkg.resetN = false →
    exec .resetNRelease s = .next (((s.cleared false).modPkg fun p => { p with resetN := true }).startUp)) ∧
  (∀ s : State, s.pkg.resetPending = true → exec .resetExecute s = .next (s.finishWrites.cleared true).startUp) ∧
  (∀ (s : State) (keep : Bool), (s.cleared keep).fuses = s.fuses ∧ (s.cleared keep).gran = s.gran ∧ (s.cleared keep).keys = [] ∧
    (s.cleared keep).cmds = [] ∧ (s.cleared keep).runs = [] ∧ (s.cleared keep).pkg.run = .inert ∧ (s.cleared keep).pkg.modes = 0 ∧
    (s.cleared keep).fields.length = s.fields.length ∧
    ∀ x ∈ s.fields, x.cleared keep (!s.pkg.refSys) ∈ (s.cleared keep).fields ∧
      (x.cleared keep (!s.pkg.refSys)).alarm = if keep then x.alarm else 0) ∧
  (∀ (s : State) (bad : List Nat), s.running = true → s.pkg.run = .inert →
    exec (.selfTestComplete bad) s = .next (s.endSelfTest bad)) ∧
  ∀ (s : State) (f : Nat), s.running = true → s.pkg.run = .inert →
    exec (.selfTestTimeout f) s = .next (s.modField f fun x => { x with testFailed := true })

/-- Where self-test passes on every field, the package and fields 0 and 1 enter BOOTSTRAP with the strapped lane as bootstrap lane and no port
up, and the other fields are in RECOVERY (R45, R506, R507); where field 0 or field 1 fails, the package and every field that is not lost enter LOCKDOWN (R45,
R506). -/
def Obligations.SelfTestLeavesInert : Prop :=
  (∀ s : State, s.running = true → s.pkg.run = .inert → (∀ x ∈ s.fields, x.testFailed = false ∧ x.lost = false) → s.Sound → 2 ≤ s.n →
    ∃ t, exec (.selfTestComplete []) s = .next t ∧
    t.pkg.run = .bootstrap ∧ t.ports.length = 2 ∧
    (∀ p, p < 2 → (t.port p).up = false ∧ (t.port p).bootstrap = decide (p = s.pkg.straps.toNat % 4 / 2)) ∧
    ∀ f, f < s.n → (t.field f).run = if f < 2 then .bootstrap else .recovery) ∧
  ∀ (s : State) (bad : List Nat), s.running = true → s.pkg.run = .inert → 0 ∈ bad ∨ 1 ∈ bad → s.Sound → 2 ≤ s.n →
    ∃ t, exec (.selfTestComplete bad) s = .next t ∧ t.pkg.run = .lockdown ∧ ∀ f, f < s.n → (s.field f).lost = false → (t.field f).run = .lockdown

/-- Host links and reference clocks (R507, R508, R512, R529, R532): past INERT, with REFCLK_SD and its field alive, the bootstrap lane that is
down comes up, and so does a configured port whose partner offers its form, and what waited for it goes out; a port whose partner does not offer its form, or without REFCLK_SD, stays as it is. A link that goes down takes its port
down; REFCLK_SD's stop takes both host ports down, and its return is noted; REFCLK_SYS's stop has every field's islands hold their calibration, and its
return ends that. -/
def Obligations.LinkAndClockRows : Prop :=
  (∀ (s : State) (p : Nat), (List.range 2).find? (fun p => (s.port p).bootstrap && !(s.port p).up) = some p → s.running = true →
    s.pkg.run ≠ .inert → s.pkg.refSd = true → s.laneAlive p = true →
    exec .bootstrapLinkUp s = .next (s.modPort p fun x => { x with up := true }).flushTx) ∧
  (∀ (s : State) (p : Nat) (fs : List EthForm) (g : EthForm), s.running = true → s.pkg.run ≠ .inert → s.pkg.refSd = true →
    (s.port p).bootstrap = false → (s.port p).up = false → s.laneAlive p = true → (s.port p).form = some g → g ∈ fs →
    exec (.hostLinkUp p fs) s = .next (s.modPort p fun x => { x with up := true }).flushTx) ∧
  (∀ (s : State) (p : Nat) (fs : List EthForm), (∀ g, (s.port p).form = some g → g ∉ fs) → exec (.hostLinkUp p fs) s = .next s) ∧
  (∀ (s : State) (p : Nat) (fs : List EthForm), s.pkg.refSd = false →
    exec (.hostLinkUp p fs) s = .next s ∧ exec .bootstrapLinkUp s = .next s) ∧
  (∀ (s : State) (p : Nat), exec (.hostLinkDown p) s = .next (s.modPort p fun x => { x with up := false, paused := 0 })) ∧
  (∀ s : State, exec .refclkSdStop s = .next (((s.portDown 0).portDown 1).modPkg fun p => { p with refSd := false })) ∧
  (∀ s : State, exec .refclkSdReturn s = .next (s.modPkg fun p => { p with refSd := true })) ∧
  (∀ s : State, exec .refclkSysStop s =
    .next ((s.modFields fun x => { x with sysHeld := true }).modPkg fun p => { p with refSys := false })) ∧
  ∀ s : State, exec .refclkSysReturn s =
    .next ((s.modFields fun x => { x with sysHeld := false }).modPkg fun p => { p with refSys := true })

/-- JTAG (R476): IDCODE and BYPASS always answer; register, memory and set-point reads answer while debug opens the port and shift out
nothing else; the sealed blocks never answer. Nothing but what the TAP shifts out, and for IDCODE the free-value counter, changes. -/
def Obligations.JtagAnswersOnlyWhatIsOpen : Prop :=
  (∀ s : State, ∃ b, exec (.jtagTapAccess .idcode) s = .next { s with pkg := { s.pkg with jtag := b }, free := s.free + 1 } ∧ b.length = 4) ∧
  (∀ s : State, exec (.jtagTapAccess .bypass) s = .next { s with pkg := { s.pkg with jtag := [0] } }) ∧
  (∀ (s : State) (u : FurrowRef) (r : Nat), exec (.jtagTapAccess (.furrowReg u r)) s =
    .next { s with pkg := { s.pkg with jtag := if s.debugBit then toBE 3 ((s.furrow u).s.getD r 0).toNat else [] } }) ∧
  (∀ (s : State) (u : FurrowRef) (a : Nat), exec (.jtagTapAccess (.furrowWord u a)) s =
    .next { s with pkg := { s.pkg with jtag := if s.debugBit then toBE 3 ((s.furrow u).dmem.read a).toNat else [] } }) ∧
  (∀ (s : State) (u : ThreadRef) (r : Nat), exec (.jtagTapAccess (.caddyReg u r)) s =
    .next { s with pkg := { s.pkg with jtag := if s.debugBit then toBE 4 ((s.thread u).x.getD r 0).toNat else [] } }) ∧
  (∀ (s : State) (f : Nat), exec (.jtagTapAccess (.islandSetPoint f)) s =
    .next { s with pkg := { s.pkg with jtag := if s.debugBit then toBE 2 (s.field f).setPoint else [] } }) ∧
  ∀ (s : State) (f : Nat), exec (.jtagTapAccess (.sealedState f)) s = .next { s with pkg := { s.pkg with jtag := [] } }

/-! ### Faults, alarms and power -/

/-- A field's loss and what follows it (R17, R32 to R42, R537): a field whose alive line falls is lost, with no key in its slots, no KEK and no
merge image; while field 0 is being replaced the failover runs; a Plolys retry is counted and logged; a link that goes down is marked at
both ends, logged, and the fields it cuts off are isolated; a thermal shutdown is noted and loses the field. -/
def Obligations.FieldLossRows : Prop :=
  (∀ (s : State) (f : Nat), exec (.fieldAliveFall f) s = .next (s.loseField f)) ∧
  (∀ (s : State) (f : Nat), f < s.n → s.Sound → (s.field f).lost = false → ∃ t, exec (.fieldAliveFall f) s = .next t ∧
    (t.field f).lost = true ∧ (t.field f).slots = [] ∧ (t.field f).kek = [] ∧ (t.field f).merge = []) ∧
  (∀ s : State, s.pkg.failover = true → exec .headlandFailover s = .next s.failover) ∧
  (∀ (s : State) (f p : Nat), s.portInUse f p = true → s.linkUp f p = true →
    ∃ b, exec (.plolysCrcFail f p) s = .next ((s.modLink f p fun l => { l with retries := min (2 ^ 32 - 1) (l.retries + 1) }).log f (49 + p) 7 0xFF b)) ∧
  (∀ (s : State) (f p : Nat), s.portInUse f p = true → s.linkUp f p = true →
    let down := fun (l : Link) => { l with state := .down, downs := min (2 ^ 32 - 1) (l.downs + 1) }
    ∃ b, exec (.plolysLinkDown f p) s = .next (((s.modLink f p down).modLink (f ^^^ 2 ^ p) p down).log f (49 + p) 7 0xFF b).isolateCut) ∧
  ∀ (s : State) (f : Nat), f < s.n → (s.field f).lost = false →
    exec (.thermalShutdown f) s = .next ((s.modField f fun x => { x with thermal := true }).loseField f).syncAlert

/-- An armed sensor's trip past INERT on a field that is not locked (R489 to R493, R497): the field enters LOCKDOWN with no key in its slots
and no KEK, the cause is latched in its alarm-cause register where none is, and with LOCKDOWN_SCOPE 0 the package enters LOCKDOWN with the
mode word 0. -/
def Obligations.SensorTripLocksField : Prop :=
  ∀ (s : State) (f cls island detail : Nat), s.Sound → s.armed f cls island = true → s.pkg.run ≠ .inert → (s.field f).run ≠ .lockdown →
    ∃ t, exec (.sensorTrip f cls island detail) s = .next t ∧ (t.field f).run = .lockdown ∧ (t.field f).slots = [] ∧
      (t.field f).kek = [] ∧
      ((s.field f).alarm.getLsbD 31 = false → (t.field f).alarm = alarmWord cls (if cls = 2 then island else 59) detail f) ∧
      (s.setting 0x06 = 0 → t.pkg.run = .lockdown ∧ t.pkg.modes = 0)

/-- The other alarm and temperature rows (R490, R492, R493, R537, R547): a field to which the alarm line has still to come responds with class
8, and one to which it has not does nothing; a tamper mismatch is an alarm of class 6 on Headland's field while the loop is armed, and nothing
while it is not; a temperature within the limits is noted, and one beyond them too, which at the second successive reading is an alarm of
class 3. -/
def Obligations.AlarmRows : Prop :=
  (∀ (s : State) (f g : Nat), (f, g) ∈ s.pkg.alarmLine → exec (.alarmLineReceived f g) s =
    .next ((s.modPkg fun p => { p with alarmLine := p.alarmLine.filter (· != (f, g)) }).alarmField f 8 59 0 g).syncAlert) ∧
  (∀ (s : State) (f g : Nat), (f, g) ∉ s.pkg.alarmLine → exec (.alarmLineReceived f g) s = .next s) ∧
  (∀ (s : State) (k : Nat), s.running = true → s.pkg.tamperArmed = true → k < 2 →
    exec (.tamperMismatch k) s = .next (s.alarm s.pkg.headland 6 59 k)) ∧
  (∀ (s : State) (k : Nat), s.pkg.tamperArmed = false → exec (.tamperMismatch k) s = .next s) ∧
  (∀ (s : State) (f k : Nat) (c : Int), s.running = true → f < s.n → k < 8 → (s.field f).lost = false → -55 ≤ c → c ≤ 140 →
    exec (.tempSensorReading f k c) s = .next (s.modField f fun x =>
      { x with temps := x.temps.set k (if c > 125 then 2 else if c > 120 then 1 else 0), outside := x.outside.set k false }).syncAlert) ∧
  (∀ (s : State) (f k : Nat) (c : Int), s.running = true → f < s.n → k < 8 → (s.field f).lost = false → c < -55 ∨ 140 < c →
    (s.field f).outside.getD k false = false →
    exec (.tempSensorReading f k c) s = .next (s.modField f fun x =>
      { x with temps := x.temps.set k (tempBand c), outside := x.outside.set k true }).syncAlert) ∧
  ∀ (s : State) (f k : Nat) (c : Int), s.running = true → f < s.n → k < 8 → (s.field f).lost = false → c < -55 ∨ 140 < c →
    (s.field f).outside.getD k false = true →
    exec (.tempSensorReading f k c) s = .next ((s.modField f fun x =>
      { x with temps := x.temps.set k (tempBand c), outside := x.outside.set k false }).syncAlert.alarm f 3 59 k)

/-- The power ceiling (R544 to R546): BROWN_CEIL while BROWN_N is low, else POWER_CEIL while CAPPED is on, else none. Above it a power window has
the part throttle, and scale, or once every field is scaled gate where CAPPED is on; at or below it the throttling ends and the packets
that waited pass. Throttling under INLINE with CAPPED calls for a pause, which is sent when it begins and lifted when it ends, by 802.3x
where a port has that (R55); without INLINE none is called for. A field being gated is in FALLOW once no command runs on it and it holds no
live service state; a reversal step with 1 W of room ungates a field, or raises the set points, and without that room does nothing. A low VDD_CORE limits the
set points; a VPP_FUSE voltage outside Test is logged. POWER_GOOD (R536) is high just while the package, and every field that entered
OPERATIONAL at ENABLE, is in OPERATIONAL or FALLOW. -/
def Obligations.PowerRows : Prop :=
  (∀ s : State, s.ceiling = if s.pkg.brownLow then some (500 * s.setting 0x05)
    else if s.mode .capped then some (500 * s.setting 0x04) else none) ∧
  (∀ s : State, exec .brownNLow s = .next { s with pkg := { s.pkg with brownLow := true } }) ∧
  (∀ s : State, exec .brownNHigh s = .next { s with pkg := { s.pkg with brownLow := false } }) ∧
  (∀ (s : State) (m : PowerReading), (∀ c, s.ceiling = some c → m.average ≤ c) →
    exec (.powerWindow m) s = .next
      (State.drainPackets { s with power := { s.power with average := m.average, throttle := false } }).settlePause) ∧
  (∀ (s : State) (m : PowerReading) (c : Nat), s.ceiling = some c → c < m.average → s.allScaled = false →
    exec (.powerWindow m) s = .next
      (State.settlePause { s with power := { s.power with average := m.average, throttle := true } }).scaleDown) ∧
  (∀ (s : State) (m : PowerReading) (c : Nat), s.ceiling = some c → c < m.average → s.allScaled = true → s.mode .capped = true →
    s.fields.any (·.gating) = false →
    exec (.powerWindow m) s = .next
      (State.settlePause { s with power := { s.power with average := m.average, throttle := true } }).gateNext) ∧
  (∀ s : State, s.mode .inline = true → s.mode .capped = true → s.power.throttle = true → s.mustPause = true) ∧
  (∀ s : State, s.mode .inline = false → s.mustPause = false) ∧
  (∀ s : State, s.mustPause = s.pkg.pausing → s.settlePause = s) ∧
  (∀ (s : State) (p : Nat), s.mustPause ≠ s.pkg.pausing → p < 2 → (s.port p).up = true → (s.port p).flow = .pause →
    .pause p 8 s.mustPause ∈ s.settlePause.tx) ∧
  (∀ (s : State) (f : Nat), (s.field f).gating = true → (s.migrate f).cmds.any ((s.migrate f).runsOn f) = false →
    (s.migrate f).liveService f = false → exec (.cappedGateDrained f) s =
      .next ((s.migrate f).modField f fun x => { x with gating := false, gated := true, run := .fallow })) ∧
  (∀ (s : State) (m : PowerReading), s.underCeiling m.average = false → exec (.powerReversalStep m) s = .next s) ∧
  (∀ (s : State) (m : PowerReading) (f : Nat), s.underCeiling m.average = true → s.underCeiling m.ungateEstimate = true →
    (s.fieldNums.find? fun f => (s.field f).gated) = some f →
    exec (.powerReversalStep m) s = .next (s.modField f fun x =>
      { x with gated := false, run := if s.pkg.run == .fallow then .fallow else .operational })) ∧
  (∀ (s : State) (m : PowerReading) (p : Nat), s.underCeiling m.average = true → (s.fieldNums.all fun f => !(s.field f).gated) = true →
    s.raiseTo m.raiseEstimates = some p → exec (.powerReversalStep m) s = .next (s.raisePoints p)) ∧
  (∀ (s : State) (f : Nat), exec (.vddCoreBelow075V f) s = .next (s.modField f fun x => { x with coreLow := true }).limitPoints) ∧
  (∀ (s : State) (f : Nat), s.lc ≠ .test → exec (.vppFuseVoltageOutsideTest f) s = .next (s.log f 63 12 0xFF [])) ∧
  ∀ (s : State) (k : Nat), s.mfPin 3 = some k → ∃ v, s.mfLevel k = some v ∧ (v = true ↔
    (s.pkg.run = .operational ∨ s.pkg.run = .fallow) ∧
      ∀ x ∈ s.fields, x.entered = true → x.lost = false ∧ (x.run = .operational ∨ x.run = .fallow))

/-! ### Memory, entropy and the control store -/

/-- GDDR6 (R447 to R454): refreshes are counted; the rate doubles above 85 °C and is restored at 80 °C or below; a retraining that is due is
made, or deferred behind queued accesses, and then made at the limit; a link error that a retry mends is logged, and a final one on a read ends
its command with SOURCE_POISONED, after a retraining and an event; Harrow's sweep goes on past a clean page; a page that is due is retired
to the next good spare, and a spare that fails its test is passed over; and an idle merge image commits. -/
def Obligations.MemoryRows : Prop :=
  (∀ (s : State) (f c : Nat), s.memoryUp f = true → c < 2 →
    exec (.gddr6Refresh f c) s = .next (s.modField f fun x => { x with refreshes := x.refreshes.modify c (· + 1) })) ∧
  (∀ (s : State) (f : Nat) (c : Int), s.memoryUp f = true → exec (.gddr6TemperatureRead f c) s =
    .next (s.modField f fun x => { x with refreshDoubled := if c > 85 then true else if c ≤ 80 then false else x.refreshDoubled })) ∧
  (∀ (s : State) (f : Nat), s.memoryUp f = true →
    exec (.retrainDue f false) s = .next (s.modField f fun x => { x with trainedAt := s.clock.time, retrainDeferred := false })) ∧
  (∀ (s : State) (f : Nat), s.memoryUp f = true →
    exec (.retrainDue f true) s = .next (s.modField f fun x => { x with retrainDeferred := true })) ∧
  (∀ (s : State) (f : Nat), s.memoryUp f = true → (s.field f).retrainDeferred = true →
    exec (.retrainDeferLimit f) s = .next (s.modField f fun x => { x with trainedAt := s.clock.time, retrainDeferred := false })) ∧
  (∀ (s : State) (e : EdcFault) (n : Nat), s.memoryUp e.field = true → e.channel < 2 → e.page < 983040 → e.outcome = .retried n →
    exec (.edcFailure e) s = .next (s.log e.field 45 8 e.inst (toBE 1 e.channel ++ toBE 1 n))) ∧
  (∀ (s : State) (e : EdcFault), s.memoryUp e.field = true → e.channel < 2 → e.page < 983040 → e.outcome = .final → e.write = false →
    exec (.edcFailure e) s = .next ((((s.log e.field 45 8 e.inst (toBE 1 e.channel ++ toBE 1 4)).retrain e.field).raise 0 0x0401
      (toBE 1 e.field ++ toBE 1 e.channel ++ toBE 4 e.page)).complete e.inst e.tag { status := .sourcePoisoned })) ∧
  (∀ (s : State) (f : Nat), s.harrowRuns f = true → s.clean f (s.field f).sweepAt = true → (s.pageOf f (s.field f).sweepAt).retry = false →
    (s.field f).sweepAt < 983040 → exec (.harrowVisit f 0 false) s = .next (s.modField f FieldSt.advanceSweep)) ∧
  (∀ (s : State) (f p k : Nat), s.memoryUp f = true → p < 983040 → (s.pageOf f p).due = true → (s.field f).spare = some k →
    exec (.pageRetirement f p true false) s = .next (s.modField f fun x => { x with deadSpares := x.deadSpares ++ [k] })) ∧
  (∀ (s : State) (f p k : Nat), s.memoryUp f = true → p < 983040 → (s.pageOf f p).due = true → (s.field f).spare = some k →
    f < s.fields.length → ∃ t, exec (.pageRetirement f p false false) s = .next t ∧
    (t.field f).remap.lookup p = some k ∧ (f, p, k) ∈ t.gran.retired ∧ (t.pageOf f p).due = false) ∧
  ∀ (s : State) (f p : Nat) (m : Merge), ((s.field f).merge.find? fun m => m.page == p) = some m →
    exec (.mergeIdleTimer f p) s = .next (s.commitMerge f m)

/-- The entropy source (R297 to R308): a finished start-up instantiates Steep and seeds the four generators; a health failure zeroises Steep
and the pool, begins the start-up again and, as the third within 3,600 s, latches the Seedbed; a health window's estimates are kept, and
RNG_DRIFT raised where one reaches its limit; a reseed takes 512 pooled bits of each source; the request at the head of the queue goes on;
a running generator's request for its next seed is served, or waits its turn; at the switch point the generator takes that seed, or stops,
in a latched field always. -/
def Obligations.SeedbedRows : Prop :=
  (∀ (s : State) (f : Nat), s.seedTests f = true → (s.field f).seed.state ≠ .ready → f < s.fields.length →
    ∃ t, exec (.seedbedStartupDone f) s = .next t ∧ (t.field f).seed.state = .ready ∧ (t.field f).seed.seeded = true ∧
      ∀ g ∈ (t.field f).leaf, g.running = true) ∧
  (∀ (s : State) (f k : Nat) (apt : Bool), s.seedTests f = true → k < 2 → f < s.fields.length →
    ∃ t, exec (.healthFailure f k apt) s = .next t ∧ (t.field f).seed.seeded = false ∧ (t.field f).seed.pool = 0 ∧
      (2 ≤ (s.recentFails f).length → (t.field f).seed.state = .latched) ∧
      ((s.recentFails f).length < 2 → (t.field f).seed.state ≠ .ready ∧ (t.field f).seed.state ≠ .latched)) ∧
  (∀ (s : State) (f k ones : Nat) (ac : List Int), s.seedTests f = true → k < 2 → ones ≤ 4096 → ac.length = 4 →
    let lim := (s.field f).seed.lim
    let far := decide (lim.bias ≤ (ones - 2048) + (2048 - ones)) || ac.any fun a => decide (lim.ac ≤ a.natAbs)
    let y := s.modField f fun x => { x with seed := { x.seed with sources := x.seed.sources.modify k fun n =>
      { n with samples := n.samples + (4096 - n.tests.seen), ones := ones, ac := ac, drift := n.drift + far.toNat, tests := n.tests.nextWindow } } }
    exec (.seedbedHealthWindow f k ones ac) s = .next
      (if far then y.raise 0 0x0203 (toBE 1 f ++ toBE 1 k ++ toBE 2 ones ++ (ac.map (toBEInt 2)).flatten) else y)) ∧
  (∀ (s : State) (f : Nat), (s.field f).seed.state = .ready → 4096 ≤ (s.field f).seed.reqs → (s.field f).seed.holds 512 = true →
    s.poolQueue f = false → s.pkg.dnonceDue = false ∨ f ≠ s.pkg.headland →
    exec (.steepReseed f) s = .next (s.modField f fun x =>
      { x with seed := { x.seed with reqs := 0, reseeds := x.seed.reseeds + 1,
                                     sources := x.seed.sources.map fun n => { n with pooled := n.pooled - 512 } } })) ∧
  (∀ (s : State) (f p : Nat), (s.field f).seed.state = .ready → (s.field f).seed.holds 512 = true → (s.poolPlaces f).min? = some p →
    ((s.field f).leaf.any fun g => g.asked == p) = false →
    ∃ t, exec (.steepReseed f) s = .next t ∧
      t.cmds = s.cmds.map fun c => if c.queued == p && c.stage == .waitPool then { c with stage := .dispatched } else c) ∧
  (∀ (s : State) (f p a : Nat), (s.field f).seed.state = .ready → (s.field f).seed.holds 512 = true → f < s.fields.length →
    (s.poolPlaces f).min? = some p → ((List.range 4).find? fun a => ((s.field f).leaf.getD a {}).asked == p) = some a →
    ∃ t, exec (.steepReseed f) s = .next t ∧ (t.field f).leaf = (s.field f).leaf.modify a LeafGen.serve) ∧
  (∀ (s : State) (f a : Nat), (s.field f).seed.state = .ready → ((s.field f).leaf.getD a {}).running = true →
    s.steepStalls f false = true → exec (.leafSeedRequest f a) s =
      .next ((s.modPkg fun p => { p with arrivals := p.arrivals + 1 }).modField f fun x => { x with leaf := x.leaf.modify a fun g =>
        { g with asked := if g.asked == 0 then s.pkg.arrivals + 1 else g.asked } })) ∧
  (∀ (s : State) (f a : Nat), (s.field f).seed.state = .ready → ((s.field f).leaf.getD a {}).running = true → f < s.fields.length →
    s.steepStalls f false = false →
    ∃ t, exec (.leafSeedRequest f a) s = .next t ∧ ((t.field f).leaf.getD a {}).nextSeed = true ∧ t.free = s.free + 1) ∧
  (∀ (s : State) (f a : Nat), ((s.field f).leaf.getD a {}).running = true → ((s.field f).leaf.getD a {}).nextSeed = true →
    (s.field f).seed.state ≠ .latched → exec (.leafSwitchPoint f a) s = .next (s.modField f fun x => { x with leaf := x.leaf.modify a fun g =>
      { running := true, nextSeed := false, asked := 0, seeded := true, reseeds := g.reseeds + g.seeded.toNat } })) ∧
  (∀ (s : State) (f a : Nat), ((s.field f).leaf.getD a {}).running = true → ((s.field f).leaf.getD a {}).nextSeed = false →
    (s.field f).seed.state ≠ .latched → exec (.leafSwitchPoint f a) s =
      .next (s.modField f fun x => { x with leaf := x.leaf.modify a fun g => { g with running := false, nextSeed := false } })) ∧
  ∀ (s : State) (f a : Nat), ((s.field f).leaf.getD a {}).running = true → (s.field f).seed.state = .latched → f < s.fields.length →
    ∃ t, exec (.leafSwitchPoint f a) s = .next t ∧ ((t.field f).leaf.getD a {}).running = false ∧
      ((t.field f).leaf.getD a {}).reseeds = ((s.field f).leaf.getD a {}).reseeds

/-- The control store (R372 to R374, R486): a parity error puts the field into machine check, removes its runs and ends its commands; a
reload takes the store's words from their sources, makes the field dispatchable again and raises one event, or at the fourth fault event
within 60 s is an alarm of class 7; the scrub reads the next word, and repairs and logs a bad one. -/
def Obligations.ControlStoreRows : Prop :=
  (∀ (s : State) (f w : Nat), s.caddyRuns f = true → w < 16384 → f < s.fields.length →
    (∀ c ∈ s.cmds, s.cmd? c.inst c.tag = some c) → ∃ t, exec (.parityError f w) s = .next t ∧
    (t.field f).mcheck = true ∧ (∀ r ∈ t.runs, r.field ≠ f) ∧ ∀ c ∈ t.cmds, c.field = some f → c.isDone = true) ∧
  (∀ (s : State) (f : Nat), (s.field f).mcheck = true → s.faultCount f < 4 → exec (.controlStoreReloadDone f) s =
    .next (((s.reloadStore f).modField f fun x => { x with mcheck := false }).raise 0 0x0105 (toBE 1 f ++ toBE 1 (s.faultCount f)))) ∧
  (∀ (s : State) (f : Nat), (s.field f).mcheck = true → 4 ≤ s.faultCount f → exec (.controlStoreReloadDone f) s =
    .next (s.alarm f 7 59 (min 255 (s.faultCount f)))) ∧
  (∀ (s : State) (f : Nat), f < s.n → (s.field f).lost = false → (s.field f).run ≠ .lockdown → exec (.controlStoreScrub f false) s =
    .next (s.modField f fun x => { x with scrubAt := (x.scrubAt + 1) % 16384 })) ∧
  ∀ (s : State) (f : Nat), f < s.n → (s.field f).lost = false → (s.field f).run ≠ .lockdown → exec (.controlStoreScrub f true) s =
    .next (((s.repairWord f (s.field f).scrubAt).log f 32 6 0xFF (toBE 2 (s.field f).scrubAt)).modField f fun x =>
      { x with scrubAt := (x.scrubAt + 1) % 16384 })

/-! ### What ends a wait -/

/-- The rows that let waiting work go on (R136, R197, R201, R209, R250 to R253, R284, R330, R366, R388, R416): free sealed slots; a confirmed
leaf record, and one that fails while reserved leaves are left; a rebuilt cache whose turn has come; a Winnow context that Whisk has saved
or restored, and a keyed one whose wrap fails; a free context; a free thread; room in the service buffer; Whisk's promotion; and an acre
that is free for the run whose turn it is. -/
def Obligations.WaitsEnd : Prop :=
  (∀ (s : State) (f : Nat), exec (.siloSlotsFree f) s = .next { s with cmds := s.cmds.map fun c =>
    if c.stage == .waitSlots && (c.field == some f || c.field2 == some f) then { c with stage := .dispatched } else c }) ∧
  (∀ (s : State) (h : Nat), (s.entryOf h).leaves.reserving = true → exec (.leafReservationDone h true) s =
    .next (((s.recordLeaf h (s.entryOf h).leaves.nextHwm).modLeaf h fun l => { l with reserving := false }).wakeSigners h)) ∧
  (∀ (s : State) (h : Nat), (s.entryOf h).leaves.reserving = true → (s.entryOf h).leaves.next < (s.entryOf h).leaves.hwm →
    ∃ b, exec (.leafReservationDone h false) s = .next
      (((((s.fresh 3).2.tearLeaf h).modLeaf h fun l => { l with reserving := false }).log (hHome h) 48 13 (hInst h) b).wakeSigners h)) ∧
  (∀ (s : State) (h : Nat), s.rebuildNow (hHome h) = some h → s.rebuildTurn h = true → ∃ t, exec (.cacheRebuildDone h) s = .next t ∧
    t.keys = (s.modLeaf h fun l => { l with cacheReady := true, midBuilt := l.next }).keys) ∧
  (∀ (s : State) (f k : Nat) (w : WCtx), ((s.field f).ctxs.find? fun w => w.id == k && w.state == 2) = some w → w.again = false →
    s.imageServed f w = true →
    ∀ t, ((s.modField f fun x => x.servedImage w).modField f fun x => { x.modCtx k (fun w => { w with state := 3, again := false }) with
      saves := sat48 (x.saves + 1) }).pageWrite w.inst w.tag f w.page w.image.length = (true, t) →
    exec (.contextSaveDone f k) s = .next (t.serveCtx f)) ∧
  (∀ (s : State) (f k : Nat) (w : WCtx), ((s.field f).ctxs.find? fun w => w.id == k && w.state == 4) = some w → s.clean f w.page = true →
    s.imageServed f w = true →
    let y := ((s.modField f fun x => x.servedImage w).modField f fun x => { x with restores := sat48 (x.restores + 1) }).modField f fun x => x.modCtx k fun w => { w with state := 0 }
    exec (.contextRestoreDone f k true) s = .next
      (State.modCmd (match y.cmd? w.inst w.tag with
        | some c => y.ctxSegment f c
        | none => y) w.inst w.tag fun (c : Cmd) => if c.stage == Stage.waitCtx then { c with stage := Stage.dispatched } else c)) ∧
  (∀ (s : State) (f k : Nat) (w : WCtx), ((s.field f).ctxs.find? fun w => w.id == k && w.state == 4) = some w → s.clean f w.page = true →
    s.imageServed f w = true → w.keyed = true → exec (.contextRestoreDone f k false) s = .next
      (((s.modField f fun x => x.servedImage w).modField f fun x => { x with restores := sat48 (x.restores + 1) }).complete w.inst w.tag { status := .faultDetected })) ∧
  (∀ (s : State) (f : Nat), exec (.winnowContextFree f) s = .next (s.serveCtx f)) ∧
  (∀ (s : State) (f : Nat) (c : Cmd), s.threadsUsed f < 64 →
    (s.cmds.find? fun c => c.stage == .waitThread && (c.field == some f || c.field2 == some f)) = some c →
    exec (.caddyThreadFree f) s = .next (s.modCmd c.inst c.tag fun c => { c with stage := .dispatched })) ∧
  (∀ s : State, exec .serviceBufferSpaceFree s = .next { s.settlePause with cmds := s.settlePause.cmds.map fun c =>
    if c.stage == .waitSpace then { c with stage := .dispatched } else c }) ∧
  (∀ (s : State) (f : Nat), exec (.whiskRequestPromotion f) s = .next (s.modField f fun x => { x with whisk := promoteFirst x.whisk })) ∧
  ∀ (s : State) (f a : Nat) (r : Run), a < 4 → f < s.n → s.nextRun f a = some r → exec (.acreFreeRunStart f a) s = .next (s.startRun r.id a)

/-- Drains and idle limits (R47, R48, R280, R393, R469): FALLOW's reply is staged once every other command has ended; at the limit of the drain
of RECOVER in OPERATIONAL, and of LC_ADVANCE, every other command that is not done ends with MACHINE_CHECK, the transition is made, in
Production with a new DNONCE, and OK is staged; a RECOVER that finds the package out of OPERATIONAL ends with STATE_FORBIDS (DEDUCED from
R45, log entry 115); an IKE SA left idle is dropped with an event; the lifetime scan judges every timed SA. -/
def Obligations.DrainRows : Prop :=
  (∀ (s : State) (c : Cmd), s.inProgress 0x0005 = some c → s.othersDone c = true →
    exec .fallowDrainDone s = .next (s.complete c.inst c.tag { status := .ok })) ∧
  (∀ (s : State) (c : Cmd), s.inProgress 0x0005 = some c → s.othersDone c = false → exec .fallowDrainDone s = .next s) ∧
  (∀ (s : State) (c : Cmd), s.inProgress 0x0007 = some c → s.pkg.run ≠ .operational → exec .recoverDrainTimeout s =
    .next (s.complete c.inst c.tag { status := .stateForbids })) ∧
  (∀ (s : State) (c : Cmd), s.inProgress 0x0007 = some c → s.pkg.run = .operational → exec .recoverDrainTimeout s =
    .next ((s.endAll (s.cmds.filter fun d => !d.isDone && !(d.inst == c.inst && d.tag == c.tag)) .machineCheck).toRecovery.complete
      c.inst c.tag { status := .ok })) ∧
  (∀ (s : State) (c : Cmd), s.inProgress 0x0C10 = some c → 
    let y := s.endAll (s.cmds.filter fun d => !d.isDone && !(d.inst == c.inst && d.tag == c.tag)) .machineCheck
    y.lc ≠ .production → exec .lcAdvanceDrainTimeout s = .next (y.advance.complete c.inst c.tag { status := .ok })) ∧
  (∀ (s : State) (c : Cmd), s.inProgress 0x0C10 = some c →
    let y := s.endAll (s.cmds.filter fun d => !d.isDone && !(d.inst == c.inst && d.tag == c.tag)) .machineCheck
    y.lc = .production → exec .lcAdvanceDrainTimeout s = .next (y.newNonce.advance.complete c.inst c.tag { status := .ok })) ∧
  (∀ (s : State) (h : Nat), (s.ikes.any fun k => k.handle == h && k.state < 5) = true → exec (.tkIdleExpiry h) s =
    .next ((s.dropIke h).raise (hInst h) 0x0305 (toBE 6 h))) ∧
  (∀ (s : State) (h : Nat), (s.ikes.any fun k => k.handle == h && k.state < 5) = false → exec (.tkIdleExpiry h) s = .next s) ∧
  ∀ s : State, s.pkg.timers.contains .saScan = true → exec .saLifetimeScan s =
    .next ((s.sas.filter Sa.timed).foldl (fun s a => s.judgeSa a.handle true) s)

/-- The time base (R514, R515, R536): a Sync exchange on the disciplining port locks it, a forward correction of more than 1 ms being a step and
any other a slew; it raises TIME_LOCKED where lock is regained; the 10 s without Sync enter holdover with TIME_UNLOCKED; an edge on PPS_IN
never lowers it, counts one second and locks; three missed edges count three and enter holdover; a second pulses the PPS_OUT pin where one
is assigned; and the passing of time does not lower it. -/
def Obligations.TimeBaseRows : Prop :=
  (∀ (s : State) (p : Nat) (d : Int), s.clock.source = 1 → s.clock.port = p → (s.port p).up = true → ∃ t,
    exec (.ptpSyncRx p d) s = .next t ∧ t.clock.locked = true ∧ t.clock.holdover = false ∧ t.clock.offset = d ∧
      (d > 1000000 → (t.clock.time : Int) = s.clock.time + d ∧ t.clock.slew = 0) ∧
      (d ≤ 1000000 → t.clock.time = s.clock.time ∧ t.clock.slew = d)) ∧
  (∀ s : State, s.clock.source = 1 → s.clock.holdover = false → exec .ptpSyncTimeout s =
    .next (State.raise { s with clock := { s.clock with holdover := true, locked := false } } 0 0x0106 (toBEInt 8 s.clock.offset))) ∧
  (∀ (s : State) (p : Nat) (d : Int), s.clock.source = 1 → s.clock.port = p → (s.port p).up = true → s.clock.holdover = true →
    exec (.ptpSyncRx p d) s = .next (State.raise { s.correct d with clock := { (s.correct d).clock with holdover := false, locked := true } }
      0 0x0107 (toBEInt 8 d))) ∧
  (∀ s : State, s.clock.source = 2 → s.ppsIn = true → ∃ t, exec .ppsInEdge s = .next t ∧ s.clock.time ≤ t.clock.time ∧
    t.clock.base = s.clock.base + 1000000000 ∧ t.clock.locked = true) ∧
  (∀ s : State, s.clock.source = 2 → ∃ t, exec .ppsInMissed s = .next t ∧ t.clock.time = s.clock.time ∧ t.clock.holdover = true ∧
    t.clock.base = s.clock.base + 3000000000) ∧
  (∀ (s : State) (k : Nat), s.mfPin 2 = some k → exec .ppsOutSecond s = .next { s with tx := s.tx ++ [.pulse k] }) ∧
  (∀ s : State, s.mfPin 2 = none → exec .ppsOutSecond s = .next s) ∧
  ∀ s : State, s.clock.time ≤ s.passTime.clock.time

/-- INLINE traffic (R276 to R282, R545): with INLINE on, a Drill frame on the host port goes to Headland; while the power ceiling does not
throttle the part, any other sound frame there goes out through the SA its VID selects, and a frame of the line port is checked by the SA
it names and delivered; one whose SA serves no packets is dropped and counted, one that no SA takes is judged by the setting; while it
does throttle, a packet waits in the packet buffer (log entry 118); a Drill frame on the line port is dropped and counted. -/
def Obligations.InlineRows : Prop :=
  (∀ (s : State) (f : RxFrame), s.mode .inline = true → (s.port 0).up = true → f.port = 0 → f.ethertype = s.settingF 0x01 →
    exec (.hostPortInlineFrame f) s = .next (s.drillFrame f)) ∧
  (∀ (s : State) (f : RxFrame) (a : Sa), s.mode .inline = true → (s.port 0).up = true → s.power.throttle = false → f.port = 0 →
    f.ethertype ≠ s.settingF 0x01 → f.fcsOk = true → f.len ≤ 9216 → s.saForVid f = some a → s.saServes a = true →
    exec (.hostPortInlineFrame f) s = .next (if a.kind == 1 then (s.cacheSa a).espOut f a else (s.cacheSa a).macsecOut f a)) ∧
  (∀ (s : State) (f : RxFrame) (a : Sa), s.mode .inline = true → (s.port 0).up = true → s.power.throttle = false → f.port = 0 →
    f.ethertype ≠ s.settingF 0x01 → f.fcsOk = true → f.len ≤ 9216 → s.saForVid f = some a → s.saLive a = false →
    exec (.hostPortInlineFrame f) s = .next (s.drop 0 fun d => { d with sa := d.sa + 1 })) ∧
  (∀ (s : State) (f : RxFrame), s.mode .inline = true → (s.port 0).up = true → s.power.throttle = false → f.port = 0 →
    f.ethertype ≠ s.settingF 0x01 → f.fcsOk = true → f.len ≤ 9216 → s.saForVid f = none →
    exec (.hostPortInlineFrame f) s = .next (s.inlineMiss f)) ∧
  (∀ (s : State) (f : RxFrame), s.mode .inline = true → (s.port 0).up = true → s.power.throttle = true → f.port = 0 →
    f.ethertype ≠ s.settingF 0x01 → f.fcsOk = true → f.len ≤ 9216 → exec (.hostPortInlineFrame f) s = .next (s.holdPacket f)) ∧
  (∀ (s : State) (f : RxFrame) (a : Sa) (spi dst : Nat) (v6 : Bool) (esp : Bytes), s.mode .inline = true → (s.port 1).up = true →
    s.power.throttle = false → f.port = 1 → f.fcsOk = true → f.len ≤ 9216 → f.sec = none → f.ethertype ≠ s.settingF 0x01 →
    espIn f = some (spi, dst, v6, esp) →
    (s.sas.find? fun a => a.kind == 2 && a.spi == spi && a.outerV6 == v6 && a.outerDst == dst) = some a → s.saServes a = true →
    exec (.linePortFrame f) s = .next ((s.cacheSa a).espAccept a esp)) ∧
  (∀ (s : State) (f : RxFrame) (t : SecTag) (a : Sa), s.mode .inline = true → (s.port 1).up = true → s.power.throttle = false →
    f.port = 1 → f.fcsOk = true → f.len ≤ 9216 → f.sec = some t →
    (s.sas.find? fun a => a.kind == 4 && a.sci == t.sci && a.an == t.an) = some a → s.saServes a = true →
    exec (.linePortFrame f) s = .next ((s.cacheSa a).macsecAccept a f t)) ∧
  (∀ (s : State) (f : RxFrame), s.mode .inline = true → (s.port 1).up = true → s.power.throttle = true → f.port = 1 →
    f.fcsOk = true → f.len ≤ 9216 → f.sec.isSome = true ∨ f.ethertype ≠ s.settingF 0x01 →
    exec (.linePortFrame f) s = .next (s.holdPacket f)) ∧
  ∀ (s : State) (f : RxFrame), s.mode .inline = true → (s.port 1).up = true → f.port = 1 → f.fcsOk = true → f.len ≤ 9216 →
    f.sec = none → f.ethertype = s.settingF 0x01 → exec (.linePortFrame f) s = .next (s.drop 1 fun d => { d with line := d.line + 1 })

/-! ### Saivo -/

/-- What an instruction that corrected no word stores reaches only its own furrow and its own run (R338, R359): every other furrow, field and
run, and all the rest of the state, is as before. -/
def Obligations.FurrowStoreFrame : Prop :=
  ∀ (s : State) (u : FurrowRef) (e : Env), e.fixed = [] →
    let t := s.store u e
    t = { s with fields := t.fields, runs := t.runs } ∧ t.fields.length = s.fields.length ∧
    (∀ f, f ≠ u.field → t.field f = s.field f) ∧
    (u.field < s.fields.length → t.field u.field = { s.field u.field with furrows := (s.field u.field).furrows.set u.furrow e.u }) ∧
    (∀ v : FurrowRef, v ≠ u → t.furrow v = s.furrow v) ∧
    t.runs = s.runs.map fun r => if r.id == e.r.id then e.r else r

/-- ALU, ALUI and LI (R347): s[D] ← f(s[A], b) with the functions of the table, a shift by b mod 32 that gives 0, or the sign in every
bit, from 24 on, and LI the instruction's bits [23:0]. -/
def Obligations.ScalarArithmetic : Prop :=
  Leaves 0x02 .alu (fun _ _ => True) (fun i e => e.setS i.d (aluFn i.f (e.sreg i.a) (e.sreg i.b))) ∧
  Leaves 0x03 .alui (fun _ _ => True) (fun i e => e.setS i.d (aluFn i.f (e.sreg i.a) (BitVec.ofInt 24 (sext12 i.c)))) ∧
  Leaves 0x01 .li (fun _ _ => True) (fun i e => e.setS i.d (BitVec.ofNat 24 (imm24 i))) ∧
  (∀ c < 4096, BitVec.ofInt 24 (sext12 c) = (BitVec.ofNat 12 c).signExtend 24) ∧
  (∀ w : Nat, imm24 (saivoFields w) = w % 2 ^ 24) ∧
  ∀ a b : BitVec 24, aluFn 0 a b = a + b ∧ aluFn 1 a b = a - b ∧ aluFn 2 a b = BitVec.ofNat 24 (a.toNat * b.toNat % 2 ^ 24) ∧
    aluFn 3 a b = BitVec.ofNat 24 (a.toNat * b.toNat / 2 ^ 24) ∧ aluFn 4 a b = a &&& b ∧ aluFn 5 a b = a ||| b ∧ aluFn 6 a b = a ^^^ b ∧
    aluFn 7 a b = a <<< (b.toNat % 32) ∧ aluFn 8 a b = a >>> (b.toNat % 32) ∧ aluFn 9 a b = a.sshiftRight (b.toNat % 32) ∧
    (aluFn 10 a b = if a.toInt < b.toInt then 1 else 0) ∧ (aluFn 11 a b = if a.toNat < b.toNat then 1 else 0) ∧
    (24 ≤ b.toNat % 32 → aluFn 7 a b = 0 ∧ aluFn 8 a b = 0 ∧ aluFn 9 a b = if a.msb then BitVec.allOnes 24 else 0)

/-- BR, LOOP, JAL and JR (R348): the six conditions, the loop count, the link, and the WINDOW fault of a JR past the image, with FADDR
its target and FIDX 0. A taken BR or LOOP costs one cycle more (R346). -/
def Obligations.ControlFlow : Prop :=
  Gives 0x08 .br (fun i e => brCond i.d (e.sreg i.a) (e.sreg i.b) = true) (fun u i e x => x.store u (e.go (target i) 1)) ∧
  Leaves 0x08 .br (fun i e => brCond i.d (e.sreg i.a) (e.sreg i.b) = false) (fun _ e => e) ∧
  Gives 0x0C .loop (fun i e => e.sreg i.a ≠ 1) (fun u i e x => x.store u ((e.setS i.a (e.sreg i.a - 1)).go (target i) 1)) ∧
  Leaves 0x0C .loop (fun i e => e.sreg i.a = 1) (fun i e => e.setS i.a 0) ∧
  Gives 0x0A .jal (fun _ _ => True) (fun u i e x => x.store u ((e.setS i.d (BitVec.ofNat 24 (e.u.pc + 1))).go (target i) 0)) ∧
  Gives 0x0B .jr (fun i e => (e.sreg i.a).toNat < e.r.image.icount) (fun u i e x => x.store u (e.go (e.sreg i.a).toNat 0)) ∧
  Faults 0x0B .jr (fun i e => e.r.image.icount ≤ (e.sreg i.a).toNat) 0x01 (fun i e => (0, (e.sreg i.a).toNat)) ∧
  Gives 0x09 .jmp (fun _ _ => True) (fun u i e x => x.store u (e.go (target i) 0)) ∧
  ∀ a b : BitVec 24, brCond 0 a b = decide (a = b) ∧ brCond 1 a b = decide (a ≠ b) ∧ brCond 2 a b = decide (a.toInt < b.toInt) ∧
    brCond 3 a b = decide (b.toInt ≤ a.toInt) ∧ brCond 4 a b = decide (a.toNat < b.toNat) ∧ brCond 5 a b = decide (b.toNat ≤ a.toNat)

/-- FREC, QLD, TREAD, the run-control instructions and the watchdog (R316, R334, R337, R338, R349, R365): FREC reads the fault record; a valid
modulus loads with its derived fields and any other leaves four zeros; TREAD gives the Tally register out where it holds a pair that may be
seen, and ends the run with FAULT_DETECTED where it holds none; BARRIER stops the furrow until its gang is there; HALT, of rank 0 where
its checks pass, ends the furrow's part; RETRY in the handler goes back to the faulting instruction, at most 15 times in a run; a RETRY
elsewhere or past that, and ABORT, end the program's run; the watchdog faults the furrow with cause 05. -/
def Obligations.RunControl : Prop :=
  Leaves 0x11 .frec (fun _ _ => True) (fun i e => e.setS i.d (e.u.frec.word (i.c % 4))) ∧
  Leaves 0x12 .qld (fun _ _ => True) (fun i e => { e with u := { e.u with q := e.u.q.set i.q (Modulus.of (e.sreg i.a).toNat) } }) ∧
  (∀ q : Nat, q % 2 = 1 → 3 ≤ q → q < 2 ^ 23 → (Modulus.of q).q.toNat = q ∧ ((Modulus.of q).qinv.toNat * q + 1) % 2 ^ 24 = 0 ∧
    (Modulus.of q).r2.toNat = 2 ^ 48 % q ∧ (Modulus.of q).mu.toNat = 2 ^ (2 * bitLen q) / q) ∧
  (∀ q : Nat, q < 2 ^ 24 → ¬ (q % 2 = 1 ∧ 3 ≤ q ∧ q < 2 ^ 23) → Modulus.of q = { q := 0, qinv := 0, mu := 0, r2 := 0 }) ∧
  Leaves 0x13 .tread (fun _ e => e.paired = true ∧ (e.u.tally.getLsbD 16 = false ∨ e.r.image.release = true)) (fun i e => e.setS i.d e.u.tally) ∧
  Gives 0x13 .tread (fun _ e => e.paired = false) (fun _ _ e x => x.failRun e.r .faultDetected) ∧
  Gives 0x0D .barrier (fun _ _ => True) (fun u _ e x => (x.store u { e with u := { e.u with atBarrier := true } }).openBarrier e.r) ∧
  Gives 0x0E .halt (fun _ e => e.u.rank ≠ 0) (fun u _ e x => (x.store u { e with u := { e.u with halted := true } }).finishRun e.r) ∧
  Gives 0x0E .halt (fun _ e => e.u.rank = 0 ∧ (e.sreg 1).toNat ≤ e.r.outMax ∧ (e.sreg 2).toNat % 16 < 2 ^ e.r.image.nkeyout ∧
    (e.r.image.verdict = true → e.paired = true)) (fun u _ e x => (x.store u { e with u := { e.u with halted := true } }).finishRun e.r) ∧
  Gives 0x0F .retry (fun _ e => e.u.inHandler = true ∧ e.r.restarts < 15)
    (fun u _ e x => x.store u (({ e with u := { e.u with inHandler := false }, r := { e.r with restarts := e.r.restarts + 1 } } : Env).go
      e.u.frec.pc 0)) ∧
  Gives 0x0F .retry (fun _ e => e.u.inHandler = false ∨ 15 ≤ e.r.restarts) (fun u _ e x => x.endProgram u e.r) ∧
  Gives 0x10 .abort (fun _ _ => True) (fun u _ e x => x.endProgram u e.r) ∧
  ∀ (s : State) (u : FurrowRef) (r : Run), (s.furrow u).halted = false → (s.furrow u).held = none →
    (s.furrow u).run.bind s.run? = some r → exec (.furrowWatchdog u) s =
      .next ((s.modFurrow u fun f => { f with atBarrier := false, waitLeaf := false }).furrowFault u r 0
        { t := 0, l := 0, m := 0, d := 0, a := 0, b := 0, q := 0, f := 0, c := 0 } 0x05 0 0 none)

/-- Mask registers (R351): VCMP sets bit ℓ of m[D] where lane ℓ is active and the condition holds for each of its elements, and clears
every other; MOP, MSET and MGET are the table's; a write to m0 is ignored (R315). -/
def Obligations.MaskRegisters : Prop :=
  (∀ (s x : State) (u : FurrowRef) (i : SaivoFields) (e : Env), s.issues? u 0x26 i = some (e, x) → e.clear i.l [i.a, i.b] = true →
    ∃ m : BitVec 64, exec (.vcmp u i) s = .next (x.store u (e.setMask i.d m).advance) ∧
      ∀ l, m.getLsbD l = (decide (l < laneCount i.l) && (e.lane i l && (List.range (elPer i.t)).all fun j => vcmpCond (elWidth i.t) i.f
        ((e.elems i i.a).getD (elPer i.t * l + j) 0) ((e.elems i i.b).getD (elPer i.t * l + j) 0)))) ∧
  Leaves 0x18 .mop (fun _ _ => True) (fun i e => e.setMask i.d (match i.f with
    | 0 => e.mask i.a &&& e.mask i.b
    | 1 => e.mask i.a ||| e.mask i.b
    | 2 => e.mask i.a ^^^ e.mask i.b
    | 3 => e.mask i.a &&& ~~~e.mask i.b
    | _ => ~~~e.mask i.a)) ∧
  (∀ (s x : State) (u : FurrowRef) (i : SaivoFields) (e : Env), s.issues? u 0x19 i = some (e, x) →
    ∃ m : BitVec 64, exec (.mset u i) s = .next (x.store u (e.setMask i.d m).advance) ∧ ∀ k < 64, m.getLsbD k =
      if 24 * i.c ≤ k ∧ k < 24 * i.c + 24 then (e.sreg i.a).getLsbD (k - 24 * i.c) else (e.mask i.d).getLsbD k) ∧
  (∀ (s x : State) (u : FurrowRef) (i : SaivoFields) (e : Env), s.issues? u 0x1A i = some (e, x) →
    ∃ w : Word24, exec (.mget u i) s = .next (x.store u (e.setS i.d w).advance) ∧
      ∀ k < 24, w.getLsbD k = (e.mask i.a).getLsbD (24 * i.c + k)) ∧
  (∀ (e : Env) (x : BitVec 64), e.setMask 0 x = e ∧ e.mask 0 = BitVec.allOnes 64) ∧
  ∀ (w : Nat) (a b : Nat), vcmpCond w 0 a b = decide (a = b) ∧ vcmpCond w 1 a b = decide (a ≠ b) ∧
    vcmpCond w 2 a b = decide (signedOf w a < signedOf w b) ∧ vcmpCond w 3 a b = decide (signedOf w b ≤ signedOf w a) ∧
    vcmpCond w 4 a b = decide (a < b) ∧ vcmpCond w 5 a b = decide (b ≤ a)

/-- LD and ST (R356, R359): the word at s[A] + sext12(C) is loaded or stored; where the access faults, the cause is the first of WINDOW,
SEALED and POISON for LD and WINDOW for ST, FIDX is 0 and FADDR the address. In the furrow's own memory, A1 and A2 a read of a word gives
what was last written there, and a write leaves every other word as it was. -/
def Obligations.LoadStore : Prop :=
  (Leaves 0x04 .ld (fun i e => e.accFault { idx := 0, addr := e.wordAddr i i.a } = none) fun i e =>
    let e := e.readMarks [{ idx := 0, addr := e.wordAddr i i.a }]
    e.setS i.d (e.read (e.wordAddr i i.a))) ∧
  (Leaves 0x05 .st (fun i e => e.accFault { idx := 0, addr := e.wordAddr i i.a, write := true } = none) fun i e =>
    e.write (e.wordAddr i i.a) (e.sreg i.b)) ∧
  (Gives 0x04 .ld (fun i e => e.accFault { idx := 0, addr := e.wordAddr i i.a } ≠ none) fun u i e x =>
    let e' := e.readMarks [{ idx := 0, addr := e.wordAddr i i.a }]
    (x.store u e').furrowFault u e.r 0x04 i ((e.accFault { idx := 0, addr := e.wordAddr i i.a }).getD 0) 0 (e.wordAddr i i.a) none) ∧
  (Gives 0x05 .st (fun i e => e.accFault { idx := 0, addr := e.wordAddr i i.a, write := true } ≠ none) fun u i e x =>
    (x.store u e).furrowFault u e.r 0x05 i 0x01 0 (e.wordAddr i i.a) none) ∧
  (∀ (e : Env) (a : Nat), e.accFault { idx := 0, addr := a } = if e.window a false = false then some 0x01
    else if e.u.seals.contains a then some 0x03 else if e.poisoned a then some 0x02 else none) ∧
  (∀ (e : Env) (a : Nat) (x : Word24), e.u.dmem.wf = true → e.r.a1.wf = true → e.r.a2.wf = true →
    (a < 0x8000 ∨ 0x500000 ≤ a) → (e.write a x).read a = x) ∧
  ∀ (e : Env) (a b : Nat) (x : Word24), e.u.dmem.wf = true → e.r.a1.wf = true → e.r.a2.wf = true → a ≠ b →
    (a < 0x8000 ∨ 0x500000 ≤ a) → (b < 0x8000 ∨ 0x500000 ≤ b) → (e.write a x).read b = e.read b

/-- The vector moves and VALU (R350, R352): where no SEALED register is named, the active lanes or elements of the destination take the
moved, broadcast, inserted or computed values. -/
def Obligations.VectorMovesAndArithmetic : Prop :=
  (Leaves 0x20 .vmov (fun i e => i.f = 0 ∧ e.clear i.l [i.d, i.a] = true) fun i e => e.putLanes i i.l i.d fun k => (e.vec i.l i.a).getD k 0) ∧
  (Leaves 0x20 .vmov (fun i e => i.f = 1 ∧ e.clear 1 [i.a] = true) fun i e => e.putLanes i 0 i.d fun k => (e.vec 1 i.a).getD (8 * i.c + k) 0) ∧
  (Leaves 0x20 .vmov (fun i e => i.f = 2 ∧ e.clear 1 [i.d] = true) fun i e => e.putLanes i 1 i.d fun k =>
    if 8 * i.c ≤ k && k < 8 * i.c + 8 then (e.vec 0 i.a).getD (k - 8 * i.c) 0 else (e.vec 1 i.d).getD k 0) ∧
  (Leaves 0x21 .vbcast (fun i e => e.clear i.l [i.d] = true) fun i e => e.putElems i i.d fun _ => (e.sreg i.a).toNat % 2 ^ elWidth i.t) ∧
  (Leaves 0x22 .vext (fun i e => e.clear i.l [i.a] = true) fun i e => e.setS i.d (BitVec.ofNat 24 ((e.elems i i.a).getD i.c 0))) ∧
  (Leaves 0x23 .vins (fun i e => e.clear i.l [i.d] = true) fun i e => e.putElems i i.d fun k =>
    if k == i.c then (e.sreg i.a).toNat % 2 ^ elWidth i.t else (e.elems i i.d).getD k 0) ∧
  (Leaves 0x24 .valu (fun i e => i.f ≠ 15 ∧ e.clear i.l [i.d, i.a, i.b] = true) fun i e => e.putElems i i.d fun k =>
    valuFn (elWidth i.t) i.f ((e.elems i i.a).getD k 0) ((e.elems i i.b).getD k 0)) ∧
  (Leaves 0x24 .valu (fun i e => i.f = 15 ∧ e.clear i.l [i.d, i.a] = true) fun i e => e.putLanes i i.l i.d fun k =>
    (e.vec i.l i.a).getD (k ^^^ 2 ^ i.c) 0) ∧
  (Leaves 0x25 .valui (fun i e => i.f ≠ 15 ∧ e.clear i.l [i.d, i.a] = true) fun i e => e.putElems i i.d fun k =>
    valuFn (elWidth i.t) i.f ((e.elems i i.a).getD k 0) (valuiB i k)) ∧
  (Leaves 0x25 .valui (fun i e => i.f = 15 ∧ e.clear i.l [i.d, i.a] = true) fun i e => e.putLanes i i.l i.d fun k =>
    (e.vec i.l i.a).getD (k ^^^ 2 ^ i.c) 0)

/-- The fixed-point instructions (R353): signed, or unsigned with F[0], saturating, QMULH and QRSHR with the rounding mode F[2:1]. -/
def Obligations.FixedPoint : Prop :=
  (Leaves 0x28 .qadd (fun i e => e.clear i.l [i.d, i.a, i.b] = true) fun i e => e.putElems i i.d fun k =>
    satTo (i.f % 2 == 1) (elWidth i.t) (fixRead i ((e.elems i i.a).getD k 0) + fixRead i ((e.elems i i.b).getD k 0))) ∧
  (Leaves 0x29 .qsub (fun i e => e.clear i.l [i.d, i.a, i.b] = true) fun i e => e.putElems i i.d fun k =>
    satTo (i.f % 2 == 1) (elWidth i.t) (fixRead i ((e.elems i i.a).getD k 0) - fixRead i ((e.elems i i.b).getD k 0))) ∧
  (Leaves 0x2A .qmulh (fun i e => e.clear i.l [i.d, i.a, i.b] = true) fun i e => e.putElems i i.d fun k =>
    satTo (i.f % 2 == 1) (elWidth i.t)
      (rnd (fixRead i ((e.elems i i.a).getD k 0) * fixRead i ((e.elems i i.b).getD k 0)) (i.c % 64) (i.f / 2 % 4))) ∧
  (Leaves 0x2B .qrshr (fun i e => i.f / 8 % 2 = 1 ∧ e.clear i.l [i.d, i.a, i.b] = true) fun i e => e.putElems i i.d fun k =>
    satTo (i.f % 2 == 1) (elWidth i.t) (rnd (fixRead i ((e.elems i i.a).getD k 0)) ((e.elems i i.b).getD k 0 % 32) (i.f / 2 % 4))) ∧
  (Leaves 0x2B .qrshr (fun i e => i.f / 8 % 2 = 0 ∧ e.clear i.l [i.d, i.a] = true) fun i e => e.putElems i i.d fun k =>
    satTo (i.f % 2 == 1) (elWidth i.t) (rnd (fixRead i ((e.elems i i.a).getD k 0)) (i.c % 32) (i.f / 2 % 4))) ∧
  (∀ (x : Int) (rm : Nat), rnd x 0 rm = x) ∧
  (∀ (x : Int) (s : Nat), 0 < s → rnd x s 0 = x / 2 ^ s ∧ rnd x s 1 = (x + 2 ^ (s - 1)) / 2 ^ s ∧ rnd x s 3 = x.tdiv (2 ^ s)) ∧
  ∀ (x : Int), rnd (2 * x) 1 2 = x ∧ rnd (2 * x + 1) 1 2 % 2 = 0

/-- Modular arithmetic and the standard roundings (R343, R354, R355), with a valid modulus below 4,096 for E12 and no SEALED register. -/
def Obligations.ModularArithmetic : Prop :=
  (Leaves 0x30 .modadd (fun i e => e.modOk i = true ∧ e.clear i.l [i.d, i.a, i.b] = true) fun i e => e.putElems i i.d fun k =>
    ((e.elems i i.a).getD k 0 + (e.elems i i.b).getD k 0) % e.modulus i) ∧
  (Leaves 0x31 .modsub (fun i e => e.modOk i = true ∧ e.clear i.l [i.d, i.a, i.b] = true) fun i e => e.putElems i i.d fun k =>
    ((((e.elems i i.a).getD k 0 : Int) - (e.elems i i.b).getD k 0) % e.modulus i).toNat) ∧
  (Leaves 0x32 .modmul (fun i e => e.modOk i = true ∧ i.f = 1 ∧ e.clear i.l [i.d, i.a, i.b] = true) fun i e => e.putElems i i.d fun k =>
    (e.elems i i.a).getD k 0 * (e.elems i i.b).getD k 0 % e.modulus i) ∧
  (Leaves 0x32 .modmul (fun i e => e.modOk i = true ∧ i.f = 0 ∧ e.clear i.l [i.d, i.a, i.b] = true) fun i e => e.putElems i i.d fun k =>
    (e.elems i i.a).getD k 0 * (e.elems i i.b).getD k 0 % e.modulus i * montInv (e.modulus i) % e.modulus i) ∧
  (∀ q : Nat, q % 2 = 1 → 3 ≤ q → q < 2 ^ 23 → montInv q * 2 ^ 24 % q = 1) ∧
  (Leaves 0x33 .barrett (fun i e => e.modOk i = true ∧ e.clear i.l [i.d, i.a] = true) fun i e => e.putElems i i.d fun k =>
    barrettFn (elWidth i.t) i.f (e.modulus i) ((e.elems i i.a).getD k 0)) ∧
  (Leaves 0x38 .compress (fun i e => e.modOk i = true ∧ e.clear i.l [i.d, i.a] = true) fun i e => e.putElems i i.d fun k =>
    (2 ^ (i.c + 1) * ((e.elems i i.a).getD k 0 % e.modulus i) + e.modulus i) / (2 * e.modulus i) % 2 ^ i.c) ∧
  (Leaves 0x39 .decompress (fun i e => e.modOk i = true ∧ e.clear i.l [i.d, i.a] = true) fun i e => e.putElems i i.d fun k =>
    (2 * e.modulus i * ((e.elems i i.a).getD k 0 % 2 ^ i.c) + 2 ^ i.c) / 2 ^ (i.c + 1)) ∧
  (Leaves 0x3A .p2round (fun i e => e.modOk i = true ∧ e.clear i.l [i.d, i.a, i.b] = true) fun i e =>
    let old := e.elems i i.a
    (e.putElems i i.d fun k => (p2roundFn i.c (old.getD k 0 % e.modulus i)).1).putElems i i.b fun k =>
      wrapTo (elWidth i.t) (p2roundFn i.c (old.getD k 0 % e.modulus i)).2) ∧
  (Leaves 0x3B .decompose (fun i e => e.modOk i = true ∧ (e.modulus i - 1) % decomposeDiv i.c = 0 ∧
      (e.modulus i - 1) / decomposeDiv i.c % 2 = 0 ∧ e.clear i.l [i.d, i.a, i.b] = true) fun i e =>
    let old := e.elems i i.a
    let f := fun k => decomposeFn ((e.modulus i - 1) / decomposeDiv i.c) (e.modulus i) (old.getD k 0 % e.modulus i)
    (e.putElems i i.d fun k => (f k).1).putElems i i.b fun k => wrapTo (elWidth i.t) (f k).2)

/-- Vector faults (R324, R338, R354): VALU, VEXT, VCMP, QADD, MODMUL and VLD fault with SEALED where they name a long register of a SEALED set,
and RECOMB a SEALED set without RELEASE; MODADD, COMPRESS and an arithmetic SHMASK fault with MODULUS where their modulus register is
invalid or too large for E12; each with FIDX and FADDR 0 and the furrow's registers as they were. A fault other than SEALED and IMEM
outside the handler, in a program with a handler, records itself and enters it. -/
def Obligations.VectorFaults : Prop :=
  Faults 0x24 .valu (fun i e => i.f ≠ 15 ∧ e.clear i.l [i.d, i.a, i.b] = false) 0x03 (fun _ _ => (0, 0)) ∧
  Faults 0x22 .vext (fun i e => e.clear i.l [i.a] = false) 0x03 (fun _ _ => (0, 0)) ∧
  Faults 0x26 .vcmp (fun i e => e.clear i.l [i.a, i.b] = false) 0x03 (fun _ _ => (0, 0)) ∧
  Faults 0x28 .qadd (fun i e => e.clear i.l [i.d, i.a, i.b] = false) 0x03 (fun _ _ => (0, 0)) ∧
  Faults 0x30 .modadd (fun i e => e.modOk i = false) 0x04 (fun _ _ => (0, 0)) ∧
  Faults 0x32 .modmul (fun i e => e.modOk i = true ∧ e.clear i.l [i.d, i.a, i.b] = false) 0x03 (fun _ _ => (0, 0)) ∧
  Faults 0x38 .compress (fun i e => e.modOk i = false) 0x04 (fun _ _ => (0, 0)) ∧
  Faults 0x40 .vld (fun i e => e.clear i.l [i.d] = false) 0x03 (fun _ _ => (0, 0)) ∧
  Faults 0x50 .shmask (fun i e => isBool i = false ∧ e.modOk i = false) 0x04 (fun _ _ => (0, 0)) ∧
  Faults 0x5A .recomb (fun i e => isBool i = true ∧ e.sealedSet i.a = true ∧ e.r.image.release = false) 0x03 (fun _ _ => (0, 0)) ∧
  ∀ (s : State) (u : FurrowRef) (r : Run) (op : Nat) (i : SaivoFields) (cause idx addr h : Nat), cause ≠ 0x03 → cause ≠ 0x07 → idx < 256 →
    r.test = false → (s.furrow u).inHandler = false → r.image.handler = some h → u.field < s.fields.length →
    u.furrow < (s.field u.field).furrows.length →
    (s.furrowFault u r op i cause idx addr none).furrow u =
      { s.furrow u with pc := h, inHandler := true, frec := { mode := false, retry := min 15 r.restarts, addr := addr,
                                                              pc := (s.furrow u).pc, cause := cause, idx := idx } }

/-- Vector memory instructions (R356, R357, R360, R361): where no register they name is SEALED and no access faults, VLD, LD2 to LD4 and GATHER
load, and VST, ST2 to ST4 and SCATTER store, the active lanes or elements at their addresses, in the order the instruction selects; ST2 to
ST4 and SCATTER change no vector or scalar register, and SCATTER no word but those it addresses; SHUF sets an order of the lanes, the
identity where F[0] says so and else a permutation. -/
def Obligations.VectorMemory : Prop :=
  (Leaves 0x40 .vld (fun i e => e.clear i.l [i.d] = true ∧
      e.reaches ((e.lanes i).map fun l => { idx := elPer i.t * l, addr := e.wordAddr i i.a + e.order i l }) = true) fun i e =>
    let e' := e.readMarks ((e.lanes i).map fun l => { idx := elPer i.t * l, addr := e.wordAddr i i.a + e.order i l })
    e'.putLanes i i.l i.d fun l => e'.read (e.wordAddr i i.a + e.order i l)) ∧
  (Leaves 0x41 .vst (fun i e => e.clear i.l [i.b] = true ∧
      e.reaches ((e.lanes i).map fun l => { idx := elPer i.t * l, addr := e.wordAddr i i.a + e.order i l, write := true }) = true) fun i e =>
    (e.lanes i).foldl (fun x l => x.write (e.wordAddr i i.a + e.order i l) ((e.vec i.l i.b).getD l 0)) e) ∧
  (∀ k, 2 ≤ k → k ≤ 4 → Leaves (0x40 + k) (fun u i => .ld2Ld4 u k i) (fun i e => e.clear i.l ((List.range k).map (i.d + ·)) = true ∧
      e.reaches (e.structAccs i k false) = true) fun i e =>
    (List.range k).foldl (fun x f =>
      let old := x.elems i (i.d + f)
      x.putElems i (i.d + f) fun j => if j < elCount i.t i.l then (e.readMarks (e.structAccs i k false)).readElem i.t (e.fieldAddr i k j f)
        else old.getD j 0) (e.readMarks (e.structAccs i k false))) ∧
  (∀ k, 2 ≤ k → k ≤ 4 → ∀ (s x : State) (u : FurrowRef) (i : SaivoFields) (e : Env), s.issues? u (0x43 + k) i = some (e, x) →
    e.clear i.l ((List.range k).map (i.b + ·)) = true → e.reaches (e.structAccs i k true) = true →
    ∃ e', exec (.st2St4 u k i) s = .next (x.store u (Env.advance e')) ∧ e'.u.v = e.u.v ∧ e'.u.w = e.u.w ∧ e'.u.s = e.u.s ∧
      e'.u.m = e.u.m ∧ e'.u.pc = e.u.pc) ∧
  (∀ k, 2 ≤ k → k ≤ 4 → Leaves (0x43 + k) (fun u i => .st2St4 u k i) (fun i e => e.clear i.l ((List.range k).map (i.b + ·)) = true ∧
      e.reaches (e.structAccs i k true) = true) fun i e =>
    let e' := e.readMarks (e.structAccs i k true)
    (e'.actives i).foldl (fun x p => (List.range k).foldl (fun x f =>
      x.writeElem i.t (e'.fieldAddr i k p f) ((e'.elems i (i.b + f)).getD p 0)) x) e') ∧
  (Leaves 0x48 .gather (fun i e => e.clear i.l [i.d, i.b] = true ∧ e.reaches (e.indexAccs i false) = true) fun i e =>
    let e' := e.readMarks (e.indexAccs i false)
    e'.putElems i i.d fun k => if k < elCount i.t i.l then e'.readElem i.t (e.indexAddr i k) else (e'.elems i i.d).getD k 0) ∧
  (∀ (s x : State) (u : FurrowRef) (i : SaivoFields) (e : Env), s.issues? u 0x49 i = some (e, x) →
    e.clear i.l [i.d, i.b] = true → e.reaches (e.indexAccs i true) = true →
    ∃ e', exec (.scatter u i) s = .next (x.store u (Env.advance e')) ∧ e'.u.v = e.u.v ∧ e'.u.w = e.u.w ∧ e'.u.s = e.u.s ∧
      e'.r.a1 = e.r.a1 ∧ e'.r.a2 = e.r.a2 ∧ ∀ a, (∀ k ∈ e.actives i, a ≠ e.indexAddr i k / elPer i.t) → e'.read a = e.read a) ∧
  (Leaves 0x49 .scatter (fun i e => e.clear i.l [i.d, i.b] = true ∧ e.reaches (e.indexAccs i true) = true) fun i e =>
    let e' := e.readMarks (e.indexAccs i true)
    (e'.actives i).foldl (fun x k => x.writeElem i.t (e'.indexAddr i k) ((e'.elems i i.d).getD k 0)) e') ∧
  (Leaves 0x4A .shuf (fun i _ => i.f % 2 = 1) fun i e =>
    if i.l == 1 then { e with u := { e.u with o64 := List.range 64 } } else { e with u := { e.u with o8 := List.range 8 } }) ∧
  ∀ (s x : State) (u : FurrowRef) (i : SaivoFields) (e : Env), s.issues? u 0x4A i = some (e, x) → i.f % 2 = 0 → i.l = 1 →
    ∃ π, exec (.shuf u i) s = .next (x.store u (Env.advance { e with u := { e.u with o64 := π } })) ∧ π.Perm (List.range 64)

/-- Masked shares (R323, R345, R358, R362 to R365): SHMASK, SHADD, SHSUB, SHPUB, SHMUL, SREFRESH, SA2B, SB2A, SSEL and RECOMB give the shares or
values of their rules where their modulus serves and no register they name by R324 is SEALED, SEALED following the source sets; SCMP
leaves a pass or a fail pair in the Tally register; SSEL without a pair there ends the run with FAULT_DETECTED; SHST and SHLD store and load
a set at the words it addresses, sealing and taking seals with it, where no access faults. -/
def Obligations.ShareInstructions : Prop :=
  (Leaves 0x50 .shmask (fun i e => (isBool i = true ∨ e.modOk i = true) ∧ e.clear 1 [i.a] = true) fun i e =>
    let q := if isBool i then 1 else e.modulus i
    e.putShares i i.d fun k => e.freshShares (isBool i) (elWidth i.t) q (4 * k)
      (if isBool i then (toElems i.t (e.vec 1 i.a)).getD k 0 else (toElems i.t (e.vec 1 i.a)).getD k 0 % q)) ∧
  (Leaves 0x51 .shadd (fun i e => isBool i = true ∨ e.modOk i = true) fun i e =>
    (e.putShares i i.d fun k => (e.sharesAt i i.a k).zipWith (gAdd (isBool i) (if isBool i then 1 else e.modulus i)) (e.sharesAt i i.b k)).sealSet
      i.d (e.sealedSet i.a || e.sealedSet i.b)) ∧
  (Leaves 0x52 .shsub (fun i e => e.modOk i = true) fun i e =>
    (e.putShares i i.d fun k => (e.sharesAt i i.a k).zipWith (gSub false (e.modulus i)) (e.sharesAt i i.b k)).sealSet
      i.d (e.sealedSet i.a || e.sealedSet i.b)) ∧
  (Leaves 0x53 .shpub (fun i e => (isBool i = true ∨ e.modOk i = true) ∧ i.f % 8 ≠ 7 ∧ (i.f % 8 ≤ 4 → e.clear 1 [i.b] = true)) fun i e =>
    (e.putShares i i.d fun k => shpubFn i (if isBool i then 1 else e.modulus i) (e.sharesAt i i.a k)
      ((toElems i.t (e.vec 1 i.b)).getD k 0)).sealSet i.d (e.sealedSet i.a)) ∧
  (Leaves 0x54 .shmul (fun i e => isBool i = true ∨ e.modOk i = true) fun i e =>
    (e.putShares i i.d fun k => e.isw (isBool i) (elWidth i.t) (if isBool i then 1 else e.modulus i) k (e.sharesAt i i.a k)
      (e.sharesAt i i.b k)).sealSet i.d (e.sealedSet i.a || e.sealedSet i.b)) ∧
  (Leaves 0x55 .srefresh (fun i e => isBool i = true ∨ e.modOk i = true) fun i e =>
    (e.putShares i i.d fun k => e.refresh (isBool i) (elWidth i.t) (if isBool i then 1 else e.modulus i) k (e.sharesAt i i.a k)).sealSet
      i.d (e.sealedSet i.a)) ∧
  (Leaves 0x56 .sa2b (fun i e => e.modOk i = true) fun i e =>
    (e.putShares i i.d fun k => e.freshShares true (elWidth i.t) (e.modulus i) (4 * k)
      (shareVal false (e.modulus i) (e.sharesAt i i.a k))).sealSet i.d (e.sealedSet i.a)) ∧
  (Leaves 0x57 .sb2a (fun i e => e.modOk i = true) fun i e =>
    (e.putShares i i.d fun k => e.freshShares false (elWidth i.t) (e.modulus i) (4 * k)
      (shareVal true (e.modulus i) (e.sharesAt i i.a k) % e.modulus i)).sealSet i.d (e.sealedSet i.a)) ∧
  (Leaves 0x58 .scmp (fun i e => (isBool i = true ∨ e.modOk i = true) ∧ i.f / 8 % 2 = 0) fun i e =>
    let q := if isBool i then 1 else e.modulus i
    let same := (e.actives i).all fun k => shareVal (isBool i) q (e.sharesAt i i.a k) == shareVal (isBool i) q (e.sharesAt i i.b k)
    let pair : Word24 := BitVec.ofNat 24 ((e.sealedSet i.a || e.sealedSet i.b).toNat * 2 ^ 16 + if same then 0x5AA5 else 0x3CC3)
    { e with u := { e.u with tally := pair } }) ∧
  (Leaves 0x59 .ssel (fun i e => e.paired = true ∧ (isBool i = true ∨ e.modOk i = true)) fun i e =>
    (e.putShares i i.d fun k => e.refresh (isBool i) (elWidth i.t) (if isBool i then 1 else e.modulus i) k
      (if e.u.tally.toNat % 65536 == 0x5AA5 then e.sharesAt i i.a k else e.sharesAt i i.b k)).sealSet i.d (e.sealedSet i.a || e.sealedSet i.b)) ∧
  (Gives 0x59 .ssel (fun _ e => e.paired = false) fun _ _ e x => x.failRun e.r .faultDetected) ∧
  (Leaves 0x5A .recomb (fun i e => (isBool i = true ∨ e.modOk i = true) ∧ (e.sealedSet i.a = false ∨ e.r.image.release = true) ∧
      e.clear 1 [i.d] = true) fun i e =>
    e.putElems i i.d fun k => shareVal (isBool i) (if isBool i then 1 else e.modulus i) (e.sharesAt i i.a k)) ∧
  (∀ (s x : State) (u : FurrowRef) (i : SaivoFields) (e : Env), s.issues? u 0x5B i = some (e, x) →
    e.reaches (e.shareAccs i (e.wordAddr i i.b) true) = true →
    ∃ e', exec (.shst u i) s = .next (x.store u (Env.advance e')) ∧ e'.u.w = e.u.w ∧ e'.u.v = e.u.v ∧ e'.u.s = e.u.s ∧
      ∀ a, (∀ l ∈ e.lanes i, ∀ j ≤ e.d, a ≠ e.wordAddr i i.b + 64 * j + e.order i l) → e'.read a = e.read a) ∧
  (Leaves 0x5B .shst (fun i e => e.reaches (e.shareAccs i (e.wordAddr i i.b) true) = true) fun i e =>
    (e.lanes i).foldl (fun x l => (List.range (e.d + 1)).foldl (fun y j =>
      let a := e.wordAddr i i.b + 64 * j + e.order i l
      if e.sealedSet i.a then (y.write a ((e.vec 1 (4 * i.a + j)).getD l 0)).sealWord a else y.write a ((e.vec 1 (4 * i.a + j)).getD l 0)) x) e) ∧
  (Leaves 0x5C .shld (fun i e => e.reaches (e.shareAccs i (e.wordAddr i i.a) false) = true) fun i e =>
    let as := e.shareAccs i (e.wordAddr i i.a) false
    let e' := e.readMarks as
    ((List.range (e'.d + 1)).foldl (fun x j => x.putLanes i 1 (4 * i.d + j) fun l =>
      e'.read (e.wordAddr i i.a + 64 * j + e'.order i l)) e').sealSet i.d (as.any fun a => e'.u.seals.contains a.addr)) ∧
  ∀ (s x : State) (u : FurrowRef) (i : SaivoFields) (e : Env), s.issues? u 0x5C i = some (e, x) →
    e.reaches (e.shareAccs i (e.wordAddr i i.a) false) = true →
    ∃ e', exec (.shld u i) s = .next (x.store u (Env.advance e')) ∧ e'.u.s = e.u.s ∧ e'.u.v = e.u.v ∧ e'.u.dmem = e.u.dmem ∧
      (i.d < 8 → e.u.sealedSets.length = 8 → e'.u.sealedSets.getD i.d false = (e.sealedSet i.d ||
        (e.shareAccs i (e.wordAddr i i.a) false).any fun a => e.u.seals.contains a.addr))

/-! ### Caddy -/

/-- Microwords that issue (R366, R368, R369, R371): the scratch ALU works, the sequencer goes to the next word, to the target, to where the
condition leads or to the entry of a customer opcode's routine, YIELD gives up its thread's next issue round, TRAP ends the command with
INTERNAL_ERROR, and outside an ATOM sequence a command that an INSTANCE_RESET has come to is given up at the boundary after it. -/
def Obligations.MicrowordRows : Prop :=
  (∀ (s x : State) (t : ThreadRef) (w : Micro) (c : Cmd) (h : Thread), s.micro? t 0 w = some (x, c, h) →
    exec (.nextWord t w) s = .next ((x.goto t ((h.pc + 1) % 16384)).boundary t c)) ∧
  (∀ (s x : State) (t : ThreadRef) (w : Micro) (c : Cmd) (h : Thread), s.micro? t 1 w = some (x, c, h) →
    exec (.jumpWord t w) s = .next ((x.goto t w.addr).boundary t c)) ∧
  (∀ (s x : State) (t : ThreadRef) (w : Micro) (c : Cmd) (h : Thread), s.micro? t 4 w = some (x, c, h) →
    exec (.branchWord t w) s = .next ((x.goto t (if h.cond w.cond then w.addr else (h.pc + 1) % 16384)).boundary t c)) ∧
  (∀ (s x : State) (t : ThreadRef) (w : Micro) (c : Cmd) (h : Thread), s.micro? t 6 w = some (x, c, h) →
    exec (.yieldWord t w) s = .next (((x.goto t ((h.pc + 1) % 16384)).modThread t fun g => { g with resting := true }).boundary t c)) ∧
  (∀ (s x : State) (t : ThreadRef) (w : Micro) (c : Cmd) (h : Thread), s.micro? t 7 w = some (x, c, h) →
    exec (.waitWord t w) s = .next ((x.goto t ((h.pc + 1) % 16384)).boundary t c)) ∧
  (∀ (s x : State) (t : ThreadRef) (w : Micro) (c : Cmd) (h : Thread) (e : Bytes), s.micro? t 8 w = some (x, c, h) →
    customerEntry x c.op = some e → exec (.dispatchWord t w) s = .next ((x.goto t (num e 2 2)).boundary t c)) ∧
  (∀ (s x : State) (t : ThreadRef) (w : Micro) (c : Cmd) (h : Thread), s.micro? t 15 w = some (x, c, h) →
    exec (.trapWord t w) s = .next ((x.complete c.inst c.tag { status := .internalError }).boundary t c)) ∧
  (∀ (s : State) (t : ThreadRef) (c : Cmd), (s.thread t).atom = true → s.boundary t c = s) ∧
  (∀ (s : State) (t : ThreadRef) (c e : Cmd), s.cmd? c.inst c.tag = some e → e.reset = false → s.boundary t c = s) ∧
  (∀ (s : State) (t : ThreadRef) (c e : Cmd), (s.thread t).atom = false → s.cmd? c.inst c.tag = some e → e.reset = true → e.isDone = false →
    s.boundary t c = s.setDone c.inst c.tag { status := .instanceReset }) ∧
  ∀ (h : Thread) (w : Micro) (p : Bytes), w.xop = 0 → h.alu w p = h

/-- The return stack (R367): a thread has 32 registers, a stack and flags that stand at zero when a customer opcode's command starts one; CALL
pushes the following word and RET goes to the word it pops, each with the boundary's judgement after it (R368); a CALL with eight entries
held, or a RET with none, ends the command with PROGRAM_FAULT from the open region and INTERNAL_ERROR from elsewhere. -/
def Obligations.ReturnStack : Prop :=
  (({} : Thread).x = List.replicate 32 0#32 ∧ ({} : Thread).stack = [] ∧ ({} : Thread).zero = false ∧ ({} : Thread).neg = false) ∧
  (∀ (op k : Nat) (s : State) (c : Cmd), s.freeThread c.fld = some k → c.fld < s.fields.length →
    k < (s.field c.fld).threads.length → let h := ((customerDesc op).body s c).1.thread ⟨c.fld, k⟩
      h.busy = true ∧ h.x = List.replicate 32 0#32 ∧ h.stack = [] ∧ h.zero = false ∧ h.neg = false) ∧
  (∀ (s x : State) (t : ThreadRef) (w : Micro) (c : Cmd) (h : Thread), s.micro? t 2 w = some (x, c, h) →
    ¬ (0x40 ≤ w.addr ∧ w.addr < 0x100) → h.stack.length < 8 → exec (.callWord t w) s =
      .next ((x.modThread t fun h => { h with stack := (h.pc + 1) % 16384 :: h.stack, pc := w.addr }).boundary t c)) ∧
  (∀ (s x : State) (t : ThreadRef) (w : Micro) (c : Cmd) (h : Thread), s.micro? t 2 w = some (x, c, h) →
    ¬ (0x40 ≤ w.addr ∧ w.addr < 0x100) → 8 ≤ h.stack.length → exec (.callWord t w) s =
      .next ((x.complete c.inst c.tag { status := if openBase ≤ h.pc then .programFault else .internalError }).boundary t c)) ∧
  (∀ (s x : State) (t : ThreadRef) (w : Micro) (c : Cmd) (h : Thread) (a : Nat) (rest : List Nat), s.micro? t 3 w = some (x, c, h) →
    h.stack = a :: rest → exec (.retWord t w) s = .next ((x.modThread t fun h => { h with stack := rest, pc := a }).boundary t c)) ∧
  ∀ (s x : State) (t : ThreadRef) (w : Micro) (c : Cmd) (h : Thread), s.micro? t 3 w = some (x, c, h) → h.stack = [] →
    exec (.retWord t w) s =
      .next ((x.complete c.inst c.tag { status := if openBase ≤ h.pc then .programFault else .internalError }).boundary t c)

/-- END and the run limit (R112, R378): END of a word that issues stages its reply, with the boundary's judgement after it (R368). Without
VERDICT that reply has the status x0[15:0] holds, OK for every code of class 0, VERDICT_FAIL for every one of class 5, and INTERNAL_ERROR for
a value that is no code, and zero verdict bytes. With VERDICT the thread's verdict gives OK or VERDICT_FAIL with its verdict bytes, whatever
x0 holds; where it has none and x0's status is of class 0 or 5, the reply is FAULT_DETECTED (R110; log entry 122). 2^30 microwords without
END complete with PROGRAM_FAULT. -/
def Obligations.EndStatus : Prop :=
  (∀ (s x : State) (t : ThreadRef) (w : Micro) (c : Cmd) (h : Thread), s.micro? t 5 w = some (x, c, h) →
    exec (.endWord t w) s = .next ((x.complete c.inst c.tag (x.endReply c h)).boundary t c)) ∧
  (∀ (s : State) (c : Cmd) (h : Thread) (st : Status), bit (byteAt (s.opEntry c) 10) 0 = false → (h.x.getD 0 0).toNat % 65536 = st.code →
    (s.endReply c h).status = st ∧ (s.endReply c h).verdict = .none) ∧
  (∀ (s : State) (c : Cmd) (h : Thread), bit (byteAt (s.opEntry c) 10) 0 = false → (h.x.getD 0 0).toNat % 65536 / 0x1000 = 0 →
    (s.endReply c h).status = .ok ∧ (s.endReply c h).verdict = .none) ∧
  (∀ (s : State) (c : Cmd) (h : Thread), bit (byteAt (s.opEntry c) 10) 0 = false → (h.x.getD 0 0).toNat % 65536 / 0x1000 = 5 →
    (s.endReply c h).status = .verdictFail ∧ (s.endReply c h).verdict = .none) ∧
  (∀ (s : State) (c : Cmd) (h : Thread), bit (byteAt (s.opEntry c) 10) 0 = false → (h.x.getD 0 0).toNat % 65536 / 0x1000 ≠ 0 →
    (h.x.getD 0 0).toNat % 65536 / 0x1000 ≠ 5 → (∀ st : Status, (h.x.getD 0 0).toNat % 65536 ≠ st.code) →
    (s.endReply c h).status = .internalError ∧ (s.endReply c h).verdict = .none) ∧
  (∀ (s : State) (c : Cmd) (h : Thread), bit (byteAt (s.opEntry c) 10) 0 = true →
    (h.verdict = .pass → (s.endReply c h).status = .ok ∧ (s.endReply c h).verdict = .pass) ∧
      (h.verdict = .fail → (s.endReply c h).status = .verdictFail ∧ (s.endReply c h).verdict = .fail) ∧
      (h.verdict = .none → (statusOf ((h.x.getD 0 0).toNat % 65536)).cls = 0 ∨ (statusOf ((h.x.getD 0 0).toNat % 65536)).cls = 5 →
        (s.endReply c h).status = .faultDetected)) ∧
  ∀ (s : State) (t : ThreadRef) (c : Cmd), s.threadCmd t = some c → 2 ^ 30 ≤ (s.thread t).words →
    exec (.microcodeRunLimit t) s = .next (s.complete c.inst c.tag { status := .programFault })

/-- The call gates (R250, R284, R376, R377, R381): a gate whose checks pass, whose draw need not wait, and which finds the Whisk engine or the
Winnow context it needs, does its work; KEY, QUOTA, DRAW, DIGEST, TALLY, NEWKEY and RESULT then return to the caller with OK in x0[15:0] and
GATE_OK set, QUOTA with SHARE_EXHAUSTED where there is no room. KEY seats the command's secret keys and leaves the slot reference in x5; DRAW
keeps the bytes drawn; PROGRAM begins the run on the thread's field; DIGEST leaves the digest of a range of the parameters in the buffer;
TALLY sets the thread's verdict; NEWKEY makes a key of an output set; RESULT appends bytes of the parameters or the buffer to the results. A
second DRAW, and a PROGRAM or NEWKEY before DRAW, end the command with PROGRAM_FAULT. -/
def Obligations.CallGates : Prop :=
  (∀ (s : State) (t : ThreadRef) (c : Cmd) (h : Thread) (key : Key) (hs : List (Nat × List Resident)), s.atGate? t 0x000 = some (c, h) →
    let k := num c.params (h.arg 1) 6
    let y := s.readDesc c k
    let c' := { c with keys := c.keys.filter (fun x => x.handle != k) ++ [key] }
    let cold := c'.keys.filter fun x => !tPublic x.type && c'.coldKey y x
    y.key? c.inst k = some key →
    firstFail (y.keyChecks c' [k] ++ y.commonChecks c' [key] ++ [((key.attr &&& (h.arg 2 % 2 ^ 12)) != h.arg 2 % 2 ^ 12, .usageDenied)]) = none →
    y.random c' (!cold.isEmpty) (y.streamsUp c' false (!cold.isEmpty)) = .there →
    (cold = [] ∨ y.whiskUp t.field = true ∧ (y.field t.field).whiskTurn c.inst c.tag 1 = true) →
    (customerDesc c.op).homes y c' = some hs →
    ((cold ++ [key].filter fun x => tPublic x.type).all fun x => x.pages.all fun p => y.clean (hHome x.handle) p) = true →
    let z := ((hs.foldl (fun s p => s.modField p.1 fun x => x.reseat p.2) y).modCmd c.inst c.tag fun e =>
      { e with keys := c'.keys, stage := .running, keyLoaded := e.keyLoaded || !cold.isEmpty }).modThread t
        fun g => ({ g with slots := g.slots ++ [k] }.result g.slots.length).gateReturn .ok
    exec (.gateKey ⟨t, .none⟩) s = .next (if cold.isEmpty then z else (z.modField t.field fun x => x.offWhisk c.inst c.tag).modCmd c.inst c.tag
      fun e => { e with stage := match e.stage with | .waitWhisk => .running | .waitLeaf => .running | x => x })) ∧
  (∀ (s : State) (t : ThreadRef) (c : Cmd) (h : Thread), s.atGate? t 0x008 = some (c, h) → exec (.gateQuota t) s =
    .next (s.modThread t fun g => g.gateReturn (if s.noRoom c (h.arg 1) (h.arg 2) then .shareExhausted else .ok))) ∧
  (∀ (s : State) (t : ThreadRef) (c : Cmd) (h : Thread), s.atGate? t 0x010 = some (c, h) → h.drawMade = false →
    h.arg 1 ≤ byteAt (s.opEntry c) 11 →
    s.random c (h.arg 1 != 0) (s.streamsUp c (s.maskedOp c) (c.twinWrap (h.arg 1 != 0))) = .there →
    (h.arg 1 ≠ 0 → s.steepStalls t.field false 1 c.queued = false) →
    let p : Bytes × State := if h.arg 1 = 0 then ([], s) else s.steep t.field (h.arg 1)
    exec (.gateDraw t) s = .next ((p.2.modCmd c.inst c.tag fun c => { c with stage := .running, queued := 0 }).modThread t
      fun g => { g with drawMade := true, drawBuf := p.1 }.gateReturn .ok)) ∧
  (∀ (s : State) (t : ThreadRef) (c : Cmd) (h : Thread), s.atGate? t 0x010 = some (c, h) → h.drawMade = true →
    exec (.gateDraw t) s = .next (s.complete c.inst c.tag { status := .programFault })) ∧
  (∀ (s : State) (t : ThreadRef) (c : Cmd) (h : Thread), s.atGate? t 0x018 = some (c, h) → h.drawMade = false →
    exec (.gateProgram t) s = .next (s.complete c.inst c.tag { status := .programFault })) ∧
  (∀ (s : State) (t : ThreadRef) (c : Cmd) (h : Thread), s.atGate? t 0x018 = some (c, h) → h.drawMade = true →
    let b := h.block c
    let m := s.prog b
    let refs := h.refs m.nkeyin
    let ks := refs.map fun r => c.key (r.getD 0)
    40 ≤ b.len → b.len = 40 + b.p 37 3 → b.p 33 1 = 0 → b.p 34 3 ≤ 262144 → b.p 37 3 ≤ 1048575 →
    (s.image? c.inst (b.p 0 6)).isSome → refs.all (·.isSome) = true → outAttrOk m (b.p 30 3) = true →
    (ks.all fun k => tClass k.type == 0 && !tPublic k.type && k.body.length ≤ 128 && bit k.attr aDerive) = true →
    (m.nkeyout = 0 ∨ attrBounded (b.p 30 3) ks = true) → bit (byteAt m.header 10) (c.raised ks 0) = true → blockSram m b ≤ acreSram →
    exec (.gateProgram t) s =
      .next (s.beginRun { programRun m b t.field (c.raised ks 0) ks h.drawBuf with thread := some t.thread })) ∧
  (∀ (s : State) (t : ThreadRef) (c : Cmd) (h : Thread) (fn : HashFn), s.atGate? t 0x020 = some (c, h) → hashFn? (h.arg 3) = some fn →
    fn.out ≠ 0 → h.arg 1 + h.arg 2 ≤ c.params.length → s.noContext c = false →
    exec (.gateDigest t) s = .next (((s.hashServed c).modCmd c.inst c.tag fun c => { c with stage := .running }).modThread t fun g =>
      ({ g with buf := digestOf (h.arg 3) fn.out (slice c.params (h.arg 1) (h.arg 2)) }.result fn.out).gateReturn .ok)) ∧
  (∀ (s : State) (t : ThreadRef) (c : Cmd) (h : Thread), s.atGate? t 0x028 = some (c, h) → h.arg 1 + h.arg 3 ≤ h.buf.length →
    h.arg 2 + h.arg 3 ≤ c.params.length → exec (.gateTally t) s = .next (s.modThread t fun g =>
      { g with verdict := if slice g.buf (g.arg 1) (g.arg 3) == slice c.params (g.arg 2) (g.arg 3) then .pass else .fail }.gateReturn .ok)) ∧
  (∀ (s : State) (t : ThreadRef) (c : Cmd) (h : Thread), s.atGate? t 0x030 = some (c, h) → h.drawMade = true →
    let ty := h.arg 2 / 65536 % 256
    let size := if ty = 4 then h.arg 2 % 65536 else 0
    let body := (h.sets.getD (h.arg 1) []).take ((secretLen ty size).getD 0)
    ty ≤ 4 → sizeOk ty (h.arg 2 % 65536) = true → attrOk ty (h.arg 3) = true → bit (h.arg 3) aPersistent = false →
    h.sets.getD (h.arg 1) [] ≠ [] → attrBounded (h.arg 3) c.keys = true → s.noRoom c 1 (secretBlob body.length) = false →
    s.whiskUp t.field = true → (s.field t.field).whiskTurn c.inst c.tag 2 = true →
    let p := s.addKey c t.field none { type := ty, attr := h.arg 3, origin := 4, size := size, body := body }
    exec (.gateNewkey t) s =
      .next (((p.2.modThread t fun g => ({ g with made := g.made ++ [p.1] }.result g.made.length).gateReturn .ok).modField t.field fun x =>
        x.offWhisk c.inst c.tag).modCmd c.inst c.tag fun e =>
          { e with stage := match e.stage with | .waitWhisk => .running | .waitLeaf => .running | x => x })) ∧
  (∀ (s : State) (t : ThreadRef) (c : Cmd) (h : Thread), s.atGate? t 0x030 = some (c, h) → h.drawMade = false →
    exec (.gateNewkey t) s = .next (s.complete c.inst c.tag { status := .programFault })) ∧
  (∀ (s : State) (t : ThreadRef) (c : Cmd) (h : Thread) (src : Bytes), s.atGate? t 0x038 = some (c, h) →
    (h.arg 1 = 0 ∧ src = c.params ∨ h.arg 1 = 1 ∧ src = h.buf) → h.arg 2 + h.arg 3 ≤ src.length →
    exec (.gateResult t) s = .next ((s.modCmd c.inst c.tag fun e => { e with made := e.made ++ [] }).modThread t fun g =>
      { g with results := g.results ++ slice src (g.arg 2) (g.arg 3) }.gateReturn .ok)) ∧
  ∀ (h : Thread) (st : Status), (h.gateReturn st).gateOk = decide (st.cls = 0) ∧ (h.gateReturn st).pc = h.stack.headD 0 ∧
    (h.x.length ≠ 0 → ((h.gateReturn st).x.getD 0 0).toNat % 65536 = st.code)
end

