-- ==== Sys2Proof/Laws/Caddy.lean ====
section
/-! SUPPORT. What a thread at a call gate and a microword that issues do (R369, R376). -/
namespace Sys2Proof.Machine

/-- A thread that stands at a gate's entry does what the gate does. -/
theorem gate_of {s : State} {t n c h g} (hh : s.atGate? t n = some (c, h)) : s.gate t n g = g c h := by
  unfold State.atGate? at hh
  unfold State.gate
  cases h1 : s.threadCmd t with
  | none => simp [h1] at hh
  | some c' =>
    simp [h1] at hh ⊢
    obtain ⟨h2, h3, h4⟩ := hh
    subst h3; subst h4; simp [h2]

/-- It is the thread the state holds. -/
theorem gate_thread {s : State} {t n c h} (hh : s.atGate? t n = some (c, h)) : s.thread t = h := by
  unfold State.atGate? at hh
  cases h1 : s.threadCmd t with
  | none => simp [h1] at hh
  | some c' =>
    simp [h1] at hh ⊢
    exact hh.2.2

/-- A gate's checks that pass change nothing. -/
theorem gateChecks_ok {s x : State} {t cs} (h : firstFail cs = none) : s.gateChecks t cs x = x := by simp [State.gateChecks, h]

/-- A microword that issues does its sequencer part on the state the scratch ALU leaves; then comes the microcode boundary. -/
theorem micro_of {s x : State} {t n w c h g} (hh : s.micro? t n w = some (x, c, h)) : s.word t n w g = (g x c h).boundary t c := by
  unfold State.micro? at hh
  unfold State.word
  cases h1 : s.threadCmd t with
  | none => simp [h1] at hh
  | some c' =>
    simp only [h1] at hh ⊢
    split at hh
    · cases hh
    · rename_i hne
      rw [if_neg hne]
      cases hh; rfl

/-- A status is the one its code names. -/
theorem statusOf_code (st : Status) : statusOf st.code = st := by cases st <;> decide

end Sys2Proof.Machine
end

