-- ==== Sys2Proof/Laws/Commands.lean ====
section
/-! SUPPORT. When a command comes to its commit point: its checks and its wait taken apart from the rest; and the lengths of byte strings. -/
namespace Sys2Proof.Machine

/-- A number in n bytes has n bytes. -/
theorem toBE_length (n v : Nat) : (toBE n v).length = n := by
  induction n generalizing v with
  | zero => rfl
  | succ n ih => simp [toBE, ih]

/-- A standard's function with a result of n bytes gives n bytes. -/
theorem std_length (n : Nat) (f : Config.Std) (as : List Bytes) : (std n f as).length = n := by
  simp [std, fit]; omega

/-- Two lists of checks pass together when each does. -/
theorem firstFail_append (a b : List (Bool × Status)) :
    (firstFail (a ++ b)).isNone = ((firstFail a).isNone && (firstFail b).isNone) := by
  induction a with
  | nil => simp [firstFail]
  | cons x a ih =>
    rcases x with ⟨t, e⟩
    cases t <;> simp_all [firstFail]

/-- A command whose steps 8 and 10 to 12 pass comes to its commit point as it would without those checks. -/
theorem effect_eq_of (d : Desc) (r : CmdRec) (s : State) (c : Cmd) (hc : s.cmd? r.inst r.tag = some c)
    (h1 : (firstFail (d.pre s c)).isNone = true) (h2 : (firstFail (d.post (d.readState s c) (d.readCmd s c))).isNone = true) :
    d.effectAt? r s = Desc.effectAt? { d with pre := fun _ _ => [], post := fun _ _ => [] } r s := by
  have hp : d.passes s c = Desc.passes { d with pre := fun _ _ => [], post := fun _ _ => [] } s c := by
    have hn : (firstFail ([] : List (Bool × Status))).isNone = true := rfl
    simp only [Desc.passes, Desc.later, firstFail_append, h1, h2, hn, Bool.true_and, Bool.and_true]
    rfl
  have hq : d.commitPoint s c = Desc.commitPoint { d with pre := fun _ _ => [], post := fun _ _ => [] } s c := by
    unfold Desc.commitPoint
    rw [hp]
    rfl
  simp only [Desc.effectAt?, Desc.at?, hc, hq]
  rfl

/-- A command whose steps 8 and 10 to 12 pass comes to its commit point if it would without those checks. -/
theorem effect_of (d : Desc) (r : CmdRec) (s : State) (c : Cmd) (hc : s.cmd? r.inst r.tag = some c)
    (h1 : (firstFail (d.pre s c)).isNone = true) (h2 : (firstFail (d.post (d.readState s c) (d.readCmd s c))).isNone = true)
    (h : (Desc.effectAt? { d with pre := fun _ _ => [], post := fun _ _ => [] } r s).isSome = true) : (d.effectAt? r s).isSome = true := by
  rw [effect_eq_of d r s c hc h1 h2]
  exact h

/-- A command that has no wait of its own comes to its commit point as it would without asking for one. -/
theorem wait_eq_of (d : Desc) (r : CmdRec) (s : State) (c : Cmd) (hc : s.cmd? r.inst r.tag = some c)
    (hw : ∀ hs, d.homes (d.servedState s c) (d.judgedCmd s c) = some hs →
      (d.wait (d.startedState (d.servedState s c) (d.judgedCmd s c) hs) (d.judgedCmd s c)).isNone = true) :
    d.effectAt? r s = Desc.effectAt? { d with wait := fun _ _ => none } r s := by
  have hq : d.commitPoint s c = Desc.commitPoint { d with wait := fun _ _ => none } s c := by
    unfold Desc.commitPoint
    have hh : Desc.homes { d with wait := fun _ _ => none } (Desc.servedState { d with wait := fun _ _ => none } s c)
        (Desc.judgedCmd { d with wait := fun _ _ => none } s c) = d.homes (d.servedState s c) (d.judgedCmd s c) := rfl
    dsimp only
    rw [hh]
    cases ho : d.homes (d.servedState s c) (d.judgedCmd s c) with
    | none => rfl
    | some hs =>
      have hu : d.unwaiting (d.startedState (d.servedState s c) (d.judgedCmd s c) hs) (d.judgedCmd s c) =
          Desc.unwaiting { d with wait := fun _ _ => none } (d.startedState (d.servedState s c) (d.judgedCmd s c) hs) (d.judgedCmd s c) := by
        simp only [Desc.unwaiting, hw hs ho, Option.isNone_none]
      dsimp only
      rw [hu]
      rfl
  simp only [Desc.effectAt?, Desc.at?, hc, hq]
  rfl

/-- A command that has no wait of its own comes to its commit point if it would without asking for one. -/
theorem wait_of (d : Desc) (r : CmdRec) (s : State) (c : Cmd) (hc : s.cmd? r.inst r.tag = some c)
    (hw : ∀ hs, d.homes (d.servedState s c) (d.judgedCmd s c) = some hs →
      (d.wait (d.startedState (d.servedState s c) (d.judgedCmd s c) hs) (d.judgedCmd s c)).isNone = true)
    (h : (Desc.effectAt? { d with wait := fun _ _ => none } r s).isSome = true) : (d.effectAt? r s).isSome = true := by
  rw [wait_eq_of d r s c hc hw]
  exact h

/-- A command that turns out to draw nothing comes to its commit point as it would with no draw to name. -/
theorem draw_eq_of (d : Desc) (r : CmdRec) (s : State) (c : Cmd) (hc : s.cmd? r.inst r.tag = some c) (hr : ∀ x e, d.reseed x e = false)
    (h1 : d.draw (d.judgedState s c) (d.judgedCmd s c) = some 0)
    (h0 : d.draw ((d.judgedState s c).whiskServed (d.judgedCmd s c)) (d.judgedCmd s c) = some 0)
    (h2 : ∀ hs, d.homes (d.servedState s c) (d.judgedCmd s c) = some hs →
      d.draw ((d.startedState (d.servedState s c) (d.judgedCmd s c) hs).hashServed (d.judgedCmd s c)) (d.judgedCmd s c) = some 0) :
    d.effectAt? r s = Desc.effectAt? { d with draw := fun _ _ => some 0 } r s := by
  have hs1 : d.served (d.judgedState s c) (d.judgedCmd s c) =
      Desc.served { d with draw := fun _ _ => some 0 } (d.judgedState s c) (d.judgedCmd s c) := by
    simp only [Desc.served, Desc.randomness, Desc.whiskReqs, Desc.whiskAll, h0, h1, Option.any_some, bne_self_eq_false, Bool.false_and]
  have hd : ∀ x e, d.draw x e = some 0 → d.drawn x e = Desc.drawn { d with draw := fun _ _ => some 0 } x e := by
    intro x e h
    simp [Desc.drawn, hr, h]
  have hst : ∀ x e, d.draw x e = some 0 → d.drawnState x e = Desc.drawnState { d with draw := fun _ _ => some 0 } x e := by
    intro x e h
    simp only [Desc.drawnState, hd x e h]
  have hw : ∀ x e, d.draw x e = some 0 → d.written x e = Desc.written { d with draw := fun _ _ => some 0 } x e := by
    intro x e h
    simp only [Desc.written, hst x e h]
  have hwr : ∀ x e, d.draw x e = some 0 → d.writable x e = Desc.writable { d with draw := fun _ _ => some 0 } x e := by
    intro x e h
    simp only [Desc.writable, hst x e h, hw x e h]
  have hq : d.commitPoint s c = Desc.commitPoint { d with draw := fun _ _ => some 0 } s c ∧
      ∀ q, d.commitPoint s c = some q → d.draw q.1 q.2 = some 0 := by
    have hh : Desc.homes { d with draw := fun _ _ => some 0 } (Desc.servedState { d with draw := fun _ _ => some 0 } s c)
        (Desc.judgedCmd { d with draw := fun _ _ => some 0 } s c) = d.homes (d.servedState s c) (d.judgedCmd s c) := rfl
    unfold Desc.commitPoint
    dsimp only
    rw [hh, hs1]
    cases ho : d.homes (d.servedState s c) (d.judgedCmd s c) with
    | none => exact ⟨rfl, fun q h => nomatch h⟩
    | some hs =>
      have h := h2 hs ho
      dsimp only
      rw [hwr _ _ h]
      refine ⟨rfl, fun q hq => ?_⟩
      split at hq
      · cases hq
        exact h
      · cases hq
  have hf : Desc.fresh { d with draw := fun _ _ => some 0 } r s c = d.fresh r s c := rfl
  simp only [Desc.effectAt?, Desc.at?, hc, hf, ← hq.1]
  cases d.fresh r s c with
  | false => rfl
  | true =>
    cases ho : d.commitPoint s c with
    | none => rfl
    | some q =>
      have h := hq.2 q ho
      simp only [if_true, Option.map_some, hd _ _ h, hst _ _ h, hw _ _ h]

/-- A command that comes to its commit point where it writes the pages w comes there, with the same draw and keys, where it writes fewer. -/
theorem writes_of (d : Desc) (w : State → Cmd → List (Nat × Nat)) (r : CmdRec) (s x : State) (c : Cmd)
    (hw : ∀ s c, ∀ p ∈ d.writes s c, p ∈ w s c) (h : Desc.effectAt? { d with writes := w } r s = some (x, c)) :
    ∃ y, d.effectAt? r s = some (y, c) := by
  have hok : ∀ s c, Desc.writable { d with writes := w } s c = true → d.writable s c = true := by
    intro s c h
    simp only [Desc.writable, Desc.written, List.all_eq_true, List.mem_eraseDups] at h ⊢
    exact fun p hp => h p (hw _ _ p hp)
  have hq : ∀ e q, Desc.commitPoint { d with writes := w } s e = some q → d.commitPoint s e = some q := by
    intro e q h
    unfold Desc.commitPoint at h ⊢
    have hh : Desc.homes { d with writes := w } (Desc.servedState { d with writes := w } s e) (Desc.judgedCmd { d with writes := w } s e) =
        d.homes (d.servedState s e) (d.judgedCmd s e) := rfl
    dsimp only at h ⊢
    rw [hh] at h
    cases ho : d.homes (d.servedState s e) (d.judgedCmd s e) with
    | none => rw [ho] at h; simp at h
    | some hs =>
      rw [ho] at h
      dsimp only at h ⊢
      split at h
      · rename_i hb
        rw [if_pos]
        · exact h
        · simp only [Bool.and_eq_true] at hb ⊢
          exact ⟨hb.1, hok _ _ hb.2⟩
      · simp at h
  have hf : ∀ e, Desc.fresh { d with writes := w } r s e = d.fresh r s e := fun _ => rfl
  simp only [Desc.effectAt?, Desc.at?, Option.map_eq_some_iff] at h ⊢
  obtain ⟨q, h, he⟩ := h
  cases hc : s.cmd? r.inst r.tag with
  | none => rw [hc] at h; simp at h
  | some e =>
    rw [hc] at h
    dsimp only at h
    rw [hf] at h
    split at h
    · rename_i hfr
      rw [Prod.mk.injEq] at he
      exact ⟨_, q, (if_pos hfr).trans (hq _ _ h), Prod.ext rfl he.2⟩
    · simp at h

end Sys2Proof.Machine
end

