-- ==== Sys2Proof/Laws/Memory.lean ====
section
/-! SUPPORT. The laws of the furrow and acre memories (R319, R330): a read after a write, and the canonical form. -/
namespace Sys2Proof.Machine

/-- Every listed address lies above a bound. -/
def WMem.above (a : Nat) (m : WMem) : Prop := ∀ p ∈ m, a < p.1

@[simp] theorem WMem.wf_nil : WMem.wf [] = true := rfl

/-- The canonical form, one entry at a time. -/
theorem WMem.wf_cons {a : Nat} {w : Word24} {m : WMem} :
    WMem.wf ((a, w) :: m) = true ↔ w ≠ 0 ∧ WMem.above a m ∧ WMem.wf m = true := by
  induction m generalizing a w with
  | nil => simp [WMem.wf, WMem.above]
  | cons p m ih =>
    obtain ⟨b, v⟩ := p
    simp only [WMem.wf, Bool.and_eq_true, bne_iff_ne, decide_eq_true_eq]
    rw [ih]
    constructor
    · rintro ⟨⟨hw, hab⟩, hv, hb, hm⟩
      refine ⟨hw, ?_, hv, hb, hm⟩
      intro q hq
      rcases List.mem_cons.1 hq with rfl | hq
      · exact hab
      · exact Nat.lt_trans hab (hb q hq)
    · rintro ⟨hw, ha, hv, hb, hm⟩
      exact ⟨⟨hw, ha _ (List.mem_cons_self ..)⟩, hv, hb, hm⟩

/-- A write lists no address but its own anew. -/
theorem WMem.above_write {a b : Nat} {w : Word24} {m : WMem} (h : WMem.above b m) (hab : b < a) :
    WMem.above b (WMem.write m a w) := by
  induction m with
  | nil =>
    unfold WMem.write
    split <;> simp [WMem.above, hab]
  | cons p m ih =>
    obtain ⟨c, v⟩ := p
    have hc : b < c := h _ (List.mem_cons_self ..)
    have hm : WMem.above b m := fun q hq => h q (List.mem_cons_of_mem _ hq)
    unfold WMem.write
    intro q hq
    split at hq
    · split at hq
      · exact h q hq
      · rcases List.mem_cons.1 hq with rfl | hq
        · exact hab
        · exact h q hq
    · split at hq
      · split at hq
        · exact hm q hq
        · rcases List.mem_cons.1 hq with rfl | hq
          · exact hab
          · exact hm q hq
      · rcases List.mem_cons.1 hq with rfl | hq
        · exact hc
        · exact ih hm q hq

/-- A write keeps the canonical form. -/
theorem WMem.wf_write {m : WMem} (h : m.wf = true) (a : Nat) (w : Word24) : (WMem.write m a w).wf = true := by
  induction m with
  | nil =>
    unfold WMem.write
    split
    · rfl
    · rename_i hw
      simpa [WMem.wf] using hw
  | cons p m ih =>
    obtain ⟨b, v⟩ := p
    obtain ⟨hv, hb, hm⟩ := WMem.wf_cons.1 h
    unfold WMem.write
    split
    · rename_i hab
      split
      · exact h
      · rename_i hw
        refine WMem.wf_cons.2 ⟨by simpa using hw, ?_, h⟩
        intro q hq
        rcases List.mem_cons.1 hq with rfl | hq
        · exact hab
        · exact Nat.lt_trans hab (hb q hq)
    · rename_i hab
      split
      · rename_i heq
        have heq : a = b := by simpa using heq
        subst heq
        split
        · exact hm
        · rename_i hw
          exact WMem.wf_cons.2 ⟨by simpa using hw, hb, hm⟩
      · rename_i hne
        have hne : a ≠ b := by simpa using hne
        exact WMem.wf_cons.2 ⟨hv, WMem.above_write hb (by omega), ih hm⟩

/-- An address below every listed one reads as zero. -/
theorem WMem.read_above {m : WMem} {a b : Nat} (h : WMem.above b m) (hab : a ≤ b) : m.read a = 0 := by
  induction m with
  | nil => rfl
  | cons p m ih =>
    obtain ⟨c, v⟩ := p
    have hc : b < c := h _ (List.mem_cons_self ..)
    have : ¬ a = c := by omega
    simp only [WMem.read, beq_iff_eq, this, if_false]
    exact ih fun q hq => h q (List.mem_cons_of_mem _ hq)

/-- A read after a write at the same address gives the word written. -/
theorem WMem.read_write_self {m : WMem} (h : m.wf = true) (a : Nat) (w : Word24) : (WMem.write m a w).read a = w := by
  induction m with
  | nil =>
    unfold WMem.write
    split
    · rename_i hw
      exact (eq_of_beq hw).symm
    · simp [WMem.read]
  | cons p m ih =>
    obtain ⟨b, v⟩ := p
    obtain ⟨_, hb, hm⟩ := WMem.wf_cons.1 h
    unfold WMem.write
    split
    · rename_i hab
      split
      · rename_i hw
        have hw : w = 0 := by simpa using hw
        subst hw
        have : ¬ a = b := by omega
        simp only [WMem.read, beq_iff_eq, this, if_false]
        exact WMem.read_above hb (by omega)
      · simp [WMem.read]
    · split
      · rename_i heq
        have heq : a = b := by simpa using heq
        subst heq
        split
        · rename_i hw
          have hw : w = 0 := by simpa using hw
          subst hw
          exact WMem.read_above hb (Nat.le_refl _)
        · simp [WMem.read]
      · rename_i hne
        have hne : ¬ a = b := by simpa using hne
        simp only [WMem.read, beq_iff_eq, hne, if_false]
        exact ih hm

/-- A write leaves every other address alone. -/
theorem WMem.read_write_other {m : WMem} {a b : Nat} (hab : b ≠ a) (w : Word24) : (WMem.write m a w).read b = m.read b := by
  induction m with
  | nil =>
    unfold WMem.write
    split <;> simp [WMem.read, hab]
  | cons p m ih =>
    obtain ⟨c, v⟩ := p
    unfold WMem.write
    split
    · split <;> simp [WMem.read, hab]
    · split
      · rename_i heq
        have heq : a = c := by simpa using heq
        subst heq
        split <;> simp [WMem.read, hab]
      · simp only [WMem.read]
        rw [ih]

end Sys2Proof.Machine
end

