-- ==== Sys2Proof/Laws/Run.lean ====
section
/-! SUPPORT. What a command row can do: an admitted command that nothing stops before its commit point has its effect there. -/
namespace Sys2Proof.Machine

/-- Reading a clean page leaves the state as it is. -/
theorem State.readPage_clean {s : State} {f p : Nat} (h : s.clean f p = true) : s.readPage f p = (.clean, s) := by
  unfold State.clean at h
  have h : (s.pageOf f p).read = .clean := eq_of_beq h
  unfold State.readPage
  simp only [h]

/-- Reading a blob on clean pages succeeds and leaves the state as it is. -/
theorem State.readBlob_clean {s : State} (i t f : Nat) (ps : List Nat) (h : (ps.all fun p => s.clean f p) = true) :
    s.readBlob i t f ps = (true, s) := by
  induction ps with
  | nil => rfl
  | cons p ps ih =>
    rw [List.all_cons, Bool.and_eq_true] at h
    unfold State.readBlob
    simp only [State.readPage_clean h.1]
    exact ih h.2

theorem State.loadKey_clean {s : State} (c : Cmd) (k : Key) (h : (k.pages.all fun p => s.clean (hHome k.handle) p) = true) :
    s.loadKey c k = (true, s) := by
  unfold State.loadKey
  simp only [State.readBlob_clean _ _ _ _ h]

theorem State.loadKeys_clean {s : State} (c : Cmd) (ks : List Key)
    (h : (ks.all fun k => k.pages.all fun p => s.clean (hHome k.handle) p) = true) : s.loadKeys c ks = (true, s) := by
  induction ks with
  | nil => rfl
  | cons k ks ih =>
    rw [List.all_cons, Bool.and_eq_true] at h
    unfold State.loadKeys
    simp only [State.loadKey_clean c k h.1]
    exact ih h.2

/-- Partial writes to clean pages are let through. -/
theorem State.checkWrites_clean {s : State} (i t : Nat) (ws : List (Nat × Nat)) (h : (ws.all fun w => s.clean w.1 w.2) = true) :
    s.checkWrites i t ws = (true, s) := by
  induction ws with
  | nil => rfl
  | cons w ws ih =>
    obtain ⟨f, p⟩ := w
    rw [List.all_cons, Bool.and_eq_true] at h
    unfold State.checkWrites
    simp only [State.readPage_clean h.1]
    exact ih h.2

/-- No descriptor fails its DMAC where no physical fault strikes. -/
@[simp] theorem spoilDesc_none (s : State) (c : Cmd) (hs : List Nat) : s.spoilDesc c hs .none = s := rfl

/-- Steps 7 to 12 where they pass. -/
theorem judged_passes {d : Desc} {s : State} {c : Cmd} (h : d.passes s c = true) :
    judged d .none s c = (d.judgedState s c, some (d.judgedCmd s c)) := by
  unfold Desc.passes at h
  simp only [Bool.and_eq_true, Option.isNone_iff_eq_none] at h
  obtain ⟨h7, h9⟩ := h
  unfold Desc.later Desc.readCmd Desc.readState at h9
  unfold judged Desc.judgedState Desc.judgedCmd Desc.readCmd Desc.readState
  simp only [h7, spoilDesc_none, h9]

/-- Nor does a blob's wrap. -/
@[simp] theorem blobFails_none (d : Desc) (s : State) (c : Cmd) : d.blobFails .none s c = false := rfl

/-- The commit point of a command that no physical fault strikes. -/
theorem commit_writable {d : Desc} {s : State} {c : Cmd} (h : d.writable s c = true) :
    commit d .none s c = settled c.inst c.tag (d.effect s c) := by
  have e : commit d .none s c =
      (match (d.drawnState s c).checkWrites c.inst c.tag (d.written s c) with
      | (false, x) => (d.spoil x { c with drawn := (d.drawn s c).1 }).complete c.inst c.tag { status := .destPoisoned }
      | (true, x) =>
        match d.body (x.writePages (d.written s c)) { c with drawn := (d.drawn s c).1, stage := .running, twinPassed := c.twinned } with
        | (x, some r) => (x.flushMerges c.inst c.tag).complete c.inst c.tag r
        | (x, none) => x) := by
    rfl
  rw [e, State.checkWrites_clean _ _ _ h]
  unfold Desc.effect settled
  rfl

/-- Step 13 of a command whose requests are all served (R104, R284, R301). -/
theorem stepThirteen_served {d : Desc} {h : Hit} {s : State} {c : Cmd} (hb : c.begun = false) (hv : d.served s c = true) :
    stepThirteen d h s c = afterRandom d h (s.afterServed c) c := by
  unfold Desc.served State.whiskServed at hv
  simp only [Bool.and_eq_true, beq_iff_eq, Bool.not_eq_true', List.isEmpty_iff] at hv
  obtain ⟨⟨⟨h1, h2⟩, h3⟩, h4⟩ := hv
  unfold stepThirteen State.afterServed State.whiskServed
  simp only [h1, hb, Bool.false_eq_true, if_false, h2, h3, h4, List.isEmpty_nil, Bool.not_true]

/-- The keys whose blobs lie on clean pages are seated (R136, R138). -/
theorem seated_loadable {d : Desc} {s : State} {c : Cmd} {hs : List (Nat × List Resident)} {go : State → State} (hl : d.loadable s c = true) :
    seated d .none s c hs go =
      if ((d.startedState s c hs).cmd? c.inst c.tag).any (!·.isDone) then go (d.startedState s c hs) else d.startedState s c hs := by
  unfold seated
  simp only [State.loadKeys_clean _ _ hl, blobFails_none, Bool.false_eq_true, if_false]
  rfl

/-- A command that comes to its commit point at once has its effect there. -/
theorem checks_commitPoint {d : Desc} {s s2 : State} {c c1 : Cmd} (hb : c.begun = false)
    (h : d.commitPoint s c = some (s2, c1)) : checks d .none s c = settled c1.inst c1.tag (d.effect s2 c1) := by
  unfold Desc.commitPoint Desc.servedState at h
  dsimp only at h
  split at h
  · cases h
  · rename_i hs hh
    split at h
    · rename_i hg
      simp only [Bool.and_eq_true] at hg
      obtain ⟨⟨⟨⟨hp, hv⟩, hl⟩, hu⟩, hw⟩ := hg
      cases h
      unfold checks
      simp only [judged_passes hp]
      have hb : (d.judgedCmd s c).begun = false := hb
      generalize d.judgedState s c = s1 at *
      generalize d.judgedCmd s c = c1 at *
      rw [stepThirteen_served hb hv]
      unfold afterRandom
      simp only [hb, Bool.false_eq_true, if_false, hh]
      rw [seated_loadable hl]
      unfold Desc.unwaiting at hu
      simp only [Bool.and_eq_true, Bool.not_eq_true', Option.isNone_iff_eq_none] at hu
      obtain ⟨⟨⟨⟨ho, h1⟩, h2⟩, h3⟩, h4⟩ := hu
      rw [if_pos ho]
      unfold begin
      simp only [h1, h2, h3, h4, Bool.false_eq_true, if_false]
      exact commit_writable hw
    · cases h

/-- A record whose command comes to its commit point at once runs to its own effect. -/
theorem runCommand_at {d : Desc} {r : CmdRec} {s s2 : State} {c1 : Cmd} (h : d.at? r s = some (s2, c1)) :
    runCommand d r s = settled c1.inst c1.tag (d.effect s2 c1) := by
  unfold Desc.at? at h
  split at h
  · rename_i c hc
    split at h
    · rename_i hf
      unfold Desc.fresh at hf
      simp only [Bool.and_eq_true, beq_iff_eq, Bool.not_eq_true'] at hf
      obtain ⟨⟨⟨⟨⟨⟨⟨⟨ha, hh⟩, _⟩, ho⟩, hst⟩, hck⟩, hb⟩, ht⟩, hn⟩ := hf
      have hm := List.find?_some (p := fun c : Cmd => c.inst == r.inst && c.tag == r.tag) hc
      simp only [Bool.and_eq_true, beq_iff_eq] at hm
      rw [← hm.1, ← hm.2] at hc
      rw [← checks_commitPoint hb h]
      unfold runCommand
      rw [hm.1, hm.2] at hc
      simp only [ha, if_true, hc, ho, beq_self_eq_true, hh]
      unfold advance
      simp only [hst, hck, ht, hn, Bool.false_eq_true, if_false, Bool.not_true]
    · cases h
  · cases h

/-- A record whose command is in progress runs its effect again. -/
theorem runCommand_going {d : Desc} {r : CmdRec} {s : State} {c : Cmd} (h : d.going? r s = some c) :
    runCommand d r s = settled c.inst c.tag (d.body s c) := by
  unfold Desc.going? at h
  obtain ⟨hc, hf⟩ := Option.filter_eq_some_iff.1 h
  simp only [Bool.and_eq_true, beq_iff_eq] at hf
  obtain ⟨⟨ha, ho⟩, hst⟩ := hf
  unfold runCommand
  simp only [ha, if_true, hc, ho, beq_self_eq_true]
  unfold advance settled
  simp only [hst] <;> rfl

/-- The same from the state the effect is made in. -/
theorem runCommand_effectAt {d : Desc} {r : CmdRec} {s x : State} {c : Cmd} (h : d.effectAt? r s = some (x, c)) :
    runCommand d r s = settled c.inst c.tag (d.body x c) := by
  unfold Desc.effectAt? at h
  cases hp : d.at? r s with
  | none => rw [hp] at h; cases h
  | some p =>
    rw [hp] at h
    simp only [Option.map_some, Option.some.injEq, Prod.mk.injEq] at h
    obtain ⟨rfl, rfl⟩ := h
    obtain ⟨s2, c1⟩ := p
    exact runCommand_at hp

/-- A row that runs a description completes with the description's effect. -/
theorem completes_of {d : Desc} {row : CmdRec → Sys2Proof.Instr} (h : ∀ r s, exec (row r) s = .next (runCommand d r s)) :
    d.Completes row d.body := fun r s _ _ hx => by rw [h r s, runCommand_effectAt hx]

/-- And so it does where p holds, with any effect that agrees with it there. -/
theorem completesWhere_of {d : Desc} {row : CmdRec → Sys2Proof.Instr} {p : State → Cmd → Prop} {g : State → Cmd → State × Option Reply}
    (h : ∀ r s, exec (row r) s = .next (runCommand d r s)) (hg : ∀ s c, p s c → d.body s c = g s c) : d.CompletesWhere row p g :=
  fun r s x c hx hp => by rw [h r s, runCommand_effectAt hx, hg x c hp]

/-- And goes on with it. -/
theorem goesOn_of {d : Desc} {row : CmdRec → Sys2Proof.Instr} (h : ∀ r s, exec (row r) s = .next (runCommand d r s)) :
    d.GoesOn row d.body := fun r s _ hx => by rw [h r s, runCommand_going hx]

/-- A row that runs a description stages the status of the first failing check. -/
theorem refuses_of {d : Desc} {row : CmdRec → Sys2Proof.Instr} (h : ∀ r s, exec (row r) s = .next (runCommand d r s)) :
    d.Refuses row := by
  intro r s x st hx
  rw [h r s]
  unfold Desc.refusal? at hx
  split at hx
  · cases hx
  · rename_i c hc
    split at hx
    · rename_i hf
      unfold Desc.fresh at hf
      simp only [Bool.and_eq_true, beq_iff_eq, Bool.not_eq_true'] at hf
      obtain ⟨⟨⟨⟨⟨⟨⟨⟨ha, hh⟩, _⟩, ho⟩, hst⟩, hck⟩, hb⟩, ht⟩, hn⟩ := hf
      have hm := List.find?_some (p := fun c : Cmd => c.inst == r.inst && c.tag == r.tag) hc
      simp only [Bool.and_eq_true, beq_iff_eq] at hm
      have run : runCommand d r s = checks d .none s c := by
        unfold runCommand
        simp only [ha, if_true, hc, ho, beq_self_eq_true, hh]
        unfold advance
        simp only [hst, hck, ht, hn, Bool.false_eq_true, if_false, Bool.not_true]
      rw [run]
      unfold checks judged
      split at hx
      · rename_i y hp
        cases hx
        simp only [hp, hm.1, hm.2]
      · rename_i hp
        obtain ⟨y, hy, he⟩ := Option.map_eq_some_iff.1 hx
        cases he
        unfold Desc.later Desc.readCmd Desc.readState at hy
        unfold Desc.readCmd Desc.readState
        rw [← hm.1, ← hm.2]
        simp only [hp, spoilDesc_none, hy]
    · cases hx

end Sys2Proof.Machine
end

