-- ==== Sys2Proof/Laws/Saivo.lean ====
section
/-! SUPPORT. What an instruction that issues does (R325, R344). -/
namespace Sys2Proof.Machine

/-- Where an instruction issues, its row settles what its meaning answers. -/
theorem issue_of {s x : State} {u : FurrowRef} {op : Nat} {i : SaivoFields} {e : Env} {sem : Env → Res}
    (h : s.issues? u op i = some (e, x)) : s.issue u op i sem = x.settle u op i e.r (sem e) := by
  unfold State.issues? at h
  unfold State.issue
  cases hr : s.issuing u with
  | none => rw [hr] at h; cases h
  | some r =>
    rw [hr] at h
    dsimp only at h ⊢
    split at h
    · rename_i hc
      simp only [Bool.and_eq_true, Bool.or_eq_true, Bool.not_eq_true'] at hc
      obtain ⟨⟨h1, h2⟩, h3⟩ := hc
      cases h
      simp only [h1, h2]
      have : ((s.env u r i).leafBits op i != 0 && !((s.field u.field).leaf.getD (u.furrow / 4) {}).running) = false := by
        rcases h3 with h3 | h3
        · have := eq_of_beq h3; simp [this]
        · rw [h3]; exact Bool.and_false _
      simp only [this]
      rfl
    · cases h

/-- It starts at element 0, its encoding is assigned, and no word has been corrected yet. -/
theorem issues_start {s x : State} {u : FurrowRef} {op : Nat} {i : SaivoFields} {e : Env}
    (h : s.issues? u op i = some (e, x)) : e.start = 0 ∧ saivoOk e.r.image.icount op i = true ∧ e.fixed = [] := by
  unfold State.issues? at h
  split at h
  · cases h
  · dsimp only at h
    split at h
    · rename_i hc
      simp only [Bool.and_eq_true, Bool.or_eq_true, Bool.not_eq_true'] at hc
      cases h
      exact ⟨rfl, hc.1.1, rfl⟩
    · cases h

/-- An instruction whose meaning goes on to the next instruction leaves what its meaning gives. -/
theorem leaves_of {op : Nat} {row : FurrowRef → SaivoFields → Instr} {ok : SaivoFields → Env → Prop} {g : SaivoFields → Env → Env}
    {sem : SaivoFields → Env → Res}
    (hx : ∀ u i s, exec (row u i) s = .next (s.issue u op i (sem i)))
    (h : ∀ i e, e.start = 0 → saivoOk e.r.image.icount op i = true → ok i e → sem i e = .next (g i e)) : Leaves op row ok g := by
  intro s x u i e hi ho
  rw [hx, issue_of hi, h i e (issues_start hi).1 (issues_start hi).2.1 ho]
  rfl

/-- An instruction gives the state its meaning settles to. -/
theorem gives_of {op : Nat} {row : FurrowRef → SaivoFields → Instr} {ok : SaivoFields → Env → Prop} {g : FurrowRef → SaivoFields → Env → State → State}
    {sem : SaivoFields → Env → Res}
    (hx : ∀ u i s, exec (row u i) s = .next (s.issue u op i (sem i)))
    (h : ∀ s u i e, e.start = 0 → ok i e → s.settle u op i e.r (sem i e) = g u i e s) : Gives op row ok g := by
  intro s x u i e hi ho
  rw [hx, issue_of hi, h x u i e (issues_start hi).1 ho]

/-- With no SEALED register named the meaning runs on. -/
theorem unsealed_clear {e : Env} {l ws k} (h : e.clear l ws = true) : e.unsealed l ws k = k e := by
  unfold Env.clear at h
  unfold Env.unsealed
  split <;> simp_all

/-- With one it faults with cause SEALED (R324). -/
theorem sealed_not {e : Env} {l ws k} (h : e.clear l ws = false) : e.unsealed l ws k = .fault 0x03 0 0 e none := by
  unfold Env.clear at h
  unfold Env.unsealed
  split <;> simp_all

/-- With a modulus that serves the meaning runs on. -/
theorem withQ_ok {e : Env} {i k} (h : e.modOk i = true) : e.withQ i k = k (e.modulus i) := by
  unfold Env.modOk at h
  unfold Env.withQ
  dsimp only
  split <;> simp_all

/-- With one that does not it faults with cause MODULUS (R354). -/
theorem withQ_no {e : Env} {i k} (h : e.modOk i = false) : e.withQ i k = .fault 0x04 0 0 e none := by
  unfold Env.modOk at h
  unfold Env.withQ
  dsimp only
  split <;> simp_all

/-- Accesses of which none faults are made (R359). -/
theorem access_ok {e : Env} {as b f n} (h0 : e.start = 0) (h : e.reaches as = true) : e.access as b f n = .next (f n (e.readMarks as)) := by
  unfold Env.access
  have : as.filter (fun a => a.idx ≥ e.start) = as := by simp [h0]
  simp only [this]
  unfold Env.reaches at h
  cases hf : e.firstFault as <;> simp_all

/-- A share instruction of either kind runs on with its modulus, 1 for Boolean shares (R362). -/
theorem kind_ok {e : Env} {i b k} (h : b = true ∨ e.modOk i = true) : e.kind i b k = k (if b then 1 else e.modulus i) := by
  unfold Env.kind
  split
  · rfl
  · rw [withQ_ok]; simp_all

end Sys2Proof.Machine
end

