-- ==== Sys2Proof/Laws/Sound.lean ====
section
/-! SUPPORT. The invariant State.Sound under the basic updates of the state, and the combinators the operations are made of. -/
set_option Elab.async false
set_option linter.unusedTactic false
set_option linter.unreachableTactic false
namespace Sys2Proof.Machine

/-- An outcome keeps the invariant. -/
def Keeps (o : Host.Outcome State Fault Refusal) : Prop := ∀ t, o = .next t → t.Sound

theorem keeps_next {t : State} (h : t.Sound) : Keeps (.next t) := fun _ e => Host.Outcome.next.inj e ▸ h

theorem keeps_refused (r : Refusal) : Keeps (.refused r) := fun _ e => nomatch e

/-- The state in a pair an operation answered. -/
theorem of_snd {α : Type} {p : α × State} {a : α} {s : State} (e : p = (a, s)) (h : p.2.Sound) : s.Sound := by rw [e] at h; exact h

theorem of_fst {α : Type} {p : State × α} {a : α} {s : State} (e : p = (s, a)) (h : p.1.Sound) : s.Sound := by rw [e] at h; exact h

theorem of_trd {α β : Type} {p : α × β × State} {a : α} {b : β} {s : State} (e : p = (a, b, s)) (h : p.2.2.Sound) : s.Sound := by
  rw [e] at h; exact h

/-- A step that stops or goes on leaves a sound state either way. -/
def OkSound {α : Type} : Except State (α × State) → Prop
  | .error t => t.Sound
  | .ok p => p.2.Sound

theorem of_error {α : Type} {r : Except State (α × State)} {t : State} (e : r = .error t) (h : OkSound r) : t.Sound := by
  rw [e] at h; exact h

theorem of_ok {α : Type} {r : Except State (α × State)} {a : α} {t : State} (e : r = .ok (a, t)) (h : OkSound r) : t.Sound := by
  rw [e] at h; exact h

theorem ok_error {α : Type} {t : State} (h : t.Sound) : OkSound (.error t : Except State (α × State)) := h

theorem ok_ok {α : Type} {a : α} {t : State} (h : t.Sound) : OkSound (.ok (a, t) : Except State (α × State)) := h

/-- What matters of a state for the invariant. -/
theorem sound_congr {s t : State} (h : s.Sound) (hf : t.fuses = s.fuses) (hp : t.ports.length = s.ports.length) (hx : t.fields = s.fields)
    (hr : t.runs = s.runs) : t.Sound := by
  unfold State.Sound
  rw [hf, hp, hx, hr]
  exact h

/-- A state built from another whose shape it keeps. -/
theorem sound_mk {x : State} (h : x.Sound) {gran pkg clock power working inForce insts cmds xfers keys sas ikes images tx txq free pending} :
    (State.mk x.fuses gran pkg clock power working inForce x.ports insts cmds xfers keys sas ikes images x.runs x.fields tx txq free pending).Sound := h

/-! ### Fields -/

/-- What matters of a field for the invariant. -/
theorem field_congr {x y : FieldSt} (h : x.Sound) (hf : y.furrows = x.furrows) (ht : y.threads.length = x.threads.length) : y.Sound := by
  unfold FieldSt.Sound
  rw [hf, ht]
  exact h

/-- A field, furrow or run built from another whose shape it keeps. -/
theorem field_mk {x : FieldSt} (h : x.Sound)
    {run lost cut mcheck gating gated testFailed setPoint fullPoint coreLow sysHeld links seed leaf kek slots nextUse descCache
        lastIndex uses lastSa saUses lastIke ikeUses scrubAt lastThread store openCopy patch faults ctxs ctxWait keyCache saKey whisk
        pages remap deadSpares withdrawn draining sparesEvent merge refreshDoubled refreshes trainedAt retrainDeferred sweep sweepAt
        alarm log ops padOverrun saves restores corrected temps outside thermal entered} :
    (FieldSt.mk
            run lost cut mcheck gating gated testFailed setPoint fullPoint coreLow sysHeld links seed leaf kek slots nextUse descCache
            lastIndex uses lastSa saUses lastIke ikeUses x.threads scrubAt lastThread store openCopy patch faults x.furrows ctxs ctxWait
            keyCache saKey whisk pages remap deadSpares withdrawn draining sparesEvent merge refreshDoubled refreshes trainedAt
            retrainDeferred sweep sweepAt alarm log ops padOverrun saves restores corrected temps outside thermal entered).Sound := h

theorem furrow_mk {u : Furrow} (h : u.Sound)
    {s v w m q pc frec inHandler sealedSets tally o64 o8 poison seals dwsize cycles run rank atBarrier halted held waitLeaf imem} :
    (Furrow.mk
            s v w m q pc frec inHandler sealedSets tally o64 o8 u.dmem poison seals dwsize cycles run rank atBarrier halted held
            waitLeaf imem).Sound := h

theorem run_mk {r : Run} (h : r.Sound)
    {id inst tag field acre furrows image order keys draw input outMax outAttr poison since test restarts thread} :
    (Run.mk
            id inst tag field acre furrows image order keys draw input outMax outAttr r.a1 r.a2 poison since test restarts thread).Sound := h

theorem furrow_default : ({} : Furrow).Sound := rfl

theorem sound_fields {s : State} (h : s.Sound) (xs : List FieldSt) (hl : xs.length = s.fields.length) (hx : ∀ x ∈ xs, x.Sound) :
    ({ s with fields := xs } : State).Sound := ⟨hl.trans h.1, h.2.1, hx, h.2.2.2⟩

theorem mem_modify {α : Type} {g : α → α} {x : α} : ∀ {l : List α} {n : Nat}, x ∈ l.modify n g → x ∈ l ∨ ∃ y ∈ l, x = g y
  | [], n, h => by cases n <;> simp at h
  | a :: l, 0, h => by
    rcases List.mem_cons.1 h with rfl | h
    · exact .inr ⟨a, List.mem_cons_self .., rfl⟩
    · exact .inl (List.mem_cons_of_mem _ h)
  | a :: l, n + 1, h => by
    rcases List.mem_cons.1 h with rfl | h
    · exact .inl (List.mem_cons_self ..)
    · rcases mem_modify h with h | ⟨y, hy, e⟩
      · exact .inl (List.mem_cons_of_mem _ h)
      · exact .inr ⟨y, List.mem_cons_of_mem _ hy, e⟩

theorem State.modField_sound {s : State} (h : s.Sound) (f : Nat) {g : FieldSt → FieldSt} (hg : ∀ x, x.Sound → (g x).Sound) :
    (s.modField f g).Sound := by
  refine sound_fields h _ (List.length_modify ..) ?_
  intro x hx
  rcases mem_modify hx with hx | ⟨y, hy, rfl⟩
  · exact h.2.2.1 x hx
  · exact hg y (h.2.2.1 y hy)

theorem sound_map {s : State} (h : s.Sound) {g : FieldSt → FieldSt} (hg : ∀ x, x.Sound → (g x).Sound) :
    ({ s with fields := s.fields.map g } : State).Sound := by
  refine sound_fields h _ (List.length_map ..) ?_
  intro x hx
  obtain ⟨y, hy, rfl⟩ := List.mem_map.1 hx
  exact hg y (h.2.2.1 y hy)

theorem State.modFields_sound {s : State} (h : s.Sound) {g : FieldSt → FieldSt} (hg : ∀ x, x.Sound → (g x).Sound) :
    (s.modFields g).Sound := sound_map h hg

theorem sound_zipMap {s : State} (h : s.Sound) {g : FieldSt × Nat → FieldSt} (hg : ∀ x f, x.Sound → (g (x, f)).Sound) :
    ({ s with fields := s.fields.zipIdx.map g } : State).Sound := by
  refine sound_fields h _ (by simp) ?_
  intro x hx
  obtain ⟨⟨y, k⟩, hy, rfl⟩ := List.mem_map.1 hx
  obtain ⟨_, hk, e⟩ := List.mem_zipIdx hy
  exact hg y k (h.2.2.1 y (e ▸ List.getElem_mem _))

/-- Every field changed, and parts beside the fields. -/
theorem sound_mk_map {x : State} (h : x.Sound) {g : FieldSt → FieldSt} (hg : ∀ y, y.Sound → (g y).Sound)
    {gran pkg clock power working inForce insts cmds xfers keys sas ikes images tx txq free pending} :
    (State.mk x.fuses gran pkg clock power working inForce x.ports insts cmds xfers keys sas ikes images x.runs (x.fields.map g) tx txq free
      pending).Sound := sound_map h hg

theorem sound_mk_zip {x : State} (h : x.Sound) {g : FieldSt × Nat → FieldSt} (hg : ∀ y f, y.Sound → (g (y, f)).Sound)
    {gran pkg clock power working inForce insts cmds xfers keys sas ikes images tx txq free pending} :
    (State.mk x.fuses gran pkg clock power working inForce x.ports insts cmds xfers keys sas ikes images x.runs (x.fields.zipIdx.map g) tx txq
      free pending).Sound := sound_zipMap h hg

/-! ### Furrows and threads -/

theorem field_furrows {x : FieldSt} (h : x.Sound) {us : List Furrow} (hl : us.length = x.furrows.length) (hu : ∀ u ∈ us, u.Sound) :
    ({ x with furrows := us } : FieldSt).Sound := ⟨hl.trans h.1, h.2.1, hu⟩

theorem furrows_map {x : FieldSt} (h : x.Sound) {g : Furrow → Furrow} (hg : ∀ u, u.Sound → (g u).Sound) :
    ({ x with furrows := x.furrows.map g } : FieldSt).Sound := by
  refine field_furrows h (List.length_map ..) ?_
  intro u hu
  obtain ⟨v, hv, rfl⟩ := List.mem_map.1 hu
  exact hg v (h.2.2 v hv)

theorem field_mk_map {x : FieldSt} (h : x.Sound) {g : Furrow → Furrow} (hg : ∀ u, u.Sound → (g u).Sound)
    {run lost cut mcheck gating gated testFailed setPoint fullPoint coreLow sysHeld links seed leaf kek slots nextUse descCache
        lastIndex uses lastSa saUses lastIke ikeUses scrubAt lastThread store openCopy patch faults ctxs ctxWait keyCache saKey whisk
        pages remap deadSpares withdrawn draining sparesEvent merge refreshDoubled refreshes trainedAt retrainDeferred sweep sweepAt
        alarm log ops padOverrun saves restores corrected temps outside thermal entered} :
    (FieldSt.mk
            run lost cut mcheck gating gated testFailed setPoint fullPoint coreLow sysHeld links seed leaf kek slots nextUse descCache
            lastIndex uses lastSa saUses lastIke ikeUses x.threads scrubAt lastThread store openCopy patch faults (x.furrows.map g) ctxs
            ctxWait keyCache saKey whisk pages remap deadSpares withdrawn draining sparesEvent merge refreshDoubled refreshes trainedAt
            retrainDeferred sweep sweepAt alarm log ops padOverrun saves restores corrected temps outside thermal entered).Sound := furrows_map h hg

theorem State.modFurrow_sound {s : State} (h : s.Sound) (u : FurrowRef) {g : Furrow → Furrow} (hg : ∀ x, x.Sound → (g x).Sound) :
    (s.modFurrow u g).Sound := by
  refine State.modField_sound h _ fun x hx => field_furrows hx (List.length_modify ..) ?_
  intro v hv
  rcases mem_modify hv with hv | ⟨w, hw, rfl⟩
  · exact hx.2.2 v hv
  · exact hg w (hx.2.2 w hw)

theorem State.modThread_sound {s : State} (h : s.Sound) (t : ThreadRef) (g : Thread → Thread) : (s.modThread t g).Sound :=
  State.modField_sound h _ fun _ hx => field_congr hx rfl (List.length_modify ..)

theorem State.furrow_sound {s : State} (h : s.Sound) (u : FurrowRef) : (s.furrow u).Sound := by
  unfold State.furrow State.field
  rw [List.getD_eq_getElem?_getD, List.getD_eq_getElem?_getD]
  have hx : (s.fields[u.field]?.getD { lost := true }).Sound := by
    cases hs : s.fields[u.field]? with
    | none => exact ⟨rfl, rfl, fun v hv => by
        rw [List.eq_of_mem_replicate hv]; exact furrow_default⟩
    | some x => exact h.2.2.1 x (List.mem_of_getElem? hs)
  cases hs : (s.fields[u.field]?.getD { lost := true }).furrows[u.furrow]? with
  | none => exact furrow_default
  | some v => exact hx.2.2 v (List.mem_of_getElem? hs)

/-! ### Runs -/

theorem sound_runs {s : State} (h : s.Sound) {rs : List Run} (hr : ∀ r ∈ rs, r.Sound) : ({ s with runs := rs } : State).Sound :=
  ⟨h.1, h.2.1, h.2.2.1, hr⟩

theorem runs_filter {s : State} (h : s.Sound) (p : Run → Bool) : ∀ r ∈ s.runs.filter p, r.Sound :=
  fun r hr => h.2.2.2 r (List.mem_filter.1 hr).1

theorem runs_append {s : State} (h : s.Sound) {r : Run} (hr : r.Sound) : ∀ x ∈ s.runs ++ [r], x.Sound := by
  intro x hx
  rcases List.mem_append.1 hx with hx | hx
  · exact h.2.2.2 x hx
  · rw [List.mem_singleton.1 hx]; exact hr

theorem State.modRun_sound {s : State} (h : s.Sound) (id : Nat) {g : Run → Run} (hg : ∀ r, r.Sound → (g r).Sound) : (s.modRun id g).Sound := by
  refine sound_runs h fun r hr => ?_
  obtain ⟨x, hx, rfl⟩ := List.mem_map.1 hr
  split
  · exact hg x (h.2.2.2 x hx)
  · exact h.2.2.2 x hx

theorem State.run?_sound {s : State} (h : s.Sound) {id : Nat} {r : Run} (e : s.run? id = some r) : r.Sound :=
  h.2.2.2 r (List.mem_of_find?_eq_some e)

theorem WMem.fill_wf : ∀ (ws : List Word24) {m : WMem} (_ : m.wf = true) (a : Nat), (WMem.fill m a ws).wf = true
  | [], _, h, _ => h
  | w :: ws, _, h, a => WMem.fill_wf ws (WMem.wf_write h a w) (a + 1)

/-! ### Ports and the rest -/

theorem sound_ports {s : State} (h : s.Sound) {ps : List Port} (hp : ps.length = s.ports.length) : ({ s with ports := ps } : State).Sound :=
  ⟨h.1, hp.trans h.2.1, h.2.2.1, h.2.2.2⟩

theorem State.modPort_sound {s : State} (h : s.Sound) (p : Nat) (g : Port → Port) : (s.modPort p g).Sound :=
  sound_ports h (List.length_modify ..)

theorem State.modPkg_sound {s : State} (h : s.Sound) (g : Pkg → Pkg) : (s.modPkg g).Sound := h

theorem State.modGran_sound {s : State} (h : s.Sound) (g : Granary → Granary) : (s.modGran g).Sound := h

theorem State.modInst_sound {s : State} (h : s.Sound) (i : Nat) (g : Inst → Inst) : (s.modInst i g).Sound := h

theorem State.modCmd_sound {s : State} (h : s.Sound) (i t : Nat) (g : Cmd → Cmd) : (s.modCmd i t g).Sound := h

theorem State.modKey_sound {s : State} (h : s.Sound) (k : Nat) (g : Key → Key) : (s.modKey k g).Sound := h

theorem State.fresh_sound {s : State} (h : s.Sound) (n : Nat) : (s.fresh n).2.Sound := h

/-! ### One Saivo instruction -/

/-- The furrow and the run an instruction works on keep their shape. -/
def Env.Sound (e : Env) : Prop := e.u.Sound ∧ e.r.Sound

/-- However an instruction ends, it leaves a furrow and a run of the right shape. -/
def Res.Sound : Res → Prop
  | .next e => e.Sound
  | .jump e _ => e.Sound
  | .fault _ _ _ e part => e.Sound ∧ ∀ p, part = some p → p.Sound
  | .quit _ => True
  | .barrier e => e.Sound
  | .halt e => e.Sound

theorem foldl_env {α : Type} {g : Env → α → Env} (l : List α) {e : Env} (he : e.Sound) (hg : ∀ e a, e.Sound → (g e a).Sound) :
    (l.foldl g e).Sound := by
  induction l generalizing e with
  | nil => exact he
  | cons a l ih => exact ih (hg e a he)

theorem res_next {e : Env} (h : e.Sound) : (Res.next e).Sound := h

theorem res_jump {e : Env} (h : e.Sound) (pc : Nat) : (Res.jump e pc).Sound := h

theorem res_halt {e : Env} (h : e.Sound) : (Res.halt e).Sound := h

theorem res_barrier {e : Env} (h : e.Sound) : (Res.barrier e).Sound := h

theorem res_quit (st : Status) : (Res.quit st).Sound := trivial

theorem res_fault {c i a : Nat} {e : Env} (h : e.Sound) : (Res.fault c i a e none).Sound := ⟨h, fun _ hp => nomatch hp⟩

/-! ### Folds -/

theorem foldl_sound {α : Type} {g : State → α → State} (l : List α) {s : State} (hs : s.Sound) (hg : ∀ s a, s.Sound → (g s a).Sound) :
    (l.foldl g s).Sound := by
  induction l generalizing s with
  | nil => exact hs
  | cons a l ih => exact ih (hg s a hs)

theorem foldl_sound_snd {α β : Type} {g : β × State → α → β × State} (l : List α) {p : β × State} (hs : p.2.Sound)
    (hg : ∀ p a, p.2.Sound → (g p a).2.Sound) : (l.foldl g p).2.Sound := by
  induction l generalizing p with
  | nil => exact hs
  | cons a l ih => exact ih (hg p a hs)

theorem foldl_sound_fst {α β : Type} {g : State × β → α → State × β} (l : List α) {p : State × β} (hs : p.1.Sound)
    (hg : ∀ p a, p.1.Sound → (g p a).1.Sound) : (l.foldl g p).1.Sound := by
  induction l generalizing p with
  | nil => exact hs
  | cons a l ih => exact ih (hg p a hs)

end Sys2Proof.Machine
end

