-- ==== Sys2Proof/Laws/SoundOps.lean ====
section
/-! SUPPORT. The operations of Ops keep the invariant State.Sound. -/
set_option Elab.async false
set_option linter.unusedTactic false
set_option linter.unreachableTactic false
namespace Sys2Proof.Machine

theorem State.raise_sound {s : State} (hs : s.Sound) (inst : Nat) (code : Nat) (data : Bytes) : (State.raise s inst code data).Sound := by
  unfold State.raise
  repeat' first | with_reducible apply State.modInst_sound | with_reducible assumption

theorem State.log_sound {s : State} (hs : s.Sound) (f : Nat) (island : Nat) (kind : Nat) (inst : Nat) (detail : Bytes) : (State.log s f island kind inst detail).Sound := by
  unfold State.log
  repeat' first
    | with_reducible apply State.modField_sound
    | with_reducible assumption
    | intro _
    | with_reducible exact field_mk (by assumption)

theorem State.countCorrected_sound {s : State} (hs : s.Sound) (f : Nat) : (State.countCorrected s f).Sound := by
  unfold State.countCorrected
  repeat' first
    | with_reducible apply State.modField_sound
    | with_reducible assumption
    | intro _
    | with_reducible exact field_mk (by assumption)

theorem State.stat_sound {s : State} (hs : s.Sound) (i : Nat) (g : Stats → Stats) : (State.stat s i g).Sound := by
  unfold State.stat
  repeat' first | with_reducible apply State.modInst_sound | with_reducible assumption

theorem FieldSt.putPage_sound {x : FieldSt} (hx : x.Sound) (p : Page) : (FieldSt.putPage x p).Sound := by
  unfold FieldSt.putPage
  repeat' first | with_reducible exact field_mk (by assumption)

theorem State.readPage_sound {s : State} (hs : s.Sound) (f : Nat) (p : Nat) : (State.readPage s f p).2.Sound := by
  unfold State.readPage
  repeat' first
    | with_reducible apply State.countCorrected_sound
    | with_reducible apply State.log_sound
    | with_reducible apply State.modField_sound
    | with_reducible apply FieldSt.putPage_sound
    | with_reducible assumption
    | split
    | intro _
    | dsimp only

theorem State.allocPages_sound {s : State} (hs : s.Sound) (f : Nat) (k : Nat) (region : Nat) (owner : Nat) : (State.allocPages s f k region owner).2.Sound := by
  unfold State.allocPages
  repeat' first
    | with_reducible apply State.modField_sound
    | with_reducible assumption
    | intro _
    | with_reducible exact field_mk (by assumption)

theorem State.allocRange_sound {s : State} (hs : s.Sound) (f : Nat) (k : Nat) (region : Nat) (owner : Nat) : (State.allocRange s f k region owner).2.Sound := by
  unfold State.allocRange
  repeat' first
    | with_reducible apply State.allocPages_sound
    | with_reducible apply State.modField_sound
    | with_reducible apply FieldSt.putPage_sound
    | with_reducible refine of_snd (by with_reducible assumption) ?_
    | with_reducible assumption
    | cases ‹(_, _) = (_, _)›
    | split
    | intro _

theorem State.withdraw_sound {s : State} (hs : s.Sound) (f : Nat) (ps : List Nat) : (State.withdraw s f ps).Sound := by
  unfold State.withdraw
  repeat' first
    | with_reducible apply State.modField_sound
    | with_reducible apply State.raise_sound
    | with_reducible assumption
    | split
    | intro _
    | with_reducible exact field_mk (by assumption)
    | dsimp only

theorem State.freePages_sound {s : State} (hs : s.Sound) (f : Nat) (ps : List Nat) : (State.freePages s f ps).Sound := by
  unfold State.freePages
  repeat' first
    | with_reducible apply State.withdraw_sound
    | with_reducible apply State.modField_sound
    | with_reducible assumption
    | intro _
    | with_reducible exact field_mk (by assumption)

theorem State.freeCache_sound {s : State} (hs : s.Sound) (k : Key) : (State.freeCache s k).Sound := by
  unfold State.freeCache
  repeat' first | with_reducible apply State.freePages_sound | with_reducible assumption

theorem State.quarantine_sound {s : State} (hs : s.Sound) (h : Nat) : (State.quarantine s h).Sound := by
  unfold State.quarantine
  repeat' first
    | with_reducible apply State.modKey_sound
    | with_reducible apply foldl_sound
    | with_reducible refine of_snd (by with_reducible assumption) ?_
    | with_reducible refine of_fst (by with_reducible assumption) ?_
    | with_reducible refine of_trd (by with_reducible assumption) ?_
    | with_reducible assumption
    | split
    | intro _
    | with_reducible exact field_mk (by assumption)
    | with_reducible exact sound_mk (by assumption)
    | dsimp only
    | (with_reducible apply sound_mk; first | split | with_reducible apply foldl_sound | with_reducible apply State.modKey_sound | with_reducible apply State.modField_sound | with_reducible apply State.modFields_sound | with_reducible apply State.modPkg_sound | with_reducible apply State.modInst_sound | with_reducible apply State.modCmd_sound)

theorem State.touchIke_sound {s : State} (hs : s.Sound) (c : Cmd) : (State.touchIke s c).Sound := by
  unfold State.touchIke
  repeat' first

    | with_reducible apply foldl_sound
    | with_reducible refine of_snd (by with_reducible assumption) ?_
    | with_reducible refine of_fst (by with_reducible assumption) ?_
    | with_reducible refine of_trd (by with_reducible assumption) ?_
    | with_reducible assumption
    | split
    | intro _
    | with_reducible exact field_mk (by assumption)
    | with_reducible exact sound_mk (by assumption)
    | dsimp only
    | (with_reducible apply sound_mk; first | split | with_reducible apply foldl_sound | with_reducible apply State.modField_sound | with_reducible apply State.modFields_sound | with_reducible apply State.modPkg_sound | with_reducible apply State.modInst_sound | with_reducible apply State.modCmd_sound)

end Sys2Proof.Machine
end

