-- ==== Sys2Proof/Laws/SoundFrames.lean ====
section
/-! SUPPORT. The operations of Frames keep the invariant State.Sound. -/
set_option Elab.async false
set_option linter.unusedTactic false
set_option linter.unreachableTactic false
namespace Sys2Proof.Machine

theorem State.bumpPn_sound {s : State} (hs : s.Sound) (p : Nat) (inst : Nat) : (State.bumpPn s p inst).Sound := by
  unfold State.bumpPn
  repeat' first
    | with_reducible apply State.modPort_sound
    | with_reducible apply State.raise_sound
    | with_reducible assumption
    | split
    | dsimp only

theorem State.emit_sound {s : State} (hs : s.Sound) (f : Frame) : (State.emit s f).Sound := by
  unfold State.emit
  repeat' first
    | with_reducible apply State.stat_sound
    | with_reducible assumption
    | split
    | with_reducible exact sound_mk (by assumption)
    | dsimp only
    | (with_reducible apply sound_mk; first | split | with_reducible apply foldl_sound | with_reducible apply State.stat_sound | with_reducible apply State.bumpPn_sound | with_reducible apply State.modField_sound | with_reducible apply State.modFields_sound | with_reducible apply State.modPkg_sound | with_reducible apply State.modInst_sound | with_reducible apply State.modCmd_sound)

theorem State.flushTx_sound {s : State} (hs : s.Sound) : (State.flushTx s).Sound := by
  unfold State.flushTx
  repeat' first
    | with_reducible apply State.emit_sound
    | with_reducible apply foldl_sound
    | with_reducible assumption
    | intro _
    | with_reducible exact sound_mk (by assumption)

theorem State.sendOne_sound {s : State} (hs : s.Sound) (p : Nat) (dst : Nat) (inst : Nat) (tci : Option Nat) (cause : Option Nat) (ty : Nat) (more : Bool) (tlen : Nat) (segIdx : Nat) (xfer : Nat) (payload : Bytes) : (State.sendOne s p dst inst tci cause ty more tlen segIdx xfer payload).Sound := by
  unfold State.sendOne
  repeat' first
    | with_reducible apply State.modInst_sound
    | with_reducible apply State.emit_sound
    | with_reducible apply foldl_sound
    | with_reducible refine of_snd (by with_reducible assumption) ?_
    | with_reducible refine of_fst (by with_reducible assumption) ?_
    | with_reducible refine of_trd (by with_reducible assumption) ?_
    | with_reducible assumption
    | split
    | intro _
    | with_reducible exact field_mk (by assumption)
    | with_reducible exact sound_mk (by assumption)
    | dsimp only
    | (with_reducible apply sound_mk; first | split | with_reducible apply foldl_sound | with_reducible apply State.modInst_sound | with_reducible apply State.emit_sound | with_reducible apply State.modField_sound | with_reducible apply State.modFields_sound | with_reducible apply State.modPkg_sound | with_reducible apply State.modInst_sound | with_reducible apply State.modCmd_sound)

theorem State.sendSegs_sound (p dst inst : Nat) (tci cause : Option Nat) (ty tlen xfer : Nat) :
    ∀ (bs : List Bytes) {s : State} (_ : s.Sound) (k : Nat), (s.sendSegs p dst inst tci cause ty tlen xfer k bs).Sound
  | [], _, h, _ => h
  | _ :: bs, _, h, k => State.sendSegs_sound p dst inst tci cause ty tlen xfer bs (State.sendOne_sound h ..) (k + 1)

theorem State.sendRecord_sound {s : State} (hs : s.Sound) (p dst inst : Nat) (tci cause : Option Nat) (ty : Nat) (payload : Bytes) :
    (s.sendRecord p dst inst tci cause ty payload).Sound := by
  unfold State.sendRecord
  split
  · exact State.sendOne_sound hs ..
  · exact State.sendSegs_sound _ _ _ _ _ _ _ _ _ (State.modInst_sound hs _ _) _

theorem State.countClass_sound {s : State} (hs : s.Sound) (i : Nat) (st : Status) : (State.countClass s i st).Sound := by
  unfold State.countClass
  repeat' first | with_reducible apply State.stat_sound | with_reducible assumption

theorem State.replyNow_sound {s : State} (hs : s.Sound) (inst : Nat) (ctx : Ctx) (op : Nat) (tag : Nat) (r : Reply) : (State.replyNow s inst ctx op tag r).Sound := by
  unfold State.replyNow
  repeat' first
    | with_reducible apply State.sendRecord_sound
    | with_reducible apply State.countClass_sound
    | with_reducible apply foldl_sound
    | with_reducible refine of_snd (by with_reducible assumption) ?_
    | with_reducible refine of_fst (by with_reducible assumption) ?_
    | with_reducible refine of_trd (by with_reducible assumption) ?_
    | with_reducible assumption
    | split
    | intro _
    | with_reducible exact field_mk (by assumption)
    | with_reducible exact sound_mk (by assumption)
    | dsimp only
    | (with_reducible apply sound_mk; first | split | with_reducible apply foldl_sound | with_reducible apply State.sendRecord_sound | with_reducible apply State.countClass_sound | with_reducible apply State.modField_sound | with_reducible apply State.modFields_sound | with_reducible apply State.modPkg_sound | with_reducible apply State.modInst_sound | with_reducible apply State.modCmd_sound)

theorem State.countTurned_sound {s : State} (hs : s.Sound) (inst : Nat) : (State.countTurned s inst).Sound := by
  unfold State.countTurned
  repeat' first | with_reducible apply State.stat_sound | with_reducible assumption

theorem State.frameStatus_sound {s : State} (hs : s.Sound) (inst : Nat) (ctx : Ctx) (st : Status) (seq : Nat) (xfer : Nat) : (State.frameStatus s inst ctx st seq xfer).Sound := by
  unfold State.frameStatus
  repeat' first
    | with_reducible apply State.sendRecord_sound
    | with_reducible apply State.countTurned_sound
    | with_reducible apply foldl_sound
    | with_reducible refine of_snd (by with_reducible assumption) ?_
    | with_reducible refine of_fst (by with_reducible assumption) ?_
    | with_reducible refine of_trd (by with_reducible assumption) ?_
    | with_reducible assumption
    | split
    | intro _
    | with_reducible exact field_mk (by assumption)
    | with_reducible exact sound_mk (by assumption)
    | dsimp only
    | (with_reducible apply sound_mk; first | split | with_reducible apply foldl_sound | with_reducible apply State.sendRecord_sound | with_reducible apply State.countTurned_sound | with_reducible apply State.modField_sound | with_reducible apply State.modFields_sound | with_reducible apply State.modPkg_sound | with_reducible apply State.modInst_sound | with_reducible apply State.modCmd_sound)

theorem State.sendCredit_sound {s : State} (hs : s.Sound) (inst : Nat) (p : Nat) (dst : Nat) (cause : Option Nat) (ack : Option Nat) : (State.sendCredit s inst p dst cause ack).Sound := by
  unfold State.sendCredit
  repeat' first
    | with_reducible apply State.sendOne_sound
    | with_reducible apply foldl_sound
    | with_reducible refine of_snd (by with_reducible assumption) ?_
    | with_reducible refine of_fst (by with_reducible assumption) ?_
    | with_reducible refine of_trd (by with_reducible assumption) ?_
    | with_reducible assumption
    | split
    | intro _
    | with_reducible exact field_mk (by assumption)
    | with_reducible exact sound_mk (by assumption)
    | dsimp only
    | (with_reducible apply sound_mk; first | split | with_reducible apply foldl_sound | with_reducible apply State.sendOne_sound | with_reducible apply State.modField_sound | with_reducible apply State.modFields_sound | with_reducible apply State.modPkg_sound | with_reducible apply State.modInst_sound | with_reducible apply State.modCmd_sound)

theorem State.creditUncaused_sound {s : State} (hs : s.Sound) (inst : Nat) : (State.creditUncaused s inst).Sound := by
  unfold State.creditUncaused
  repeat' first
    | with_reducible apply State.sendCredit_sound
    | with_reducible apply foldl_sound
    | with_reducible refine of_snd (by with_reducible assumption) ?_
    | with_reducible refine of_fst (by with_reducible assumption) ?_
    | with_reducible refine of_trd (by with_reducible assumption) ?_
    | with_reducible assumption
    | split
    | intro _
    | with_reducible exact field_mk (by assumption)
    | with_reducible exact sound_mk (by assumption)
    | dsimp only
    | (with_reducible apply sound_mk; first | split | with_reducible apply foldl_sound | with_reducible apply State.sendCredit_sound | with_reducible apply State.modField_sound | with_reducible apply State.modFields_sound | with_reducible apply State.modPkg_sound | with_reducible apply State.modInst_sound | with_reducible apply State.modCmd_sound)

theorem State.limitZero_sound {old : State} (hold : old.Sound) {s : State} (hs : s.Sound) : (State.limitZero old s).Sound := by
  unfold State.limitZero
  repeat' first | with_reducible apply State.creditUncaused_sound | with_reducible assumption | split

theorem State.eventPulse_sound {s : State} (hs : s.Sound) : (State.eventPulse s).Sound := by
  unfold State.eventPulse
  repeat' first | with_reducible assumption | split | with_reducible exact sound_mk (by assumption)

theorem State.eventSend_sound {s : State} (hs : s.Sound) (inst : Nat) : (State.eventSend s inst).Sound := by
  unfold State.eventSend
  repeat' first
    | with_reducible apply State.modInst_sound
    | with_reducible apply State.raise_sound
    | with_reducible apply State.sendRecord_sound
    | with_reducible apply State.eventPulse_sound
    | with_reducible apply foldl_sound
    | with_reducible refine of_snd (by with_reducible assumption) ?_
    | with_reducible refine of_fst (by with_reducible assumption) ?_
    | with_reducible refine of_trd (by with_reducible assumption) ?_
    | with_reducible assumption
    | split
    | intro _
    | with_reducible exact field_mk (by assumption)
    | with_reducible exact sound_mk (by assumption)
    | dsimp only
    | (with_reducible apply sound_mk; first | split | with_reducible apply foldl_sound | with_reducible apply State.modInst_sound | with_reducible apply State.raise_sound | with_reducible apply State.sendRecord_sound | with_reducible apply State.eventPulse_sound | with_reducible apply State.modField_sound | with_reducible apply State.modFields_sound | with_reducible apply State.modPkg_sound | with_reducible apply State.modInst_sound | with_reducible apply State.modCmd_sound)

end Sys2Proof.Machine
end

