-- ==== Sys2Proof/Laws/SoundBuffer.lean ====
section
/-! SUPPORT. The operations of Buffer keep the invariant State.Sound. -/
set_option Elab.async false
set_option linter.unusedTactic false
set_option linter.unreachableTactic false
namespace Sys2Proof.Machine

theorem State.drop_sound {s : State} (hs : s.Sound) (p : Nat) (g : Drops → Drops) : (State.drop s p g).Sound := by
  unfold State.drop
  repeat' first | with_reducible apply State.modPort_sound | with_reducible assumption

theorem State.settlePause_sound {s : State} (hs : s.Sound) : (State.settlePause s).Sound := by
  unfold State.settlePause
  repeat' first
    | with_reducible apply State.modPkg_sound
    | with_reducible apply foldl_sound
    | with_reducible refine of_snd (by with_reducible assumption) ?_
    | with_reducible refine of_fst (by with_reducible assumption) ?_
    | with_reducible refine of_trd (by with_reducible assumption) ?_
    | with_reducible assumption
    | split
    | intro _
    | with_reducible exact field_mk (by assumption)
    | with_reducible exact sound_mk (by assumption)
    | dsimp only
    | (with_reducible apply sound_mk; first | split | with_reducible apply foldl_sound | with_reducible apply State.modPkg_sound | with_reducible apply State.modField_sound | with_reducible apply State.modFields_sound | with_reducible apply State.modPkg_sound | with_reducible apply State.modInst_sound | with_reducible apply State.modCmd_sound)

theorem State.dropPackets_sound {s : State} (hs : s.Sound) : (State.dropPackets s).Sound := by
  unfold State.dropPackets
  repeat' first
    | with_reducible apply State.modPkg_sound
    | with_reducible apply State.drop_sound
    | with_reducible apply foldl_sound
    | with_reducible refine of_snd (by with_reducible assumption) ?_
    | with_reducible refine of_fst (by with_reducible assumption) ?_
    | with_reducible refine of_trd (by with_reducible assumption) ?_
    | with_reducible assumption
    | split
    | intro _
    | with_reducible exact field_mk (by assumption)
    | with_reducible exact sound_mk (by assumption)
    | dsimp only
    | (with_reducible apply sound_mk; first | split | with_reducible apply foldl_sound | with_reducible apply State.modPkg_sound | with_reducible apply State.drop_sound | with_reducible apply State.modField_sound | with_reducible apply State.modFields_sound | with_reducible apply State.modPkg_sound | with_reducible apply State.modInst_sound | with_reducible apply State.modCmd_sound)

end Sys2Proof.Machine
end

