-- ==== Sys2Proof/Laws/SoundAlarm.lean ====
section
/-! SUPPORT. The operations of Alarm keep the invariant State.Sound. -/
set_option Elab.async false
set_option linter.unusedTactic false
set_option linter.unreachableTactic false
namespace Sys2Proof.Machine

theorem Furrow.stop_sound {u : Furrow} (_ : u.Sound) : u.stop.Sound := rfl

theorem State.chargeTime_sound {s : State} (hs : s.Sound) (i f n : Nat) : (s.chargeTime i f n).Sound := State.modInst_sound hs ..

theorem State.chargeRun_sound {s : State} (hs : s.Sound) (r : Run) : (s.chargeRun r).Sound := State.chargeTime_sound hs ..

theorem State.limitPoints_sound {s : State} (hs : s.Sound) : (State.limitPoints s).Sound := by
  unfold State.limitPoints
  repeat' first
    | with_reducible apply sound_mk_zip
    | with_reducible assumption
    | cases ‹(_, _) = (_, _)›
    | split
    | intro _
    | with_reducible exact field_mk (by assumption)

theorem State.endRuns_sound {s : State} (hs : s.Sound) (i t : Nat) : (s.endRuns i t).Sound := by
  have h := foldl_sound (g := State.chargeRun) (s.runs.filter fun r => r.inst == i && r.tag == t) hs
    fun _ r h => State.chargeRun_sound h r
  refine State.limitPoints_sound (sound_runs (sound_map h fun x hx => furrows_map hx fun u hu => ?_) (runs_filter h _))
  split
  · exact Furrow.stop_sound hu
  · exact hu

theorem State.freeEngines_sound {s : State} (hs : s.Sound) (i t : Nat) : (s.freeEngines i t).Sound :=
  State.modFields_sound hs fun _ hx => field_congr hx rfl (List.length_map ..)

theorem State.stopAdmission_sound {s : State} (hs : s.Sound) (a : AdmStop) : (State.stopAdmission s a).Sound := by
  unfold State.stopAdmission
  repeat' first
    | with_reducible apply State.modPkg_sound
    | with_reducible apply foldl_sound
    | with_reducible refine of_snd (by with_reducible assumption) ?_
    | with_reducible refine of_fst (by with_reducible assumption) ?_
    | with_reducible refine of_trd (by with_reducible assumption) ?_
    | with_reducible assumption
    | split
    | intro _
    | with_reducible exact field_mk (by assumption)
    | with_reducible exact sound_mk (by assumption)
    | with_reducible exact sound_zipMap (by assumption) fun _ _ h => field_mk h
    | with_reducible exact sound_runs (by assumption) (runs_filter (by assumption) _)
    | dsimp only
    | (with_reducible apply field_mk; first | split | with_reducible assumption)
    | (with_reducible apply sound_mk; first | split | with_reducible apply foldl_sound | with_reducible apply State.modPkg_sound | with_reducible apply State.modField_sound | with_reducible apply State.modFields_sound | with_reducible apply State.modPkg_sound | with_reducible apply State.modInst_sound | with_reducible apply State.modCmd_sound)

theorem State.admitAgain_sound {s : State} (hs : s.Sound) (a : AdmStop) : (State.admitAgain s a).Sound := by
  unfold State.admitAgain
  repeat' first
    | with_reducible apply State.modPkg_sound
    | with_reducible apply foldl_sound
    | with_reducible refine of_snd (by with_reducible assumption) ?_
    | with_reducible refine of_fst (by with_reducible assumption) ?_
    | with_reducible refine of_trd (by with_reducible assumption) ?_
    | with_reducible assumption
    | split
    | intro _
    | with_reducible exact field_mk (by assumption)
    | with_reducible exact sound_mk (by assumption)
    | with_reducible exact sound_zipMap (by assumption) fun _ _ h => field_mk h
    | with_reducible exact sound_runs (by assumption) (runs_filter (by assumption) _)
    | dsimp only
    | (with_reducible apply field_mk; first | split | with_reducible assumption)
    | (with_reducible apply sound_mk; first | split | with_reducible apply foldl_sound | with_reducible apply State.modPkg_sound | with_reducible apply State.modField_sound | with_reducible apply State.modFields_sound | with_reducible apply State.modPkg_sound | with_reducible apply State.modInst_sound | with_reducible apply State.modCmd_sound)

theorem State.unblock_sound {s : State} (hs : s.Sound) (c : Cmd) (st : Status) : (State.unblock s c st).Sound := by
  unfold State.unblock
  repeat' first
    | with_reducible apply State.admitAgain_sound
    | with_reducible apply State.modInst_sound
    | with_reducible assumption
    | split

theorem State.wakeBehind_sound {s : State} (hs : s.Sound) (c : Cmd) : (State.wakeBehind s c).Sound := by
  unfold State.wakeBehind
  repeat' first | with_reducible assumption | split | with_reducible exact sound_mk (by assumption)

theorem State.freeImages_sound {s : State} (hs : s.Sound) (c : Cmd) : (s.freeImages c).Sound :=
  foldl_sound _ hs fun _ _ h => State.freePages_sound h ..

theorem State.freeDead_sound {s : State} (hs : s.Sound) : s.freeDead.Sound := State.modFields_sound hs fun _ hx => field_mk hx

theorem FieldSt.unseat_sound {x : FieldSt} (hx : x.Sound) (index : Nat) (hs : List (Nat × Nat)) : (FieldSt.unseat x index hs).Sound := by
  unfold FieldSt.unseat
  repeat' first

    | with_reducible apply foldl_sound
    | with_reducible refine of_snd (by with_reducible assumption) ?_
    | with_reducible refine of_fst (by with_reducible assumption) ?_
    | with_reducible refine of_trd (by with_reducible assumption) ?_
    | with_reducible assumption
    | split
    | intro _
    | with_reducible exact field_mk (by assumption)
    | with_reducible exact sound_mk (by assumption)
    | with_reducible exact sound_zipMap (by assumption) fun _ _ h => field_mk h
    | with_reducible exact sound_runs (by assumption) (runs_filter (by assumption) _)
    | dsimp only
    | (with_reducible apply field_mk; first | split | with_reducible assumption)
    | (with_reducible apply sound_mk; first | split | with_reducible apply foldl_sound | with_reducible apply State.modField_sound | with_reducible apply State.modFields_sound | with_reducible apply State.modPkg_sound | with_reducible apply State.modInst_sound | with_reducible apply State.modCmd_sound)

theorem State.unseat_sound {s : State} (hs : s.Sound) (index : Nat) : (s.unseat index).Sound :=
  sound_zipMap hs fun _ _ h => field_mk h

theorem State.freeDrained_sound {s : State} (hs : s.Sound) : (State.freeDrained s).Sound := by
  unfold State.freeDrained
  repeat' first
    | with_reducible apply foldl_sound
    | with_reducible apply State.modField_sound
    | with_reducible apply State.freePages_sound
    | with_reducible assumption
    | intro _
    | with_reducible exact field_mk (by assumption)

theorem State.freeStage_sound {s : State} (hs : s.Sound) : (State.freeStage s).Sound := by
  unfold State.freeStage
  exact foldl_sound _ hs fun s f h => State.modField_sound (State.freePages_sound h ..) f fun x hx => field_mk hx

theorem State.setDone_sound {s : State} (hs : s.Sound) (i : Nat) (t : Nat) (r : Reply) : (State.setDone s i t r).Sound := by
  unfold State.setDone
  repeat' first
    | with_reducible apply State.modField_sound
    | with_reducible apply State.modCmd_sound
    | with_reducible apply State.touchIke_sound
    | with_reducible apply State.endRuns_sound
    | with_reducible apply State.freeEngines_sound
    | with_reducible apply State.unblock_sound
    | with_reducible apply State.wakeBehind_sound
    | with_reducible apply State.freeImages_sound
    | with_reducible apply State.freeDead_sound
    | with_reducible apply State.freeDrained_sound
    | with_reducible apply State.freeStage_sound
    | with_reducible apply foldl_sound
    | with_reducible refine of_snd (by with_reducible assumption) ?_
    | with_reducible refine of_fst (by with_reducible assumption) ?_
    | with_reducible refine of_trd (by with_reducible assumption) ?_
    | with_reducible assumption
    | split
    | intro _
    | with_reducible exact field_mk (by assumption)
    | with_reducible exact sound_mk (by assumption)
    | with_reducible exact sound_zipMap (by assumption) fun _ _ h => field_mk h
    | with_reducible exact sound_runs (by assumption) (runs_filter (by assumption) _)
    | dsimp only
    | (with_reducible apply field_mk; first | split | with_reducible assumption)
    | (with_reducible apply sound_mk; first | split | with_reducible apply foldl_sound | with_reducible apply State.modField_sound | with_reducible apply State.modCmd_sound | with_reducible apply State.touchIke_sound | with_reducible apply State.endRuns_sound | with_reducible apply State.freeEngines_sound | with_reducible apply State.unblock_sound | with_reducible apply State.wakeBehind_sound | with_reducible apply State.freeImages_sound | with_reducible apply State.freeDead_sound | with_reducible apply State.freeDrained_sound | with_reducible apply State.freeStage_sound | with_reducible apply State.modField_sound | with_reducible apply State.modFields_sound | with_reducible apply State.modPkg_sound | with_reducible apply State.modInst_sound | with_reducible apply State.modCmd_sound)

theorem State.endAll_sound {s : State} (hs : s.Sound) (cs : List Cmd) (st : Status) : (State.endAll s cs st).Sound := by
  unfold State.endAll
  repeat' first
    | with_reducible apply State.setDone_sound
    | with_reducible apply foldl_sound
    | with_reducible assumption
    | intro _

theorem FieldSt.zeroKeys_sound {x : FieldSt} (hx : x.Sound) : (FieldSt.zeroKeys x).Sound := by
  unfold FieldSt.zeroKeys
  repeat' first | with_reducible exact field_mk (by assumption)

theorem FieldSt.zeroRest_sound {x : FieldSt} (_ : x.Sound) : x.zeroRest.Sound :=
  ⟨rfl, rfl, fun _ hu => List.eq_of_mem_replicate hu ▸ furrow_default⟩

theorem State.zeroSecy_sound {s : State} (hs : s.Sound) (f : Nat) : (State.zeroSecy s f).Sound := by
  unfold State.zeroSecy
  repeat' first | with_reducible apply State.modPort_sound | with_reducible assumption

theorem State.dropHeld_sound {s : State} (hs : s.Sound) (f : Nat) : (State.dropHeld s f).Sound := by
  unfold State.dropHeld
  repeat' first

    | with_reducible apply foldl_sound
    | with_reducible refine of_snd (by with_reducible assumption) ?_
    | with_reducible refine of_fst (by with_reducible assumption) ?_
    | with_reducible refine of_trd (by with_reducible assumption) ?_
    | with_reducible assumption
    | split
    | intro _
    | with_reducible exact field_mk (by assumption)
    | with_reducible exact sound_mk (by assumption)
    | with_reducible exact sound_zipMap (by assumption) fun _ _ h => field_mk h
    | with_reducible exact sound_runs (by assumption) (runs_filter (by assumption) _)
    | dsimp only
    | (with_reducible apply field_mk; first | split | with_reducible assumption)
    | (with_reducible apply sound_mk; first | split | with_reducible apply foldl_sound | with_reducible apply State.modField_sound | with_reducible apply State.modFields_sound | with_reducible apply State.modPkg_sound | with_reducible apply State.modInst_sound | with_reducible apply State.modCmd_sound)

theorem State.zeroise_sound {s : State} (hs : s.Sound) (f : Nat) : (State.zeroise s f).Sound := by
  unfold State.zeroise
  repeat' first
    | with_reducible apply State.modField_sound
    | with_reducible apply FieldSt.zeroKeys_sound
    | with_reducible apply FieldSt.zeroRest_sound
    | with_reducible apply State.zeroSecy_sound
    | with_reducible apply State.dropHeld_sound
    | with_reducible apply foldl_sound
    | with_reducible refine of_snd (by with_reducible assumption) ?_
    | with_reducible refine of_fst (by with_reducible assumption) ?_
    | with_reducible refine of_trd (by with_reducible assumption) ?_
    | with_reducible assumption
    | split
    | intro _
    | with_reducible exact field_mk (by assumption)
    | with_reducible exact sound_mk (by assumption)
    | with_reducible exact sound_zipMap (by assumption) fun _ _ h => field_mk h
    | with_reducible exact sound_runs (by assumption) (runs_filter (by assumption) _)
    | dsimp only
    | (with_reducible apply field_mk; first | split | with_reducible apply FieldSt.zeroKeys_sound | with_reducible apply FieldSt.zeroRest_sound)
    | (with_reducible apply sound_mk; first | split | with_reducible apply foldl_sound | with_reducible apply State.modField_sound | with_reducible apply FieldSt.zeroKeys_sound | with_reducible apply FieldSt.zeroRest_sound | with_reducible apply State.zeroSecy_sound | with_reducible apply State.dropHeld_sound | with_reducible apply State.modField_sound | with_reducible apply State.modFields_sound | with_reducible apply State.modPkg_sound | with_reducible apply State.modInst_sound | with_reducible apply State.modCmd_sound)

theorem State.portDown_sound {s : State} (hs : s.Sound) (p : Nat) : (State.portDown s p).Sound := by
  unfold State.portDown
  repeat' first | with_reducible apply State.modPort_sound | with_reducible assumption

theorem State.dropLanes_sound {s : State} (hs : s.Sound) (f : Nat) : (State.dropLanes s f).Sound := by
  unfold State.dropLanes
  repeat' first
    | with_reducible apply State.modPort_sound
    | with_reducible apply State.portDown_sound
    | with_reducible assumption
    | split
    | dsimp only

theorem State.syncAlert_sound {s : State} (hs : s.Sound) : (State.syncAlert s).Sound := by
  unfold State.syncAlert
  repeat' first | with_reducible apply State.modPkg_sound | with_reducible assumption

theorem State.packageLock_sound {s : State} (hs : s.Sound) : (State.packageLock s).Sound := by
  unfold State.packageLock
  repeat' first
    | with_reducible apply State.modPkg_sound
    | with_reducible apply State.settlePause_sound
    | with_reducible apply State.dropPackets_sound
    | with_reducible apply foldl_sound
    | with_reducible refine of_snd (by with_reducible assumption) ?_
    | with_reducible refine of_fst (by with_reducible assumption) ?_
    | with_reducible refine of_trd (by with_reducible assumption) ?_
    | with_reducible assumption
    | split
    | intro _
    | with_reducible exact field_mk (by assumption)
    | with_reducible exact sound_mk (by assumption)
    | with_reducible exact sound_zipMap (by assumption) fun _ _ h => field_mk h
    | with_reducible exact sound_runs (by assumption) (runs_filter (by assumption) _)
    | dsimp only
    | (with_reducible apply field_mk; first | split | with_reducible assumption)
    | (with_reducible apply sound_mk; first | split | with_reducible apply foldl_sound | with_reducible apply State.modPkg_sound | with_reducible apply State.settlePause_sound | with_reducible apply State.dropPackets_sound | with_reducible apply State.modField_sound | with_reducible apply State.modFields_sound | with_reducible apply State.modPkg_sound | with_reducible apply State.modInst_sound | with_reducible apply State.modCmd_sound)

theorem State.noHeadland_sound {s : State} (hs : s.Sound) : s.noHeadland.Sound := by
  unfold State.noHeadland
  have h : (s.fieldNums.foldl (fun s f => if (s.field f).lost then s else s.zeroise f) s.dropPackets).Sound :=
    foldl_sound _ (State.dropPackets_sound hs) fun s f h => by
      split
      · exact h
      · exact State.zeroise_sound h f
  have h := State.modPort_sound (State.modPort_sound (State.portDown_sound (State.portDown_sound h 0) 1) 0
    fun p => { p with form := none, bootstrap := false }) 1 fun p => { p with form := none, bootstrap := false }
  refine State.syncAlert_sound (State.modPkg_sound ?_ _)
  exact sound_runs (rs := []) h fun _ hr => nomatch hr

theorem State.headlandGone_sound {s : State} (hs : s.Sound) : (State.headlandGone s).Sound := by
  unfold State.headlandGone
  repeat' first
    | with_reducible apply State.noHeadland_sound
    | with_reducible apply State.modPkg_sound
    | with_reducible apply State.portDown_sound
    | with_reducible assumption
    | split

theorem State.isolate_sound {s : State} (hs : s.Sound) (f : Nat) : (State.isolate s f).Sound := by
  unfold State.isolate
  repeat' first
    | with_reducible apply State.modField_sound
    | with_reducible apply State.raise_sound
    | with_reducible apply State.endAll_sound
    | with_reducible apply State.zeroise_sound
    | with_reducible apply State.dropLanes_sound
    | with_reducible apply State.syncAlert_sound
    | with_reducible apply State.noHeadland_sound
    | with_reducible apply foldl_sound
    | with_reducible refine of_snd (by with_reducible assumption) ?_
    | with_reducible refine of_fst (by with_reducible assumption) ?_
    | with_reducible refine of_trd (by with_reducible assumption) ?_
    | with_reducible assumption
    | split
    | intro _
    | with_reducible exact field_mk (by assumption)
    | with_reducible exact sound_mk (by assumption)
    | with_reducible exact sound_zipMap (by assumption) fun _ _ h => field_mk h
    | with_reducible exact sound_runs (by assumption) (runs_filter (by assumption) _)
    | dsimp only
    | (with_reducible apply field_mk; first | split | with_reducible assumption)
    | (with_reducible apply sound_mk; first | split | with_reducible apply foldl_sound | with_reducible apply State.modField_sound | with_reducible apply State.raise_sound | with_reducible apply State.endAll_sound | with_reducible apply State.zeroise_sound | with_reducible apply State.dropLanes_sound | with_reducible apply State.syncAlert_sound | with_reducible apply State.noHeadland_sound | with_reducible apply State.modField_sound | with_reducible apply State.modFields_sound | with_reducible apply State.modPkg_sound | with_reducible apply State.modInst_sound | with_reducible apply State.modCmd_sound)

theorem State.isolateCut_sound {s : State} (hs : s.Sound) : (State.isolateCut s).Sound := by
  unfold State.isolateCut
  repeat' first
    | with_reducible apply State.noHeadland_sound
    | with_reducible apply State.isolate_sound
    | with_reducible apply foldl_sound
    | with_reducible assumption
    | split
    | intro _

theorem State.fieldGone_sound {s : State} (hs : s.Sound) (f : Nat) (lostEv : Bool) : (State.fieldGone s f lostEv).Sound := by
  unfold State.fieldGone
  repeat' first
    | with_reducible apply State.dropLanes_sound
    | with_reducible apply State.raise_sound
    | with_reducible apply State.headlandGone_sound
    | with_reducible apply State.noHeadland_sound
    | with_reducible apply State.syncAlert_sound
    | with_reducible apply State.isolateCut_sound
    | with_reducible assumption
    | split

theorem State.alarmField_sound {s : State} (hs : s.Sound) (f : Nat) (cls : Nat) (island : Nat) (detail : Nat) (source : Nat) : (State.alarmField s f cls island detail source).Sound := by
  unfold State.alarmField
  repeat' first
    | with_reducible apply State.modField_sound
    | with_reducible apply State.log_sound
    | with_reducible apply State.raise_sound
    | with_reducible apply State.endAll_sound
    | with_reducible apply State.zeroise_sound
    | with_reducible assumption
    | split
    | intro _
    | with_reducible exact field_mk (by assumption)
    | dsimp only

theorem State.alarm_sound {s : State} (hs : s.Sound) (f : Nat) (cls : Nat) (island : Nat) (detail : Nat) : (State.alarm s f cls island detail).Sound := by
  unfold State.alarm
  repeat' first
    | with_reducible apply State.alarmField_sound
    | with_reducible apply State.syncAlert_sound
    | with_reducible apply State.modPkg_sound
    | with_reducible apply State.packageLock_sound
    | with_reducible apply State.fieldGone_sound
    | with_reducible assumption
    | split
    | dsimp only

theorem State.countFault_sound {s : State} (hs : s.Sound) (f : Nat) : (State.countFault s f).Sound := by
  unfold State.countFault
  repeat' first
    | with_reducible apply State.modField_sound
    | with_reducible apply State.alarm_sound
    | with_reducible assumption
    | split
    | intro _
    | with_reducible exact field_mk (by assumption)
    | dsimp only

theorem State.complete_sound {s : State} (hs : s.Sound) (i : Nat) (t : Nat) (r : Reply) (twin : optParam Bool false) : (State.complete s i t r twin).Sound := by
  unfold State.complete
  repeat' first
    | with_reducible apply State.setDone_sound
    | with_reducible apply State.log_sound
    | with_reducible apply State.countFault_sound
    | with_reducible assumption
    | split

theorem State.loseField_sound {s : State} (hs : s.Sound) (f : Nat) : (State.loseField s f).Sound := by
  unfold State.loseField
  repeat' first
    | with_reducible apply State.modField_sound
    | with_reducible apply State.endAll_sound
    | with_reducible apply FieldSt.zeroKeys_sound
    | with_reducible apply FieldSt.zeroRest_sound
    | with_reducible apply State.dropHeld_sound
    | with_reducible apply State.fieldGone_sound
    | with_reducible apply foldl_sound
    | with_reducible refine of_snd (by with_reducible assumption) ?_
    | with_reducible refine of_fst (by with_reducible assumption) ?_
    | with_reducible refine of_trd (by with_reducible assumption) ?_
    | with_reducible assumption
    | split
    | intro _
    | with_reducible exact field_mk (by assumption)
    | with_reducible exact sound_mk (by assumption)
    | with_reducible exact sound_zipMap (by assumption) fun _ _ h => field_mk h
    | with_reducible exact sound_runs (by assumption) (runs_filter (by assumption) _)
    | dsimp only
    | (with_reducible apply field_mk; first | split | with_reducible apply FieldSt.zeroKeys_sound | with_reducible apply FieldSt.zeroRest_sound)
    | (with_reducible apply sound_mk; first | split | with_reducible apply foldl_sound | with_reducible apply State.modField_sound | with_reducible apply State.endAll_sound | with_reducible apply FieldSt.zeroKeys_sound | with_reducible apply FieldSt.zeroRest_sound | with_reducible apply State.dropHeld_sound | with_reducible apply State.fieldGone_sound | with_reducible apply State.modField_sound | with_reducible apply State.modFields_sound | with_reducible apply State.modPkg_sound | with_reducible apply State.modInst_sound | with_reducible apply State.modCmd_sound)

end Sys2Proof.Machine
end

