-- ==== Sys2Proof/Laws/SoundSteep.lean ====
section
/-! SUPPORT. The operations of Steep keep the invariant State.Sound. -/
set_option Elab.async false
set_option linter.unusedTactic false
set_option linter.unreachableTactic false
namespace Sys2Proof.Machine

theorem State.steep_sound {s : State} (hs : s.Sound) (f n k : Nat) : (State.steep s f n k).2.Sound := by
  unfold State.steep
  repeat' first
    | with_reducible apply State.modField_sound
    | with_reducible apply State.fresh_sound
    | with_reducible assumption
    | split
    | intro _
    | with_reducible exact field_mk (by assumption)

theorem FieldSt.instantiate_sound {x : FieldSt} (hx : x.Sound) : (FieldSt.instantiate x).Sound := by
  unfold FieldSt.instantiate
  repeat' first

    | with_reducible apply foldl_sound
    | with_reducible refine of_snd (by with_reducible assumption) ?_
    | with_reducible refine of_fst (by with_reducible assumption) ?_
    | with_reducible refine of_trd (by with_reducible assumption) ?_
    | with_reducible assumption
    | split
    | intro _
    | with_reducible exact field_mk (by assumption)
    | with_reducible exact sound_mk (by assumption)
    | (with_reducible refine field_mk_map (by assumption) ?_; intro _ h; exact furrow_mk h)
    | with_reducible exact sound_zipMap (by assumption) fun _ _ h => field_mk h
    | with_reducible exact sound_runs (by assumption) (runs_filter (by assumption) _)
    | dsimp only
    | (with_reducible apply field_mk; first | split | with_reducible assumption)
    | (with_reducible apply sound_mk; first | split | with_reducible apply foldl_sound | with_reducible apply State.modField_sound | with_reducible apply State.modFields_sound | with_reducible apply State.modPkg_sound | with_reducible apply State.modInst_sound | with_reducible apply State.modCmd_sound)

theorem State.nextPlace_sound {s : State} (hs : s.Sound) : (State.nextPlace s).2.Sound := by
  unfold State.nextPlace
  repeat' first
    | with_reducible apply State.modPkg_sound
    | with_reducible apply foldl_sound
    | with_reducible refine of_snd (by with_reducible assumption) ?_
    | with_reducible refine of_fst (by with_reducible assumption) ?_
    | with_reducible refine of_trd (by with_reducible assumption) ?_
    | with_reducible assumption
    | split
    | intro _
    | with_reducible exact field_mk (by assumption)
    | with_reducible exact sound_mk (by assumption)
    | (with_reducible refine field_mk_map (by assumption) ?_; intro _ h; exact furrow_mk h)
    | with_reducible exact sound_zipMap (by assumption) fun _ _ h => field_mk h
    | with_reducible exact sound_runs (by assumption) (runs_filter (by assumption) _)
    | dsimp only
    | (with_reducible apply field_mk; first | split | with_reducible assumption)
    | (with_reducible apply sound_mk; first | split | with_reducible apply foldl_sound | with_reducible apply State.modPkg_sound | with_reducible apply State.modField_sound | with_reducible apply State.modFields_sound | with_reducible apply State.modPkg_sound | with_reducible apply State.modInst_sound | with_reducible apply State.modCmd_sound)

theorem State.waitForPool_sound {s : State} (hs : s.Sound) (c : Cmd) : (State.waitForPool s c).Sound := by
  unfold State.waitForPool
  repeat' first
    | with_reducible apply State.modCmd_sound
    | with_reducible apply State.nextPlace_sound
    | with_reducible apply foldl_sound
    | with_reducible refine of_snd (by with_reducible assumption) ?_
    | with_reducible refine of_fst (by with_reducible assumption) ?_
    | with_reducible refine of_trd (by with_reducible assumption) ?_
    | with_reducible assumption
    | split
    | intro _
    | with_reducible exact field_mk (by assumption)
    | with_reducible exact sound_mk (by assumption)
    | (with_reducible refine field_mk_map (by assumption) ?_; intro _ h; exact furrow_mk h)
    | with_reducible exact sound_zipMap (by assumption) fun _ _ h => field_mk h
    | with_reducible exact sound_runs (by assumption) (runs_filter (by assumption) _)
    | dsimp only
    | (with_reducible apply field_mk; first | split | with_reducible assumption)
    | (with_reducible apply sound_mk; first | split | with_reducible apply foldl_sound | with_reducible apply State.modCmd_sound | with_reducible apply State.nextPlace_sound | with_reducible apply State.modField_sound | with_reducible apply State.modFields_sound | with_reducible apply State.modPkg_sound | with_reducible apply State.modInst_sound | with_reducible apply State.modCmd_sound)

end Sys2Proof.Machine
end

