-- ==== Sys2Proof/Laws/SoundContexts.lean ====
section
/-! SUPPORT. The operations of Contexts keep the invariant State.Sound. -/
set_option Elab.async false
set_option linter.unusedTactic false
set_option linter.unreachableTactic false
namespace Sys2Proof.Machine

theorem FieldSt.modCtx_sound {x : FieldSt} (hx : x.Sound) (id : Nat) (g : WCtx → WCtx) : (FieldSt.modCtx x id g).Sound := by
  unfold FieldSt.modCtx
  repeat' first | with_reducible exact field_mk (by assumption)

theorem FieldSt.leaveQueue_sound {x : FieldSt} (h : x.Sound) (i t : Nat) : (x.leaveQueue i t).Sound := field_mk h

theorem State.queueFor_sound {s : State} (hs : s.Sound) (f : Nat) (c : Cmd) : (State.queueFor s f c).Sound := by
  unfold State.queueFor
  repeat' first
    | with_reducible apply State.modField_sound
    | with_reducible apply State.modCmd_sound
    | with_reducible apply foldl_sound
    | with_reducible refine of_snd (by with_reducible assumption) ?_
    | with_reducible refine of_fst (by with_reducible assumption) ?_
    | with_reducible refine of_trd (by with_reducible assumption) ?_
    | with_reducible assumption
    | split
    | intro _
    | with_reducible exact field_mk (by assumption)
    | with_reducible exact sound_mk (by assumption)
    | (with_reducible refine field_mk_map (by assumption) ?_; intro _ h; exact furrow_mk h)
    | with_reducible exact sound_zipMap (by assumption) fun _ _ h => field_mk h
    | with_reducible exact sound_runs (by assumption) (runs_filter (by assumption) _)
    | dsimp only
    | (with_reducible apply field_mk; first | split | with_reducible assumption)
    | (with_reducible apply sound_mk; first | split | with_reducible apply foldl_sound | with_reducible apply State.modField_sound | with_reducible apply State.modCmd_sound | with_reducible apply State.modField_sound | with_reducible apply State.modFields_sound | with_reducible apply State.modPkg_sound | with_reducible apply State.modInst_sound | with_reducible apply State.modCmd_sound)

theorem State.stamp_sound {s : State} (hs : s.Sound) : (State.stamp s).2.Sound := by
  unfold State.stamp
  repeat' first | with_reducible apply State.modPkg_sound | with_reducible assumption

theorem FieldSt.askImage_sound {x : FieldSt} (hx : x.Sound) (w : WCtx) : (FieldSt.askImage x w).Sound := by
  unfold FieldSt.askImage
  repeat' first

    | with_reducible apply foldl_sound
    | with_reducible refine of_snd (by with_reducible assumption) ?_
    | with_reducible refine of_fst (by with_reducible assumption) ?_
    | with_reducible refine of_trd (by with_reducible assumption) ?_
    | with_reducible assumption
    | split
    | intro _
    | with_reducible exact field_mk (by assumption)
    | with_reducible exact sound_mk (by assumption)
    | (with_reducible refine field_mk_map (by assumption) ?_; intro _ h; exact furrow_mk h)
    | with_reducible exact sound_zipMap (by assumption) fun _ _ h => field_mk h
    | with_reducible exact sound_runs (by assumption) (runs_filter (by assumption) _)
    | dsimp only
    | (with_reducible apply field_mk; first | split | with_reducible assumption)
    | (with_reducible apply sound_mk; first | split | with_reducible apply foldl_sound | with_reducible apply State.modField_sound | with_reducible apply State.modFields_sound | with_reducible apply State.modPkg_sound | with_reducible apply State.modInst_sound | with_reducible apply State.modCmd_sound)

theorem State.startSave_sound {s : State} (hs : s.Sound) (f : Nat) : (State.startSave s f).Sound := by
  unfold State.startSave
  repeat' first
    | with_reducible apply State.modField_sound
    | with_reducible apply FieldSt.modCtx_sound
    | with_reducible apply FieldSt.askImage_sound
    | with_reducible apply foldl_sound
    | with_reducible refine of_snd (by with_reducible assumption) ?_
    | with_reducible refine of_fst (by with_reducible assumption) ?_
    | with_reducible refine of_trd (by with_reducible assumption) ?_
    | with_reducible assumption
    | split
    | intro _
    | with_reducible exact field_mk (by assumption)
    | with_reducible exact sound_mk (by assumption)
    | (with_reducible refine field_mk_map (by assumption) ?_; intro _ h; exact furrow_mk h)
    | with_reducible exact sound_zipMap (by assumption) fun _ _ h => field_mk h
    | with_reducible exact sound_runs (by assumption) (runs_filter (by assumption) _)
    | dsimp only
    | (with_reducible apply field_mk; first | split | with_reducible apply FieldSt.modCtx_sound | with_reducible apply FieldSt.askImage_sound)
    | (with_reducible apply sound_mk; first | split | with_reducible apply foldl_sound | with_reducible apply State.modField_sound | with_reducible apply FieldSt.modCtx_sound | with_reducible apply FieldSt.askImage_sound | with_reducible apply State.modField_sound | with_reducible apply State.modFields_sound | with_reducible apply State.modPkg_sound | with_reducible apply State.modInst_sound | with_reducible apply State.modCmd_sound)

theorem State.reserveImages_sound {s : State} (hs : s.Sound) (c : Cmd) : (s.reserveImages c).Sound := by
  unfold State.reserveImages
  split
  · exact hs
  · exact foldl_sound _ hs fun s f h => State.modCmd_sound (State.allocPages_sound h ..) ..

theorem State.ctxSegment_sound {s : State} (hs : s.Sound) (f : Nat) (c : Cmd) : (State.ctxSegment s f c).Sound := by
  unfold State.ctxSegment
  repeat' first
    | with_reducible apply State.modField_sound
    | with_reducible apply FieldSt.modCtx_sound
    | with_reducible apply FieldSt.leaveQueue_sound
    | with_reducible apply State.queueFor_sound
    | with_reducible apply State.stamp_sound
    | with_reducible apply FieldSt.askImage_sound
    | with_reducible apply State.startSave_sound
    | with_reducible apply foldl_sound
    | with_reducible refine of_snd (by with_reducible assumption) ?_
    | with_reducible refine of_fst (by with_reducible assumption) ?_
    | with_reducible refine of_trd (by with_reducible assumption) ?_
    | with_reducible assumption
    | split
    | intro _
    | with_reducible exact field_mk (by assumption)
    | with_reducible exact sound_mk (by assumption)
    | (with_reducible refine field_mk_map (by assumption) ?_; intro _ h; exact furrow_mk h)
    | with_reducible exact sound_zipMap (by assumption) fun _ _ h => field_mk h
    | with_reducible exact sound_runs (by assumption) (runs_filter (by assumption) _)
    | dsimp only
    | (with_reducible apply field_mk; first | split | with_reducible apply FieldSt.modCtx_sound | with_reducible apply FieldSt.leaveQueue_sound | with_reducible apply FieldSt.askImage_sound)
    | (with_reducible apply sound_mk; first | split | with_reducible apply foldl_sound | with_reducible apply State.modField_sound | with_reducible apply FieldSt.modCtx_sound | with_reducible apply FieldSt.leaveQueue_sound | with_reducible apply State.queueFor_sound | with_reducible apply State.stamp_sound | with_reducible apply FieldSt.askImage_sound | with_reducible apply State.startSave_sound | with_reducible apply State.modField_sound | with_reducible apply State.modFields_sound | with_reducible apply State.modPkg_sound | with_reducible apply State.modInst_sound | with_reducible apply State.modCmd_sound)

theorem State.absorbSegment_sound {s : State} (hs : s.Sound) (i : Nat) (t : Nat) : (State.absorbSegment s i t).Sound := by
  unfold State.absorbSegment
  repeat' first
    | with_reducible apply State.reserveImages_sound
    | with_reducible apply State.ctxSegment_sound
    | with_reducible apply foldl_sound
    | with_reducible refine of_snd (by with_reducible assumption) ?_
    | with_reducible refine of_fst (by with_reducible assumption) ?_
    | with_reducible refine of_trd (by with_reducible assumption) ?_
    | with_reducible assumption
    | split
    | intro _
    | with_reducible exact field_mk (by assumption)
    | with_reducible exact sound_mk (by assumption)
    | (with_reducible refine field_mk_map (by assumption) ?_; intro _ h; exact furrow_mk h)
    | with_reducible exact sound_zipMap (by assumption) fun _ _ h => field_mk h
    | with_reducible exact sound_runs (by assumption) (runs_filter (by assumption) _)
    | dsimp only
    | (with_reducible apply field_mk; first | split | with_reducible assumption)
    | (with_reducible apply sound_mk; first | split | with_reducible apply foldl_sound | with_reducible apply State.reserveImages_sound | with_reducible apply State.ctxSegment_sound | with_reducible apply State.modField_sound | with_reducible apply State.modFields_sound | with_reducible apply State.modPkg_sound | with_reducible apply State.modInst_sound | with_reducible apply State.modCmd_sound)

theorem State.hashQueues_sound {s : State} (hs : s.Sound) (c : Cmd) : (State.hashQueues s c).Sound := by
  unfold State.hashQueues
  repeat' first
    | with_reducible apply State.queueFor_sound
    | with_reducible apply State.startSave_sound
    | with_reducible apply foldl_sound
    | with_reducible refine of_snd (by with_reducible assumption) ?_
    | with_reducible refine of_fst (by with_reducible assumption) ?_
    | with_reducible refine of_trd (by with_reducible assumption) ?_
    | with_reducible assumption
    | split
    | intro _
    | with_reducible exact field_mk (by assumption)
    | with_reducible exact sound_mk (by assumption)
    | (with_reducible refine field_mk_map (by assumption) ?_; intro _ h; exact furrow_mk h)
    | with_reducible exact sound_zipMap (by assumption) fun _ _ h => field_mk h
    | with_reducible exact sound_runs (by assumption) (runs_filter (by assumption) _)
    | dsimp only
    | (with_reducible apply field_mk; first | split | with_reducible assumption)
    | (with_reducible apply sound_mk; first | split | with_reducible apply foldl_sound | with_reducible apply State.queueFor_sound | with_reducible apply State.startSave_sound | with_reducible apply State.modField_sound | with_reducible apply State.modFields_sound | with_reducible apply State.modPkg_sound | with_reducible apply State.modInst_sound | with_reducible apply State.modCmd_sound)

theorem State.hashServed_sound {s : State} (hs : s.Sound) (c : Cmd) : (State.hashServed s c).Sound := by
  unfold State.hashServed
  repeat' first
    | with_reducible apply State.modField_sound
    | with_reducible apply FieldSt.leaveQueue_sound
    | with_reducible apply foldl_sound
    | with_reducible refine of_snd (by with_reducible assumption) ?_
    | with_reducible refine of_fst (by with_reducible assumption) ?_
    | with_reducible refine of_trd (by with_reducible assumption) ?_
    | with_reducible assumption
    | split
    | intro _
    | with_reducible exact field_mk (by assumption)
    | with_reducible exact sound_mk (by assumption)
    | (with_reducible refine field_mk_map (by assumption) ?_; intro _ h; exact furrow_mk h)
    | with_reducible exact sound_zipMap (by assumption) fun _ _ h => field_mk h
    | with_reducible exact sound_runs (by assumption) (runs_filter (by assumption) _)
    | dsimp only
    | (with_reducible apply field_mk; first | split | with_reducible apply FieldSt.leaveQueue_sound)
    | (with_reducible apply sound_mk; first | split | with_reducible apply foldl_sound | with_reducible apply State.modField_sound | with_reducible apply FieldSt.leaveQueue_sound | with_reducible apply State.modField_sound | with_reducible apply State.modFields_sound | with_reducible apply State.modPkg_sound | with_reducible apply State.modInst_sound | with_reducible apply State.modCmd_sound)

theorem State.serveCtx_sound {s : State} (hs : s.Sound) (f : Nat) : (State.serveCtx s f).Sound := by
  unfold State.serveCtx
  repeat' first
    | with_reducible apply State.modField_sound
    | with_reducible apply State.modCmd_sound
    | with_reducible apply FieldSt.leaveQueue_sound
    | with_reducible apply State.startSave_sound
    | with_reducible apply State.ctxSegment_sound
    | with_reducible apply foldl_sound
    | with_reducible refine of_snd (by with_reducible assumption) ?_
    | with_reducible refine of_fst (by with_reducible assumption) ?_
    | with_reducible refine of_trd (by with_reducible assumption) ?_
    | with_reducible assumption
    | split
    | intro _
    | with_reducible exact field_mk (by assumption)
    | with_reducible exact sound_mk (by assumption)
    | (with_reducible refine field_mk_map (by assumption) ?_; intro _ h; exact furrow_mk h)
    | with_reducible exact sound_zipMap (by assumption) fun _ _ h => field_mk h
    | with_reducible exact sound_runs (by assumption) (runs_filter (by assumption) _)
    | dsimp only
    | (with_reducible apply field_mk; first | split | with_reducible apply FieldSt.leaveQueue_sound)
    | (with_reducible apply sound_mk; first | split | with_reducible apply foldl_sound | with_reducible apply State.modField_sound | with_reducible apply State.modCmd_sound | with_reducible apply FieldSt.leaveQueue_sound | with_reducible apply State.startSave_sound | with_reducible apply State.ctxSegment_sound | with_reducible apply State.modField_sound | with_reducible apply State.modFields_sound | with_reducible apply State.modPkg_sound | with_reducible apply State.modInst_sound | with_reducible apply State.modCmd_sound)

end Sys2Proof.Machine
end

