-- ==== Sys2Proof/Laws/SoundAdmit.lean ====
section
/-! SUPPORT. The operations of Admit keep the invariant State.Sound. -/
set_option Elab.async false
set_option linter.unusedTactic false
set_option linter.unreachableTactic false
namespace Sys2Proof.Machine

theorem State.enter_sound {s : State} (hs : s.Sound) (r : Rec) : (State.enter s r).2.Sound := by
  unfold State.enter
  repeat' first
    | with_reducible apply State.modPkg_sound
    | with_reducible apply State.stat_sound
    | with_reducible apply State.touchIke_sound
    | with_reducible apply State.replyNow_sound
    | with_reducible apply foldl_sound
    | with_reducible refine of_snd (by with_reducible assumption) ?_
    | with_reducible refine of_fst (by with_reducible assumption) ?_
    | with_reducible refine of_trd (by with_reducible assumption) ?_
    | with_reducible assumption
    | split
    | intro _
    | with_reducible exact field_mk (by assumption)
    | with_reducible exact sound_mk (by assumption)
    | (with_reducible refine field_mk_map (by assumption) ?_; intro _ h; exact furrow_mk h)
    | with_reducible exact sound_zipMap (by assumption) fun _ _ h => field_mk h
    | with_reducible exact sound_runs (by assumption) (runs_filter (by assumption) _)
    | dsimp only
    | (with_reducible apply field_mk; first | split | with_reducible assumption)
    | (with_reducible apply sound_mk; first | split | with_reducible apply foldl_sound | with_reducible apply State.modPkg_sound | with_reducible apply State.stat_sound | with_reducible apply State.touchIke_sound | with_reducible apply State.replyNow_sound | with_reducible apply State.modField_sound | with_reducible apply State.modFields_sound | with_reducible apply State.modPkg_sound | with_reducible apply State.modInst_sound | with_reducible apply State.modCmd_sound)

theorem State.turnStart_sound {s : State} (hs : s.Sound) : (State.turnStart s).Sound := by
  unfold State.turnStart
  repeat' first
    | with_reducible apply State.modPkg_sound
    | with_reducible apply foldl_sound
    | with_reducible refine of_snd (by with_reducible assumption) ?_
    | with_reducible refine of_fst (by with_reducible assumption) ?_
    | with_reducible refine of_trd (by with_reducible assumption) ?_
    | with_reducible assumption
    | split
    | intro _
    | with_reducible exact field_mk (by assumption)
    | with_reducible exact sound_mk (by assumption)
    | (with_reducible refine field_mk_map (by assumption) ?_; intro _ h; exact furrow_mk h)
    | with_reducible exact sound_zipMap (by assumption) fun _ _ h => field_mk h
    | with_reducible exact sound_runs (by assumption) (runs_filter (by assumption) _)
    | dsimp only
    | (with_reducible apply field_mk; first | split | with_reducible assumption)
    | (with_reducible apply sound_mk; first | split | with_reducible apply foldl_sound | with_reducible apply State.modPkg_sound | with_reducible apply State.modField_sound | with_reducible apply State.modFields_sound | with_reducible apply State.modPkg_sound | with_reducible apply State.modInst_sound | with_reducible apply State.modCmd_sound)

theorem State.dispatchCmd_sound {s : State} (hs : s.Sound) (r : Rec) : (State.dispatchCmd s r).Sound := by
  unfold State.dispatchCmd
  repeat' first
    | with_reducible apply State.modCmd_sound
    | with_reducible apply State.complete_sound
    | with_reducible apply State.turnStart_sound
    | with_reducible apply foldl_sound
    | with_reducible refine of_snd (by with_reducible assumption) ?_
    | with_reducible refine of_fst (by with_reducible assumption) ?_
    | with_reducible refine of_trd (by with_reducible assumption) ?_
    | with_reducible assumption
    | split
    | intro _
    | with_reducible exact field_mk (by assumption)
    | with_reducible exact sound_mk (by assumption)
    | (with_reducible refine field_mk_map (by assumption) ?_; intro _ h; exact furrow_mk h)
    | with_reducible exact sound_zipMap (by assumption) fun _ _ h => field_mk h
    | with_reducible exact sound_runs (by assumption) (runs_filter (by assumption) _)
    | dsimp only
    | (with_reducible apply field_mk; first | split | with_reducible assumption)
    | (with_reducible apply sound_mk; first | split | with_reducible apply foldl_sound | with_reducible apply State.modCmd_sound | with_reducible apply State.complete_sound | with_reducible apply State.turnStart_sound | with_reducible apply State.modField_sound | with_reducible apply State.modFields_sound | with_reducible apply State.modPkg_sound | with_reducible apply State.modInst_sound | with_reducible apply State.modCmd_sound)

theorem State.takeIn_sound {s : State} (hs : s.Sound) (r : Rec) : (State.takeIn s r).2.Sound := by
  unfold State.takeIn
  repeat' first
    | with_reducible apply State.enter_sound
    | with_reducible apply State.dispatchCmd_sound
    | with_reducible refine of_snd (by with_reducible assumption) ?_
    | with_reducible assumption
    | split

end Sys2Proof.Machine
end

