-- ==== Sys2Proof/Laws/SoundRun.lean ====
section
/-! SUPPORT. The operations of Run keep the invariant State.Sound. -/
set_option Elab.async false
set_option linter.unusedTactic false
set_option linter.unreachableTactic false
namespace Sys2Proof.Machine

theorem State.restoreKey_sound {s : State} (hs : s.Sound) (k : Key) : (State.restoreKey s k).Sound := by
  unfold State.restoreKey
  repeat' first
    | with_reducible apply State.allocPages_sound
    | with_reducible apply State.modKey_sound
    | with_reducible apply State.freePages_sound
    | with_reducible assumption

/-- The parts of a command description that change the state keep the invariant. -/
structure Desc.Sound (d : Desc) : Prop where
  body : ∀ {s : State}, s.Sound → ∀ c, (d.body s c).1.Sound
  onWait : ∀ {s : State}, s.Sound → ∀ c, (d.onWait s c).Sound := by exact fun h _ => h
  spoil : ∀ {s : State}, s.Sound → ∀ c, (d.spoil s c).Sound := by exact fun h _ => h
  onRefuse : ∀ {s : State}, s.Sound → ∀ c x, (d.onRefuse s c x).Sound := by exact fun h _ _ => h
  onPass : ∀ {s : State}, s.Sound → ∀ c, (d.onPass s c).Sound := by exact fun h _ => h
  torn : ∀ {s : State}, s.Sound → ∀ c, (d.torn s c).Sound := by exact fun h _ => h
  onStart : ∀ {s : State}, s.Sound → ∀ c, (d.onStart s c).Sound := by exact fun h _ => h

theorem FieldSt.cacheDesc_sound {x : FieldSt} (h : x.Sound) (k : Nat) : (x.cacheDesc k).Sound := field_mk h

theorem State.readDesc_sound {s : State} (hs : s.Sound) (c : Cmd) (h : Nat) : (State.readDesc s c h).Sound := by
  unfold State.readDesc
  repeat' first
    | with_reducible apply State.modField_sound
    | with_reducible apply State.modCmd_sound
    | with_reducible apply State.readPage_sound
    | with_reducible apply State.quarantine_sound
    | with_reducible apply State.restoreKey_sound
    | with_reducible apply FieldSt.cacheDesc_sound
    | with_reducible apply foldl_sound
    | with_reducible refine of_snd (by with_reducible assumption) ?_
    | with_reducible refine of_fst (by with_reducible assumption) ?_
    | with_reducible refine of_trd (by with_reducible assumption) ?_
    | with_reducible assumption
    | split
    | intro _
    | with_reducible exact field_mk (by assumption)
    | with_reducible exact sound_mk (by assumption)
    | (with_reducible refine field_mk_map (by assumption) ?_; intro _ h; exact furrow_mk h)
    | with_reducible exact sound_zipMap (by assumption) fun _ _ h => field_mk h
    | with_reducible exact sound_runs (by assumption) (runs_filter (by assumption) _)
    | dsimp only
    | (with_reducible apply field_mk; first | split | with_reducible apply FieldSt.cacheDesc_sound)
    | (with_reducible apply sound_mk; first | split | with_reducible apply foldl_sound | with_reducible apply State.modField_sound | with_reducible apply State.modCmd_sound | with_reducible apply State.readPage_sound | with_reducible apply State.quarantine_sound | with_reducible apply State.restoreKey_sound | with_reducible apply FieldSt.cacheDesc_sound | with_reducible apply State.modField_sound | with_reducible apply State.modFields_sound | with_reducible apply State.modPkg_sound | with_reducible apply State.modInst_sound | with_reducible apply State.modCmd_sound)

theorem FieldSt.reseat_sound {x : FieldSt} (h : x.Sound) (rs : List Resident) : (x.reseat rs).Sound := field_mk h

theorem FieldSt.beginOn_sound {x : FieldSt} (h : x.Sound) (i t : Nat) (rs : List Resident) : (x.beginOn i t rs).Sound := field_mk h

theorem State.readBlob_sound (i t f : Nat) : ∀ (ps : List Nat) {s : State} (_ : s.Sound), (s.readBlob i t f ps).2.Sound
  | [], _, h => h
  | p :: ps, s, h => by
    unfold State.readBlob
    have hr := State.readPage_sound h f p
    split
    · exact State.readBlob_sound i t f ps (of_snd ‹_› hr)
    · exact State.readBlob_sound i t f ps (State.modCmd_sound (of_snd ‹_› hr) ..)
    · exact of_snd ‹_› hr

theorem State.loadKey_sound {s : State} (hs : s.Sound) (c : Cmd) (k : Key) : (State.loadKey s c k).2.Sound := by
  unfold State.loadKey
  repeat' first
    | with_reducible apply State.modCmd_sound
    | with_reducible apply State.quarantine_sound
    | with_reducible apply State.restoreKey_sound
    | with_reducible apply State.readBlob_sound
    | with_reducible apply foldl_sound
    | with_reducible refine of_snd (by with_reducible assumption) ?_
    | with_reducible refine of_fst (by with_reducible assumption) ?_
    | with_reducible refine of_trd (by with_reducible assumption) ?_
    | with_reducible assumption
    | split
    | intro _
    | with_reducible exact field_mk (by assumption)
    | with_reducible exact sound_mk (by assumption)
    | (with_reducible refine field_mk_map (by assumption) ?_; intro _ h; exact furrow_mk h)
    | with_reducible exact sound_zipMap (by assumption) fun _ _ h => field_mk h
    | with_reducible exact sound_runs (by assumption) (runs_filter (by assumption) _)
    | dsimp only
    | (with_reducible apply field_mk; first | split | with_reducible assumption)
    | (with_reducible apply sound_mk; first | split | with_reducible apply foldl_sound | with_reducible apply State.modCmd_sound | with_reducible apply State.quarantine_sound | with_reducible apply State.restoreKey_sound | with_reducible apply State.readBlob_sound | with_reducible apply State.modField_sound | with_reducible apply State.modFields_sound | with_reducible apply State.modPkg_sound | with_reducible apply State.modInst_sound | with_reducible apply State.modCmd_sound)

theorem State.loadKeys_sound (c : Cmd) : ∀ (ks : List Key) {s : State} (_ : s.Sound), (s.loadKeys c ks).2.Sound
  | [], _, h => h
  | k :: ks, s, h => by
    unfold State.loadKeys
    have hr := State.loadKey_sound h c k
    split
    · exact State.loadKeys_sound c ks (of_snd ‹_› hr)
    · exact hr

theorem State.markTwin_sound {s : State} (hs : s.Sound) (c : Cmd) : (State.markTwin s c).Sound := by
  unfold State.markTwin
  repeat' first | with_reducible apply State.modCmd_sound | with_reducible assumption

theorem State.losePage_sound {s : State} (hs : s.Sound) (f : Nat) (p : Nat) : (State.losePage s f p).Sound := by
  unfold State.losePage
  repeat' first
    | with_reducible apply State.quarantine_sound
    | with_reducible apply State.restoreKey_sound
    | with_reducible apply foldl_sound
    | with_reducible refine of_snd (by with_reducible assumption) ?_
    | with_reducible refine of_fst (by with_reducible assumption) ?_
    | with_reducible refine of_trd (by with_reducible assumption) ?_
    | with_reducible assumption
    | split
    | intro _
    | with_reducible exact field_mk (by assumption)
    | with_reducible exact sound_mk (by assumption)
    | (with_reducible refine field_mk_map (by assumption) ?_; intro _ h; exact furrow_mk h)
    | with_reducible exact sound_zipMap (by assumption) fun _ _ h => field_mk h
    | with_reducible exact sound_runs (by assumption) (runs_filter (by assumption) _)
    | dsimp only
    | (with_reducible apply field_mk; first | split | with_reducible assumption)
    | (with_reducible apply sound_mk; first | split | with_reducible apply foldl_sound | with_reducible apply State.quarantine_sound | with_reducible apply State.restoreKey_sound | with_reducible apply State.modField_sound | with_reducible apply State.modFields_sound | with_reducible apply State.modPkg_sound | with_reducible apply State.modInst_sound | with_reducible apply State.modCmd_sound)

theorem State.checkWrites_sound (i t : Nat) : ∀ (ps : List (Nat × Nat)) {s : State} (_ : s.Sound), (s.checkWrites i t ps).2.Sound
  | [], _, h => h
  | (f, p) :: ps, s, h => by
    unfold State.checkWrites
    have hr := State.readPage_sound h f p
    split
    · exact State.checkWrites_sound i t ps (of_snd ‹_› hr)
    · exact State.checkWrites_sound i t ps (State.modCmd_sound (of_snd ‹_› hr) ..)
    · exact State.losePage_sound (State.log_sound (of_snd ‹_› hr) ..) ..
    · exact State.losePage_sound (of_snd ‹_› hr) ..

theorem State.writePages_sound {s : State} (hs : s.Sound) (ps : List (Nat × Nat)) : (State.writePages s ps).Sound := by
  unfold State.writePages
  repeat' first
    | with_reducible apply State.modField_sound
    | with_reducible apply FieldSt.putPage_sound
    | with_reducible apply foldl_sound
    | with_reducible assumption
    | intro _

theorem State.commitMerge_sound {s : State} (hs : s.Sound) (f : Nat) (m : Merge) : (State.commitMerge s f m).Sound := by
  unfold State.commitMerge
  repeat' first
    | with_reducible apply State.modField_sound
    | with_reducible apply FieldSt.putPage_sound
    | with_reducible apply State.checkWrites_sound
    | with_reducible apply State.writePages_sound
    | with_reducible apply State.complete_sound
    | with_reducible apply foldl_sound
    | with_reducible refine of_snd (by with_reducible assumption) ?_
    | with_reducible assumption
    | split
    | intro _
    | with_reducible exact field_mk (by assumption)
    | dsimp only

theorem State.fullWrite_sound {s : State} (hs : s.Sound) (f p : Nat) : (State.fullWrite s f p).Sound := by
  unfold State.fullWrite
  exact State.modField_sound hs f fun _ hx => FieldSt.putPage_sound hx _

theorem State.enterMerge_sound {s : State} (hs : s.Sound) (i t f p n : Nat) : (State.enterMerge s i t f p n).Sound := by
  unfold State.enterMerge
  repeat' first
    | with_reducible apply State.modField_sound
    | with_reducible apply State.commitMerge_sound
    | with_reducible assumption
    | split
    | intro _
    | with_reducible exact field_mk (by assumption)
    | dsimp only

theorem State.pageWrite_sound {s : State} (hs : s.Sound) (i t f p n : Nat) : (State.pageWrite s i t f p n).2.Sound := by
  unfold State.pageWrite
  have hc := State.checkWrites_sound i t [(f, p)] hs
  split
  · exact State.fullWrite_sound hs f p
  · split
    · exact State.enterMerge_sound hs i t f p n
    · split
      · exact State.writePages_sound (of_snd ‹_› hc) _
      · exact of_snd ‹_› hc

theorem State.flushMerges_sound {s : State} (hs : s.Sound) (i : Nat) (t : Nat) : (State.flushMerges s i t).Sound := by
  unfold State.flushMerges
  repeat' first
    | with_reducible apply State.commitMerge_sound
    | with_reducible apply foldl_sound
    | with_reducible assumption
    | intro _

theorem State.flushField_sound {s : State} (hs : s.Sound) (f : Nat) : (State.flushField s f).Sound := by
  unfold State.flushField
  repeat' first
    | with_reducible apply State.commitMerge_sound
    | with_reducible apply foldl_sound
    | with_reducible assumption
    | intro _

theorem commit_sound (d : Desc) (hd : d.Sound) (h : Hit) {s : State} (hs : s.Sound) (c : Cmd) : (commit d h s c).Sound := by
  unfold commit
  repeat' first
    | with_reducible apply State.modField_sound
    | with_reducible apply State.steep_sound
    | with_reducible apply State.fresh_sound
    | with_reducible apply State.log_sound
    | with_reducible apply State.modKey_sound
    | with_reducible apply State.complete_sound
    | with_reducible apply State.modCmd_sound
    | with_reducible apply State.markTwin_sound
    | with_reducible apply State.checkWrites_sound
    | with_reducible apply State.writePages_sound
    | with_reducible apply State.flushMerges_sound
    | with_reducible apply hd.body
    | with_reducible apply hd.spoil
    | with_reducible apply hd.torn
    | with_reducible apply State.quarantine_sound
    | with_reducible refine of_snd (by with_reducible assumption) ?_
    | with_reducible refine of_fst (by with_reducible assumption) ?_
    | with_reducible assumption
    | split
    | intro _
    | with_reducible exact field_mk (by assumption)
    | dsimp only

theorem consume_sound (d : Desc) (hd : d.Sound) {s : State} (hs : s.Sound) (c : Cmd) : (consume d s c).Sound := by
  unfold consume
  repeat' first | with_reducible apply State.steep_sound | with_reducible apply hd.spoil | with_reducible assumption | split

theorem Desc.begunState_sound (d : Desc) {s : State} (hs : s.Sound) (c : Cmd) (homes : List (Nat × List Resident)) : (Desc.begunState d s c homes).Sound := by
  unfold Desc.begunState
  repeat' first
    | with_reducible apply State.modField_sound
    | with_reducible apply State.modCmd_sound
    | with_reducible apply FieldSt.beginOn_sound
    | with_reducible apply foldl_sound
    | with_reducible refine of_snd (by with_reducible assumption) ?_
    | with_reducible refine of_fst (by with_reducible assumption) ?_
    | with_reducible refine of_trd (by with_reducible assumption) ?_
    | with_reducible assumption
    | split
    | intro _
    | with_reducible exact field_mk (by assumption)
    | with_reducible exact sound_mk (by assumption)
    | (with_reducible refine field_mk_map (by assumption) ?_; intro _ h; exact furrow_mk h)
    | with_reducible exact sound_zipMap (by assumption) fun _ _ h => field_mk h
    | with_reducible exact sound_runs (by assumption) (runs_filter (by assumption) _)
    | dsimp only
    | (with_reducible apply field_mk; first | split | with_reducible apply FieldSt.beginOn_sound)
    | (with_reducible apply sound_mk; first | split | with_reducible apply foldl_sound | with_reducible apply State.modField_sound | with_reducible apply State.modCmd_sound | with_reducible apply FieldSt.beginOn_sound | with_reducible apply State.modField_sound | with_reducible apply State.modFields_sound | with_reducible apply State.modPkg_sound | with_reducible apply State.modInst_sound | with_reducible apply State.modCmd_sound)

theorem begin_sound (d : Desc) (hd : d.Sound) (h : Hit) {s : State} (hs : s.Sound) (c : Cmd) : (begin d h s c).Sound := by
  unfold begin
  repeat' first
    | with_reducible apply State.modCmd_sound
    | with_reducible apply commit_sound
    | with_reducible apply hd.onWait
    | with_reducible apply State.complete_sound
    | with_reducible apply State.hashQueues_sound
    | with_reducible apply State.hashServed_sound
    | with_reducible assumption
    | split

theorem seated_sound (d : Desc) (hd : d.Sound) (h : Hit) {s : State} (hs : s.Sound) (c : Cmd) (homes : List (Nat × List Resident))
    {go : State → State} (hg : ∀ {x : State}, x.Sound → (go x).Sound) : (seated d h s c homes go).Sound := by
  unfold seated
  repeat' first
    | with_reducible apply State.loadKeys_sound
    | with_reducible apply State.complete_sound
    | with_reducible apply consume_sound
    | with_reducible apply hg
    | with_reducible apply hd.onStart
    | with_reducible apply State.modCmd_sound
    | with_reducible apply State.modField_sound
    | with_reducible apply FieldSt.beginOn_sound
    | with_reducible apply foldl_sound
    | with_reducible refine of_snd (by with_reducible assumption) ?_
    | with_reducible assumption
    | split
    | intro _
    | dsimp only

theorem afterRandom_sound (d : Desc) (hd : d.Sound) (h : Hit) {s : State} (hs : s.Sound) (c : Cmd) : (afterRandom d h s c).Sound := by
  unfold afterRandom
  repeat' first
    | with_reducible apply State.modCmd_sound
    | with_reducible apply begin_sound
    | (with_reducible refine seated_sound d hd h (by assumption) c _ ?_; intro x hx; exact begin_sound d hd h hx c)
    | with_reducible assumption
    | split

theorem FieldSt.offWhisk_sound {x : FieldSt} (h : x.Sound) (i t : Nat) : (x.offWhisk i t).Sound := field_mk h

theorem State.queueWhisk_sound {s : State} (hs : s.Sound) (c : Cmd) (left : List (Nat × Nat)) : (s.queueWhisk c left).Sound := by
  unfold State.queueWhisk
  refine State.modCmd_sound (foldl_sound _ hs fun s f h => State.modField_sound h f fun x hx => ?_) ..
  repeat' first
    | with_reducible apply FieldSt.offWhisk_sound
    | with_reducible assumption
    | split
    | (with_reducible apply field_mk; with_reducible apply FieldSt.offWhisk_sound)
    | dsimp only

theorem stepThirteen_sound (d : Desc) (hd : d.Sound) (h : Hit) {s : State} (hs : s.Sound) (c : Cmd) : (stepThirteen d h s c).Sound := by
  unfold stepThirteen
  repeat' first
    | with_reducible apply State.modCmd_sound
    | with_reducible apply afterRandom_sound
    | with_reducible apply State.queueWhisk_sound
    | with_reducible apply State.waitForPool_sound
    | with_reducible apply State.complete_sound
    | with_reducible assumption
    | split
    | dsimp only

theorem State.spoilDesc_sound {s : State} (hs : s.Sound) (c : Cmd) (ks : List Nat) (h : Hit) : (s.spoilDesc c ks h).Sound := by
  unfold State.spoilDesc
  repeat' first | with_reducible apply State.quarantine_sound | with_reducible assumption | split

theorem judged_sound (d : Desc) (hd : d.Sound) (h : Hit) {s : State} (hs : s.Sound) (c : Cmd) : (judged d h s c).1.Sound := by
  unfold judged
  repeat' first
    | with_reducible apply State.complete_sound
    | with_reducible apply State.readDesc_sound
    | with_reducible apply State.spoilDesc_sound
    | with_reducible apply State.modCmd_sound
    | with_reducible apply State.absorbSegment_sound
    | with_reducible apply hd.onRefuse
    | with_reducible apply hd.onPass
    | with_reducible apply foldl_sound
    | with_reducible assumption
    | split
    | intro _
    | dsimp only

theorem checks_sound (d : Desc) (hd : d.Sound) (h : Hit) {s : State} (hs : s.Sound) (c : Cmd) : (checks d h s c).Sound := by
  unfold checks
  repeat' first
    | with_reducible apply judged_sound
    | with_reducible apply stepThirteen_sound
    | with_reducible refine of_fst (by with_reducible assumption) ?_
    | with_reducible assumption
    | split

theorem startStream_sound (d : Desc) (hd : d.Sound) (h : Hit) {s : State} (hs : s.Sound) (c : Cmd) : (startStream d h s c).Sound := by
  unfold startStream
  repeat' first
    | with_reducible apply State.modCmd_sound
    | with_reducible apply State.complete_sound
    | (refine seated_sound d hd h ?_ c _ (go := id) fun h => h)
    | with_reducible apply State.queueWhisk_sound
    | with_reducible assumption
    | split
    | dsimp only

theorem judgeHead_sound (d : Desc) (hd : d.Sound) (h : Hit) {s : State} (hs : s.Sound) (c : Cmd) : (judgeHead d h s c).Sound := by
  unfold judgeHead
  repeat' first
    | with_reducible apply startStream_sound
    | with_reducible apply judged_sound
    | with_reducible apply State.modCmd_sound
    | with_reducible refine of_fst (by with_reducible assumption) ?_
    | with_reducible assumption
    | split
    | dsimp only

theorem advance_sound (d : Desc) (hd : d.Sound) (h : Hit) {s : State} (hs : s.Sound) (c : Cmd) : (advance d h s c).Sound := by
  unfold advance
  repeat' first
    | with_reducible apply judgeHead_sound
    | with_reducible apply State.complete_sound
    | with_reducible apply State.flushMerges_sound
    | with_reducible apply stepThirteen_sound
    | with_reducible apply State.modCmd_sound
    | with_reducible apply checks_sound
    | with_reducible apply hd.body
    | with_reducible refine of_fst (by with_reducible assumption) ?_
    | with_reducible assumption
    | split

theorem runCommand_sound (d : Desc) (hd : d.Sound) (r : CmdRec) {s : State} (hs : s.Sound) : (runCommand d r s).Sound := by
  unfold runCommand
  repeat' first
    | with_reducible apply advance_sound
    | with_reducible apply State.takeIn_sound
    | with_reducible apply State.modPkg_sound
    | with_reducible refine of_snd (by with_reducible assumption) ?_
    | with_reducible assumption
    | split

end Sys2Proof.Machine
end

