-- ==== Sys2Proof/Laws/SoundKeyOps.lean ====
section
/-! SUPPORT. The operations of KeyOps keep the invariant State.Sound. -/
set_option Elab.async false
set_option linter.unusedTactic false
set_option linter.unreachableTactic false
namespace Sys2Proof.Machine

theorem State.slotNew_sound {s : State} (hs : s.Sound) (c : Cmd) (f : Nat) (k : Key) : (State.slotNew s c f k).Sound := by
  unfold State.slotNew
  repeat' first
    | with_reducible apply State.modField_sound
    | with_reducible apply FieldSt.reseat_sound
    | with_reducible assumption
    | split
    | intro _
    | dsimp only

theorem State.addKey_sound {s : State} (hs : s.Sound) (c : Cmd) (f : Nat) (at0 : Option Nat) (k : NewKey) : (State.addKey s c f at0 k).2.Sound := by
  unfold State.addKey
  repeat' first
    | with_reducible apply State.allocPages_sound
    | with_reducible apply State.slotNew_sound
    | with_reducible apply State.modGran_sound
    | with_reducible apply State.modCmd_sound
    | with_reducible assumption
    | split
    | intro _
    | with_reducible exact field_mk (by assumption)
    | dsimp only
    | (with_reducible apply sound_mk; first | split | with_reducible apply foldl_sound | with_reducible apply State.allocPages_sound | with_reducible apply State.modField_sound | with_reducible apply State.slotNew_sound | with_reducible apply State.modGran_sound | with_reducible apply State.modCmd_sound | with_reducible apply State.modFields_sound | with_reducible apply State.modPkg_sound | with_reducible apply State.modInst_sound)

theorem State.pairUp_sound {s : State} (hs : s.Sound) (a : Nat) (b : Nat) : (State.pairUp s a b).Sound := by
  unfold State.pairUp
  repeat' first
    | with_reducible apply State.modGran_sound
    | with_reducible apply State.modKey_sound
    | with_reducible assumption

theorem State.addSecret_sound {s : State} (hs : s.Sound) (c : Cmd) (f : Nat) (attr : Nat) (body : Bytes) : (State.addSecret s c f attr body).2.Sound := by
  unfold State.addSecret
  repeat' first | with_reducible apply State.addKey_sound | with_reducible assumption

theorem State.freeBlob_sound {s : State} (hs : s.Sound) (k : Key) : (State.freeBlob s k).Sound := by
  unfold State.freeBlob
  repeat' first
    | with_reducible apply State.modField_sound
    | with_reducible apply State.freePages_sound
    | with_reducible assumption
    | split
    | intro _
    | with_reducible exact field_mk (by assumption)

theorem State.destroyKey_sound {s : State} (hs : s.Sound) (h : Nat) : (State.destroyKey s h).Sound := by
  unfold State.destroyKey
  repeat' first
    | with_reducible apply State.unseat_sound
    | with_reducible apply State.freeBlob_sound
    | with_reducible apply State.freeCache_sound
    | with_reducible apply State.modGran_sound
    | with_reducible apply State.modFields_sound
    | with_reducible assumption
    | dsimp only
    | split
    | intro _
    | with_reducible exact field_mk (by assumption)
    | (with_reducible apply sound_mk; first | split | with_reducible apply foldl_sound | with_reducible apply State.freeBlob_sound | with_reducible apply State.freePages_sound | with_reducible apply State.freeCache_sound | with_reducible apply State.modGran_sound | with_reducible apply State.modFields_sound | with_reducible apply State.modField_sound | with_reducible apply State.modPkg_sound | with_reducible apply State.modInst_sound | with_reducible apply State.modCmd_sound)

theorem State.loseHalf_sound {s : State} (hs : s.Sound) (install : Bool) (h : Nat) : (State.loseHalf s install h).Sound := by
  unfold State.loseHalf
  repeat' first

    | with_reducible apply foldl_sound
    | with_reducible refine of_snd (by with_reducible assumption) ?_
    | with_reducible refine of_fst (by with_reducible assumption) ?_
    | with_reducible refine of_trd (by with_reducible assumption) ?_
    | with_reducible assumption
    | split
    | intro _
    | with_reducible exact field_mk (by assumption)
    | with_reducible exact sound_mk (by assumption)
    | (with_reducible refine field_mk_map (by assumption) ?_; intro _ h; exact furrow_mk h)
    | with_reducible exact sound_zipMap (by assumption) fun _ _ h => field_mk h
    | with_reducible exact sound_runs (by assumption) (runs_filter (by assumption) _)
    | dsimp only
    | (with_reducible apply field_mk; first | split | with_reducible assumption)
    | (with_reducible apply sound_mk; first | split | with_reducible apply foldl_sound | with_reducible apply State.modField_sound | with_reducible apply State.modFields_sound | with_reducible apply State.modPkg_sound | with_reducible apply State.modInst_sound | with_reducible apply State.modCmd_sound)

end Sys2Proof.Machine
end

