-- ==== Sys2Proof/Laws/SoundKeys.lean ====
section
/-! SUPPORT. The operations of Keys keep the invariant State.Sound. -/
set_option Elab.async false
set_option linter.unusedTactic false
set_option linter.unreachableTactic false
namespace Sys2Proof.Machine

theorem State.makePair_sound {s : State} (hs : s.Sound) (c : Cmd) (t : Nat) (size : Nat) (e : Nat) (attr : Nat) (pubAttr : Nat) (seed : Bytes) : (State.makePair s c t size e attr pubAttr seed).2.2.Sound := by
  unfold State.makePair
  repeat' first
    | with_reducible apply State.addKey_sound
    | with_reducible apply State.pairUp_sound
    | with_reducible assumption

theorem keyGenerateDesc_sound : keyGenerateDesc.Sound := by
  unfold keyGenerateDesc
  refine ⟨fun hs c => ?_, fun hs c => ?_, fun hs c => ?_, fun hs c x => ?_, fun hs c => ?_, fun hs c => ?_, fun hs c => ?_⟩ <;> dsimp only
  all_goals
    repeat' first
      | with_reducible apply State.addKey_sound
      | with_reducible apply State.makePair_sound
      | with_reducible assumption
      | split

theorem execKeyGenerate_sound (r : CmdRec) {s : State} (hs : s.Sound) : Keeps (execKeyGenerate r s) := by
  unfold execKeyGenerate
  apply keeps_next
  repeat' first
    | with_reducible apply runCommand_sound
    | with_reducible apply keyGenerateDesc_sound
    | with_reducible assumption

theorem keyLoadDesc_sound : keyLoadDesc.Sound := by
  unfold keyLoadDesc
  refine ⟨fun hs c => ?_, fun hs c => ?_, fun hs c => ?_, fun hs c x => ?_, fun hs c => ?_, fun hs c => ?_, fun hs c => ?_⟩ <;> dsimp only
  all_goals
    repeat' first
      | with_reducible apply State.modCmd_sound
      | with_reducible apply State.drop_sound
      | with_reducible apply State.addKey_sound
      | with_reducible apply foldl_sound
      | with_reducible refine of_snd (by with_reducible assumption) ?_
      | with_reducible refine of_fst (by with_reducible assumption) ?_
      | with_reducible refine of_trd (by with_reducible assumption) ?_
      | with_reducible assumption
      | split
      | intro _
      | with_reducible exact field_mk (by assumption)
      | with_reducible exact sound_mk (by assumption)
      | dsimp only

theorem execKeyLoad_sound (r : CmdRec) {s : State} (hs : s.Sound) : Keeps (execKeyLoad r s) := by
  unfold execKeyLoad
  apply keeps_next
  repeat' first | with_reducible apply runCommand_sound | with_reducible apply keyLoadDesc_sound | with_reducible assumption

theorem keyLoadPublicDesc_sound : keyLoadPublicDesc.Sound := by
  unfold keyLoadPublicDesc
  refine ⟨fun hs c => ?_, fun hs c => ?_, fun hs c => ?_, fun hs c x => ?_, fun hs c => ?_, fun hs c => ?_, fun hs c => ?_⟩ <;> dsimp only
  all_goals
    repeat' first | with_reducible apply State.addKey_sound | with_reducible assumption

theorem execKeyLoadPublic_sound (r : CmdRec) {s : State} (hs : s.Sound) : Keeps (execKeyLoadPublic r s) := by
  unfold execKeyLoadPublic
  apply keeps_next
  repeat' first
    | with_reducible apply runCommand_sound
    | with_reducible apply keyLoadPublicDesc_sound
    | with_reducible assumption

theorem keyWrapDesc_sound : keyWrapDesc.Sound where
  body hs _ := hs

theorem execKeyWrap_sound (r : CmdRec) {s : State} (hs : s.Sound) : Keeps (execKeyWrap r s) := by
  unfold execKeyWrap
  apply keeps_next
  repeat' first | with_reducible apply runCommand_sound | with_reducible apply keyWrapDesc_sound | with_reducible assumption

theorem keyUnwrapDesc_sound : keyUnwrapDesc.Sound := by
  unfold keyUnwrapDesc
  refine ⟨fun hs c => ?_, fun hs c => ?_, fun hs c => ?_, fun hs c x => ?_, fun hs c => ?_, fun hs c => ?_, fun hs c => ?_⟩ <;> dsimp only
  all_goals
    repeat' first | with_reducible apply State.addKey_sound | with_reducible assumption | split

theorem execKeyUnwrap_sound (r : CmdRec) {s : State} (hs : s.Sound) : Keeps (execKeyUnwrap r s) := by
  unfold execKeyUnwrap
  apply keeps_next
  repeat' first
    | with_reducible apply runCommand_sound
    | with_reducible apply keyUnwrapDesc_sound
    | with_reducible assumption

theorem keyDeriveDesc_sound : keyDeriveDesc.Sound := by
  unfold keyDeriveDesc
  refine ⟨fun hs c => ?_, fun hs c => ?_, fun hs c => ?_, fun hs c x => ?_, fun hs c => ?_, fun hs c => ?_, fun hs c => ?_⟩ <;> dsimp only
  all_goals
    repeat' first | with_reducible apply State.addKey_sound | with_reducible assumption

theorem execKeyDerive_sound (r : CmdRec) {s : State} (hs : s.Sound) : Keeps (execKeyDerive r s) := by
  unfold execKeyDerive
  apply keeps_next
  repeat' first
    | with_reducible apply runCommand_sound
    | with_reducible apply keyDeriveDesc_sound
    | with_reducible assumption

theorem keyDestroyDesc_sound : keyDestroyDesc.Sound := by
  unfold keyDestroyDesc
  refine ⟨fun hs c => ?_, fun hs c => ?_, fun hs c => ?_, fun hs c x => ?_, fun hs c => ?_, fun hs c => ?_, fun hs c => ?_⟩ <;> dsimp only
  all_goals
    repeat' first
      | with_reducible apply State.modCmd_sound
      | with_reducible apply State.destroyKey_sound
      | with_reducible apply State.loseHalf_sound
      | with_reducible apply foldl_sound
      | with_reducible refine of_snd (by with_reducible assumption) ?_
      | with_reducible refine of_fst (by with_reducible assumption) ?_
      | with_reducible refine of_trd (by with_reducible assumption) ?_
      | with_reducible assumption
      | split
      | intro _
      | with_reducible exact field_mk (by assumption)
      | with_reducible exact sound_mk (by assumption)
      | dsimp only

theorem execKeyDestroy_sound (r : CmdRec) {s : State} (hs : s.Sound) : Keeps (execKeyDestroy r s) := by
  unfold execKeyDestroy
  apply keeps_next
  repeat' first
    | with_reducible apply runCommand_sound
    | with_reducible apply keyDestroyDesc_sound
    | with_reducible assumption

theorem keyNarrowDesc_sound : keyNarrowDesc.Sound := by
  unfold keyNarrowDesc
  refine ⟨fun hs c => ?_, fun hs c => ?_, fun hs c => ?_, fun hs c x => ?_, fun hs c => ?_, fun hs c => ?_, fun hs c => ?_⟩ <;> dsimp only
  all_goals
    repeat' first
      | with_reducible apply State.unseat_sound
      | with_reducible apply State.fullWrite_sound
      | with_reducible apply foldl_sound
      | with_reducible apply State.modKey_sound
      | with_reducible apply State.modGran_sound
      | with_reducible apply State.modFields_sound
      | with_reducible apply State.modCmd_sound
      | with_reducible assumption
      | intro _
      | with_reducible exact field_mk (by assumption)

theorem execKeyNarrow_sound (r : CmdRec) {s : State} (hs : s.Sound) : Keeps (execKeyNarrow r s) := by
  unfold execKeyNarrow
  apply keeps_next
  repeat' first
    | with_reducible apply runCommand_sound
    | with_reducible apply keyNarrowDesc_sound
    | with_reducible assumption

theorem keyInfoDesc_sound : keyInfoDesc.Sound where
  body hs _ := hs

theorem execKeyInfo_sound (r : CmdRec) {s : State} (hs : s.Sound) : Keeps (execKeyInfo r s) := by
  unfold execKeyInfo
  apply keeps_next
  repeat' first | with_reducible apply runCommand_sound | with_reducible apply keyInfoDesc_sound | with_reducible assumption

theorem keyExportPublicDesc_sound : keyExportPublicDesc.Sound where
  body hs _ := hs

theorem execKeyExportPublic_sound (r : CmdRec) {s : State} (hs : s.Sound) : Keeps (execKeyExportPublic r s) := by
  unfold execKeyExportPublic
  apply keeps_next
  repeat' first
    | with_reducible apply runCommand_sound
    | with_reducible apply keyExportPublicDesc_sound
    | with_reducible assumption

theorem execSiloSlotsFree_sound (field : Nat) {s : State} (hs : s.Sound) : Keeps (execSiloSlotsFree field s) := by
  unfold execSiloSlotsFree
  apply keeps_next
  repeat' first | with_reducible exact sound_mk (by assumption)

end Sys2Proof.Machine
end

