-- ==== Sys2Proof/Laws/SoundStartup.lean ====
section
/-! SUPPORT. The operations of Startup keep the invariant State.Sound. -/
set_option Elab.async false
set_option linter.unusedTactic false
set_option linter.unreachableTactic false
namespace Sys2Proof.Machine

theorem FieldSt.putOpen_sound {x : FieldSt} (hx : x.Sound) (o : Option OpenImage) : (FieldSt.putOpen x o).Sound := by
  unfold FieldSt.putOpen
  repeat' first

    | with_reducible apply foldl_sound
    | with_reducible refine of_snd (by with_reducible assumption) ?_
    | with_reducible refine of_fst (by with_reducible assumption) ?_
    | with_reducible refine of_trd (by with_reducible assumption) ?_
    | with_reducible assumption
    | split
    | intro _
    | with_reducible exact field_mk (by assumption)
    | with_reducible exact sound_mk (by assumption)
    | (with_reducible refine field_mk_map (by assumption) ?_; intro _ h; exact furrow_mk h)
    | with_reducible exact sound_zipMap (by assumption) fun _ _ h => field_mk h
    | with_reducible exact sound_runs (by assumption) (runs_filter (by assumption) _)
    | dsimp only
    | (with_reducible apply field_mk; first | split | with_reducible assumption)
    | (with_reducible apply sound_mk; first | split | with_reducible apply foldl_sound | with_reducible apply State.modField_sound | with_reducible apply State.modFields_sound | with_reducible apply State.modPkg_sound | with_reducible apply State.modInst_sound | with_reducible apply State.modCmd_sound)

theorem State.reloadStore_sound {s : State} (hs : s.Sound) (f : Nat) : (State.reloadStore s f).Sound := by
  unfold State.reloadStore
  repeat' first
    | with_reducible apply State.modField_sound
    | with_reducible apply foldl_sound
    | with_reducible refine of_snd (by with_reducible assumption) ?_
    | with_reducible refine of_fst (by with_reducible assumption) ?_
    | with_reducible refine of_trd (by with_reducible assumption) ?_
    | with_reducible assumption
    | split
    | intro _
    | with_reducible exact field_mk (by assumption)
    | with_reducible exact sound_mk (by assumption)
    | (with_reducible refine field_mk_map (by assumption) ?_; intro _ h; exact furrow_mk h)
    | with_reducible exact sound_zipMap (by assumption) fun _ _ h => field_mk h
    | with_reducible exact sound_runs (by assumption) (runs_filter (by assumption) _)
    | dsimp only
    | (with_reducible apply field_mk; first | split | with_reducible assumption)
    | (with_reducible apply sound_mk; first | split | with_reducible apply foldl_sound | with_reducible apply State.modField_sound | with_reducible apply State.modField_sound | with_reducible apply State.modFields_sound | with_reducible apply State.modPkg_sound | with_reducible apply State.modInst_sound | with_reducible apply State.modCmd_sound)

theorem State.repairWord_sound {s : State} (hs : s.Sound) (f : Nat) (a : Nat) : (State.repairWord s f a).Sound := by
  unfold State.repairWord
  repeat' first
    | with_reducible apply State.modField_sound
    | with_reducible apply foldl_sound
    | with_reducible refine of_snd (by with_reducible assumption) ?_
    | with_reducible refine of_fst (by with_reducible assumption) ?_
    | with_reducible refine of_trd (by with_reducible assumption) ?_
    | with_reducible assumption
    | split
    | intro _
    | with_reducible exact field_mk (by assumption)
    | with_reducible exact sound_mk (by assumption)
    | (with_reducible refine field_mk_map (by assumption) ?_; intro _ h; exact furrow_mk h)
    | with_reducible exact sound_zipMap (by assumption) fun _ _ h => field_mk h
    | with_reducible exact sound_runs (by assumption) (runs_filter (by assumption) _)
    | dsimp only
    | (with_reducible apply field_mk; first | split | with_reducible assumption)
    | (with_reducible apply sound_mk; first | split | with_reducible apply foldl_sound | with_reducible apply State.modField_sound | with_reducible apply State.modField_sound | with_reducible apply State.modFields_sound | with_reducible apply State.modPkg_sound | with_reducible apply State.modInst_sound | with_reducible apply State.modCmd_sound)

theorem FieldSt.cleared_sound {x : FieldSt} (_ : x.Sound) (keep sysHeld : Bool) : (x.cleared keep sysHeld).Sound :=
  ⟨rfl, rfl, fun _ hu => List.eq_of_mem_replicate hu ▸ furrow_default⟩

theorem State.cleared_sound {s : State} (hs : s.Sound) (keep : Bool) : (s.cleared keep).Sound :=
  sound_ports (ps := [{}, {}]) (sound_runs (rs := []) (sound_map hs fun _ hx => FieldSt.cleared_sound hx keep _) fun _ hr => nomatch hr)
    hs.2.1.symm

theorem State.forward_sound {s : State} (hs : s.Sound) (f : Nat) (t : LcState) : (State.forward s f t).Sound := by
  unfold State.forward
  repeat' first
    | with_reducible apply State.modPkg_sound
    | with_reducible apply State.modGran_sound
    | with_reducible assumption

theorem State.repairField_sound {s : State} (hs : s.Sound) (f : Nat) : (State.repairField s f).2.Sound := by
  unfold State.repairField
  repeat' first | with_reducible apply State.forward_sound | with_reducible assumption | split

theorem State.repairAll_sound {s : State} (hs : s.Sound) : (State.repairAll s).2.Sound := by
  unfold State.repairAll
  repeat' first
    | with_reducible apply State.repairField_sound
    | with_reducible apply State.forward_sound
    | with_reducible apply foldl_sound
    | with_reducible apply foldl_sound_snd
    | with_reducible refine of_snd (by with_reducible assumption) ?_
    | with_reducible assumption
    | split
    | intro _
    | dsimp only

theorem State.loadStore_sound {s : State} (hs : s.Sound) : s.loadStore.Sound := by
  unfold State.loadStore
  exact sound_mk_zip (State.modGran_sound hs _) fun _ _ h => FieldSt.putOpen_sound (field_mk h) _

theorem State.loadSettings_sound {s : State} (hs : s.Sound) : (State.loadSettings s).Sound := by
  unfold State.loadSettings
  repeat' first | with_reducible exact sound_mk (by assumption)

theorem State.startUp_sound {s : State} (hs : s.Sound) : (State.startUp s).Sound := by
  unfold State.startUp
  repeat' first
    | with_reducible apply State.modPkg_sound
    | with_reducible apply State.repairAll_sound
    | with_reducible apply State.loadStore_sound
    | with_reducible apply State.loadSettings_sound
    | with_reducible apply sound_mk_map
    | with_reducible assumption
    | intro _
    | with_reducible exact field_mk (by assumption)

theorem State.newNonce_sound {s : State} (hs : s.Sound) : (State.newNonce s).Sound := by
  unfold State.newNonce
  repeat' first
    | with_reducible apply State.steep_sound
    | with_reducible apply State.modPkg_sound
    | with_reducible assumption
    | split
    | dsimp only

theorem State.bootLane_sound {s : State} (hs : s.Sound) : s.bootLane.Sound := sound_ports hs (by rw [hs.2.1]; simp)

theorem State.endSelfTest_sound {s : State} (hs : s.Sound) (failed : List Nat) : (State.endSelfTest s failed).Sound := by
  unfold State.endSelfTest
  repeat' first
    | with_reducible apply State.bootLane_sound
    | with_reducible apply State.modPkg_sound
    | with_reducible apply State.syncAlert_sound
    | with_reducible apply State.zeroise_sound
    | with_reducible apply State.newNonce_sound
    | with_reducible apply foldl_sound
    | with_reducible apply sound_mk_zip
    | with_reducible assumption
    | split
    | intro _
    | with_reducible exact field_mk (by assumption)
    | dsimp only

end Sys2Proof.Machine
end

