-- ==== Sys2Proof/Laws/SoundLeaves.lean ====
section
/-! SUPPORT. The operations of Leaves keep the invariant State.Sound. -/
set_option Elab.async false
set_option linter.unusedTactic false
set_option linter.unreachableTactic false
namespace Sys2Proof.Machine

theorem State.modLeaf_sound {s : State} (hs : s.Sound) (h : Nat) (g : Leaf → Leaf) : (State.modLeaf s h g).Sound := by
  unfold State.modLeaf
  repeat' first | with_reducible apply State.modKey_sound | with_reducible assumption

theorem State.modStored_sound {s : State} (hs : s.Sound) (h : Nat) (g : Stored → Stored) : (State.modStored s h g).Sound := by
  unfold State.modStored
  repeat' first | with_reducible apply State.modGran_sound | with_reducible assumption

theorem State.lifeEvents_sound {s : State} (hs : s.Sound) (h : Nat) : (State.lifeEvents s h).Sound := by
  unfold State.lifeEvents
  repeat' first
    | with_reducible apply State.raise_sound
    | with_reducible apply State.modLeaf_sound
    | with_reducible assumption
    | split

theorem State.reserve_sound {s : State} (hs : s.Sound) (h : Nat) : (State.reserve s h).Sound := by
  unfold State.reserve
  repeat' first | with_reducible apply State.modLeaf_sound | with_reducible assumption

theorem State.recordLeaf_sound {s : State} (hs : s.Sound) (h : Nat) (hwm : Nat) : (State.recordLeaf s h hwm).Sound := by
  unfold State.recordLeaf
  repeat' first
    | with_reducible apply State.modLeaf_sound
    | with_reducible apply State.modStored_sound
    | with_reducible assumption
    | split

theorem State.tearLeaf_sound {s : State} (hs : s.Sound) (h : Nat) : (s.tearLeaf h).Sound := State.modStored_sound hs ..

theorem State.wakeSigners_sound {s : State} (hs : s.Sound) (h : Nat) : (State.wakeSigners s h).Sound := by
  unfold State.wakeSigners
  repeat' first | with_reducible exact sound_mk (by assumption)

theorem State.issueLeaf_sound {s : State} (hs : s.Sound) (h : Nat) : (State.issueLeaf s h).2.Sound := by
  unfold State.issueLeaf
  repeat' first
    | with_reducible apply State.modLeaf_sound
    | with_reducible apply State.reserve_sound
    | with_reducible apply State.lifeEvents_sound
    | with_reducible assumption

theorem State.restoreOne_sound {s : State} (hs : s.Sound) (r : Stored) : (State.restoreOne s r).Sound := by
  unfold State.restoreOne
  repeat' first
    | with_reducible apply State.allocPages_sound
    | with_reducible assumption
    | split
    | dsimp only
    | (with_reducible apply sound_mk; first | split | with_reducible apply foldl_sound | with_reducible apply State.allocPages_sound | with_reducible apply State.allocRange_sound | with_reducible apply State.modField_sound | with_reducible apply State.modFields_sound | with_reducible apply State.modPkg_sound | with_reducible apply State.modInst_sound | with_reducible apply State.modCmd_sound)

end Sys2Proof.Machine
end

