-- ==== Sys2Proof/Laws/SoundObjects.lean ====
section
/-! SUPPORT. The operations of Objects keep the invariant State.Sound. -/
set_option Elab.async false
set_option linter.unusedTactic false
set_option linter.unreachableTactic false
namespace Sys2Proof.Machine

theorem State.syncScan_sound {s : State} (hs : s.Sound) : (State.syncScan s).Sound := by
  unfold State.syncScan
  repeat' first | with_reducible apply State.modPkg_sound | with_reducible assumption | split

theorem State.dropSa_sound {s : State} (hs : s.Sound) (h : Nat) : (State.dropSa s h).Sound := by
  unfold State.dropSa
  repeat' first
    | with_reducible apply State.syncScan_sound
    | with_reducible apply sound_mk_map
    | with_reducible assumption
    | intro _
    | with_reducible exact field_mk (by assumption)

theorem State.dropHalf_sound (install : Bool) {s : State} (hs : s.Sound) (h : Nat) : (State.dropHalf install s h).Sound := by
  unfold State.dropHalf
  repeat' first
    | with_reducible apply State.destroyKey_sound
    | with_reducible apply State.dropSa_sound
    | with_reducible apply foldl_sound
    | with_reducible refine of_snd (by with_reducible assumption) ?_
    | with_reducible refine of_fst (by with_reducible assumption) ?_
    | with_reducible refine of_trd (by with_reducible assumption) ?_
    | with_reducible assumption
    | split
    | intro _
    | with_reducible exact field_mk (by assumption)
    | with_reducible exact sound_mk (by assumption)
    | (with_reducible refine field_mk_map (by assumption) ?_; intro _ h; exact furrow_mk h)
    | with_reducible exact sound_zipMap (by assumption) fun _ _ h => field_mk h
    | with_reducible exact sound_runs (by assumption) (runs_filter (by assumption) _)
    | dsimp only
    | (with_reducible apply field_mk; first | split | with_reducible assumption)
    | (with_reducible apply sound_mk; first | split | with_reducible apply foldl_sound | with_reducible apply State.destroyKey_sound | with_reducible apply State.dropSa_sound | with_reducible apply State.modField_sound | with_reducible apply State.modFields_sound | with_reducible apply State.modPkg_sound | with_reducible apply State.modInst_sound | with_reducible apply State.modCmd_sound)

theorem State.dropChild_sound (install : Bool) {s : State} (hs : s.Sound) (x : Child) : (State.dropChild install s x).Sound := by
  unfold State.dropChild
  repeat' first
    | with_reducible apply State.dropHalf_sound
    | with_reducible apply foldl_sound
    | with_reducible refine of_snd (by with_reducible assumption) ?_
    | with_reducible refine of_fst (by with_reducible assumption) ?_
    | with_reducible refine of_trd (by with_reducible assumption) ?_
    | with_reducible assumption
    | split
    | intro _
    | with_reducible exact field_mk (by assumption)
    | with_reducible exact sound_mk (by assumption)
    | (with_reducible refine field_mk_map (by assumption) ?_; intro _ h; exact furrow_mk h)
    | with_reducible exact sound_zipMap (by assumption) fun _ _ h => field_mk h
    | with_reducible exact sound_runs (by assumption) (runs_filter (by assumption) _)
    | dsimp only
    | (with_reducible apply field_mk; first | split | with_reducible assumption)
    | (with_reducible apply sound_mk; first | split | with_reducible apply foldl_sound | with_reducible apply State.dropHalf_sound | with_reducible apply State.modField_sound | with_reducible apply State.modFields_sound | with_reducible apply State.modPkg_sound | with_reducible apply State.modInst_sound | with_reducible apply State.modCmd_sound)

theorem State.dropIke_sound {s : State} (hs : s.Sound) (h : Nat) : (State.dropIke s h).Sound := by
  unfold State.dropIke
  repeat' first
    | with_reducible apply State.freePages_sound
    | with_reducible apply State.dropChild_sound
    | with_reducible apply foldl_sound
    | with_reducible refine of_snd (by with_reducible assumption) ?_
    | with_reducible refine of_fst (by with_reducible assumption) ?_
    | with_reducible refine of_trd (by with_reducible assumption) ?_
    | with_reducible assumption
    | split
    | intro _
    | with_reducible exact field_mk (by assumption)
    | with_reducible exact sound_mk (by assumption)
    | (with_reducible refine field_mk_map (by assumption) ?_; intro _ h; exact furrow_mk h)
    | with_reducible exact sound_zipMap (by assumption) fun _ _ h => field_mk h
    | with_reducible exact sound_runs (by assumption) (runs_filter (by assumption) _)
    | dsimp only
    | (with_reducible apply field_mk; first | split | with_reducible assumption)
    | (with_reducible apply sound_mk; first | split | with_reducible apply foldl_sound | with_reducible apply State.freePages_sound | with_reducible apply State.dropChild_sound | with_reducible apply State.modField_sound | with_reducible apply State.modFields_sound | with_reducible apply State.modPkg_sound | with_reducible apply State.modInst_sound | with_reducible apply State.modCmd_sound)

theorem State.dropImage_sound {s : State} (hs : s.Sound) (h : Nat) : (State.dropImage s h).Sound := by
  unfold State.dropImage
  repeat' first | with_reducible exact sound_mk (by assumption)

theorem State.dropIkes_sound {s : State} (hs : s.Sound) (i : Nat) : (State.dropIkes s i).Sound := by
  unfold State.dropIkes
  repeat' first
    | with_reducible apply State.dropIke_sound
    | with_reducible apply State.raise_sound
    | with_reducible apply foldl_sound
    | with_reducible assumption
    | split
    | intro _

theorem State.destroyTransient_sound {s : State} (hs : s.Sound) (i : Nat) : (State.destroyTransient s i).Sound := by
  unfold State.destroyTransient
  repeat' first
    | with_reducible apply State.dropIkes_sound
    | with_reducible apply State.dropSa_sound
    | with_reducible apply State.destroyKey_sound
    | with_reducible apply foldl_sound
    | with_reducible apply sound_mk_map
    | with_reducible assumption
    | intro _
    | with_reducible exact field_mk (by assumption)

theorem State.destroyImages_sound {s : State} (hs : s.Sound) (i : Nat) : (State.destroyImages s i).Sound := by
  unfold State.destroyImages
  repeat' first
    | with_reducible apply State.dropImage_sound
    | with_reducible apply State.modInst_sound
    | with_reducible apply foldl_sound
    | with_reducible assumption
    | split
    | intro _

end Sys2Proof.Machine
end

