-- ==== Sys2Proof/Laws/SoundBoot.lean ====
section
/-! SUPPORT. The operations of Boot keep the invariant State.Sound. -/
set_option Elab.async false
set_option linter.unusedTactic false
set_option linter.unreachableTactic false
namespace Sys2Proof.Machine

theorem execPowerUp_sound (strap : BitVec 6) {s : State} (hs : s.Sound) : Keeps (execPowerUp strap s) := by
  unfold execPowerUp
  apply keeps_next
  repeat' first
    | with_reducible apply State.modPkg_sound
    | with_reducible apply State.cleared_sound
    | with_reducible assumption
    | split

theorem execResetNAssert_sound (longEnough : Bool) {s : State} (hs : s.Sound) : Keeps (execResetNAssert longEnough s) := by
  unfold execResetNAssert
  apply keeps_next
  repeat' first
    | with_reducible apply State.modPkg_sound
    | with_reducible apply State.cleared_sound
    | with_reducible assumption
    | split

theorem State.glitch_sound {s : State} (hs : s.Sound) : (State.glitch s).Sound := by
  unfold State.glitch
  repeat' first
    | with_reducible apply State.fresh_sound
    | with_reducible apply State.syncAlert_sound
    | with_reducible apply State.packageLock_sound
    | with_reducible apply State.alarmField_sound
    | with_reducible apply foldl_sound
    | with_reducible assumption
    | intro _

theorem execPowerDown_sound {s : State} (hs : s.Sound) : Keeps (execPowerDown s) := by
  unfold execPowerDown
  apply keeps_next
  have h : ({ s.glitch with cmds := [], xfers := [], runs := [], txq := [] } : State).Sound :=
    ⟨(State.glitch_sound hs).1, (State.glitch_sound hs).2.1, (State.glitch_sound hs).2.2.1, by simp⟩
  repeat' first
    | with_reducible apply State.modPkg_sound
    | with_reducible apply State.glitch_sound
    | with_reducible assumption
    | split

theorem execResetNRelease_sound {s : State} (hs : s.Sound) : Keeps (execResetNRelease s) := by
  unfold execResetNRelease
  apply keeps_next
  repeat' first
    | with_reducible apply State.startUp_sound
    | with_reducible apply State.modPkg_sound
    | with_reducible apply State.cleared_sound
    | with_reducible assumption
    | split

theorem execSelfTestComplete_sound (failed : List Nat) {s : State} (hs : s.Sound) : Keeps (execSelfTestComplete failed s) := by
  unfold execSelfTestComplete
  apply keeps_next
  repeat' first | with_reducible apply State.endSelfTest_sound | with_reducible assumption | split

theorem execSelfTestTimeout_sound (field : Nat) {s : State} (hs : s.Sound) : Keeps (execSelfTestTimeout field s) := by
  unfold execSelfTestTimeout
  apply keeps_next
  repeat' first
    | with_reducible apply State.modField_sound
    | with_reducible assumption
    | split
    | intro _
    | with_reducible exact field_mk (by assumption)

theorem execBootstrapLinkUp_sound {s : State} (hs : s.Sound) : Keeps (execBootstrapLinkUp s) := by
  unfold execBootstrapLinkUp
  apply keeps_next
  repeat' first
    | with_reducible apply State.flushTx_sound
    | with_reducible apply State.modPort_sound
    | with_reducible assumption
    | split

theorem execHostLinkUp_sound (port : Nat) (partner : List EthForm) {s : State} (hs : s.Sound) : Keeps (execHostLinkUp port partner s) := by
  unfold execHostLinkUp
  apply keeps_next
  repeat' first
    | with_reducible apply State.flushTx_sound
    | with_reducible apply State.modPort_sound
    | with_reducible assumption
    | split

theorem execHostLinkDown_sound (port : Nat) {s : State} (hs : s.Sound) : Keeps (execHostLinkDown port s) := by
  unfold execHostLinkDown
  apply keeps_next
  repeat' first | with_reducible apply State.portDown_sound | with_reducible assumption

theorem execRefclkSdStop_sound {s : State} (hs : s.Sound) : Keeps (execRefclkSdStop s) := by
  unfold execRefclkSdStop
  apply keeps_next
  repeat' first
    | with_reducible apply State.modPkg_sound
    | with_reducible apply State.portDown_sound
    | with_reducible assumption

theorem execRefclkSdReturn_sound {s : State} (hs : s.Sound) : Keeps (execRefclkSdReturn s) := by
  unfold execRefclkSdReturn
  apply keeps_next
  repeat' first | with_reducible apply State.modPkg_sound | with_reducible assumption

theorem execRefclkSysStop_sound {s : State} (hs : s.Sound) : Keeps (execRefclkSysStop s) := by
  unfold execRefclkSysStop
  apply keeps_next
  repeat' first
    | with_reducible apply State.modPkg_sound
    | with_reducible apply State.modFields_sound
    | with_reducible assumption
    | intro _
    | with_reducible exact field_mk (by assumption)

theorem execRefclkSysReturn_sound {s : State} (hs : s.Sound) : Keeps (execRefclkSysReturn s) := by
  unfold execRefclkSysReturn
  apply keeps_next
  repeat' first
    | with_reducible apply State.modPkg_sound
    | with_reducible apply State.modFields_sound
    | with_reducible assumption
    | intro _
    | with_reducible exact field_mk (by assumption)

theorem execVddCoreBelow075V_sound (field : Nat) {s : State} (hs : s.Sound) : Keeps (execVddCoreBelow075V field s) := by
  unfold execVddCoreBelow075V
  apply keeps_next
  repeat' first
    | with_reducible apply State.limitPoints_sound
    | with_reducible apply State.modField_sound
    | with_reducible assumption
    | intro _
    | with_reducible exact field_mk (by assumption)

theorem execVppFuseVoltageOutsideTest_sound (field : Nat) {s : State} (hs : s.Sound) : Keeps (execVppFuseVoltageOutsideTest field s) := by
  unfold execVppFuseVoltageOutsideTest
  apply keeps_next
  repeat' first | with_reducible apply State.log_sound | with_reducible assumption | split

theorem execJtagTapAccess_sound (j : JtagOp) {s : State} (hs : s.Sound) : Keeps (execJtagTapAccess j s) := by
  unfold execJtagTapAccess
  apply keeps_next
  repeat' first
    | with_reducible apply State.modPkg_sound
    | with_reducible apply State.fresh_sound
    | with_reducible assumption
    | split

end Sys2Proof.Machine
end

