-- ==== Sys2Proof/Laws/SoundEnable.lean ====
section
/-! SUPPORT. The operations of Enable keep the invariant State.Sound. -/
set_option Elab.async false
set_option linter.unusedTactic false
set_option linter.unreachableTactic false
namespace Sys2Proof.Machine

theorem State.setModes_sound {s : State} (hs : s.Sound) (new : Nat) : (State.setModes s new).Sound := by
  unfold State.setModes
  repeat' first
    | with_reducible apply State.modPkg_sound
    | with_reducible apply State.settlePause_sound
    | with_reducible apply State.dropPackets_sound
    | with_reducible apply State.portDown_sound
    | with_reducible apply foldl_sound
    | with_reducible refine of_snd (by with_reducible assumption) ?_
    | with_reducible refine of_fst (by with_reducible assumption) ?_
    | with_reducible refine of_trd (by with_reducible assumption) ?_
    | with_reducible assumption
    | split
    | intro _
    | with_reducible exact field_mk (by assumption)
    | with_reducible exact sound_mk (by assumption)
    | (with_reducible refine field_mk_map (by assumption) ?_; intro _ h; exact furrow_mk h)
    | with_reducible exact sound_zipMap (by assumption) fun _ _ h => field_mk h
    | with_reducible exact sound_runs (by assumption) (runs_filter (by assumption) _)
    | dsimp only
    | (with_reducible apply field_mk; first | split | with_reducible assumption)
    | (with_reducible apply sound_mk; first | split | with_reducible apply foldl_sound | with_reducible apply State.modPkg_sound | with_reducible apply State.settlePause_sound | with_reducible apply State.dropPackets_sound | with_reducible apply State.portDown_sound | with_reducible apply State.modField_sound | with_reducible apply State.modFields_sound | with_reducible apply State.modPkg_sound | with_reducible apply State.modInst_sound | with_reducible apply State.modCmd_sound)

theorem State.reconfigure_sound {s : State} (hs : s.Sound) : s.reconfigure.Sound := sound_ports hs (by rw [hs.2.1]; simp)

theorem State.enableStart_sound {s : State} (hs : s.Sound) : (State.enableStart s).Sound := by
  unfold State.enableStart
  repeat' first | with_reducible exact sound_mk (by assumption)

theorem State.enableMemory_sound {s : State} (hs : s.Sound) : (State.enableMemory s).Sound := by
  unfold State.enableMemory
  repeat' first
    | with_reducible apply sound_mk_zip
    | with_reducible assumption
    | split
    | intro _
    | with_reducible exact field_mk (by assumption)

theorem State.enableTenants_sound {s : State} (hs : s.Sound) : (State.enableTenants s).Sound := by
  unfold State.enableTenants
  repeat' first
    | with_reducible assumption
    | split
    | with_reducible exact sound_mk (by assumption)
    | dsimp only
    | (with_reducible apply sound_mk; first | split | with_reducible apply foldl_sound | with_reducible apply State.modInst_sound | with_reducible apply State.modField_sound | with_reducible apply State.modFields_sound | with_reducible apply State.modPkg_sound | with_reducible apply State.modCmd_sound)

theorem State.enableKeys_sound {s : State} (hs : s.Sound) : (State.enableKeys s).Sound := by
  unfold State.enableKeys
  repeat' first
    | with_reducible apply State.restoreOne_sound
    | with_reducible apply foldl_sound
    | with_reducible assumption
    | intro _

theorem State.enableModes_sound {s : State} (hs : s.Sound) : (State.enableModes s).Sound := by
  unfold State.enableModes
  repeat' first
    | with_reducible apply State.setModes_sound
    | with_reducible apply State.modPkg_sound
    | with_reducible apply foldl_sound
    | with_reducible assumption
    | split
    | intro _

theorem State.enableFields_sound {s : State} (hs : s.Sound) : (State.enableFields s).Sound := by
  unfold State.enableFields
  repeat' first
    | (with_reducible apply field_mk; with_reducible apply FieldSt.putOpen_sound; with_reducible assumption)
    | with_reducible apply State.modPkg_sound
    | with_reducible apply sound_mk_zip
    | with_reducible assumption
    | split
    | intro _
    | with_reducible exact field_mk (by assumption)
    | dsimp only

theorem State.enableAll_sound {s : State} (hs : s.Sound) : (State.enableAll s).Sound := by
  unfold State.enableAll
  repeat' first
    | with_reducible apply State.enableFields_sound
    | with_reducible apply State.enableModes_sound
    | with_reducible apply State.enableKeys_sound
    | with_reducible apply State.enableTenants_sound
    | with_reducible apply State.enableMemory_sound
    | with_reducible apply State.enableStart_sound
    | with_reducible assumption

theorem enableDesc_sound : enableDesc.Sound := by
  unfold enableDesc
  refine ⟨fun hs c => ?_, fun hs c => ?_, fun hs c => ?_, fun hs c x => ?_, fun hs c => ?_, fun hs c => ?_, fun hs c => ?_⟩ <;> dsimp only
  all_goals
    repeat' first
      | with_reducible apply State.modPkg_sound
      | with_reducible apply State.enableAll_sound
      | with_reducible assumption

theorem execEnable_sound (r : CmdRec) {s : State} (hs : s.Sound) : Keeps (execEnable r s) := by
  unfold execEnable
  apply keeps_next
  repeat' first | with_reducible apply runCommand_sound | with_reducible apply enableDesc_sound | with_reducible assumption

theorem State.afterEnable_sound {s : State} (hs : s.Sound) : (State.afterEnable s).Sound := by
  unfold State.afterEnable
  repeat' first
    | with_reducible apply State.reconfigure_sound
    | with_reducible apply State.lifeEvents_sound
    | with_reducible apply State.modPkg_sound
    | with_reducible apply State.raise_sound
    | with_reducible apply foldl_sound
    | with_reducible assumption
    | split
    | intro _
    | dsimp only

end Sys2Proof.Machine
end

