-- ==== Sys2Proof/Laws/SoundRelease.lean ====
section
/-! SUPPORT. The operations of Release keep the invariant State.Sound. -/
set_option Elab.async false
set_option linter.unusedTactic false
set_option linter.unreachableTactic false
namespace Sys2Proof.Machine

theorem State.packageReset_sound {s : State} (hs : s.Sound) (but : Nat) : (State.packageReset s but).Sound := by
  unfold State.packageReset
  repeat' first
    | with_reducible apply State.raise_sound
    | with_reducible apply foldl_sound
    | with_reducible assumption
    | intro _

theorem State.leavePending_sound {s : State} (hs : s.Sound) (p : Nat) : (State.leavePending s p).Sound := by
  unfold State.leavePending
  repeat' first
    | with_reducible apply State.modPort_sound
    | with_reducible apply State.flushTx_sound
    | with_reducible apply foldl_sound
    | with_reducible refine of_snd (by with_reducible assumption) ?_
    | with_reducible refine of_fst (by with_reducible assumption) ?_
    | with_reducible refine of_trd (by with_reducible assumption) ?_
    | with_reducible assumption
    | split
    | intro _
    | with_reducible exact field_mk (by assumption)
    | with_reducible exact sound_mk (by assumption)
    | (with_reducible refine field_mk_map (by assumption) ?_; intro _ h; exact furrow_mk h)
    | with_reducible exact sound_zipMap (by assumption) fun _ _ h => field_mk h
    | with_reducible exact sound_runs (by assumption) (runs_filter (by assumption) _)
    | dsimp only
    | (with_reducible apply field_mk; first | split | with_reducible assumption)
    | (with_reducible apply sound_mk; first | split | with_reducible apply foldl_sound | with_reducible apply State.modPort_sound | with_reducible apply State.flushTx_sound | with_reducible apply State.modField_sound | with_reducible apply State.modFields_sound | with_reducible apply State.modPkg_sound | with_reducible apply State.modInst_sound | with_reducible apply State.modCmd_sound)

theorem State.dropClosed_sound {s : State} (hs : s.Sound) (c : Cmd) : (State.dropClosed s c).Sound := by
  unfold State.dropClosed
  repeat' first
    | with_reducible apply State.dropIke_sound
    | with_reducible apply foldl_sound
    | with_reducible refine of_snd (by with_reducible assumption) ?_
    | with_reducible refine of_fst (by with_reducible assumption) ?_
    | with_reducible refine of_trd (by with_reducible assumption) ?_
    | with_reducible assumption
    | split
    | intro _
    | with_reducible exact field_mk (by assumption)
    | with_reducible exact sound_mk (by assumption)
    | (with_reducible refine field_mk_map (by assumption) ?_; intro _ h; exact furrow_mk h)
    | with_reducible exact sound_zipMap (by assumption) fun _ _ h => field_mk h
    | with_reducible exact sound_runs (by assumption) (runs_filter (by assumption) _)
    | dsimp only
    | (with_reducible apply field_mk; first | split | with_reducible assumption)
    | (with_reducible apply sound_mk; first | split | with_reducible apply foldl_sound | with_reducible apply State.dropIke_sound | with_reducible apply State.modField_sound | with_reducible apply State.modFields_sound | with_reducible apply State.modPkg_sound | with_reducible apply State.modInst_sound | with_reducible apply State.modCmd_sound)

theorem State.afterReply_sound {s : State} (hs : s.Sound) (c : Cmd) : (State.afterReply s c).Sound := by
  unfold State.afterReply
  repeat' first
    | with_reducible apply State.modPkg_sound
    | with_reducible apply State.sendCredit_sound
    | with_reducible apply State.creditUncaused_sound
    | with_reducible apply State.afterEnable_sound
    | with_reducible apply State.packageReset_sound
    | with_reducible apply State.leavePending_sound
    | with_reducible apply State.dropClosed_sound
    | with_reducible apply foldl_sound
    | with_reducible refine of_snd (by with_reducible assumption) ?_
    | with_reducible refine of_fst (by with_reducible assumption) ?_
    | with_reducible refine of_trd (by with_reducible assumption) ?_
    | with_reducible assumption
    | split
    | intro _
    | with_reducible exact field_mk (by assumption)
    | with_reducible exact sound_mk (by assumption)
    | (with_reducible refine field_mk_map (by assumption) ?_; intro _ h; exact furrow_mk h)
    | with_reducible exact sound_zipMap (by assumption) fun _ _ h => field_mk h
    | with_reducible exact sound_runs (by assumption) (runs_filter (by assumption) _)
    | dsimp only
    | (with_reducible apply field_mk; first | split | with_reducible assumption)
    | (with_reducible apply sound_mk; first | split | with_reducible apply foldl_sound | with_reducible apply State.modPkg_sound | with_reducible apply State.sendCredit_sound | with_reducible apply State.creditUncaused_sound | with_reducible apply State.afterEnable_sound | with_reducible apply State.packageReset_sound | with_reducible apply State.leavePending_sound | with_reducible apply State.dropClosed_sound | with_reducible apply State.modField_sound | with_reducible apply State.modFields_sound | with_reducible apply State.modPkg_sound | with_reducible apply State.modInst_sound | with_reducible apply State.modCmd_sound)

theorem State.letIn_sound {s : State} (hs : s.Sound) (c : Cmd) : (State.letIn s c).Sound := by
  unfold State.letIn
  repeat' first

    | with_reducible apply foldl_sound
    | with_reducible refine of_snd (by with_reducible assumption) ?_
    | with_reducible refine of_fst (by with_reducible assumption) ?_
    | with_reducible refine of_trd (by with_reducible assumption) ?_
    | with_reducible assumption
    | split
    | intro _
    | with_reducible exact field_mk (by assumption)
    | with_reducible exact sound_mk (by assumption)
    | (with_reducible refine field_mk_map (by assumption) ?_; intro _ h; exact furrow_mk h)
    | with_reducible exact sound_zipMap (by assumption) fun _ _ h => field_mk h
    | with_reducible exact sound_runs (by assumption) (runs_filter (by assumption) _)
    | dsimp only
    | (with_reducible apply field_mk; first | split | with_reducible assumption)
    | (with_reducible apply sound_mk; first | split | with_reducible apply foldl_sound | with_reducible apply State.modField_sound | with_reducible apply State.modFields_sound | with_reducible apply State.modPkg_sound | with_reducible apply State.modInst_sound | with_reducible apply State.modCmd_sound)

theorem State.release_sound {s : State} (hs : s.Sound) (c : Cmd) (r : Reply) : (State.release s c r).Sound := by
  unfold State.release
  repeat' first
    | with_reducible apply State.modInst_sound
    | with_reducible apply State.sendRecord_sound
    | with_reducible apply State.countClass_sound
    | with_reducible apply State.afterReply_sound
    | with_reducible apply State.letIn_sound
    | with_reducible apply foldl_sound
    | with_reducible refine of_snd (by with_reducible assumption) ?_
    | with_reducible refine of_fst (by with_reducible assumption) ?_
    | with_reducible refine of_trd (by with_reducible assumption) ?_
    | with_reducible assumption
    | split
    | intro _
    | with_reducible exact field_mk (by assumption)
    | with_reducible exact sound_mk (by assumption)
    | (with_reducible refine field_mk_map (by assumption) ?_; intro _ h; exact furrow_mk h)
    | with_reducible exact sound_zipMap (by assumption) fun _ _ h => field_mk h
    | with_reducible exact sound_runs (by assumption) (runs_filter (by assumption) _)
    | dsimp only
    | (with_reducible apply field_mk; first | split | with_reducible assumption)
    | (with_reducible apply sound_mk; first | split | with_reducible apply foldl_sound | with_reducible apply State.modInst_sound | with_reducible apply State.sendRecord_sound | with_reducible apply State.countClass_sound | with_reducible apply State.afterReply_sound | with_reducible apply State.letIn_sound | with_reducible apply State.modField_sound | with_reducible apply State.modFields_sound | with_reducible apply State.modPkg_sound | with_reducible apply State.modInst_sound | with_reducible apply State.modCmd_sound)

theorem execReplyRelease_sound (inst : Nat) (tag : Nat) {s : State} (hs : s.Sound) : Keeps (execReplyRelease inst tag s) := by
  unfold execReplyRelease
  apply keeps_next
  repeat' first | with_reducible apply State.release_sound | with_reducible assumption | split

theorem execPadExpiry_sound (inst : Nat) (tag : Nat) {s : State} (hs : s.Sound) : Keeps (execPadExpiry inst tag s) := by
  unfold execPadExpiry
  apply keeps_next
  repeat' first
    | with_reducible apply State.modCmd_sound
    | with_reducible apply State.modField_sound
    | with_reducible assumption
    | split
    | intro _
    | with_reducible exact field_mk (by assumption)

theorem execPending_sound (inst : Nat) (tag : Nat) {s : State} (hs : s.Sound) : Keeps (execPending inst tag s) := by
  unfold execPending
  apply keeps_next
  repeat' first
    | with_reducible apply State.modCmd_sound
    | with_reducible apply State.sendRecord_sound
    | with_reducible assumption
    | split

theorem execRngWaitExpiry_sound (inst : Nat) (tag : Nat) {s : State} (hs : s.Sound) : Keeps (execRngWaitExpiry inst tag s) := by
  unfold execRngWaitExpiry
  apply keeps_next
  repeat' first | with_reducible apply State.complete_sound | with_reducible assumption | split

theorem execEventSend_sound (inst : Nat) {s : State} (hs : s.Sound) : Keeps (execEventSend inst s) := by
  unfold execEventSend
  apply keeps_next
  repeat' first | with_reducible apply State.eventSend_sound | with_reducible assumption | split

theorem resetDesc_sound : resetDesc.Sound := by
  unfold resetDesc
  refine ⟨fun hs c => ?_, fun hs c => ?_, fun hs c => ?_, fun hs c x => ?_, fun hs c => ?_, fun hs c => ?_, fun hs c => ?_⟩ <;> dsimp only
  all_goals
    repeat' first
      | with_reducible apply State.stopAdmission_sound
      | with_reducible apply foldl_sound
      | with_reducible refine of_snd (by with_reducible assumption) ?_
      | with_reducible refine of_fst (by with_reducible assumption) ?_
      | with_reducible refine of_trd (by with_reducible assumption) ?_
      | with_reducible assumption
      | split
      | intro _
      | with_reducible exact field_mk (by assumption)
      | with_reducible exact sound_mk (by assumption)
      | dsimp only

theorem State.releaseReset_sound {s : State} (hs : s.Sound) (i t : Nat) : (s.releaseReset i t).Sound := by
  unfold State.releaseReset
  repeat' first | with_reducible apply State.release_sound | with_reducible assumption | split

theorem execReset_sound (r : CmdRec) {s : State} (hs : s.Sound) : Keeps (execReset r s) :=
  keeps_next (State.releaseReset_sound (runCommand_sound _ resetDesc_sound r hs) ..)

theorem State.finishWrites_sound {s : State} (hs : s.Sound) : s.finishWrites.Sound :=
  foldl_sound _ hs fun _ _ h => State.modLeaf_sound (State.recordLeaf_sound h ..) ..

theorem execResetExecute_sound {s : State} (hs : s.Sound) : Keeps (execResetExecute s) := by
  unfold execResetExecute
  apply keeps_next
  repeat' first
    | with_reducible apply State.startUp_sound
    | with_reducible apply State.cleared_sound
    | with_reducible apply State.finishWrites_sound
    | with_reducible assumption
    | split

end Sys2Proof.Machine
end

