-- ==== Sys2Proof/Laws/SoundControl.lean ====
section
/-! SUPPORT. The operations of Control keep the invariant State.Sound. -/
set_option Elab.async false
set_option linter.unusedTactic false
set_option linter.unreachableTactic false
namespace Sys2Proof.Machine

theorem identifyDesc_sound : identifyDesc.Sound where
  body hs _ := hs

theorem execIdentify_sound (r : CmdRec) {s : State} (hs : s.Sound) : Keeps (execIdentify r s) := by
  unfold execIdentify
  apply keeps_next
  repeat' first
    | with_reducible apply runCommand_sound
    | with_reducible apply identifyDesc_sound
    | with_reducible assumption

theorem echoDesc_sound : echoDesc.Sound where
  body hs _ := hs

theorem execEcho_sound (r : CmdRec) {s : State} (hs : s.Sound) : Keeps (execEcho r s) := by
  unfold execEcho
  apply keeps_next
  repeat' first | with_reducible apply runCommand_sound | with_reducible apply echoDesc_sound | with_reducible assumption

theorem State.toFallow_sound {s : State} (hs : s.Sound) : (State.toFallow s).Sound := by
  unfold State.toFallow
  repeat' first
    | with_reducible apply State.flushField_sound
    | with_reducible apply State.modPkg_sound
    | with_reducible apply State.modFields_sound
    | with_reducible apply foldl_sound
    | with_reducible assumption
    | split
    | intro _
    | with_reducible exact field_mk (by assumption)

theorem fallowDesc_sound : fallowDesc.Sound := by
  unfold fallowDesc
  refine ⟨fun hs c => ?_, fun hs c => ?_, fun hs c => ?_, fun hs c x => ?_, fun hs c => ?_, fun hs c => ?_, fun hs c => ?_⟩ <;> dsimp only
  all_goals
    repeat' first
      | with_reducible apply State.modCmd_sound
      | with_reducible apply State.toFallow_sound
      | with_reducible assumption
      | split

theorem execFallow_sound (r : CmdRec) {s : State} (hs : s.Sound) : Keeps (execFallow r s) := by
  unfold execFallow
  apply keeps_next
  repeat' first | with_reducible apply runCommand_sound | with_reducible apply fallowDesc_sound | with_reducible assumption

theorem execFallowDrainDone_sound {s : State} (hs : s.Sound) : Keeps (execFallowDrainDone s) := by
  unfold execFallowDrainDone
  apply keeps_next
  repeat' first | with_reducible apply State.complete_sound | with_reducible assumption | split

theorem wakeDesc_sound : wakeDesc.Sound := by
  unfold wakeDesc
  refine ⟨fun hs c => ?_, fun hs c => ?_, fun hs c => ?_, fun hs c x => ?_, fun hs c => ?_, fun hs c => ?_, fun hs c => ?_⟩ <;> dsimp only
  all_goals
    repeat' first
      | with_reducible apply State.modFields_sound
      | with_reducible apply State.modPkg_sound
      | with_reducible assumption
      | split
      | intro _
      | with_reducible exact field_mk (by assumption)

theorem execWake_sound (r : CmdRec) {s : State} (hs : s.Sound) : Keeps (execWake r s) := by
  unfold execWake
  apply keeps_next
  repeat' first | with_reducible apply runCommand_sound | with_reducible apply wakeDesc_sound | with_reducible assumption

theorem State.toRecovery_sound {s : State} (hs : s.Sound) : (State.toRecovery s).Sound := by
  unfold State.toRecovery
  repeat' first
    | with_reducible apply State.modFields_sound
    | with_reducible apply State.modPkg_sound
    | with_reducible apply State.settlePause_sound
    | with_reducible apply State.dropPackets_sound
    | with_reducible apply State.admitAgain_sound
    | with_reducible apply State.destroyTransient_sound
    | with_reducible apply foldl_sound
    | with_reducible refine of_snd (by with_reducible assumption) ?_
    | with_reducible refine of_fst (by with_reducible assumption) ?_
    | with_reducible refine of_trd (by with_reducible assumption) ?_
    | with_reducible assumption
    | split
    | intro _
    | with_reducible exact field_mk (by assumption)
    | with_reducible exact sound_mk (by assumption)
    | (with_reducible refine field_mk_map (by assumption) ?_; intro _ h; exact furrow_mk h)
    | with_reducible exact sound_zipMap (by assumption) fun _ _ h => field_mk h
    | with_reducible exact sound_runs (by assumption) (runs_filter (by assumption) _)
    | dsimp only
    | (with_reducible apply field_mk; first | split | with_reducible assumption)
    | (with_reducible apply sound_mk; first | split | with_reducible apply foldl_sound | with_reducible apply State.modFields_sound | with_reducible apply State.modPkg_sound | with_reducible apply State.settlePause_sound | with_reducible apply State.dropPackets_sound | with_reducible apply State.admitAgain_sound | with_reducible apply State.destroyTransient_sound | with_reducible apply State.modField_sound | with_reducible apply State.modFields_sound | with_reducible apply State.modPkg_sound | with_reducible apply State.modInst_sound | with_reducible apply State.modCmd_sound)

theorem recoverDesc_sound : recoverDesc.Sound := by
  unfold recoverDesc
  refine ⟨fun hs c => ?_, fun hs c => ?_, fun hs c => ?_, fun hs c x => ?_, fun hs c => ?_, fun hs c => ?_, fun hs c => ?_⟩ <;> dsimp only
  all_goals
    repeat' first
      | with_reducible apply State.stopAdmission_sound
      | with_reducible apply State.toRecovery_sound
      | with_reducible apply foldl_sound
      | with_reducible refine of_snd (by with_reducible assumption) ?_
      | with_reducible refine of_fst (by with_reducible assumption) ?_
      | with_reducible refine of_trd (by with_reducible assumption) ?_
      | with_reducible assumption
      | split
      | intro _
      | with_reducible exact field_mk (by assumption)
      | with_reducible exact sound_mk (by assumption)
      | dsimp only

theorem execRecover_sound (r : CmdRec) {s : State} (hs : s.Sound) : Keeps (execRecover r s) := by
  unfold execRecover
  apply keeps_next
  repeat' first | with_reducible apply runCommand_sound | with_reducible apply recoverDesc_sound | with_reducible assumption

theorem execRecoverDrainTimeout_sound {s : State} (hs : s.Sound) : Keeps (execRecoverDrainTimeout s) := by
  unfold execRecoverDrainTimeout
  apply keeps_next
  repeat' first
    | with_reducible apply State.endAll_sound
    | with_reducible apply State.complete_sound
    | with_reducible apply State.toRecovery_sound
    | with_reducible assumption
    | split

theorem State.modeValues_sound {s : State} (hs : s.Sound) (c : Cmd) : (State.modeValues s c).Sound := by
  unfold State.modeValues
  repeat' first | with_reducible assumption | split | with_reducible exact sound_mk (by assumption)

theorem modeSetDesc_sound : modeSetDesc.Sound := by
  unfold modeSetDesc
  refine ⟨fun hs c => ?_, fun hs c => ?_, fun hs c => ?_, fun hs c x => ?_, fun hs c => ?_, fun hs c => ?_, fun hs c => ?_⟩ <;> dsimp only
  all_goals
    repeat' first
      | with_reducible apply State.modCmd_sound
      | with_reducible apply State.setModes_sound
      | with_reducible apply State.modeValues_sound
      | with_reducible apply foldl_sound
      | with_reducible refine of_snd (by with_reducible assumption) ?_
      | with_reducible refine of_fst (by with_reducible assumption) ?_
      | with_reducible refine of_trd (by with_reducible assumption) ?_
      | with_reducible assumption
      | split
      | intro _
      | with_reducible exact field_mk (by assumption)
      | with_reducible exact sound_mk (by assumption)
      | dsimp only

theorem execModeSet_sound (r : CmdRec) {s : State} (hs : s.Sound) : Keeps (execModeSet r s) := by
  unfold execModeSet
  apply keeps_next
  repeat' first | with_reducible apply runCommand_sound | with_reducible apply modeSetDesc_sound | with_reducible assumption

theorem macsecSaDesc_sound : macsecSaDesc.Sound := by
  unfold macsecSaDesc
  refine ⟨fun hs c => ?_, fun hs c => ?_, fun hs c => ?_, fun hs c x => ?_, fun hs c => ?_, fun hs c => ?_, fun hs c => ?_⟩ <;> dsimp only
  all_goals
    repeat' first
      | with_reducible apply State.modPort_sound
      | with_reducible apply State.modCmd_sound
      | with_reducible apply State.flushTx_sound
      | with_reducible apply foldl_sound
      | with_reducible refine of_snd (by with_reducible assumption) ?_
      | with_reducible refine of_fst (by with_reducible assumption) ?_
      | with_reducible refine of_trd (by with_reducible assumption) ?_
      | with_reducible assumption
      | split
      | intro _
      | with_reducible exact field_mk (by assumption)
      | with_reducible exact sound_mk (by assumption)
      | dsimp only

theorem execMacsecSa_sound (r : CmdRec) {s : State} (hs : s.Sound) : Keeps (execMacsecSa r s) := by
  unfold execMacsecSa
  apply keeps_next
  repeat' first
    | with_reducible apply runCommand_sound
    | with_reducible apply macsecSaDesc_sound
    | with_reducible assumption

end Sys2Proof.Machine
end

