-- ==== Sys2Proof/Laws/SoundInstanceReset.lean ====
section
/-! SUPPORT. The operations of InstanceReset keep the invariant State.Sound. -/
set_option Elab.async false
set_option linter.unusedTactic false
set_option linter.unreachableTactic false
namespace Sys2Proof.Machine

theorem State.resetInstance_sound {s : State} (hs : s.Sound) (c : Cmd) (t : Nat) : (State.resetInstance s c t).2.Sound := by
  unfold State.resetInstance
  repeat' first
    | with_reducible apply State.modInst_sound
    | with_reducible apply State.modCmd_sound
    | with_reducible apply State.setDone_sound
    | with_reducible apply State.destroyTransient_sound
    | with_reducible apply State.destroyImages_sound
    | with_reducible apply foldl_sound
    | with_reducible refine of_snd (by with_reducible assumption) ?_
    | with_reducible refine of_fst (by with_reducible assumption) ?_
    | with_reducible refine of_trd (by with_reducible assumption) ?_
    | with_reducible assumption
    | split
    | intro _
    | with_reducible exact field_mk (by assumption)
    | with_reducible exact sound_mk (by assumption)
    | (with_reducible refine field_mk_map (by assumption) ?_; intro _ h; exact furrow_mk h)
    | with_reducible exact sound_zipMap (by assumption) fun _ _ h => field_mk h
    | with_reducible exact sound_runs (by assumption) (runs_filter (by assumption) _)
    | dsimp only
    | (with_reducible apply field_mk; first | split | with_reducible assumption)
    | (with_reducible apply sound_mk; first | split | with_reducible apply foldl_sound | with_reducible apply State.modInst_sound | with_reducible apply State.modCmd_sound | with_reducible apply State.setDone_sound | with_reducible apply State.destroyTransient_sound | with_reducible apply State.destroyImages_sound | with_reducible apply State.modField_sound | with_reducible apply State.modFields_sound | with_reducible apply State.modPkg_sound | with_reducible apply State.modInst_sound | with_reducible apply State.modCmd_sound)

theorem instanceResetDesc_sound : instanceResetDesc.Sound := by
  unfold instanceResetDesc
  refine ⟨fun hs c => ?_, fun hs c => ?_, fun hs c => ?_, fun hs c x => ?_, fun hs c => ?_, fun hs c => ?_, fun hs c => ?_⟩ <;> dsimp only
  all_goals
    repeat' first
      | with_reducible apply State.resetInstance_sound
      | with_reducible apply State.modCmd_sound
      | with_reducible apply State.modInst_sound
      | with_reducible assumption
      | split

theorem execInstanceReset_sound (r : CmdRec) {s : State} (hs : s.Sound) : Keeps (execInstanceReset r s) := by
  unfold execInstanceReset
  apply keeps_next
  repeat' first
    | with_reducible apply runCommand_sound
    | with_reducible apply instanceResetDesc_sound
    | with_reducible assumption

end Sys2Proof.Machine
end

