-- ==== Sys2Proof/Laws/SoundReceive.lean ====
section
/-! SUPPORT. The operations of Receive keep the invariant State.Sound. -/
set_option Elab.async false
set_option linter.unusedTactic false
set_option linter.unreachableTactic false
namespace Sys2Proof.Machine

theorem State.rxLink_sound {s : State} (hs : s.Sound) (f : RxFrame) : OkSound (State.rxLink s f) := by
  unfold State.rxLink
  repeat' first
    | with_reducible apply State.drop_sound
    | with_reducible apply State.modPort_sound
    | with_reducible apply ok_error
    | with_reducible apply ok_ok
    | with_reducible assumption
    | split
    | dsimp only

theorem State.rxHead_sound {s : State} (hs : s.Sound) (f : RxFrame) (ty : Nat) : OkSound (State.rxHead s f ty) := by
  unfold State.rxHead
  repeat' first
    | with_reducible apply State.rxLink_sound
    | with_reducible apply State.drop_sound
    | with_reducible refine of_error (by with_reducible assumption) ?_
    | with_reducible refine of_ok (by with_reducible assumption) ?_
    | with_reducible apply ok_error
    | with_reducible apply ok_ok
    | with_reducible assumption
    | split
    | dsimp only

theorem State.accept_sound {s : State} (hs : s.Sound) (f : RxFrame) (h : Header) (top : Nat) : (State.accept s f h top).Sound := by
  unfold State.accept
  repeat' first | with_reducible apply State.modInst_sound | with_reducible assumption

theorem State.ackIf_sound {s : State} (hs : s.Sound) (f : RxFrame) (h : Header) : (State.ackIf s f h).Sound := by
  unfold State.ackIf
  repeat' first | with_reducible apply State.sendCredit_sound | with_reducible assumption | split

theorem State.rxBody_sound {s : State} (hs : s.Sound) (f : RxFrame) (h : Header) (bad : Bool) (own : State → Option Status) (effect : Nat → State → State) (heff : ∀ n {t : State}, t.Sound → (effect n t).Sound) : (State.rxBody s f h bad own effect).Sound := by
  unfold State.rxBody
  repeat' first
    | with_reducible apply State.frameStatus_sound
    | with_reducible apply State.ackIf_sound
    | with_reducible apply State.drop_sound
    | with_reducible apply State.countTurned_sound
    | with_reducible apply heff
    | with_reducible assumption
    | split
    | dsimp only

theorem State.atOnce_sound {s : State} (hs : s.Sound) (i t : Nat) : (s.atOnce i t).Sound := by
  unfold State.atOnce
  split
  · exact hs
  · split
    · exact State.releaseReset_sound (advance_sound _ resetDesc_sound _ hs _) ..
    · exact advance_sound _ instanceResetDesc_sound _ hs _
    · exact advance_sound _ fallowDesc_sound _ hs _
    · exact advance_sound _ wakeDesc_sound _ hs _
    · exact advance_sound _ recoverDesc_sound _ hs _
    · exact advance_sound _ modeSetDesc_sound _ hs _
    · exact hs

theorem State.admitOne_sound {s : State} (hs : s.Sound) (r : Rec) : (s.admitOne r).Sound := by
  have h := State.takeIn_sound hs r
  unfold State.admitOne
  split
  · exact State.atOnce_sound (of_snd ‹_› h) ..
  · exact of_snd ‹_› h

theorem State.newStage_sound {s : State} (hs : s.Sound) (f i : Nat) : (State.newStage s f i).2.Sound := by
  unfold State.newStage
  exact State.modField_sound (State.allocPages_sound hs ..) _ fun _ hx => field_mk hx

theorem State.stagePage_sound {s : State} (hs : s.Sound) (x : Xfer) (k : Nat) : (State.stagePage s x k).2.Sound := by
  unfold State.stagePage
  split
  · exact hs
  · exact sound_mk (State.newStage_sound hs ..)

theorem State.stagePiece_sound {s : State} (hs : s.Sound) (i t k n : Nat) : (State.stagePiece s i t k n).Sound := by
  unfold State.stagePiece
  split
  · exact hs
  · rename_i x _
    have hp := State.pageWrite_sound (State.stagePage_sound hs x k) i t x.field (s.stagePage x k).1 n
    dsimp only
    split
    · exact hp
    · exact State.complete_sound hp ..

theorem FieldSt.cacheKey_sound {x : FieldSt} (hx : x.Sound) (k h : Nat) : (x.cacheKey k h).Sound := field_mk hx

theorem State.placeMessage_sound {s : State} (hs : s.Sound) (c : Cmd) (h : Nat) : (s.placeMessage c h).Sound := State.modCmd_sound hs ..

theorem State.cacheMessage_sound {s : State} (hs : s.Sound) (c : Cmd) (h : Nat) : (s.cacheMessage c h).Sound :=
  foldl_sound _ hs fun _ _ h => State.modField_sound h _ fun _ hx => FieldSt.cacheKey_sound hx ..

theorem State.outPage_sound {s : State} (hs : s.Sound) (c : Cmd) (k : Nat) : (State.outPage s c k).2.Sound := by
  unfold State.outPage
  split
  · exact hs
  · exact State.modCmd_sound (State.newStage_sound hs ..) ..

theorem State.outPiece_sound {s : State} (hs : s.Sound) (i t k n : Nat) : (State.outPiece s i t k n).Sound := by
  unfold State.outPiece
  split
  · exact hs
  · rename_i c _
    have hp := State.pageWrite_sound (State.outPage_sound hs c k) i t (s.outPage c k).1.1 (s.outPage c k).1.2 n
    split
    · exact hs
    · dsimp only
      split
      · exact hp
      · exact State.complete_sound hp ..

theorem State.stageOut_sound {s : State} (hs : s.Sound) (i t pos n : Nat) : (State.stageOut s i t pos n).Sound :=
  foldl_sound _ hs fun _ _ h => State.outPiece_sound h ..

theorem State.stageAead_sound {s : State} (hs : s.Sound) (i t : Nat) : (State.stageAead s i t).Sound := by
  unfold State.stageAead
  split
  · split
    · exact hs
    · exact State.stageOut_sound (State.modCmd_sound hs ..) ..
  · exact hs

theorem State.startAead_sound {s : State} (hs : s.Sound) (c : Cmd) (h : Nat) : (State.startAead s c h).Sound := by
  unfold State.startAead
  have hm := State.cacheMessage_sound hs c h
  dsimp only
  split
  · exact State.stageAead_sound hm ..
  · rcases c.imgPages.getLast? with _ | w
    · dsimp only [Option.map_none, Option.getD_none]
      split
      · exact State.stageAead_sound (State.modCmd_sound hm ..) ..
      · exact State.complete_sound hm ..
    · dsimp only [Option.map_some, Option.getD_some]
      have hr := State.readBlob_sound c.inst c.tag w.1 [w.2] hm
      split
      · exact State.complete_sound (of_snd ‹_› hr) ..
      · split
        · exact State.stageAead_sound (State.modCmd_sound (of_snd ‹_› hr) ..) ..
        · exact State.complete_sound (of_snd ‹_› hr) ..

theorem State.readPairs_sound (i t : Nat) : ∀ (ws : List (Nat × Nat)) {s : State} (_ : s.Sound), (s.readPairs i t ws).2.Sound
  | [], _, hs => hs
  | w :: ws, s, hs => by
    have hr := State.readBlob_sound i t w.1 [w.2] hs
    unfold State.readPairs
    split
    · exact State.readPairs_sound i t ws (of_snd ‹_› hr)
    · exact hr

theorem State.releaseOut_sound {s : State} (hs : s.Sound) (c : Cmd) (iv total : Nat) : (State.releaseOut s c iv total).2.Sound := by
  unfold State.releaseOut
  have h1 := State.flushMerges_sound (State.stageOut_sound (State.stageOut_sound hs c.inst c.tag 0 iv) c.inst c.tag (max c.out iv)
    (total - max c.out iv)) c.inst c.tag
  dsimp only
  split
  · exact h1
  · rename_i e _
    have hr := State.readPairs_sound c.inst c.tag e.outPages h1
    split
    · exact of_snd ‹_› hr
    · exact of_snd ‹_› hr

theorem State.wipeOut_sound {s : State} (hs : s.Sound) (c : Cmd) : (State.wipeOut s c).Sound := by
  unfold State.wipeOut
  repeat' first
    | with_reducible apply State.fullWrite_sound
    | with_reducible apply foldl_sound
    | with_reducible refine of_snd (by with_reducible assumption) ?_
    | with_reducible refine of_fst (by with_reducible assumption) ?_
    | with_reducible refine of_trd (by with_reducible assumption) ?_
    | with_reducible assumption
    | split
    | intro _
    | with_reducible exact field_mk (by assumption)
    | with_reducible exact sound_mk (by assumption)
    | (with_reducible refine field_mk_map (by assumption) ?_; intro _ h; exact furrow_mk h)
    | with_reducible exact sound_zipMap (by assumption) fun _ _ h => field_mk h
    | with_reducible exact sound_runs (by assumption) (runs_filter (by assumption) _)
    | dsimp only
    | (with_reducible apply field_mk; first | split | with_reducible assumption)
    | (with_reducible apply sound_mk; first | split | with_reducible apply foldl_sound | with_reducible apply State.fullWrite_sound | with_reducible apply State.modField_sound | with_reducible apply State.modFields_sound | with_reducible apply State.modPkg_sound | with_reducible apply State.modInst_sound | with_reducible apply State.modCmd_sound)

theorem State.stageBytes_sound {s : State} (hs : s.Sound) (i t pos n : Nat) : (State.stageBytes s i t pos n).Sound := by
  unfold State.stageBytes
  split
  · exact State.stageAead_sound hs ..
  · exact foldl_sound _ hs fun _ _ h => State.stagePiece_sound h ..

theorem State.readStaged_sound {s : State} (hs : s.Sound) (i t : Nat) : (State.readStaged s i t).Sound := by
  unfold State.readStaged
  have hf := State.flushMerges_sound hs i t
  dsimp only
  split
  · exact hf
  · rename_i x _
    have hr := State.readBlob_sound i t x.field x.pages hf
    split
    · exact of_snd ‹_› hr
    · exact State.complete_sound (of_snd ‹_› hr) ..

theorem State.openXfer_sound {s : State} (hs : s.Sound) (f : RxFrame) (h : Header) (r : Rec) : (State.openXfer s f h r).Sound := by
  unfold State.openXfer
  repeat' first
    | with_reducible apply State.modCmd_sound
    | with_reducible apply State.absorbSegment_sound
    | with_reducible apply State.enter_sound
    | with_reducible apply State.takeIn_sound
    | with_reducible apply State.stageBytes_sound
    | with_reducible apply foldl_sound
    | with_reducible refine of_snd (by with_reducible assumption) ?_
    | with_reducible refine of_fst (by with_reducible assumption) ?_
    | with_reducible refine of_trd (by with_reducible assumption) ?_
    | with_reducible assumption
    | split
    | intro _
    | with_reducible exact field_mk (by assumption)
    | with_reducible exact sound_mk (by assumption)
    | (with_reducible refine field_mk_map (by assumption) ?_; intro _ h; exact furrow_mk h)
    | with_reducible exact sound_zipMap (by assumption) fun _ _ h => field_mk h
    | with_reducible exact sound_runs (by assumption) (runs_filter (by assumption) _)
    | dsimp only
    | (with_reducible apply field_mk; first | split | with_reducible assumption)
    | (with_reducible apply sound_mk; first | split | with_reducible apply foldl_sound | with_reducible apply State.modCmd_sound | with_reducible apply State.absorbSegment_sound | with_reducible apply State.enter_sound | with_reducible apply State.takeIn_sound | with_reducible apply State.stageBytes_sound | with_reducible apply State.modField_sound | with_reducible apply State.modFields_sound | with_reducible apply State.modPkg_sound | with_reducible apply State.modInst_sound | with_reducible apply State.modCmd_sound)

theorem State.admitAll_sound (f : RxFrame) (hd : Header) :
    ∀ (rs : List (Nat × Nat × Bytes × Nat)) {s : State} (_ : s.Sound) (k : Nat), (s.admitAll f hd k rs).Sound
  | [], _, h, _ => h
  | _ :: rs, _, h, k => State.admitAll_sound f hd rs (State.admitOne_sound h _) (k + 1)

theorem State.request_sound {s : State} (hs : s.Sound) (f : RxFrame) : (State.request s f).Sound := by
  unfold State.request
  repeat' first
    | with_reducible apply State.rxHead_sound
    | with_reducible apply State.rxBody_sound
    | with_reducible apply State.ackIf_sound
    | with_reducible apply State.openXfer_sound
    | with_reducible apply State.accept_sound
    | with_reducible apply State.admitAll_sound
    | with_reducible refine of_error (by with_reducible assumption) ?_
    | with_reducible refine of_ok (by with_reducible assumption) ?_
    | with_reducible assumption
    | split
    | intro _

theorem State.bufferFrame_sound {s : State} (hs : s.Sound) (f : RxFrame) : (State.bufferFrame s f).Sound := by
  unfold State.bufferFrame
  repeat' first
    | with_reducible apply State.drop_sound
    | with_reducible apply State.modPkg_sound
    | with_reducible apply State.modPort_sound
    | with_reducible assumption
    | split
    | dsimp only
    | (with_reducible apply sound_mk; first | split | with_reducible apply foldl_sound | with_reducible apply State.drop_sound | with_reducible apply State.modPkg_sound | with_reducible apply State.modPort_sound | with_reducible apply State.modField_sound | with_reducible apply State.modFields_sound | with_reducible apply State.modInst_sound | with_reducible apply State.modCmd_sound)

theorem execRequestFrame_sound (f : RxFrame) {s : State} (hs : s.Sound) : Keeps (execRequestFrame f s) := by
  unfold execRequestFrame
  apply keeps_next
  repeat' first
    | with_reducible apply State.bufferFrame_sound
    | with_reducible apply State.request_sound
    | with_reducible assumption
    | split

theorem State.abortXfer_sound {s : State} (hs : s.Sound) (x : Xfer) : (State.abortXfer s x).Sound := by
  unfold State.abortXfer
  repeat' first | with_reducible apply State.complete_sound | with_reducible exact sound_mk (by assumption)

theorem State.closeXfer_sound {s : State} (hs : s.Sound) (i t : Nat) (all : Bytes) : (State.closeXfer s i t all).Sound := by
  have h1 := State.readStaged_sound hs i t
  have h2 : State.Sound { s.readStaged i t with xfers := (s.readStaged i t).xfers.filter fun y => !(y.inst == i && y.tag == t) } := sound_mk h1
  have h3 := State.freeStage_sound (State.modCmd_sound h2 i t fun c => { c with stage := .dispatched, params := all.drop 10 })
  unfold State.closeXfer
  dsimp only at h3 ⊢
  split
  · split
    · split
      · exact h3
      · exact State.atOnce_sound (State.dispatchCmd_sound h3 ..) ..
    · exact h3
  · exact h1

theorem State.stageSegment_sound {s : State} (hs : s.Sound) (f : RxFrame) (h : Header) (x : Xfer) : (State.stageSegment s f h x).Sound := by
  unfold State.stageSegment
  repeat' first
    | with_reducible apply State.absorbSegment_sound
    | with_reducible apply State.stageBytes_sound
    | with_reducible apply State.closeXfer_sound
    | with_reducible apply foldl_sound
    | with_reducible refine of_snd (by with_reducible assumption) ?_
    | with_reducible refine of_fst (by with_reducible assumption) ?_
    | with_reducible refine of_trd (by with_reducible assumption) ?_
    | with_reducible assumption
    | split
    | intro _
    | with_reducible exact field_mk (by assumption)
    | with_reducible exact sound_mk (by assumption)
    | (with_reducible refine field_mk_map (by assumption) ?_; intro _ h; exact furrow_mk h)
    | with_reducible exact sound_zipMap (by assumption) fun _ _ h => field_mk h
    | with_reducible exact sound_runs (by assumption) (runs_filter (by assumption) _)
    | dsimp only
    | (with_reducible apply field_mk; first | split | with_reducible assumption)
    | (with_reducible apply sound_mk; first | split | with_reducible apply foldl_sound | with_reducible apply State.absorbSegment_sound | with_reducible apply State.stageBytes_sound | with_reducible apply State.closeXfer_sound | with_reducible apply State.modField_sound | with_reducible apply State.modFields_sound | with_reducible apply State.modPkg_sound | with_reducible apply State.modInst_sound | with_reducible apply State.modCmd_sound)

theorem State.segment_sound {s : State} (hs : s.Sound) (f : RxFrame) : (State.segment s f).Sound := by
  unfold State.segment
  repeat' first
    | with_reducible apply State.rxHead_sound
    | with_reducible apply State.rxBody_sound
    | with_reducible apply State.drop_sound
    | with_reducible apply State.countTurned_sound
    | with_reducible apply State.abortXfer_sound
    | with_reducible apply State.ackIf_sound
    | with_reducible apply State.stageSegment_sound
    | with_reducible apply State.accept_sound
    | with_reducible refine of_error (by with_reducible assumption) ?_
    | with_reducible refine of_ok (by with_reducible assumption) ?_
    | with_reducible assumption
    | split
    | intro _

theorem execDataSegment_sound (f : RxFrame) {s : State} (hs : s.Sound) : Keeps (execDataSegment f s) := by
  unfold execDataSegment
  apply keeps_next
  repeat' first
    | with_reducible apply State.bufferFrame_sound
    | with_reducible apply State.segment_sound
    | with_reducible assumption
    | split

theorem execSegGapExpiry_sound (inst : Nat) (xfer : Nat) {s : State} (hs : s.Sound) : Keeps (execSegGapExpiry inst xfer s) := by
  unfold execSegGapExpiry
  apply keeps_next
  repeat' first | with_reducible apply State.abortXfer_sound | with_reducible assumption | split

theorem State.creditQuery_sound {s : State} (hs : s.Sound) (f : RxFrame) : (State.creditQuery s f).Sound := by
  unfold State.creditQuery
  repeat' first
    | with_reducible apply State.rxHead_sound
    | with_reducible apply State.rxBody_sound
    | with_reducible apply State.sendCredit_sound
    | with_reducible apply State.accept_sound
    | with_reducible refine of_error (by with_reducible assumption) ?_
    | with_reducible refine of_ok (by with_reducible assumption) ?_
    | with_reducible assumption
    | split
    | intro _

theorem execCreditQuery_sound (f : RxFrame) {s : State} (hs : s.Sound) : Keeps (execCreditQuery f s) := by
  unfold execCreditQuery
  apply keeps_next
  repeat' first
    | with_reducible apply State.bufferFrame_sound
    | with_reducible apply State.creditQuery_sound
    | with_reducible assumption
    | split

theorem execCreditUpdateTimer_sound (inst : Nat) {s : State} (hs : s.Sound) : Keeps (execCreditUpdateTimer inst s) := by
  unfold execCreditUpdateTimer
  apply keeps_next
  repeat' first | with_reducible apply State.creditUncaused_sound | with_reducible assumption | split

theorem State.modQueue_sound {s : State} (hs : s.Sound) (src : Nat) (peer : Nat) (g : Mbox → Mbox) : (State.modQueue s src peer g).Sound := by
  unfold State.modQueue
  repeat' first | with_reducible apply State.modInst_sound | with_reducible assumption | split

theorem State.answerPull_sound {s : State} (hs : s.Sound) (f : RxFrame) (me : Nat) (peer : Nat) : (State.answerPull s f me peer).Sound := by
  unfold State.answerPull
  repeat' first
    | with_reducible apply State.modQueue_sound
    | with_reducible apply State.sendOne_sound
    | with_reducible assumption

theorem State.mboxEffect_sound {s : State} (hs : s.Sound) (f : RxFrame) (h : Header) (b : Bytes) : (State.mboxEffect s f h b).Sound := by
  unfold State.mboxEffect
  repeat' first
    | with_reducible apply State.modQueue_sound
    | with_reducible apply State.answerPull_sound
    | with_reducible apply State.raise_sound
    | with_reducible assumption
    | split
    | dsimp only

theorem State.mailbox_sound {s : State} (hs : s.Sound) (f : RxFrame) : (State.mailbox s f).Sound := by
  unfold State.mailbox
  repeat' first
    | with_reducible apply State.rxHead_sound
    | with_reducible apply State.rxBody_sound
    | with_reducible apply State.ackIf_sound
    | with_reducible apply State.mboxEffect_sound
    | with_reducible apply State.accept_sound
    | with_reducible refine of_error (by with_reducible assumption) ?_
    | with_reducible refine of_ok (by with_reducible assumption) ?_
    | with_reducible assumption
    | split
    | intro _

theorem execMailboxFrame_sound (f : RxFrame) {s : State} (hs : s.Sound) : Keeps (execMailboxFrame f s) := by
  unfold execMailboxFrame
  apply keeps_next
  repeat' first
    | with_reducible apply State.bufferFrame_sound
    | with_reducible apply State.mailbox_sound
    | with_reducible assumption
    | split

theorem execMboxDoorbellRepeat_sound (tenant : Nat) (toTenant : Bool) {s : State} (hs : s.Sound) : Keeps (execMboxDoorbellRepeat tenant toTenant s) := by
  unfold execMboxDoorbellRepeat
  apply keeps_next
  repeat' first | with_reducible apply State.raise_sound | with_reducible assumption | split

theorem execPauseFrameRx_sound (port : Nat) (prios : BitVec 8) (on : Bool) {s : State} (hs : s.Sound) : Keeps (execPauseFrameRx port prios on s) := by
  unfold execPauseFrameRx
  apply keeps_next
  repeat' first
    | with_reducible apply State.modPort_sound
    | with_reducible apply State.flushTx_sound
    | with_reducible assumption
    | split

theorem execPauseTimerExpiry_sound (port : Nat) (prio : Nat) {s : State} (hs : s.Sound) : Keeps (execPauseTimerExpiry port prio s) := by
  unfold execPauseTimerExpiry
  apply keeps_next
  repeat' first
    | with_reducible apply State.flushTx_sound
    | with_reducible apply State.modPort_sound
    | with_reducible assumption

theorem execPauseRefresh_sound (port : Nat) (prio : Nat) {s : State} (hs : s.Sound) : Keeps (execPauseRefresh port prio s) := by
  unfold execPauseRefresh
  apply keeps_next
  repeat' first
    | with_reducible assumption
    | split
    | with_reducible exact sound_mk (by assumption)
    | dsimp only
    | (with_reducible apply sound_mk; first | split | with_reducible apply foldl_sound | with_reducible apply State.modPort_sound | with_reducible apply State.modField_sound | with_reducible apply State.modFields_sound | with_reducible apply State.modPkg_sound | with_reducible apply State.modInst_sound | with_reducible apply State.modCmd_sound)

end Sys2Proof.Machine
end

