-- ==== Sys2Proof/Laws/SoundInstances.lean ====
section
/-! SUPPORT. The operations of Instances keep the invariant State.Sound. -/
set_option Elab.async false
set_option linter.unusedTactic false
set_option linter.unreachableTactic false
namespace Sys2Proof.Machine

theorem State.writeTable_sound {s : State} (hs : s.Sound) : (State.writeTable s).Sound := by
  unfold State.writeTable
  repeat' first | with_reducible apply State.modGran_sound | with_reducible assumption

theorem instanceCreateDesc_sound : instanceCreateDesc.Sound := by
  unfold instanceCreateDesc
  refine ⟨fun hs c => ?_, fun hs c => ?_, fun hs c => ?_, fun hs c x => ?_, fun hs c => ?_, fun hs c => ?_, fun hs c => ?_⟩ <;> dsimp only
  all_goals
    repeat' first
      | with_reducible apply State.writeTable_sound
      | with_reducible apply State.limitZero_sound
      | with_reducible apply State.modCmd_sound
      | with_reducible assumption
      | split
      | with_reducible exact sound_mk (by assumption)

theorem execInstanceCreate_sound (r : CmdRec) {s : State} (hs : s.Sound) : Keeps (execInstanceCreate r s) := by
  unfold execInstanceCreate
  apply keeps_next
  repeat' first
    | with_reducible apply runCommand_sound
    | with_reducible apply instanceCreateDesc_sound
    | with_reducible assumption

theorem instanceBindDesc_sound : instanceBindDesc.Sound := by
  unfold instanceBindDesc
  refine ⟨fun hs c => ?_, fun hs c => ?_, fun hs c => ?_, fun hs c x => ?_, fun hs c => ?_, fun hs c => ?_, fun hs c => ?_⟩ <;> dsimp only
  all_goals
    repeat' first
      | with_reducible apply State.modInst_sound
      | with_reducible apply State.modCmd_sound
      | with_reducible apply State.writeTable_sound
      | with_reducible assumption

theorem execInstanceBind_sound (r : CmdRec) {s : State} (hs : s.Sound) : Keeps (execInstanceBind r s) := by
  unfold execInstanceBind
  apply keeps_next
  repeat' first
    | with_reducible apply runCommand_sound
    | with_reducible apply instanceBindDesc_sound
    | with_reducible assumption

theorem State.clearInstance_sound {s : State} (hs : s.Sound) (t : Nat) : (State.clearInstance s t).Sound := by
  unfold State.clearInstance
  repeat' first
    | with_reducible apply State.destroyKey_sound
    | with_reducible apply State.modGran_sound
    | with_reducible apply State.dropSa_sound
    | with_reducible apply foldl_sound
    | with_reducible assumption
    | intro _
    | dsimp only
    | (with_reducible apply sound_mk; first | split | with_reducible apply foldl_sound | with_reducible apply State.destroyKey_sound | with_reducible apply State.modGran_sound | with_reducible apply State.dropSa_sound | with_reducible apply State.destroyImages_sound | with_reducible apply State.modField_sound | with_reducible apply State.modFields_sound | with_reducible apply State.modPkg_sound | with_reducible apply State.modInst_sound | with_reducible apply State.modCmd_sound)

theorem instanceDestroyDesc_sound : instanceDestroyDesc.Sound := by
  unfold instanceDestroyDesc
  refine ⟨fun hs c => ?_, fun hs c => ?_, fun hs c => ?_, fun hs c x => ?_, fun hs c => ?_, fun hs c => ?_, fun hs c => ?_⟩ <;> dsimp only
  all_goals
    repeat' first
      | with_reducible apply State.modInst_sound
      | with_reducible apply State.clearInstance_sound
      | with_reducible apply State.resetInstance_sound
      | with_reducible apply State.modCmd_sound
      | with_reducible apply State.writeTable_sound
      | with_reducible apply State.limitZero_sound
      | with_reducible assumption
      | split
      | with_reducible exact sound_mk (by assumption)
      | (with_reducible apply sound_mk; first | split | with_reducible apply foldl_sound | with_reducible apply State.modInst_sound | with_reducible apply State.clearInstance_sound | with_reducible apply State.resetInstance_sound | with_reducible apply State.modCmd_sound | with_reducible apply State.writeTable_sound | with_reducible apply State.limitZero_sound | with_reducible apply State.modField_sound | with_reducible apply State.modFields_sound | with_reducible apply State.modPkg_sound)

theorem execInstanceDestroy_sound (r : CmdRec) {s : State} (hs : s.Sound) : Keeps (execInstanceDestroy r s) := by
  unfold execInstanceDestroy
  apply keeps_next
  repeat' first
    | with_reducible apply runCommand_sound
    | with_reducible apply instanceDestroyDesc_sound
    | with_reducible assumption

theorem shareSetDesc_sound : shareSetDesc.Sound := by
  unfold shareSetDesc
  refine ⟨fun hs c => ?_, fun hs c => ?_, fun hs c => ?_, fun hs c x => ?_, fun hs c => ?_, fun hs c => ?_, fun hs c => ?_⟩ <;> dsimp only
  all_goals
    repeat' first
      | with_reducible apply State.modInst_sound
      | with_reducible apply State.modCmd_sound
      | with_reducible apply State.writeTable_sound
      | with_reducible apply State.creditUncaused_sound
      | with_reducible apply State.limitZero_sound
      | with_reducible apply State.raise_sound
      | with_reducible assumption
      | split

theorem execShareSet_sound (r : CmdRec) {s : State} (hs : s.Sound) : Keeps (execShareSet r s) := by
  unfold execShareSet
  apply keeps_next
  repeat' first
    | with_reducible apply runCommand_sound
    | with_reducible apply shareSetDesc_sound
    | with_reducible assumption

theorem instanceInfoDesc_sound : instanceInfoDesc.Sound where
  body hs _ := hs

theorem execInstanceInfo_sound (r : CmdRec) {s : State} (hs : s.Sound) : Keeps (execInstanceInfo r s) := by
  unfold execInstanceInfo
  apply keeps_next
  repeat' first
    | with_reducible apply runCommand_sound
    | with_reducible apply instanceInfoDesc_sound
    | with_reducible assumption

theorem instanceListDesc_sound : instanceListDesc.Sound where
  body hs _ := hs

theorem execInstanceList_sound (r : CmdRec) {s : State} (hs : s.Sound) : Keeps (execInstanceList r s) := by
  unfold execInstanceList
  apply keeps_next
  repeat' first
    | with_reducible apply runCommand_sound
    | with_reducible apply instanceListDesc_sound
    | with_reducible assumption

theorem mboxStatusDesc_sound : mboxStatusDesc.Sound where
  body hs _ := hs

theorem execMboxStatus_sound (r : CmdRec) {s : State} (hs : s.Sound) : Keeps (execMboxStatus r s) := by
  unfold execMboxStatus
  apply keeps_next
  repeat' first
    | with_reducible apply runCommand_sound
    | with_reducible apply mboxStatusDesc_sound
    | with_reducible assumption

end Sys2Proof.Machine
end

