-- ==== Sys2Proof/Laws/SoundFaults.lean ====
section
/-! SUPPORT. The operations of Faults keep the invariant State.Sound. -/
set_option Elab.async false
set_option linter.unusedTactic false
set_option linter.unreachableTactic false
namespace Sys2Proof.Machine

theorem execFieldAliveFall_sound (field : Nat) {s : State} (hs : s.Sound) : Keeps (execFieldAliveFall field s) := by
  unfold execFieldAliveFall
  apply keeps_next
  repeat' first | with_reducible apply State.loseField_sound | with_reducible assumption

theorem State.overrule_sound {s : State} (hs : s.Sound) (c : Cmd) (st : Status) : (State.overrule s c st).Sound := by
  unfold State.overrule
  repeat' first
    | with_reducible apply State.modCmd_sound
    | with_reducible apply State.setDone_sound
    | with_reducible assumption

theorem State.relink_sound {s : State} (hs : s.Sound) : (State.relink s).Sound := by
  unfold State.relink
  repeat' first | with_reducible apply State.modPort_sound | with_reducible assumption | split

theorem State.receive_sound {s : State} (hs : s.Sound) (f : RxFrame) : (State.receive s f).Sound := by
  unfold State.receive
  repeat' first
    | with_reducible apply State.segment_sound
    | with_reducible apply State.mailbox_sound
    | with_reducible apply State.creditQuery_sound
    | with_reducible apply State.request_sound
    | with_reducible assumption
    | split

theorem State.xonAll_sound {s : State} (hs : s.Sound) (p : Nat) : (State.xonAll s p).Sound := by
  unfold State.xonAll
  repeat' first
    | with_reducible assumption
    | dsimp only
    | (with_reducible apply sound_mk; first | split | with_reducible apply foldl_sound | with_reducible apply State.modPort_sound | with_reducible apply State.modField_sound | with_reducible apply State.modFields_sound | with_reducible apply State.modPkg_sound | with_reducible apply State.modInst_sound | with_reducible apply State.modCmd_sound)

theorem State.eventDrain_sound {s : State} (hs : s.Sound) (inst : Nat) : (State.eventDrain s inst).Sound := by
  unfold State.eventDrain
  repeat' first
    | with_reducible apply State.eventSend_sound
    | with_reducible apply foldl_sound
    | with_reducible assumption
    | intro _

theorem State.moveTx_sound {s : State} (hs : s.Sound) : s.moveTx.Sound := sound_mk hs

theorem State.releaseAll_sound : ∀ (n : Nat) {s : State} (_ : s.Sound), (s.releaseAll n).Sound
  | 0, _, hs => hs
  | n + 1, s, hs => by
    unfold State.releaseAll
    split
    · exact hs
    · exact State.releaseAll_sound n (State.release_sound hs ..)

theorem State.receiveHeld_sound {s : State} (hs : s.Sound) (h : Held) : (s.receiveHeld h).Sound := by
  unfold State.receiveHeld
  split
  · exact State.receive_sound hs _
  · split
    · exact State.admitOne_sound hs _
    · exact hs

theorem State.failover_sound {s : State} (hs : s.Sound) : (State.failover s).Sound := by
  unfold State.failover
  repeat' first
    | with_reducible apply State.releaseAll_sound
    | with_reducible apply State.receiveHeld_sound
    | with_reducible apply State.overrule_sound
    | with_reducible apply State.raise_sound
    | with_reducible apply State.modPkg_sound
    | with_reducible apply State.relink_sound
    | with_reducible apply State.moveTx_sound
    | with_reducible apply State.eventDrain_sound
    | with_reducible apply State.receive_sound
    | with_reducible apply State.flushTx_sound
    | with_reducible apply State.xonAll_sound
    | with_reducible apply foldl_sound
    | with_reducible assumption
    | intro _
    | (with_reducible apply sound_mk; first | split | with_reducible apply foldl_sound | with_reducible apply State.overrule_sound | with_reducible apply State.raise_sound | with_reducible apply State.modPkg_sound | with_reducible apply State.relink_sound | with_reducible apply State.eventDrain_sound | with_reducible apply State.receive_sound | with_reducible apply State.flushTx_sound | with_reducible apply State.xonAll_sound | with_reducible apply State.modField_sound | with_reducible apply State.modFields_sound | with_reducible apply State.modInst_sound | with_reducible apply State.modCmd_sound)

theorem execHeadlandFailover_sound {s : State} (hs : s.Sound) : Keeps (execHeadlandFailover s) := by
  unfold execHeadlandFailover
  apply keeps_next
  repeat' first | with_reducible apply State.failover_sound | with_reducible assumption | split

theorem State.modLink_sound {s : State} (hs : s.Sound) (f : Nat) (p : Nat) (g : Link → Link) : (State.modLink s f p g).Sound := by
  unfold State.modLink
  repeat' first
    | with_reducible apply State.modField_sound
    | with_reducible assumption
    | intro _
    | with_reducible exact field_mk (by assumption)

theorem execPlolysCrcFail_sound (field : Nat) (port : Nat) {s : State} (hs : s.Sound) : Keeps (execPlolysCrcFail field port s) := by
  unfold execPlolysCrcFail
  apply keeps_next
  repeat' first
    | with_reducible apply State.modLink_sound
    | with_reducible apply State.log_sound
    | with_reducible assumption
    | split

theorem execPlolysLinkDown_sound (field : Nat) (port : Nat) {s : State} (hs : s.Sound) : Keeps (execPlolysLinkDown field port s) := by
  unfold execPlolysLinkDown
  apply keeps_next
  repeat' first
    | with_reducible apply State.modLink_sound
    | with_reducible apply State.log_sound
    | with_reducible apply State.isolateCut_sound
    | with_reducible assumption
    | split

theorem execSensorTrip_sound (field : Nat) (cls : Nat) (island : Nat) (detail : Nat) {s : State} (hs : s.Sound) : Keeps (execSensorTrip field cls island detail s) := by
  unfold execSensorTrip
  apply keeps_next
  repeat' first | with_reducible apply State.alarm_sound | with_reducible assumption | split

theorem execAlarmLineReceived_sound (field : Nat) (source : Nat) {s : State} (hs : s.Sound) : Keeps (execAlarmLineReceived field source s) := by
  unfold execAlarmLineReceived
  apply keeps_next
  repeat' first
    | with_reducible apply State.modPkg_sound
    | with_reducible apply State.syncAlert_sound
    | with_reducible apply State.alarmField_sound
    | with_reducible assumption
    | split

theorem execTamperMismatch_sound (input : Nat) {s : State} (hs : s.Sound) : Keeps (execTamperMismatch input s) := by
  unfold execTamperMismatch
  apply keeps_next
  repeat' first | with_reducible apply State.alarm_sound | with_reducible assumption | split

theorem execTempSensorReading_sound (field : Nat) (sensor : Nat) (celsius : Int) {s : State} (hs : s.Sound) : Keeps (execTempSensorReading field sensor celsius s) := by
  unfold execTempSensorReading
  apply keeps_next
  repeat' first
    | with_reducible apply State.modField_sound
    | with_reducible apply State.syncAlert_sound
    | with_reducible apply State.alarm_sound
    | with_reducible assumption
    | split
    | intro _
    | with_reducible exact field_mk (by assumption)
    | dsimp only

theorem execThermalShutdown_sound (field : Nat) {s : State} (hs : s.Sound) : Keeps (execThermalShutdown field s) := by
  unfold execThermalShutdown
  apply keeps_next
  repeat' first
    | with_reducible apply State.syncAlert_sound
    | with_reducible apply State.loseField_sound
    | with_reducible apply State.modField_sound
    | with_reducible assumption
    | split
    | intro _
    | with_reducible exact field_mk (by assumption)

end Sys2Proof.Machine
end

