-- ==== Sys2Proof/Laws/SoundTime.lean ====
section
/-! SUPPORT. The operations of Time keep the invariant State.Sound. -/
set_option Elab.async false
set_option linter.unusedTactic false
set_option linter.unreachableTactic false
namespace Sys2Proof.Machine

theorem State.modClock_sound {s : State} (hs : s.Sound) (g : Clock → Clock) : (State.modClock s g).Sound := by
  unfold State.modClock
  repeat' first | with_reducible exact sound_mk (by assumption)

theorem State.holdover_sound {s : State} (hs : s.Sound) : (State.holdover s).Sound := by
  unfold State.holdover
  repeat' first
    | with_reducible apply State.raise_sound
    | with_reducible apply State.modClock_sound
    | with_reducible assumption
    | split

theorem State.relock_sound {s : State} (hs : s.Sound) : (State.relock s).Sound := by
  unfold State.relock
  repeat' first
    | with_reducible apply State.modClock_sound
    | with_reducible apply State.raise_sound
    | with_reducible assumption
    | split
    | dsimp only

theorem State.correct_sound {s : State} (hs : s.Sound) (d : Int) : (State.correct s d).Sound := by
  unfold State.correct
  repeat' first | with_reducible apply State.modClock_sound | with_reducible assumption

theorem execPtpSyncRx_sound (port : Nat) (offset : Int) {s : State} (hs : s.Sound) : Keeps (execPtpSyncRx port offset s) := by
  unfold execPtpSyncRx
  apply keeps_next
  repeat' first
    | with_reducible apply State.relock_sound
    | with_reducible apply State.correct_sound
    | with_reducible assumption
    | split

theorem execPtpSyncTimeout_sound {s : State} (hs : s.Sound) : Keeps (execPtpSyncTimeout s) := by
  unfold execPtpSyncTimeout
  apply keeps_next
  repeat' first | with_reducible apply State.holdover_sound | with_reducible assumption | split

theorem execPpsInEdge_sound {s : State} (hs : s.Sound) : Keeps (execPpsInEdge s) := by
  unfold execPpsInEdge
  apply keeps_next
  repeat' first
    | with_reducible apply State.relock_sound
    | with_reducible apply State.correct_sound
    | with_reducible apply State.modClock_sound
    | with_reducible assumption
    | split

theorem execPpsInMissed_sound {s : State} (hs : s.Sound) : Keeps (execPpsInMissed s) := by
  unfold execPpsInMissed
  apply keeps_next
  repeat' first
    | with_reducible apply State.holdover_sound
    | with_reducible apply State.modClock_sound
    | with_reducible assumption
    | split

theorem execPpsOutSecond_sound {s : State} (hs : s.Sound) : Keeps (execPpsOutSecond s) := by
  unfold execPpsOutSecond
  apply keeps_next
  repeat' first | with_reducible assumption | split | with_reducible exact sound_mk (by assumption)

theorem timeGetDesc_sound : timeGetDesc.Sound where
  body hs _ := hs

theorem execTimeGet_sound (r : CmdRec) {s : State} (hs : s.Sound) : Keeps (execTimeGet r s) := by
  unfold execTimeGet
  apply keeps_next
  repeat' first | with_reducible apply runCommand_sound | with_reducible apply timeGetDesc_sound | with_reducible assumption

theorem timeCtlDesc_sound : timeCtlDesc.Sound := by
  unfold timeCtlDesc
  refine ⟨fun hs c => ?_, fun hs c => ?_, fun hs c => ?_, fun hs c x => ?_, fun hs c => ?_, fun hs c => ?_, fun hs c => ?_⟩ <;> dsimp only
  all_goals
    repeat' first | with_reducible assumption | split | with_reducible exact sound_mk (by assumption)

theorem execTimeCtl_sound (r : CmdRec) {s : State} (hs : s.Sound) : Keeps (execTimeCtl r s) := by
  unfold execTimeCtl
  apply keeps_next
  repeat' first | with_reducible apply runCommand_sound | with_reducible apply timeCtlDesc_sound | with_reducible assumption

end Sys2Proof.Machine
end

