-- ==== Sys2Proof/Laws/SoundSettings.lean ====
section
/-! SUPPORT. The operations of Settings keep the invariant State.Sound. -/
set_option Elab.async false
set_option linter.unusedTactic false
set_option linter.unreachableTactic false
namespace Sys2Proof.Machine

theorem settingGetDesc_sound : settingGetDesc.Sound where
  body hs _ := hs

theorem execSettingGet_sound (r : CmdRec) {s : State} (hs : s.Sound) : Keeps (execSettingGet r s) := by
  unfold execSettingGet
  apply keeps_next
  repeat' first
    | with_reducible apply runCommand_sound
    | with_reducible apply settingGetDesc_sound
    | with_reducible assumption

theorem State.mfEffect_sound {s : State} (hs : s.Sound) (old : Nat) (new : Nat) : (State.mfEffect s old new).Sound := by
  unfold State.mfEffect
  repeat' first
    | with_reducible apply State.modPkg_sound
    | with_reducible apply State.holdover_sound
    | with_reducible assumption
    | split
    | dsimp only

theorem settingSetDesc_sound : settingSetDesc.Sound := by
  unfold settingSetDesc
  refine ⟨fun hs c => ?_, fun hs c => ?_, fun hs c => ?_, fun hs c x => ?_, fun hs c => ?_, fun hs c => ?_, fun hs c => ?_⟩ <;> dsimp only
  all_goals
    repeat' first
      | with_reducible apply State.modCmd_sound
      | with_reducible apply State.flushTx_sound
      | with_reducible apply State.mfEffect_sound
      | with_reducible apply foldl_sound
      | with_reducible refine of_snd (by with_reducible assumption) ?_
      | with_reducible refine of_fst (by with_reducible assumption) ?_
      | with_reducible refine of_trd (by with_reducible assumption) ?_
      | with_reducible assumption
      | split
      | intro _
      | with_reducible exact field_mk (by assumption)
      | with_reducible exact sound_mk (by assumption)
      | dsimp only

theorem execSettingSet_sound (r : CmdRec) {s : State} (hs : s.Sound) : Keeps (execSettingSet r s) := by
  unfold execSettingSet
  apply keeps_next
  repeat' first
    | with_reducible apply runCommand_sound
    | with_reducible apply settingSetDesc_sound
    | with_reducible assumption

theorem State.storeOne_sound {s : State} (hs : s.Sound) (e : Nat × Option Nat) : (State.storeOne s e).Sound := by
  unfold State.storeOne
  repeat' first | with_reducible apply State.modGran_sound | with_reducible assumption

theorem storeSettingsDesc_sound : storeSettingsDesc.Sound := by
  unfold storeSettingsDesc
  refine ⟨fun hs c => ?_, fun hs c => ?_, fun hs c => ?_, fun hs c x => ?_, fun hs c => ?_, fun hs c => ?_, fun hs c => ?_⟩ <;> dsimp only
  all_goals
    repeat' first
      | with_reducible apply State.storeOne_sound
      | with_reducible apply State.modGran_sound
      | with_reducible apply State.modCmd_sound
      | with_reducible apply foldl_sound
      | with_reducible assumption
      | intro _

theorem execStoreSettings_sound (r : CmdRec) {s : State} (hs : s.Sound) : Keeps (execStoreSettings r s) := by
  unfold execStoreSettings
  apply keeps_next
  repeat' first
    | with_reducible apply runCommand_sound
    | with_reducible apply storeSettingsDesc_sound
    | with_reducible assumption

end Sys2Proof.Machine
end

