-- ==== Sys2Proof/Laws/SoundLifeCycle.lean ====
section
/-! SUPPORT. The operations of LifeCycle keep the invariant State.Sound. -/
set_option Elab.async false
set_option linter.unusedTactic false
set_option linter.unreachableTactic false
namespace Sys2Proof.Machine

theorem lifecycleStatusDesc_sound : lifecycleStatusDesc.Sound where
  body hs _ := hs

theorem execLifecycleStatus_sound (r : CmdRec) {s : State} (hs : s.Sound) : Keeps (execLifecycleStatus r s) := by
  unfold execLifecycleStatus
  apply keeps_next
  repeat' first
    | with_reducible apply runCommand_sound
    | with_reducible apply lifecycleStatusDesc_sound
    | with_reducible assumption

theorem State.tokenSpent_sound {s : State} (hs : s.Sound) (st : Status) : (State.tokenSpent s st).Sound := by
  unfold State.tokenSpent
  repeat' first | with_reducible apply State.newNonce_sound | with_reducible assumption | split

theorem State.openDebug_sound {s : State} (hs : s.Sound) : (State.openDebug s).Sound := by
  unfold State.openDebug
  refine sound_mk_zip hs fun x f hx => ?_
  dsimp only
  split
  · exact hx
  · split
    · exact field_mk (FieldSt.zeroKeys_sound hx)
    · split
      · exact FieldSt.instantiate_sound (field_mk (FieldSt.zeroKeys_sound hx))
      · exact field_mk (FieldSt.zeroKeys_sound hx)

theorem debugUnlockDesc_sound : debugUnlockDesc.Sound := by
  unfold debugUnlockDesc
  refine ⟨fun hs c => ?_, fun hs c => ?_, fun hs c => ?_, fun hs c x => ?_, fun hs c => ?_, fun hs c => ?_, fun hs c => ?_⟩ <;> dsimp only
  all_goals
    repeat' first
      | with_reducible apply State.tokenSpent_sound
      | with_reducible apply State.newNonce_sound
      | with_reducible apply State.openDebug_sound
      | with_reducible assumption

theorem execDebugUnlock_sound (r : CmdRec) {s : State} (hs : s.Sound) : Keeps (execDebugUnlock r s) := by
  unfold execDebugUnlock
  apply keeps_next
  repeat' first
    | with_reducible apply runCommand_sound
    | with_reducible apply debugUnlockDesc_sound
    | with_reducible assumption

theorem State.advanceField_sound (t : LcState) {s : State} (hs : s.Sound) (f : Nat) : (State.advanceField t s f).Sound := by
  unfold State.advanceField
  repeat' first | with_reducible apply State.modGran_sound | with_reducible assumption

theorem State.advance_sound {s : State} (hs : s.Sound) : (State.advance s).Sound := by
  unfold State.advance
  repeat' first
    | with_reducible apply State.modFields_sound
    | with_reducible apply FieldSt.zeroKeys_sound
    | with_reducible apply State.advanceField_sound
    | with_reducible apply foldl_sound
    | with_reducible assumption
    | split
    | intro _

theorem lcAdvanceDesc_sound : lcAdvanceDesc.Sound := by
  unfold lcAdvanceDesc
  refine ⟨fun hs c => ?_, fun hs c => ?_, fun hs c => ?_, fun hs c x => ?_, fun hs c => ?_, fun hs c => ?_, fun hs c => ?_⟩ <;> dsimp only
  all_goals
    repeat' first
      | with_reducible apply State.drop_sound
      | with_reducible apply State.stopAdmission_sound
      | with_reducible apply State.newNonce_sound
      | with_reducible apply State.tokenSpent_sound
      | with_reducible apply State.advance_sound
      | with_reducible apply foldl_sound
      | with_reducible refine of_snd (by with_reducible assumption) ?_
      | with_reducible refine of_fst (by with_reducible assumption) ?_
      | with_reducible refine of_trd (by with_reducible assumption) ?_
      | with_reducible assumption
      | split
      | intro _
      | with_reducible exact field_mk (by assumption)
      | with_reducible exact sound_mk (by assumption)
      | dsimp only

theorem execLcAdvance_sound (r : CmdRec) {s : State} (hs : s.Sound) : Keeps (execLcAdvance r s) := by
  unfold execLcAdvance
  apply keeps_next
  repeat' first
    | with_reducible apply runCommand_sound
    | with_reducible apply lcAdvanceDesc_sound
    | with_reducible assumption

theorem execLcAdvanceDrainTimeout_sound {s : State} (hs : s.Sound) : Keeps (execLcAdvanceDrainTimeout s) := by
  unfold execLcAdvanceDrainTimeout
  apply keeps_next
  repeat' first
    | with_reducible apply State.endAll_sound
    | with_reducible apply State.newNonce_sound
    | with_reducible apply State.complete_sound
    | with_reducible apply State.advance_sound
    | with_reducible assumption
    | split

theorem ownerSetDesc_sound : ownerSetDesc.Sound := by
  unfold ownerSetDesc
  refine ⟨fun hs c => ?_, fun hs c => ?_, fun hs c => ?_, fun hs c x => ?_, fun hs c => ?_, fun hs c => ?_, fun hs c => ?_⟩ <;> dsimp only
  all_goals
    repeat' first
      | with_reducible apply State.tokenSpent_sound
      | with_reducible apply State.modGran_sound
      | with_reducible apply State.newNonce_sound
      | with_reducible apply State.modCmd_sound
      | with_reducible assumption
      | split

theorem execOwnerSet_sound (r : CmdRec) {s : State} (hs : s.Sound) : Keeps (execOwnerSet r s) := by
  unfold execOwnerSet
  apply keeps_next
  repeat' first
    | with_reducible apply runCommand_sound
    | with_reducible apply ownerSetDesc_sound
    | with_reducible assumption

theorem identityInfoDesc_sound : identityInfoDesc.Sound := by
  unfold identityInfoDesc
  refine ⟨fun hs c => ?_, fun hs c => ?_, fun hs c => ?_, fun hs c x => ?_, fun hs c => ?_, fun hs c => ?_, fun hs c => ?_⟩ <;> dsimp only
  all_goals
    repeat' first | with_reducible apply State.fresh_sound | with_reducible assumption | split

theorem execIdentityInfo_sound (r : CmdRec) {s : State} (hs : s.Sound) : Keeps (execIdentityInfo r s) := by
  unfold execIdentityInfo
  apply keeps_next
  repeat' first
    | with_reducible apply runCommand_sound
    | with_reducible apply identityInfoDesc_sound
    | with_reducible assumption

end Sys2Proof.Machine
end

