-- ==== Sys2Proof/Laws/SoundTelemetry.lean ====
section
/-! SUPPORT. The operations of Telemetry keep the invariant State.Sound. -/
set_option Elab.async false
set_option linter.unusedTactic false
set_option linter.unreachableTactic false
namespace Sys2Proof.Machine

theorem gleanReadDesc_sound : gleanReadDesc.Sound := by
  unfold gleanReadDesc
  refine ⟨fun hs c => ?_, fun hs c => ?_, fun hs c => ?_, fun hs c x => ?_, fun hs c => ?_, fun hs c => ?_, fun hs c => ?_⟩ <;> dsimp only
  all_goals
    repeat' first | with_reducible apply State.modInst_sound | with_reducible assumption | split

theorem execGleanRead_sound (r : CmdRec) {s : State} (hs : s.Sound) : Keeps (execGleanRead r s) := by
  unfold execGleanRead
  apply keeps_next
  repeat' first
    | with_reducible apply runCommand_sound
    | with_reducible apply gleanReadDesc_sound
    | with_reducible assumption

theorem logReadDesc_sound : logReadDesc.Sound := by
  unfold logReadDesc
  refine ⟨fun hs c => ?_, fun hs c => ?_, fun hs c => ?_, fun hs c x => ?_, fun hs c => ?_, fun hs c => ?_, fun hs c => ?_⟩ <;> dsimp only
  all_goals
    repeat' first
      | with_reducible apply State.modField_sound
      | with_reducible assumption
      | intro _
      | with_reducible exact field_mk (by assumption)

theorem execLogRead_sound (r : CmdRec) {s : State} (hs : s.Sound) : Keeps (execLogRead r s) := by
  unfold execLogRead
  apply keeps_next
  repeat' first | with_reducible apply runCommand_sound | with_reducible apply logReadDesc_sound | with_reducible assumption

theorem alarmReadDesc_sound : alarmReadDesc.Sound where
  body hs _ := hs

theorem execAlarmRead_sound (r : CmdRec) {s : State} (hs : s.Sound) : Keeps (execAlarmRead r s) := by
  unfold execAlarmRead
  apply keeps_next
  repeat' first
    | with_reducible apply runCommand_sound
    | with_reducible apply alarmReadDesc_sound
    | with_reducible assumption

theorem gleanCtlDesc_sound : gleanCtlDesc.Sound := by
  unfold gleanCtlDesc
  refine ⟨fun hs c => ?_, fun hs c => ?_, fun hs c => ?_, fun hs c x => ?_, fun hs c => ?_, fun hs c => ?_, fun hs c => ?_⟩ <;> dsimp only
  all_goals
    repeat' first | with_reducible apply State.modPkg_sound | with_reducible assumption

theorem execGleanCtl_sound (r : CmdRec) {s : State} (hs : s.Sound) : Keeps (execGleanCtl r s) := by
  unfold execGleanCtl
  apply keeps_next
  repeat' first
    | with_reducible apply runCommand_sound
    | with_reducible apply gleanCtlDesc_sound
    | with_reducible assumption

theorem execTelemetryPeriod_sound {s : State} (hs : s.Sound) : Keeps (execTelemetryPeriod s) := by
  unfold execTelemetryPeriod
  apply keeps_next
  repeat' first | with_reducible apply State.raise_sound | with_reducible assumption | split

end Sys2Proof.Machine
end

