-- ==== Sys2Proof/Laws/SoundLattice.lean ====
section
/-! SUPPORT. The operations of Lattice keep the invariant State.Sound. -/
set_option Elab.async false
set_option linter.unusedTactic false
set_option linter.unreachableTactic false
namespace Sys2Proof.Machine

theorem mlkemKeygenDesc_sound : mlkemKeygenDesc.Sound := by
  unfold mlkemKeygenDesc
  refine ⟨fun hs c => ?_, fun hs c => ?_, fun hs c => ?_, fun hs c x => ?_, fun hs c => ?_, fun hs c => ?_, fun hs c => ?_⟩ <;> dsimp only
  all_goals
    repeat' first | with_reducible apply State.makePair_sound | with_reducible assumption

theorem execMlkemKeygen_sound (r : CmdRec) {s : State} (hs : s.Sound) : Keeps (execMlkemKeygen r s) := by
  unfold execMlkemKeygen
  apply keeps_next
  repeat' first
    | with_reducible apply runCommand_sound
    | with_reducible apply mlkemKeygenDesc_sound
    | with_reducible assumption

theorem mlkemEncapsDesc_sound : mlkemEncapsDesc.Sound := by
  unfold mlkemEncapsDesc
  refine ⟨fun hs c => ?_, fun hs c => ?_, fun hs c => ?_, fun hs c x => ?_, fun hs c => ?_, fun hs c => ?_, fun hs c => ?_⟩ <;> dsimp only
  all_goals
    repeat' first | with_reducible apply State.addSecret_sound | with_reducible assumption

theorem execMlkemEncaps_sound (r : CmdRec) {s : State} (hs : s.Sound) : Keeps (execMlkemEncaps r s) := by
  unfold execMlkemEncaps
  apply keeps_next
  repeat' first
    | with_reducible apply runCommand_sound
    | with_reducible apply mlkemEncapsDesc_sound
    | with_reducible assumption

theorem mlkemDecapsDesc_sound : mlkemDecapsDesc.Sound := by
  unfold mlkemDecapsDesc
  refine ⟨fun hs c => ?_, fun hs c => ?_, fun hs c => ?_, fun hs c x => ?_, fun hs c => ?_, fun hs c => ?_, fun hs c => ?_⟩ <;> dsimp only
  all_goals
    repeat' first | with_reducible apply State.addSecret_sound | with_reducible assumption

theorem execMlkemDecaps_sound (r : CmdRec) {s : State} (hs : s.Sound) : Keeps (execMlkemDecaps r s) := by
  unfold execMlkemDecaps
  apply keeps_next
  repeat' first
    | with_reducible apply runCommand_sound
    | with_reducible apply mlkemDecapsDesc_sound
    | with_reducible assumption

theorem hybridEncapsDesc_sound : hybridEncapsDesc.Sound := by
  unfold hybridEncapsDesc
  refine ⟨fun hs c => ?_, fun hs c => ?_, fun hs c => ?_, fun hs c x => ?_, fun hs c => ?_, fun hs c => ?_, fun hs c => ?_⟩ <;> dsimp only
  all_goals
    repeat' first | with_reducible apply State.addSecret_sound | with_reducible assumption

theorem execHybridEncaps_sound (r : CmdRec) {s : State} (hs : s.Sound) : Keeps (execHybridEncaps r s) := by
  unfold execHybridEncaps
  apply keeps_next
  repeat' first
    | with_reducible apply runCommand_sound
    | with_reducible apply hybridEncapsDesc_sound
    | with_reducible assumption

theorem hybridDecapsDesc_sound : hybridDecapsDesc.Sound := by
  unfold hybridDecapsDesc
  refine ⟨fun hs c => ?_, fun hs c => ?_, fun hs c => ?_, fun hs c x => ?_, fun hs c => ?_, fun hs c => ?_, fun hs c => ?_⟩ <;> dsimp only
  all_goals
    repeat' first | with_reducible apply State.addSecret_sound | with_reducible assumption

theorem execHybridDecaps_sound (r : CmdRec) {s : State} (hs : s.Sound) : Keeps (execHybridDecaps r s) := by
  unfold execHybridDecaps
  apply keeps_next
  repeat' first
    | with_reducible apply runCommand_sound
    | with_reducible apply hybridDecapsDesc_sound
    | with_reducible assumption

theorem mldsaSignDesc_sound : mldsaSignDesc.Sound where
  body hs _ := hs

theorem execMldsaSign_sound (r : CmdRec) {s : State} (hs : s.Sound) : Keeps (execMldsaSign r s) := by
  unfold execMldsaSign
  apply keeps_next
  repeat' first
    | with_reducible apply runCommand_sound
    | with_reducible apply mldsaSignDesc_sound
    | with_reducible assumption

theorem mldsaVerifyDesc_sound : mldsaVerifyDesc.Sound where
  body hs _ := hs

theorem execMldsaVerify_sound (r : CmdRec) {s : State} (hs : s.Sound) : Keeps (execMldsaVerify r s) := by
  unfold execMldsaVerify
  apply keeps_next
  repeat' first
    | with_reducible apply runCommand_sound
    | with_reducible apply mldsaVerifyDesc_sound
    | with_reducible assumption

theorem hybridSignDesc_sound : hybridSignDesc.Sound where
  body hs _ := hs

theorem execHybridSign_sound (r : CmdRec) {s : State} (hs : s.Sound) : Keeps (execHybridSign r s) := by
  unfold execHybridSign
  apply keeps_next
  repeat' first
    | with_reducible apply runCommand_sound
    | with_reducible apply hybridSignDesc_sound
    | with_reducible assumption

theorem hybridVerifyDesc_sound : hybridVerifyDesc.Sound where
  body hs _ := hs

theorem execHybridVerify_sound (r : CmdRec) {s : State} (hs : s.Sound) : Keeps (execHybridVerify r s) := by
  unfold execHybridVerify
  apply keeps_next
  repeat' first
    | with_reducible apply runCommand_sound
    | with_reducible apply hybridVerifyDesc_sound
    | with_reducible assumption

end Sys2Proof.Machine
end

