-- ==== Sys2Proof/Laws/SoundHashSigs.lean ====
section
/-! SUPPORT. The operations of HashSigs keep the invariant State.Sound. -/
set_option Elab.async false
set_option linter.unusedTactic false
set_option linter.unreachableTactic false
namespace Sys2Proof.Machine

theorem slhdsaSignDesc_sound : slhdsaSignDesc.Sound where
  body hs _ := hs

theorem execSlhdsaSign_sound (r : CmdRec) {s : State} (hs : s.Sound) : Keeps (execSlhdsaSign r s) := by
  unfold execSlhdsaSign
  apply keeps_next
  repeat' first
    | with_reducible apply runCommand_sound
    | with_reducible apply slhdsaSignDesc_sound
    | with_reducible assumption

theorem slhdsaVerifyDesc_sound : slhdsaVerifyDesc.Sound where
  body hs _ := hs

theorem execSlhdsaVerify_sound (r : CmdRec) {s : State} (hs : s.Sound) : Keeps (execSlhdsaVerify r s) := by
  unfold execSlhdsaVerify
  apply keeps_next
  repeat' first
    | with_reducible apply runCommand_sound
    | with_reducible apply slhdsaVerifyDesc_sound
    | with_reducible assumption

theorem statefulKeygenDesc_sound : statefulKeygenDesc.Sound := by
  unfold statefulKeygenDesc
  refine ⟨fun hs c => ?_, fun hs c => ?_, fun hs c => ?_, fun hs c x => ?_, fun hs c => ?_, fun hs c => ?_, fun hs c => ?_⟩ <;> dsimp only
  all_goals
    repeat' first
      | with_reducible apply State.allocRange_sound
      | with_reducible apply State.addKey_sound
      | with_reducible apply State.pairUp_sound
      | with_reducible assumption

theorem execStatefulKeygen_sound (r : CmdRec) {s : State} (hs : s.Sound) : Keeps (execStatefulKeygen r s) := by
  unfold execStatefulKeygen
  apply keeps_next
  repeat' first
    | with_reducible apply runCommand_sound
    | with_reducible apply statefulKeygenDesc_sound
    | with_reducible assumption

theorem State.signPrepares_sound {s : State} (hs : s.Sound) (c : Cmd) : (State.signPrepares s c).Sound := by
  unfold State.signPrepares
  repeat' first
    | with_reducible apply State.reserve_sound
    | with_reducible apply State.modLeaf_sound
    | with_reducible assumption
    | split
    | dsimp only

theorem statefulSignDesc_sound : statefulSignDesc.Sound := by
  unfold statefulSignDesc
  refine ⟨fun hs c => ?_, fun hs c => ?_, fun hs c => ?_, fun hs c x => ?_, fun hs c => ?_, fun hs c => ?_, fun hs c => ?_⟩ <;> dsimp only
  all_goals
    repeat' first
      | with_reducible apply State.issueLeaf_sound
      | with_reducible apply State.signPrepares_sound
      | with_reducible apply foldl_sound
      | with_reducible refine of_snd (by with_reducible assumption) ?_
      | with_reducible refine of_fst (by with_reducible assumption) ?_
      | with_reducible refine of_trd (by with_reducible assumption) ?_
      | with_reducible assumption
      | split
      | intro _
      | with_reducible exact field_mk (by assumption)
      | with_reducible exact sound_mk (by assumption)
      | dsimp only

theorem execStatefulSign_sound (r : CmdRec) {s : State} (hs : s.Sound) : Keeps (execStatefulSign r s) := by
  unfold execStatefulSign
  apply keeps_next
  repeat' first
    | with_reducible apply runCommand_sound
    | with_reducible apply statefulSignDesc_sound
    | with_reducible assumption

theorem execLeafReservationDone_sound (handle : Nat) (good : Bool) {s : State} (hs : s.Sound) : Keeps (execLeafReservationDone handle good s) := by
  unfold execLeafReservationDone
  apply keeps_next
  repeat' first
    | with_reducible apply State.wakeSigners_sound
    | with_reducible apply State.modLeaf_sound
    | with_reducible apply State.recordLeaf_sound
    | with_reducible apply State.tearLeaf_sound
    | with_reducible apply State.fresh_sound
    | with_reducible apply State.log_sound
    | with_reducible apply State.complete_sound
    | with_reducible assumption
    | split

theorem execCacheRebuildDone_sound (handle : Nat) {s : State} (hs : s.Sound) : Keeps (execCacheRebuildDone handle s) := by
  unfold execCacheRebuildDone
  apply keeps_next
  repeat' first
    | with_reducible apply State.modField_sound
    | with_reducible apply State.chargeTime_sound
    | with_reducible apply State.fresh_sound
    | with_reducible apply State.wakeSigners_sound
    | with_reducible apply State.modLeaf_sound
    | with_reducible assumption
    | split
    | intro _
    | with_reducible exact field_mk (by assumption)

theorem statefulVerifyDesc_sound : statefulVerifyDesc.Sound where
  body hs _ := hs

theorem execStatefulVerify_sound (r : CmdRec) {s : State} (hs : s.Sound) : Keeps (execStatefulVerify r s) := by
  unfold execStatefulVerify
  apply keeps_next
  repeat' first
    | with_reducible apply runCommand_sound
    | with_reducible apply statefulVerifyDesc_sound
    | with_reducible assumption

theorem statefulStatusDesc_sound : statefulStatusDesc.Sound where
  body hs _ := hs

theorem execStatefulStatus_sound (r : CmdRec) {s : State} (hs : s.Sound) : Keeps (execStatefulStatus r s) := by
  unfold execStatefulStatus
  apply keeps_next
  repeat' first
    | with_reducible apply runCommand_sound
    | with_reducible apply statefulStatusDesc_sound
    | with_reducible assumption

theorem statefulSetBlockDesc_sound : statefulSetBlockDesc.Sound := by
  unfold statefulSetBlockDesc
  refine ⟨fun hs c => ?_, fun hs c => ?_, fun hs c => ?_, fun hs c x => ?_, fun hs c => ?_, fun hs c => ?_, fun hs c => ?_⟩ <;> dsimp only
  all_goals
    repeat' first
      | with_reducible apply State.modCmd_sound
      | with_reducible apply State.modLeaf_sound
      | with_reducible apply State.recordLeaf_sound
      | with_reducible apply State.tearLeaf_sound
      | with_reducible apply foldl_sound
      | with_reducible refine of_snd (by with_reducible assumption) ?_
      | with_reducible refine of_fst (by with_reducible assumption) ?_
      | with_reducible refine of_trd (by with_reducible assumption) ?_
      | with_reducible assumption
      | split
      | intro _
      | with_reducible exact field_mk (by assumption)
      | with_reducible exact sound_mk (by assumption)
      | dsimp only

theorem execStatefulSetBlock_sound (r : CmdRec) {s : State} (hs : s.Sound) : Keeps (execStatefulSetBlock r s) := by
  unfold execStatefulSetBlock
  apply keeps_next
  repeat' first
    | with_reducible apply runCommand_sound
    | with_reducible apply statefulSetBlockDesc_sound
    | with_reducible assumption

end Sys2Proof.Machine
end

