-- ==== Sys2Proof/Laws/SoundClassical.lean ====
section
/-! SUPPORT. The operations of Classical keep the invariant State.Sound. -/
set_option Elab.async false
set_option linter.unusedTactic false
set_option linter.unreachableTactic false
namespace Sys2Proof.Machine

theorem mceEncapsDesc_sound : mceEncapsDesc.Sound := by
  unfold mceEncapsDesc
  refine ⟨fun hs c => ?_, fun hs c => ?_, fun hs c => ?_, fun hs c x => ?_, fun hs c => ?_, fun hs c => ?_, fun hs c => ?_⟩ <;> dsimp only
  all_goals
    repeat' first | with_reducible apply State.addSecret_sound | with_reducible assumption

theorem execMceEncaps_sound (r : CmdRec) {s : State} (hs : s.Sound) : Keeps (execMceEncaps r s) := by
  unfold execMceEncaps
  apply keeps_next
  repeat' first
    | with_reducible apply runCommand_sound
    | with_reducible apply mceEncapsDesc_sound
    | with_reducible assumption

theorem mceDecapsDesc_sound : mceDecapsDesc.Sound := by
  unfold mceDecapsDesc
  refine ⟨fun hs c => ?_, fun hs c => ?_, fun hs c => ?_, fun hs c x => ?_, fun hs c => ?_, fun hs c => ?_, fun hs c => ?_⟩ <;> dsimp only
  all_goals
    repeat' first | with_reducible apply State.addSecret_sound | with_reducible assumption

theorem execMceDecaps_sound (r : CmdRec) {s : State} (hs : s.Sound) : Keeps (execMceDecaps r s) := by
  unfold execMceDecaps
  apply keeps_next
  repeat' first
    | with_reducible apply runCommand_sound
    | with_reducible apply mceDecapsDesc_sound
    | with_reducible assumption

theorem rsaEncryptDesc_sound : rsaEncryptDesc.Sound where
  body hs _ := hs

theorem execRsaEncrypt_sound (r : CmdRec) {s : State} (hs : s.Sound) : Keeps (execRsaEncrypt r s) := by
  unfold execRsaEncrypt
  apply keeps_next
  repeat' first
    | with_reducible apply runCommand_sound
    | with_reducible apply rsaEncryptDesc_sound
    | with_reducible assumption

theorem rsaDecryptDesc_sound : rsaDecryptDesc.Sound := by
  unfold rsaDecryptDesc
  refine ⟨fun hs c => ?_, fun hs c => ?_, fun hs c => ?_, fun hs c x => ?_, fun hs c => ?_, fun hs c => ?_, fun hs c => ?_⟩ <;> dsimp only
  all_goals
    repeat' first | with_reducible apply State.addSecret_sound | with_reducible assumption | split

theorem execRsaDecrypt_sound (r : CmdRec) {s : State} (hs : s.Sound) : Keeps (execRsaDecrypt r s) := by
  unfold execRsaDecrypt
  apply keeps_next
  repeat' first
    | with_reducible apply runCommand_sound
    | with_reducible apply rsaDecryptDesc_sound
    | with_reducible assumption

theorem rsaSignDesc_sound : rsaSignDesc.Sound where
  body hs _ := hs

theorem execRsaSign_sound (r : CmdRec) {s : State} (hs : s.Sound) : Keeps (execRsaSign r s) := by
  unfold execRsaSign
  apply keeps_next
  repeat' first | with_reducible apply runCommand_sound | with_reducible apply rsaSignDesc_sound | with_reducible assumption

theorem rsaVerifyDesc_sound : rsaVerifyDesc.Sound where
  body hs _ := hs

theorem execRsaVerify_sound (r : CmdRec) {s : State} (hs : s.Sound) : Keeps (execRsaVerify r s) := by
  unfold execRsaVerify
  apply keeps_next
  repeat' first
    | with_reducible apply runCommand_sound
    | with_reducible apply rsaVerifyDesc_sound
    | with_reducible assumption

theorem ecdsaSignDesc_sound : ecdsaSignDesc.Sound where
  body hs _ := hs

theorem execEcdsaSign_sound (r : CmdRec) {s : State} (hs : s.Sound) : Keeps (execEcdsaSign r s) := by
  unfold execEcdsaSign
  apply keeps_next
  repeat' first
    | with_reducible apply runCommand_sound
    | with_reducible apply ecdsaSignDesc_sound
    | with_reducible assumption

theorem ecdsaVerifyDesc_sound : ecdsaVerifyDesc.Sound where
  body hs _ := hs

theorem execEcdsaVerify_sound (r : CmdRec) {s : State} (hs : s.Sound) : Keeps (execEcdsaVerify r s) := by
  unfold execEcdsaVerify
  apply keeps_next
  repeat' first
    | with_reducible apply runCommand_sound
    | with_reducible apply ecdsaVerifyDesc_sound
    | with_reducible assumption

theorem ecAgreeDesc_sound : ecAgreeDesc.Sound := by
  unfold ecAgreeDesc
  refine ⟨fun hs c => ?_, fun hs c => ?_, fun hs c => ?_, fun hs c x => ?_, fun hs c => ?_, fun hs c => ?_, fun hs c => ?_⟩ <;> dsimp only
  all_goals
    repeat' first | with_reducible apply State.addSecret_sound | with_reducible assumption

theorem execEcAgree_sound (r : CmdRec) {s : State} (hs : s.Sound) : Keeps (execEcAgree r s) := by
  unfold execEcAgree
  apply keeps_next
  repeat' first | with_reducible apply runCommand_sound | with_reducible apply ecAgreeDesc_sound | with_reducible assumption

theorem eddsaSignDesc_sound : eddsaSignDesc.Sound where
  body hs _ := hs

theorem execEddsaSign_sound (r : CmdRec) {s : State} (hs : s.Sound) : Keeps (execEddsaSign r s) := by
  unfold execEddsaSign
  apply keeps_next
  repeat' first
    | with_reducible apply runCommand_sound
    | with_reducible apply eddsaSignDesc_sound
    | with_reducible assumption

theorem eddsaVerifyDesc_sound : eddsaVerifyDesc.Sound where
  body hs _ := hs

theorem execEddsaVerify_sound (r : CmdRec) {s : State} (hs : s.Sound) : Keeps (execEddsaVerify r s) := by
  unfold execEddsaVerify
  apply keeps_next
  repeat' first
    | with_reducible apply runCommand_sound
    | with_reducible apply eddsaVerifyDesc_sound
    | with_reducible assumption

end Sys2Proof.Machine
end

