-- ==== Sys2Proof/Laws/SoundWinnow.lean ====
section
/-! SUPPORT. The operations of Winnow keep the invariant State.Sound. -/
set_option Elab.async false
set_option linter.unusedTactic false
set_option linter.unreachableTactic false
namespace Sys2Proof.Machine

theorem winnowDesc_sound (op : Nat) : (winnowDesc op).Sound := by
  unfold winnowDesc
  refine ⟨fun hs c => ?_, fun hs c => ?_, fun hs c => ?_, fun hs c x => ?_, fun hs c => ?_, fun hs c => ?_, fun hs c => ?_⟩ <;> dsimp only
  all_goals
    repeat' first | with_reducible apply State.wQueues_sound | with_reducible assumption | split

theorem execDigest_sound (r : CmdRec) {s : State} (hs : s.Sound) : Keeps (execDigest r s) := by
  unfold execDigest
  apply keeps_next
  repeat' first | with_reducible apply runCommand_sound | with_reducible apply winnowDesc_sound | with_reducible assumption

theorem execMacGen_sound (r : CmdRec) {s : State} (hs : s.Sound) : Keeps (execMacGen r s) := by
  unfold execMacGen
  apply keeps_next
  repeat' first | with_reducible apply runCommand_sound | with_reducible apply winnowDesc_sound | with_reducible assumption

theorem execMacVerify_sound (r : CmdRec) {s : State} (hs : s.Sound) : Keeps (execMacVerify r s) := by
  unfold execMacVerify
  apply keeps_next
  repeat' first | with_reducible apply runCommand_sound | with_reducible apply winnowDesc_sound | with_reducible assumption

theorem execDigestCompare_sound (r : CmdRec) {s : State} (hs : s.Sound) : Keeps (execDigestCompare r s) := by
  unfold execDigestCompare
  apply keeps_next
  repeat' first | with_reducible apply runCommand_sound | with_reducible apply winnowDesc_sound | with_reducible assumption

theorem FieldSt.servedImage_sound {x : FieldSt} (hx : x.Sound) (w : WCtx) : (FieldSt.servedImage x w).Sound := by
  unfold FieldSt.servedImage
  repeat' first

    | with_reducible apply foldl_sound
    | with_reducible refine of_snd (by with_reducible assumption) ?_
    | with_reducible refine of_fst (by with_reducible assumption) ?_
    | with_reducible refine of_trd (by with_reducible assumption) ?_
    | with_reducible assumption
    | split
    | intro _
    | with_reducible exact field_mk (by assumption)
    | with_reducible exact sound_mk (by assumption)
    | (with_reducible refine field_mk_map (by assumption) ?_; intro _ h; exact furrow_mk h)
    | with_reducible exact sound_zipMap (by assumption) fun _ _ h => field_mk h
    | with_reducible exact sound_runs (by assumption) (runs_filter (by assumption) _)
    | dsimp only
    | (with_reducible apply field_mk; first | split | with_reducible assumption)
    | (with_reducible apply sound_mk; first | split | with_reducible apply foldl_sound | with_reducible apply State.modField_sound | with_reducible apply State.modFields_sound | with_reducible apply State.modPkg_sound | with_reducible apply State.modInst_sound | with_reducible apply State.modCmd_sound)

theorem execContextSaveDone_sound (field : Nat) (ctx : Nat) {s : State} (hs : s.Sound) : Keeps (execContextSaveDone field ctx s) := by
  unfold execContextSaveDone
  apply keeps_next
  repeat' first
    | with_reducible apply State.modField_sound
    | with_reducible apply State.complete_sound
    | with_reducible apply FieldSt.modCtx_sound
    | with_reducible apply State.ctxSegment_sound
    | with_reducible apply State.serveCtx_sound
    | with_reducible apply State.pageWrite_sound
    | with_reducible apply FieldSt.servedImage_sound
    | with_reducible apply foldl_sound
    | with_reducible refine of_snd (by with_reducible assumption) ?_
    | with_reducible refine of_fst (by with_reducible assumption) ?_
    | with_reducible refine of_trd (by with_reducible assumption) ?_
    | with_reducible assumption
    | split
    | intro _
    | with_reducible exact field_mk (by assumption)
    | with_reducible exact sound_mk (by assumption)
    | (with_reducible refine field_mk_map (by assumption) ?_; intro _ h; exact furrow_mk h)
    | with_reducible exact sound_zipMap (by assumption) fun _ _ h => field_mk h
    | with_reducible exact sound_runs (by assumption) (runs_filter (by assumption) _)
    | dsimp only
    | (with_reducible apply field_mk; first | split | with_reducible apply FieldSt.modCtx_sound | with_reducible apply FieldSt.servedImage_sound)
    | (with_reducible apply sound_mk; first | split | with_reducible apply foldl_sound | with_reducible apply State.modField_sound | with_reducible apply State.complete_sound | with_reducible apply FieldSt.modCtx_sound | with_reducible apply State.ctxSegment_sound | with_reducible apply State.serveCtx_sound | with_reducible apply State.pageWrite_sound | with_reducible apply FieldSt.servedImage_sound | with_reducible apply State.modField_sound | with_reducible apply State.modFields_sound | with_reducible apply State.modPkg_sound | with_reducible apply State.modInst_sound | with_reducible apply State.modCmd_sound)

theorem execContextRestoreDone_sound (field : Nat) (ctx : Nat) (wrapOk : Bool) {s : State} (hs : s.Sound) : Keeps (execContextRestoreDone field ctx wrapOk s) := by
  unfold execContextRestoreDone
  apply keeps_next
  repeat' first
    | with_reducible apply State.modField_sound
    | with_reducible apply State.modCmd_sound
    | with_reducible apply State.readPage_sound
    | with_reducible apply State.complete_sound
    | with_reducible apply FieldSt.modCtx_sound
    | with_reducible apply State.ctxSegment_sound
    | with_reducible apply FieldSt.servedImage_sound
    | with_reducible apply foldl_sound
    | with_reducible refine of_snd (by with_reducible assumption) ?_
    | with_reducible refine of_fst (by with_reducible assumption) ?_
    | with_reducible refine of_trd (by with_reducible assumption) ?_
    | with_reducible assumption
    | split
    | intro _
    | with_reducible exact field_mk (by assumption)
    | with_reducible exact sound_mk (by assumption)
    | (with_reducible refine field_mk_map (by assumption) ?_; intro _ h; exact furrow_mk h)
    | with_reducible exact sound_zipMap (by assumption) fun _ _ h => field_mk h
    | with_reducible exact sound_runs (by assumption) (runs_filter (by assumption) _)
    | dsimp only
    | (with_reducible apply field_mk; first | split | with_reducible apply FieldSt.modCtx_sound | with_reducible apply FieldSt.servedImage_sound)
    | (with_reducible apply sound_mk; first | split | with_reducible apply foldl_sound | with_reducible apply State.modField_sound | with_reducible apply State.modCmd_sound | with_reducible apply State.readPage_sound | with_reducible apply State.complete_sound | with_reducible apply FieldSt.modCtx_sound | with_reducible apply State.ctxSegment_sound | with_reducible apply FieldSt.servedImage_sound | with_reducible apply State.modField_sound | with_reducible apply State.modFields_sound | with_reducible apply State.modPkg_sound | with_reducible apply State.modInst_sound | with_reducible apply State.modCmd_sound)

theorem execWinnowContextFree_sound (field : Nat) {s : State} (hs : s.Sound) : Keeps (execWinnowContextFree field s) := by
  unfold execWinnowContextFree
  apply keeps_next
  repeat' first | with_reducible apply State.serveCtx_sound | with_reducible assumption

end Sys2Proof.Machine
end

