-- ==== Sys2Proof/Laws/SoundThresher.lean ====
section
/-! SUPPORT. The operations of Thresher keep the invariant State.Sound. -/
set_option Elab.async false
set_option linter.unusedTactic false
set_option linter.unreachableTactic false
namespace Sys2Proof.Machine

theorem aeadSealDesc_sound : aeadSealDesc.Sound := by
  unfold aeadSealDesc
  refine ⟨fun hs c => ?_, fun hs c => ?_, fun hs c => ?_, fun hs c x => ?_, fun hs c => ?_, fun hs c => ?_, fun hs c => ?_⟩ <;> dsimp only
  all_goals
    repeat' first
      | with_reducible apply State.placeMessage_sound
      | with_reducible apply State.startAead_sound
      | with_reducible apply State.releaseOut_sound
      | with_reducible apply foldl_sound
      | with_reducible refine of_snd (by with_reducible assumption) ?_
      | with_reducible refine of_fst (by with_reducible assumption) ?_
      | with_reducible refine of_trd (by with_reducible assumption) ?_
      | with_reducible assumption
      | split
      | intro _
      | with_reducible exact field_mk (by assumption)
      | with_reducible exact sound_mk (by assumption)
      | dsimp only

theorem execAeadSeal_sound (r : CmdRec) {s : State} (hs : s.Sound) : Keeps (execAeadSeal r s) := by
  unfold execAeadSeal
  apply keeps_next
  repeat' first
    | with_reducible apply runCommand_sound
    | with_reducible apply aeadSealDesc_sound
    | with_reducible assumption

theorem aeadOpenDesc_sound : aeadOpenDesc.Sound := by
  unfold aeadOpenDesc
  refine ⟨fun hs c => ?_, fun hs c => ?_, fun hs c => ?_, fun hs c x => ?_, fun hs c => ?_, fun hs c => ?_, fun hs c => ?_⟩ <;> dsimp only
  all_goals
    repeat' first
      | with_reducible apply State.placeMessage_sound
      | with_reducible apply State.startAead_sound
      | with_reducible apply State.releaseOut_sound
      | with_reducible apply State.wipeOut_sound
      | with_reducible apply foldl_sound
      | with_reducible refine of_snd (by with_reducible assumption) ?_
      | with_reducible refine of_fst (by with_reducible assumption) ?_
      | with_reducible refine of_trd (by with_reducible assumption) ?_
      | with_reducible assumption
      | split
      | intro _
      | with_reducible exact field_mk (by assumption)
      | with_reducible exact sound_mk (by assumption)
      | dsimp only

theorem execAeadOpen_sound (r : CmdRec) {s : State} (hs : s.Sound) : Keeps (execAeadOpen r s) := by
  unfold execAeadOpen
  apply keeps_next
  repeat' first
    | with_reducible apply runCommand_sound
    | with_reducible apply aeadOpenDesc_sound
    | with_reducible assumption

theorem cmacDesc_sound (op : Nat) (use : Nat) (verify : Bool) : (cmacDesc op use verify).Sound where
  body hs _ := hs

theorem execCmacGen_sound (r : CmdRec) {s : State} (hs : s.Sound) : Keeps (execCmacGen r s) := by
  unfold execCmacGen
  apply keeps_next
  repeat' first | with_reducible apply runCommand_sound | with_reducible apply cmacDesc_sound | with_reducible assumption

theorem execCmacVerify_sound (r : CmdRec) {s : State} (hs : s.Sound) : Keeps (execCmacVerify r s) := by
  unfold execCmacVerify
  apply keeps_next
  repeat' first | with_reducible apply runCommand_sound | with_reducible apply cmacDesc_sound | with_reducible assumption

theorem execWhiskRequestPromotion_sound (field : Nat) {s : State} (hs : s.Sound) : Keeps (execWhiskRequestPromotion field s) := by
  unfold execWhiskRequestPromotion
  apply keeps_next
  repeat' first
    | with_reducible apply State.modField_sound
    | with_reducible assumption
    | intro _
    | with_reducible exact field_mk (by assumption)

theorem State.modSa_sound {s : State} (hs : s.Sound) (h : Nat) (g : Sa → Sa) : (State.modSa s h g).Sound := by
  unfold State.modSa
  repeat' first | with_reducible exact sound_mk (by assumption)

theorem State.judgeSa_sound {s : State} (hs : s.Sound) (h : Nat) (time : Bool) : (State.judgeSa s h time).Sound := by
  unfold State.judgeSa
  repeat' first
    | with_reducible apply State.raise_sound
    | with_reducible apply State.modSa_sound
    | with_reducible assumption
    | split
    | dsimp only

theorem State.addSa_sound {s : State} (hs : s.Sound) (inst : Nat) (f : Nat) (replace : Bool) (a : Sa) : (State.addSa s inst f replace a).2.Sound := by
  unfold State.addSa
  repeat' first
    | with_reducible apply State.modPkg_sound
    | with_reducible apply State.judgeSa_sound
    | with_reducible assumption
    | split
    | intro _
    | with_reducible exact sound_mk (by assumption)
    | with_reducible exact field_mk (by assumption)
    | (with_reducible apply sound_mk; first | split | with_reducible apply foldl_sound | with_reducible apply State.modField_sound | with_reducible apply State.modPkg_sound | with_reducible apply State.judgeSa_sound | with_reducible apply State.modFields_sound | with_reducible apply State.modInst_sound | with_reducible apply State.modCmd_sound)

theorem saInstallDesc_sound : saInstallDesc.Sound := by
  unfold saInstallDesc
  refine ⟨fun hs c => ?_, fun hs c => ?_, fun hs c => ?_, fun hs c x => ?_, fun hs c => ?_, fun hs c => ?_, fun hs c => ?_⟩ <;> dsimp only
  all_goals
    repeat' first
      | with_reducible apply State.addSa_sound
      | with_reducible apply State.modCmd_sound
      | with_reducible assumption

theorem execSaInstall_sound (r : CmdRec) {s : State} (hs : s.Sound) : Keeps (execSaInstall r s) := by
  unfold execSaInstall
  apply keeps_next
  repeat' first
    | with_reducible apply runCommand_sound
    | with_reducible apply saInstallDesc_sound
    | with_reducible assumption

theorem saRetireDesc_sound : saRetireDesc.Sound := by
  unfold saRetireDesc
  refine ⟨fun hs c => ?_, fun hs c => ?_, fun hs c => ?_, fun hs c x => ?_, fun hs c => ?_, fun hs c => ?_, fun hs c => ?_⟩ <;> dsimp only
  all_goals
    repeat' first
      | with_reducible apply State.loseHalf_sound
      | with_reducible apply State.dropSa_sound
      | with_reducible apply foldl_sound
      | with_reducible refine of_snd (by with_reducible assumption) ?_
      | with_reducible refine of_fst (by with_reducible assumption) ?_
      | with_reducible refine of_trd (by with_reducible assumption) ?_
      | with_reducible assumption
      | split
      | intro _
      | with_reducible exact field_mk (by assumption)
      | with_reducible exact sound_mk (by assumption)
      | dsimp only

theorem execSaRetire_sound (r : CmdRec) {s : State} (hs : s.Sound) : Keeps (execSaRetire r s) := by
  unfold execSaRetire
  apply keeps_next
  repeat' first
    | with_reducible apply runCommand_sound
    | with_reducible apply saRetireDesc_sound
    | with_reducible assumption

theorem saInfoDesc_sound : saInfoDesc.Sound := by
  unfold saInfoDesc
  refine ⟨fun hs c => ?_, fun hs c => ?_, fun hs c => ?_, fun hs c x => ?_, fun hs c => ?_, fun hs c => ?_, fun hs c => ?_⟩ <;> dsimp only
  all_goals
    repeat' first
      | with_reducible apply State.readPage_sound
      | with_reducible apply State.modCmd_sound
      | with_reducible refine of_snd (by with_reducible assumption) ?_
      | with_reducible assumption
      | split

theorem execSaInfo_sound (r : CmdRec) {s : State} (hs : s.Sound) : Keeps (execSaInfo r s) := by
  unfold execSaInfo
  apply keeps_next
  repeat' first | with_reducible apply runCommand_sound | with_reducible apply saInfoDesc_sound | with_reducible assumption

theorem execSaLifetimeScan_sound {s : State} (hs : s.Sound) : Keeps (execSaLifetimeScan s) := by
  unfold execSaLifetimeScan
  apply keeps_next
  repeat' first
    | with_reducible apply State.judgeSa_sound
    | with_reducible apply foldl_sound
    | with_reducible assumption
    | split
    | intro _

theorem State.dropSaPacket_sound {s : State} (hs : s.Sound) (p : Nat) : (State.dropSaPacket s p).Sound := by
  unfold State.dropSaPacket
  repeat' first | with_reducible apply State.drop_sound | with_reducible assumption

theorem State.withSa_sound {s : State} (hs : s.Sound) (p : Nat) (a : Sa) {g : State → State} (hg : ∀ s : State, s.Sound → (g s).Sound) :
    (s.withSa p a g).Sound := by
  unfold State.withSa
  have hr := State.readPage_sound hs a.field (saPage s.n a.handle)
  split
  · exact State.dropSaPacket_sound hs _
  · split
    · exact hg s hs
    · split
      · exact State.dropSaPacket_sound hs _
      · split
        · exact State.dropSaPacket_sound (of_snd ‹_› hr) _
        · exact State.dropSaPacket_sound (of_snd ‹_› hr) _
        · exact hg _ (State.modField_sound (of_snd ‹_› hr) _ fun _ hx => FieldSt.cacheKey_sound hx ..)

theorem State.inlineMiss_sound {s : State} (hs : s.Sound) (f : RxFrame) : (State.inlineMiss s f).Sound := by
  unfold State.inlineMiss
  repeat' first
    | with_reducible apply State.drop_sound
    | with_reducible assumption
    | split
    | with_reducible exact sound_mk (by assumption)

theorem State.sentBySa_sound {s : State} (hs : s.Sound) (a : Sa) (octets : Nat) : (State.sentBySa s a octets).Sound := by
  unfold State.sentBySa
  repeat' first
    | with_reducible apply State.judgeSa_sound
    | with_reducible apply State.modSa_sound
    | with_reducible assumption

theorem State.espOut_sound {s : State} (hs : s.Sound) (f : RxFrame) (a : Sa) : (State.espOut s f a).Sound := by
  unfold State.espOut
  repeat' first
    | with_reducible apply State.dropSaPacket_sound
    | with_reducible apply State.sentBySa_sound
    | with_reducible assumption
    | split
    | with_reducible exact sound_mk (by assumption)
    | dsimp only

theorem State.macsecOut_sound {s : State} (hs : s.Sound) (f : RxFrame) (a : Sa) : (State.macsecOut s f a).Sound := by
  unfold State.macsecOut
  repeat' first | with_reducible apply State.sentBySa_sound | split | with_reducible exact sound_mk (by assumption)

theorem State.drillFrame_sound {s : State} (hs : s.Sound) (f : RxFrame) : (State.drillFrame s f).Sound := by
  unfold State.drillFrame
  repeat' first
    | with_reducible apply State.bufferFrame_sound
    | with_reducible apply State.request_sound
    | with_reducible apply State.segment_sound
    | with_reducible apply State.mailbox_sound
    | with_reducible apply State.creditQuery_sound
    | with_reducible assumption
    | split

theorem State.hostPacket_sound {s : State} (hs : s.Sound) (f : RxFrame) : (State.hostPacket s f).Sound := by
  unfold State.hostPacket
  repeat' first
    | with_reducible apply State.withSa_sound
    | with_reducible apply State.inlineMiss_sound
    | with_reducible apply State.espOut_sound
    | with_reducible apply State.macsecOut_sound
    | with_reducible apply foldl_sound
    | with_reducible refine of_snd (by with_reducible assumption) ?_
    | with_reducible refine of_fst (by with_reducible assumption) ?_
    | with_reducible refine of_trd (by with_reducible assumption) ?_
    | with_reducible assumption
    | split
    | intro _
    | with_reducible exact field_mk (by assumption)
    | with_reducible exact sound_mk (by assumption)
    | (with_reducible refine field_mk_map (by assumption) ?_; intro _ h; exact furrow_mk h)
    | with_reducible exact sound_zipMap (by assumption) fun _ _ h => field_mk h
    | with_reducible exact sound_runs (by assumption) (runs_filter (by assumption) _)
    | dsimp only
    | (with_reducible apply field_mk; first | split | with_reducible assumption)
    | (with_reducible apply sound_mk; first | split | with_reducible apply foldl_sound | with_reducible apply State.withSa_sound | with_reducible apply State.inlineMiss_sound | with_reducible apply State.espOut_sound | with_reducible apply State.macsecOut_sound | with_reducible apply State.modField_sound | with_reducible apply State.modFields_sound | with_reducible apply State.modPkg_sound | with_reducible apply State.modInst_sound | with_reducible apply State.modCmd_sound)

theorem State.acceptedBySa_sound {s : State} (hs : s.Sound) (a : Sa) (seq : Nat) (octets : Nat) : (State.acceptedBySa s a seq octets).Sound := by
  unfold State.acceptedBySa
  repeat' first
    | with_reducible apply State.judgeSa_sound
    | with_reducible apply State.modSa_sound
    | with_reducible assumption

theorem State.deliver_sound {s : State} (hs : s.Sound) (a : Sa) (bytes : Bytes) : (State.deliver s a bytes).Sound := by
  unfold State.deliver
  repeat' first
    | with_reducible apply State.dropSaPacket_sound
    | with_reducible assumption
    | split
    | with_reducible exact sound_mk (by assumption)

theorem State.espAccept_sound {s : State} (hs : s.Sound) (a : Sa) (esp : Bytes) : (State.espAccept s a esp).Sound := by
  unfold State.espAccept
  repeat' first
    | with_reducible apply State.modSa_sound
    | with_reducible apply State.acceptedBySa_sound
    | with_reducible apply State.deliver_sound
    | with_reducible apply State.dropSaPacket_sound
    | with_reducible assumption
    | split
    | dsimp only

theorem State.macsecAccept_sound {s : State} (hs : s.Sound) (a : Sa) (f : RxFrame) (t : SecTag) : (State.macsecAccept s a f t).Sound := by
  unfold State.macsecAccept
  repeat' first
    | with_reducible apply State.modSa_sound
    | with_reducible apply State.deliver_sound
    | with_reducible apply State.acceptedBySa_sound
    | with_reducible assumption
    | split

theorem State.linePacket_sound {s : State} (hs : s.Sound) (f : RxFrame) : (State.linePacket s f).Sound := by
  unfold State.linePacket
  repeat' first
    | with_reducible apply State.withSa_sound
    | with_reducible apply State.inlineMiss_sound
    | with_reducible apply State.espAccept_sound
    | with_reducible apply State.macsecAccept_sound
    | with_reducible apply foldl_sound
    | with_reducible refine of_snd (by with_reducible assumption) ?_
    | with_reducible refine of_fst (by with_reducible assumption) ?_
    | with_reducible refine of_trd (by with_reducible assumption) ?_
    | with_reducible assumption
    | split
    | intro _
    | with_reducible exact field_mk (by assumption)
    | with_reducible exact sound_mk (by assumption)
    | (with_reducible refine field_mk_map (by assumption) ?_; intro _ h; exact furrow_mk h)
    | with_reducible exact sound_zipMap (by assumption) fun _ _ h => field_mk h
    | with_reducible exact sound_runs (by assumption) (runs_filter (by assumption) _)
    | dsimp only
    | (with_reducible apply field_mk; first | split | with_reducible assumption)
    | (with_reducible apply sound_mk; first | split | with_reducible apply foldl_sound | with_reducible apply State.withSa_sound | with_reducible apply State.inlineMiss_sound | with_reducible apply State.espAccept_sound | with_reducible apply State.macsecAccept_sound | with_reducible apply State.modField_sound | with_reducible apply State.modFields_sound | with_reducible apply State.modPkg_sound | with_reducible apply State.modInst_sound | with_reducible apply State.modCmd_sound)

theorem State.passPacket_sound {s : State} (hs : s.Sound) (f : RxFrame) : (State.passPacket s f).Sound := by
  unfold State.passPacket
  repeat' first
    | with_reducible apply State.hostPacket_sound
    | with_reducible apply State.linePacket_sound
    | with_reducible apply foldl_sound
    | with_reducible refine of_snd (by with_reducible assumption) ?_
    | with_reducible refine of_fst (by with_reducible assumption) ?_
    | with_reducible refine of_trd (by with_reducible assumption) ?_
    | with_reducible assumption
    | split
    | intro _
    | with_reducible exact field_mk (by assumption)
    | with_reducible exact sound_mk (by assumption)
    | (with_reducible refine field_mk_map (by assumption) ?_; intro _ h; exact furrow_mk h)
    | with_reducible exact sound_zipMap (by assumption) fun _ _ h => field_mk h
    | with_reducible exact sound_runs (by assumption) (runs_filter (by assumption) _)
    | dsimp only
    | (with_reducible apply field_mk; first | split | with_reducible assumption)
    | (with_reducible apply sound_mk; first | split | with_reducible apply foldl_sound | with_reducible apply State.hostPacket_sound | with_reducible apply State.linePacket_sound | with_reducible apply State.modField_sound | with_reducible apply State.modFields_sound | with_reducible apply State.modPkg_sound | with_reducible apply State.modInst_sound | with_reducible apply State.modCmd_sound)

theorem State.holdPacket_sound {s : State} (hs : s.Sound) (f : RxFrame) : (State.holdPacket s f).Sound := by
  unfold State.holdPacket
  repeat' first
    | with_reducible apply State.modPkg_sound
    | with_reducible apply State.modPort_sound
    | with_reducible apply State.drop_sound
    | with_reducible apply foldl_sound
    | with_reducible refine of_snd (by with_reducible assumption) ?_
    | with_reducible refine of_fst (by with_reducible assumption) ?_
    | with_reducible refine of_trd (by with_reducible assumption) ?_
    | with_reducible assumption
    | split
    | intro _
    | with_reducible exact field_mk (by assumption)
    | with_reducible exact sound_mk (by assumption)
    | (with_reducible refine field_mk_map (by assumption) ?_; intro _ h; exact furrow_mk h)
    | with_reducible exact sound_zipMap (by assumption) fun _ _ h => field_mk h
    | with_reducible exact sound_runs (by assumption) (runs_filter (by assumption) _)
    | dsimp only
    | (with_reducible apply field_mk; first | split | with_reducible assumption)
    | (with_reducible apply sound_mk; first | split | with_reducible apply foldl_sound | with_reducible apply State.modPkg_sound | with_reducible apply State.modPort_sound | with_reducible apply State.drop_sound | with_reducible apply State.modField_sound | with_reducible apply State.modFields_sound | with_reducible apply State.modPkg_sound | with_reducible apply State.modInst_sound | with_reducible apply State.modCmd_sound)

theorem State.takePacket_sound {s : State} (hs : s.Sound) (f : RxFrame) : (State.takePacket s f).Sound := by
  unfold State.takePacket
  repeat' first
    | with_reducible apply State.passPacket_sound
    | with_reducible apply State.holdPacket_sound
    | with_reducible apply foldl_sound
    | with_reducible refine of_snd (by with_reducible assumption) ?_
    | with_reducible refine of_fst (by with_reducible assumption) ?_
    | with_reducible refine of_trd (by with_reducible assumption) ?_
    | with_reducible assumption
    | split
    | intro _
    | with_reducible exact field_mk (by assumption)
    | with_reducible exact sound_mk (by assumption)
    | (with_reducible refine field_mk_map (by assumption) ?_; intro _ h; exact furrow_mk h)
    | with_reducible exact sound_zipMap (by assumption) fun _ _ h => field_mk h
    | with_reducible exact sound_runs (by assumption) (runs_filter (by assumption) _)
    | dsimp only
    | (with_reducible apply field_mk; first | split | with_reducible assumption)
    | (with_reducible apply sound_mk; first | split | with_reducible apply foldl_sound | with_reducible apply State.passPacket_sound | with_reducible apply State.holdPacket_sound | with_reducible apply State.modField_sound | with_reducible apply State.modFields_sound | with_reducible apply State.modPkg_sound | with_reducible apply State.modInst_sound | with_reducible apply State.modCmd_sound)

theorem State.resumePort_sound {s : State} (hs : s.Sound) (p : Nat) : (State.resumePort s p).Sound := by
  unfold State.resumePort
  repeat' first
    | with_reducible apply State.modPort_sound
    | with_reducible apply foldl_sound
    | with_reducible refine of_snd (by with_reducible assumption) ?_
    | with_reducible refine of_fst (by with_reducible assumption) ?_
    | with_reducible refine of_trd (by with_reducible assumption) ?_
    | with_reducible assumption
    | split
    | intro _
    | with_reducible exact field_mk (by assumption)
    | with_reducible exact sound_mk (by assumption)
    | (with_reducible refine field_mk_map (by assumption) ?_; intro _ h; exact furrow_mk h)
    | with_reducible exact sound_zipMap (by assumption) fun _ _ h => field_mk h
    | with_reducible exact sound_runs (by assumption) (runs_filter (by assumption) _)
    | dsimp only
    | (with_reducible apply field_mk; first | split | with_reducible assumption)
    | (with_reducible apply sound_mk; first | split | with_reducible apply foldl_sound | with_reducible apply State.modPort_sound | with_reducible apply State.modField_sound | with_reducible apply State.modFields_sound | with_reducible apply State.modPkg_sound | with_reducible apply State.modInst_sound | with_reducible apply State.modCmd_sound)

theorem State.drainPackets_sound {s : State} (hs : s.Sound) : (State.drainPackets s).Sound := by
  unfold State.drainPackets
  repeat' first
    | with_reducible apply State.modPkg_sound
    | with_reducible apply State.failover_sound
    | with_reducible apply State.passPacket_sound
    | with_reducible apply State.resumePort_sound
    | with_reducible apply foldl_sound
    | with_reducible refine of_snd (by with_reducible assumption) ?_
    | with_reducible refine of_fst (by with_reducible assumption) ?_
    | with_reducible refine of_trd (by with_reducible assumption) ?_
    | with_reducible assumption
    | split
    | intro _
    | with_reducible exact field_mk (by assumption)
    | with_reducible exact sound_mk (by assumption)
    | (with_reducible refine field_mk_map (by assumption) ?_; intro _ h; exact furrow_mk h)
    | with_reducible exact sound_zipMap (by assumption) fun _ _ h => field_mk h
    | with_reducible exact sound_runs (by assumption) (runs_filter (by assumption) _)
    | dsimp only
    | (with_reducible apply field_mk; first | split | with_reducible assumption)
    | (with_reducible apply sound_mk; first | split | with_reducible apply foldl_sound | with_reducible apply State.modPkg_sound | with_reducible apply State.failover_sound | with_reducible apply State.passPacket_sound | with_reducible apply State.resumePort_sound | with_reducible apply State.modField_sound | with_reducible apply State.modFields_sound | with_reducible apply State.modPkg_sound | with_reducible apply State.modInst_sound | with_reducible apply State.modCmd_sound)

theorem execHostPortInlineFrame_sound (f : RxFrame) {s : State} (hs : s.Sound) : Keeps (execHostPortInlineFrame f s) := by
  unfold execHostPortInlineFrame
  apply keeps_next
  repeat' first
    | with_reducible apply State.drop_sound
    | with_reducible apply State.drillFrame_sound
    | with_reducible apply State.takePacket_sound
    | with_reducible apply foldl_sound
    | with_reducible refine of_snd (by with_reducible assumption) ?_
    | with_reducible refine of_fst (by with_reducible assumption) ?_
    | with_reducible refine of_trd (by with_reducible assumption) ?_
    | with_reducible assumption
    | split
    | intro _
    | with_reducible exact field_mk (by assumption)
    | with_reducible exact sound_mk (by assumption)
    | (with_reducible refine field_mk_map (by assumption) ?_; intro _ h; exact furrow_mk h)
    | with_reducible exact sound_zipMap (by assumption) fun _ _ h => field_mk h
    | with_reducible exact sound_runs (by assumption) (runs_filter (by assumption) _)
    | dsimp only
    | (with_reducible apply field_mk; first | split | with_reducible assumption)
    | (with_reducible apply sound_mk; first | split | with_reducible apply foldl_sound | with_reducible apply State.drop_sound | with_reducible apply State.drillFrame_sound | with_reducible apply State.takePacket_sound | with_reducible apply State.modField_sound | with_reducible apply State.modFields_sound | with_reducible apply State.modPkg_sound | with_reducible apply State.modInst_sound | with_reducible apply State.modCmd_sound)

theorem execLinePortFrame_sound (f : RxFrame) {s : State} (hs : s.Sound) : Keeps (execLinePortFrame f s) := by
  unfold execLinePortFrame
  apply keeps_next
  repeat' first
    | with_reducible apply State.drop_sound
    | with_reducible apply State.takePacket_sound
    | with_reducible apply foldl_sound
    | with_reducible refine of_snd (by with_reducible assumption) ?_
    | with_reducible refine of_fst (by with_reducible assumption) ?_
    | with_reducible refine of_trd (by with_reducible assumption) ?_
    | with_reducible assumption
    | split
    | intro _
    | with_reducible exact field_mk (by assumption)
    | with_reducible exact sound_mk (by assumption)
    | (with_reducible refine field_mk_map (by assumption) ?_; intro _ h; exact furrow_mk h)
    | with_reducible exact sound_zipMap (by assumption) fun _ _ h => field_mk h
    | with_reducible exact sound_runs (by assumption) (runs_filter (by assumption) _)
    | dsimp only
    | (with_reducible apply field_mk; first | split | with_reducible assumption)
    | (with_reducible apply sound_mk; first | split | with_reducible apply foldl_sound | with_reducible apply State.drop_sound | with_reducible apply State.takePacket_sound | with_reducible apply State.modField_sound | with_reducible apply State.modFields_sound | with_reducible apply State.modPkg_sound | with_reducible apply State.modInst_sound | with_reducible apply State.modCmd_sound)

end Sys2Proof.Machine
end

