-- ==== Sys2Proof/Laws/SoundPower.lean ====
section
/-! SUPPORT. The operations of Power keep the invariant State.Sound. -/
set_option Elab.async false
set_option linter.unusedTactic false
set_option linter.unreachableTactic false
namespace Sys2Proof.Machine

theorem State.scaleDown_sound {s : State} (hs : s.Sound) : (State.scaleDown s).Sound := by
  unfold State.scaleDown
  repeat' first
    | with_reducible apply sound_mk_zip
    | with_reducible assumption
    | split
    | intro _
    | with_reducible exact field_mk (by assumption)

theorem State.moveAead_sound {s : State} (hs : s.Sound) (f : Nat) (c : Cmd) : (State.moveAead s f c).Sound := by
  unfold State.moveAead
  repeat' first
    | with_reducible apply State.modCmd_sound
    | with_reducible apply State.allocPages_sound
    | with_reducible apply State.complete_sound
    | with_reducible apply State.turnStart_sound
    | with_reducible apply State.pageWrite_sound
    | with_reducible apply State.placeMessage_sound
    | with_reducible apply foldl_sound
    | with_reducible refine of_snd (by with_reducible assumption) ?_
    | with_reducible refine of_fst (by with_reducible assumption) ?_
    | with_reducible refine of_trd (by with_reducible assumption) ?_
    | with_reducible assumption
    | split
    | intro _
    | with_reducible exact field_mk (by assumption)
    | with_reducible exact sound_mk (by assumption)
    | (with_reducible refine field_mk_map (by assumption) ?_; intro _ h; exact furrow_mk h)
    | with_reducible exact sound_zipMap (by assumption) fun _ _ h => field_mk h
    | with_reducible exact sound_runs (by assumption) (runs_filter (by assumption) _)
    | dsimp only
    | (with_reducible apply field_mk; first | split | with_reducible assumption)
    | (with_reducible apply sound_mk; first | split | with_reducible apply foldl_sound | with_reducible apply State.modCmd_sound | with_reducible apply State.allocPages_sound | with_reducible apply State.complete_sound | with_reducible apply State.turnStart_sound | with_reducible apply State.pageWrite_sound | with_reducible apply State.placeMessage_sound | with_reducible apply State.modField_sound | with_reducible apply State.modFields_sound | with_reducible apply State.modPkg_sound | with_reducible apply State.modInst_sound | with_reducible apply State.modCmd_sound)

theorem State.migrate_sound {s : State} (hs : s.Sound) (f : Nat) : (State.migrate s f).Sound := by
  unfold State.migrate
  repeat' first
    | with_reducible apply State.moveAead_sound
    | with_reducible apply foldl_sound
    | with_reducible assumption
    | split
    | intro _

theorem State.gateNext_sound {s : State} (hs : s.Sound) : (State.gateNext s).Sound := by
  unfold State.gateNext
  repeat' first
    | with_reducible apply State.modField_sound
    | with_reducible apply State.migrate_sound
    | with_reducible apply foldl_sound
    | with_reducible assumption
    | intro _
    | with_reducible exact field_mk (by assumption)

theorem execPowerWindow_sound (m : PowerReading) {s : State} (hs : s.Sound) : Keeps (execPowerWindow m s) := by
  unfold execPowerWindow
  apply keeps_next
  repeat' first
    | with_reducible apply State.settlePause_sound
    | with_reducible apply State.drainPackets_sound
    | with_reducible apply State.scaleDown_sound
    | with_reducible apply State.gateNext_sound
    | with_reducible apply foldl_sound
    | with_reducible refine of_snd (by with_reducible assumption) ?_
    | with_reducible refine of_fst (by with_reducible assumption) ?_
    | with_reducible refine of_trd (by with_reducible assumption) ?_
    | with_reducible assumption
    | split
    | intro _
    | with_reducible exact field_mk (by assumption)
    | with_reducible exact sound_mk (by assumption)
    | (with_reducible refine field_mk_map (by assumption) ?_; intro _ h; exact furrow_mk h)
    | with_reducible exact sound_zipMap (by assumption) fun _ _ h => field_mk h
    | with_reducible exact sound_runs (by assumption) (runs_filter (by assumption) _)
    | dsimp only
    | (with_reducible apply field_mk; first | split | with_reducible assumption)
    | (with_reducible apply sound_mk; first | split | with_reducible apply foldl_sound | with_reducible apply State.settlePause_sound | with_reducible apply State.drainPackets_sound | with_reducible apply State.scaleDown_sound | with_reducible apply State.gateNext_sound | with_reducible apply State.modField_sound | with_reducible apply State.modFields_sound | with_reducible apply State.modPkg_sound | with_reducible apply State.modInst_sound | with_reducible apply State.modCmd_sound)

theorem execCappedGateDrained_sound (field : Nat) {s : State} (hs : s.Sound) : Keeps (execCappedGateDrained field s) := by
  unfold execCappedGateDrained
  apply keeps_next
  repeat' first
    | with_reducible apply State.modField_sound
    | with_reducible apply State.migrate_sound
    | with_reducible apply foldl_sound
    | with_reducible refine of_snd (by with_reducible assumption) ?_
    | with_reducible refine of_fst (by with_reducible assumption) ?_
    | with_reducible refine of_trd (by with_reducible assumption) ?_
    | with_reducible assumption
    | split
    | intro _
    | with_reducible exact field_mk (by assumption)
    | with_reducible exact sound_mk (by assumption)
    | (with_reducible refine field_mk_map (by assumption) ?_; intro _ h; exact furrow_mk h)
    | with_reducible exact sound_zipMap (by assumption) fun _ _ h => field_mk h
    | with_reducible exact sound_runs (by assumption) (runs_filter (by assumption) _)
    | dsimp only
    | (with_reducible apply field_mk; first | split | with_reducible assumption)
    | (with_reducible apply sound_mk; first | split | with_reducible apply foldl_sound | with_reducible apply State.modField_sound | with_reducible apply State.migrate_sound | with_reducible apply State.modField_sound | with_reducible apply State.modFields_sound | with_reducible apply State.modPkg_sound | with_reducible apply State.modInst_sound | with_reducible apply State.modCmd_sound)

theorem State.ungate_sound {s : State} (hs : s.Sound) (f : Nat) : (State.ungate s f).Sound := by
  unfold State.ungate
  repeat' first
    | with_reducible apply State.modField_sound
    | with_reducible assumption
    | split
    | intro _
    | with_reducible exact field_mk (by assumption)

theorem State.raisePoints_sound {s : State} (hs : s.Sound) (p : Nat) : (State.raisePoints s p).Sound := by
  unfold State.raisePoints
  repeat' first
    | with_reducible apply sound_mk_zip
    | with_reducible assumption
    | split
    | intro _
    | with_reducible exact field_mk (by assumption)
    | dsimp only

theorem execPowerReversalStep_sound (m : PowerReading) {s : State} (hs : s.Sound) : Keeps (execPowerReversalStep m s) := by
  unfold execPowerReversalStep
  apply keeps_next
  repeat' first
    | with_reducible apply State.ungate_sound
    | with_reducible apply State.raisePoints_sound
    | with_reducible assumption
    | split

theorem execBrownNLow_sound {s : State} (hs : s.Sound) : Keeps (execBrownNLow s) := by
  unfold execBrownNLow
  apply keeps_next
  repeat' first | with_reducible apply State.modPkg_sound | with_reducible assumption

theorem execBrownNHigh_sound {s : State} (hs : s.Sound) : Keeps (execBrownNHigh s) := by
  unfold execBrownNHigh
  apply keeps_next
  repeat' first | with_reducible apply State.modPkg_sound | with_reducible assumption

end Sys2Proof.Machine
end

