-- ==== Sys2Proof/Laws/SoundFurrow.lean ====
section
/-! SUPPORT. The operations of Furrow keep the invariant State.Sound. -/
set_option Elab.async false
set_option linter.unusedTactic false
set_option linter.unreachableTactic false
namespace Sys2Proof.Machine

theorem Env.poison_sound {e : Env} (he : e.Sound) (a : Nat) : (Env.poison e a).Sound := by
  unfold Env.poison
  repeat' first | split | exact ⟨he.1, he.2⟩

theorem Env.readMarks_sound {e : Env} (he : e.Sound) (as : List Acc) : (Env.readMarks e as).Sound := by
  unfold Env.readMarks
  repeat' first
    | with_reducible apply Env.poison_sound
    | with_reducible apply foldl_env
    | with_reducible assumption
    | intro _
    | exact ⟨he.1, he.2⟩

theorem Env.access_sound {e : Env} (he : e.Sound) (all : List Acc) (resumable : Bool) (effect : Nat → Env → Env)
    (heff : ∀ n {t : Env}, t.Sound → (effect n t).Sound) (total : Nat) : (e.access all resumable effect total).Sound := by
  unfold Env.access
  dsimp only
  split
  · refine ⟨Env.readMarks_sound he _, fun p hp => ?_⟩
    split at hp
    · cases hp
      exact heff _ (Env.readMarks_sound he _)
    · cases hp
  · exact heff _ (Env.readMarks_sound he _)

theorem Env.setVec_sound {e : Env} (he : e.Sound) (l : Nat) (k : Nat) (x : List Word24) : (Env.setVec e l k x).Sound := by
  unfold Env.setVec
  repeat' first | split | exact ⟨he.1, he.2⟩

theorem Env.putElems_sound {e : Env} (he : e.Sound) (i : SaivoFields) (d : Nat) (g : Nat → Nat) : (Env.putElems e i d g).Sound := by
  unfold Env.putElems
  repeat' first | with_reducible apply Env.setVec_sound | with_reducible assumption

theorem Env.putLanes_sound {e : Env} (he : e.Sound) (i : SaivoFields) (l : Nat) (d : Nat) (g : Nat → Word24) : (Env.putLanes e i l d g).Sound := by
  unfold Env.putLanes
  repeat' first | with_reducible apply Env.setVec_sound | with_reducible assumption

theorem Env.sealSet_sound {e : Env} (he : e.Sound) (x : Nat) (b : Bool) : (Env.sealSet e x b).Sound := by
  unfold Env.sealSet
  repeat' first | with_reducible assumption | split | exact ⟨he.1, he.2⟩

theorem Env.sealWord_sound {e : Env} (he : e.Sound) (a : Nat) : (Env.sealWord e a).Sound := by
  unfold Env.sealWord
  repeat' first | exact ⟨he.1, he.2⟩

theorem Env.setMask_sound {e : Env} (he : e.Sound) (k : Nat) (x : BitVec 64) : (Env.setMask e k x).Sound := by
  unfold Env.setMask
  repeat' first | with_reducible assumption | split | exact ⟨he.1, he.2⟩

theorem Env.setS_sound {e : Env} (he : e.Sound) (k : Nat) (x : Word24) : (Env.setS e k x).Sound := by
  unfold Env.setS
  repeat' first | exact ⟨he.1, he.2⟩

theorem Env.unsealed_sound {e : Env} (he : e.Sound) (l : Nat) (ws : List Nat) (k : Env → Res) (hk : ∀ {t : Env}, t.Sound → (k t).Sound) :
    (e.unsealed l ws k).Sound := by
  unfold Env.unsealed
  split
  · exact res_fault he
  · exact hk he

theorem Env.withQ_sound {e : Env} (he : e.Sound) (i : SaivoFields) (k : Nat → Res) (hk : ∀ q, (k q).Sound) : (e.withQ i k).Sound := by
  unfold Env.withQ
  dsimp only
  split
  · exact res_fault he
  · exact hk _

theorem Env.write_sound {e : Env} (he : e.Sound) (a : Nat) (x : Word24) : (e.write a x).Sound := by
  unfold Env.write
  split
  · exact ⟨WMem.wf_write he.1 a x, he.2⟩
  · split
    · exact ⟨he.1, WMem.wf_write he.2.1 _ x, he.2.2⟩
    · exact ⟨he.1, he.2.1, WMem.wf_write he.2.2 _ x⟩

theorem Env.writeElem_sound {e : Env} (he : e.Sound) (t ea x : Nat) : (e.writeElem t ea x).Sound := by
  unfold Env.writeElem
  dsimp only
  split
  · exact Env.write_sound he ..
  · split
    · exact ⟨WMem.wf_write he.1 .., he.2⟩
    · split
      · exact ⟨he.1, WMem.wf_write he.2.1 .., he.2.2⟩
      · exact ⟨he.1, he.2.1, WMem.wf_write he.2.2 ..⟩

end Sys2Proof.Machine
end

