-- ==== Sys2Proof/Laws/SoundGangs.lean ====
section
/-! SUPPORT. The operations of Gangs keep the invariant State.Sound. -/
set_option Elab.async false
set_option linter.unusedTactic false
set_option linter.unreachableTactic false
namespace Sys2Proof.Machine

theorem Furrow.start_sound (u : Furrow) (r : Run) (rank serial : Nat) : (u.start r rank serial).Sound := by
  have h : (WMem.fill [] 0 r.image.dinit).wf = true := WMem.fill_wf _ rfl 0
  unfold Furrow.start
  dsimp only
  split
  · exact h
  · exact h

theorem State.startRun_sound {s : State} (hs : s.Sound) (id a : Nat) : (s.startRun id a).Sound := by
  unfold State.startRun
  split
  · exact hs
  · exact foldl_sound _ (s := { s.modRun id _ with free := _ }) (State.modRun_sound hs id fun _ h => h) fun _ _ h =>
      State.modFurrow_sound h _ fun _ _ => Furrow.start_sound ..

theorem State.beginRun_sound {s : State} (hs : s.Sound) (r : Run) (hr : r.Sound) : (s.beginRun r).Sound := by
  have h : ({ s with runs := s.runs ++ [{ r with id := s.pkg.nextRun, since := s.pkg.nextRun }] } : State).Sound :=
    sound_runs hs (runs_append hs hr)
  have h := State.modPkg_sound h fun p => { p with nextRun := p.nextRun + 1 }
  unfold State.beginRun
  dsimp only
  split
  · exact State.startRun_sound h _ _
  · split
    · exact h
    · exact State.modInst_sound h _ _

theorem State.failRun_sound {s : State} (hs : s.Sound) (r : Run) (st : Status) : (State.failRun s r st).Sound := by
  unfold State.failRun
  repeat' first
    | with_reducible apply State.modThread_sound
    | with_reducible apply State.endRuns_sound
    | with_reducible apply State.complete_sound
    | with_reducible assumption
    | split

theorem State.runKeys_sound {s : State} (hs : s.Sound) (c : Cmd) (r : Run) (o : RunOut) : (State.runKeys s c r o).2.Sound := by
  unfold State.runKeys
  repeat' first
    | with_reducible apply State.addKey_sound
    | with_reducible apply foldl_sound_snd
    | with_reducible assumption
    | split
    | intro _

theorem State.finishRun_sound {s : State} (hs : s.Sound) (r : Run) : (State.finishRun s r).Sound := by
  unfold State.finishRun
  repeat' first
    | with_reducible apply State.complete_sound
    | with_reducible apply State.modThread_sound
    | with_reducible apply State.endRuns_sound
    | with_reducible apply State.checkWrites_sound
    | with_reducible apply State.runKeys_sound
    | with_reducible apply State.writePages_sound
    | with_reducible refine of_snd (by with_reducible assumption) ?_
    | with_reducible assumption
    | split
    | dsimp only

theorem State.furrowFault_sound {s : State} (hs : s.Sound) (u : FurrowRef) (r : Run) (op : Nat) (i : SaivoFields) (cause idx addr : Nat)
    {part : Option Env} (hp : ∀ p, part = some p → p.Sound) : (s.furrowFault u r op i cause idx addr part).Sound := by
  unfold State.furrowFault
  dsimp only
  generalize hx : (if idx < 256 then _ else _ : State) = x
  have h : x.Sound := by
    rw [← hx]
    split
    · exact State.modFurrow_sound hs u fun _ h => h
    · exact State.modFurrow_sound (State.fresh_sound hs 1) u fun _ h => h
  split
  · rename_i e _
    have he : e.Sound := hp e rfl
    apply State.complete_sound
    apply State.modRun_sound
    · apply State.modFurrow_sound h
      exact fun _ _ => he.1
    · exact fun _ _ => he.2
  · split
    · exact State.failRun_sound (State.log_sound h ..) ..
    · exact State.modFurrow_sound h u fun _ h => h

theorem State.endProgram_sound {s : State} (hs : s.Sound) (u : FurrowRef) (r : Run) : (State.endProgram s u r).Sound := by
  unfold State.endProgram
  repeat' first
    | with_reducible apply State.failRun_sound
    | with_reducible apply State.log_sound
    | with_reducible assumption

theorem State.logFixed_sound {s : State} (hs : s.Sound) (u : FurrowRef) (r : Run) (as : List Nat) : (State.logFixed s u r as).Sound := by
  unfold State.logFixed
  repeat' first
    | with_reducible apply State.countCorrected_sound
    | with_reducible apply State.log_sound
    | with_reducible apply State.modCmd_sound
    | with_reducible apply foldl_sound
    | with_reducible assumption
    | cases ‹(_, _) = (_, _)›
    | split
    | intro _
    | with_reducible exact sound_mk (by assumption)

theorem State.store_sound {s : State} (hs : s.Sound) (u : FurrowRef) {e : Env} (he : e.Sound) : (s.store u e).Sound :=
  State.logFixed_sound (State.modRun_sound (State.modFurrow_sound hs u fun _ _ => he.1) _ fun _ _ => he.2) _ _ _

theorem State.openBarrier_sound {s : State} (hs : s.Sound) (r : Run) : (State.openBarrier s r).Sound := by
  unfold State.openBarrier
  repeat' first
    | with_reducible apply State.modFurrow_sound
    | with_reducible apply foldl_sound
    | with_reducible assumption
    | split
    | intro _
    | with_reducible exact furrow_mk (by assumption)

theorem State.leafWait_sound {s : State} (hs : s.Sound) (u : FurrowRef) (r : Run) : (State.leafWait s u r).Sound := by
  unfold State.leafWait
  repeat' first
    | with_reducible apply State.complete_sound
    | with_reducible apply State.modFurrow_sound
    | with_reducible assumption
    | split
    | intro _
    | with_reducible exact furrow_mk (by assumption)

theorem State.settle_sound {s : State} (hs : s.Sound) (u : FurrowRef) (op : Nat) (i : SaivoFields) (r : Run) {x : Res} (hx : x.Sound) :
    (s.settle u op i r x).Sound := by
  cases x with
  | next e => exact State.store_sound hs u ⟨hx.1, hx.2⟩
  | jump e pc => exact State.store_sound hs u ⟨hx.1, hx.2⟩
  | fault c k a e part => exact State.furrowFault_sound (State.store_sound hs u hx.1) _ _ _ _ _ _ _ hx.2
  | quit st =>
    unfold State.settle
    dsimp only
    split
    · exact State.endProgram_sound hs ..
    · exact State.failRun_sound hs ..
  | barrier e => exact State.openBarrier_sound (State.store_sound hs u (e := { e with u := { e.u with atBarrier := true } }) hx) r
  | halt e => exact State.finishRun_sound (State.store_sound hs u (e := { e with u := { e.u with halted := true } }) hx) r

theorem State.runInstr_sound {s : State} (hs : s.Sound) (u : FurrowRef) (op : Nat) (i : SaivoFields) {r : Run} (hr : r.Sound) (start : Nat)
    {sem : Env → Res} (hsem : ∀ e, e.Sound → (sem e).Sound) : (s.runInstr u op i r start sem).Sound := by
  have he := hsem _ (⟨State.furrow_sound hs u, hr⟩ : Env.Sound
    { s.env u r i with start := start, u := { s.furrow u with cycles := (s.furrow u).cycles +
        ({ s.env u r i with start := start } : Env).cycleCount op i, waitLeaf := false } })
  unfold State.runInstr
  dsimp only
  split
  · exact State.settle_sound hs u op i r he
  · exact State.settle_sound (s := { s with free := s.free + 1 }) hs u op i r he

theorem State.imemFault_sound {s : State} (hs : s.Sound) (u : FurrowRef) (r : Run) : (s.imemFault u r).Sound := by
  unfold State.imemFault
  apply State.furrowFault_sound
  · exact State.modFurrow_sound hs u fun _ h => h
  · exact fun _ h => nomatch h

/-- The run an instruction issues for is one of the state's. -/
theorem State.issuing_sound {s : State} (hs : s.Sound) {u : FurrowRef} {r : Run} (e : s.issuing u = some r) : r.Sound := by
  unfold State.issuing at e
  dsimp only at e
  split at e
  · cases e
  · obtain ⟨h, _⟩ := Option.filter_eq_some_iff.1 e
    obtain ⟨k, _, hk⟩ := Option.bind_eq_some_iff.1 h
    exact State.run?_sound hs hk

theorem State.issue_sound {s : State} (hs : s.Sound) (u : FurrowRef) (op : Nat) (i : SaivoFields) {sem : Env → Res}
    (hsem : ∀ e, e.Sound → (sem e).Sound) : (s.issue u op i sem).Sound := by
  unfold State.issue
  split
  · exact hs
  · have hr := State.issuing_sound hs ‹_›
    split
    · exact hs
    · split
      · exact State.imemFault_sound hs ..
      · split
        · exact State.leafWait_sound hs ..
        · exact State.runInstr_sound hs u op i hr 0 hsem

end Sys2Proof.Machine
end

