-- ==== Sys2Proof/Laws/SoundSaivoScalar.lean ====
section
/-! SUPPORT. The operations of SaivoScalar keep the invariant State.Sound. -/
set_option Elab.async false
set_option linter.unusedTactic false
set_option linter.unreachableTactic false
namespace Sys2Proof.Machine

theorem semLi_sound (i : SaivoFields) {e : Env} (he : e.Sound) : (semLi i e).Sound := by
  unfold semLi
  repeat' first | with_reducible apply Env.setS_sound | with_reducible apply res_next | with_reducible assumption

theorem execLi_sound (u : FurrowRef) (i : SaivoFields) {s : State} (hs : s.Sound) : Keeps (execLi u i s) := by
  unfold execLi
  apply keeps_next
  repeat' first | with_reducible apply State.issue_sound | with_reducible apply semLi_sound | with_reducible assumption

theorem semAlu_sound (i : SaivoFields) {e : Env} (he : e.Sound) : (semAlu i e).Sound := by
  unfold semAlu
  repeat' first | with_reducible apply Env.setS_sound | with_reducible apply res_next | with_reducible assumption

theorem execAlu_sound (u : FurrowRef) (i : SaivoFields) {s : State} (hs : s.Sound) : Keeps (execAlu u i s) := by
  unfold execAlu
  apply keeps_next
  repeat' first | with_reducible apply State.issue_sound | with_reducible apply semAlu_sound | with_reducible assumption

theorem semAlui_sound (i : SaivoFields) {e : Env} (he : e.Sound) : (semAlui i e).Sound := by
  unfold semAlui
  repeat' first | with_reducible apply Env.setS_sound | with_reducible apply res_next | with_reducible assumption

theorem execAlui_sound (u : FurrowRef) (i : SaivoFields) {s : State} (hs : s.Sound) : Keeps (execAlui u i s) := by
  unfold execAlui
  apply keeps_next
  repeat' first | with_reducible apply State.issue_sound | with_reducible apply semAlui_sound | with_reducible assumption

theorem semLd_sound (i : SaivoFields) {e : Env} (he : e.Sound) : (semLd i e).Sound := by
  unfold semLd
  repeat' first
    | with_reducible apply Env.access_sound
    | with_reducible apply Env.setS_sound
    | with_reducible assumption
    | intro _

theorem execLd_sound (u : FurrowRef) (i : SaivoFields) {s : State} (hs : s.Sound) : Keeps (execLd u i s) := by
  unfold execLd
  apply keeps_next
  repeat' first | with_reducible apply State.issue_sound | with_reducible apply semLd_sound | with_reducible assumption

theorem semSt_sound (i : SaivoFields) {e : Env} (he : e.Sound) : (semSt i e).Sound := by
  unfold semSt
  repeat' first
    | with_reducible apply Env.access_sound
    | with_reducible apply Env.write_sound
    | with_reducible assumption
    | intro _

theorem execSt_sound (u : FurrowRef) (i : SaivoFields) {s : State} (hs : s.Sound) : Keeps (execSt u i s) := by
  unfold execSt
  apply keeps_next
  repeat' first | with_reducible apply State.issue_sound | with_reducible apply semSt_sound | with_reducible assumption

theorem semBr_sound (i : SaivoFields) {e : Env} (he : e.Sound) : (semBr i e).Sound := by
  unfold semBr
  repeat' first | with_reducible apply res_next | with_reducible apply res_jump | with_reducible assumption | split

theorem execBr_sound (u : FurrowRef) (i : SaivoFields) {s : State} (hs : s.Sound) : Keeps (execBr u i s) := by
  unfold execBr
  apply keeps_next
  repeat' first | with_reducible apply State.issue_sound | with_reducible apply semBr_sound | with_reducible assumption

theorem execJmp_sound (u : FurrowRef) (i : SaivoFields) {s : State} (hs : s.Sound) : Keeps (execJmp u i s) := by
  unfold execJmp
  apply keeps_next
  repeat' first | with_reducible apply State.issue_sound | with_reducible assumption | intro _ | with_reducible apply res_jump

theorem execJal_sound (u : FurrowRef) (i : SaivoFields) {s : State} (hs : s.Sound) : Keeps (execJal u i s) := by
  unfold execJal
  apply keeps_next
  repeat' first
    | with_reducible apply State.issue_sound
    | with_reducible apply Env.setS_sound
    | with_reducible assumption
    | intro _
    | with_reducible apply res_jump

theorem semJr_sound (i : SaivoFields) {e : Env} (he : e.Sound) : (semJr i e).Sound := by
  unfold semJr
  repeat' first | with_reducible apply res_jump | with_reducible assumption | split | with_reducible apply res_fault | dsimp only

theorem execJr_sound (u : FurrowRef) (i : SaivoFields) {s : State} (hs : s.Sound) : Keeps (execJr u i s) := by
  unfold execJr
  apply keeps_next
  repeat' first | with_reducible apply State.issue_sound | with_reducible apply semJr_sound | with_reducible assumption

theorem semLoop_sound (i : SaivoFields) {e : Env} (he : e.Sound) : (semLoop i e).Sound := by
  unfold semLoop
  repeat' first
    | with_reducible apply Env.setS_sound
    | with_reducible apply res_next
    | with_reducible apply res_jump
    | with_reducible assumption
    | split
    | dsimp only

theorem execLoop_sound (u : FurrowRef) (i : SaivoFields) {s : State} (hs : s.Sound) : Keeps (execLoop u i s) := by
  unfold execLoop
  apply keeps_next
  repeat' first | with_reducible apply State.issue_sound | with_reducible apply semLoop_sound | with_reducible assumption

theorem execBarrier_sound (u : FurrowRef) (i : SaivoFields) {s : State} (hs : s.Sound) : Keeps (execBarrier u i s) := by
  unfold execBarrier
  apply keeps_next
  repeat' first
    | with_reducible apply State.issue_sound
    | with_reducible assumption
    | intro _
    | with_reducible apply res_barrier

theorem semHalt_sound {e : Env} (he : e.Sound) : (semHalt e).Sound := by
  unfold semHalt
  repeat' first
    | with_reducible apply res_halt
    | with_reducible apply res_quit
    | with_reducible assumption
    | split
    | with_reducible apply res_fault
    | dsimp only

theorem execHalt_sound (u : FurrowRef) (i : SaivoFields) {s : State} (hs : s.Sound) : Keeps (execHalt u i s) := by
  unfold execHalt
  apply keeps_next
  repeat' first | with_reducible apply State.issue_sound | with_reducible apply semHalt_sound | with_reducible assumption

theorem semRetry_sound {e : Env} (he : e.Sound) : (semRetry e).Sound := by
  unfold semRetry
  repeat' first | with_reducible apply res_jump | with_reducible apply res_quit | split | exact ⟨he.1, he.2⟩

theorem execRetry_sound (u : FurrowRef) (i : SaivoFields) {s : State} (hs : s.Sound) : Keeps (execRetry u i s) := by
  unfold execRetry
  apply keeps_next
  repeat' first | with_reducible apply State.issue_sound | with_reducible apply semRetry_sound | with_reducible assumption

theorem execAbort_sound (u : FurrowRef) (i : SaivoFields) {s : State} (hs : s.Sound) : Keeps (execAbort u i s) := by
  unfold execAbort
  apply keeps_next
  repeat' first | with_reducible apply State.issue_sound | with_reducible assumption | intro _ | with_reducible apply res_quit

theorem execFrec_sound (u : FurrowRef) (i : SaivoFields) {s : State} (hs : s.Sound) : Keeps (execFrec u i s) := by
  unfold execFrec
  apply keeps_next
  repeat' first
    | with_reducible apply State.issue_sound
    | with_reducible apply Env.setS_sound
    | with_reducible assumption
    | intro _
    | with_reducible apply res_next

theorem execQld_sound (u : FurrowRef) (i : SaivoFields) {s : State} (hs : s.Sound) : Keeps (execQld u i s) := by
  unfold execQld
  apply keeps_next
  repeat' first
    | with_reducible apply State.issue_sound
    | with_reducible assumption
    | intro _
    | with_reducible apply res_next
    | exact ⟨‹Env.Sound _›.1, ‹Env.Sound _›.2⟩

theorem semTread_sound (i : SaivoFields) {e : Env} (he : e.Sound) : (semTread i e).Sound := by
  unfold semTread
  repeat' first
    | with_reducible apply Env.setS_sound
    | with_reducible apply res_next
    | with_reducible apply res_quit
    | with_reducible assumption
    | split
    | with_reducible apply res_fault
    | dsimp only

theorem execTread_sound (u : FurrowRef) (i : SaivoFields) {s : State} (hs : s.Sound) : Keeps (execTread u i s) := by
  unfold execTread
  apply keeps_next
  repeat' first | with_reducible apply State.issue_sound | with_reducible apply semTread_sound | with_reducible assumption

theorem execMop_sound (u : FurrowRef) (i : SaivoFields) {s : State} (hs : s.Sound) : Keeps (execMop u i s) := by
  unfold execMop
  apply keeps_next
  repeat' first
    | with_reducible apply State.issue_sound
    | with_reducible apply Env.setMask_sound
    | with_reducible assumption
    | intro _
    | with_reducible apply res_next

theorem execMset_sound (u : FurrowRef) (i : SaivoFields) {s : State} (hs : s.Sound) : Keeps (execMset u i s) := by
  unfold execMset
  apply keeps_next
  repeat' first
    | with_reducible apply State.issue_sound
    | with_reducible apply Env.setMask_sound
    | with_reducible assumption
    | intro _
    | with_reducible apply res_next

theorem execMget_sound (u : FurrowRef) (i : SaivoFields) {s : State} (hs : s.Sound) : Keeps (execMget u i s) := by
  unfold execMget
  apply keeps_next
  repeat' first
    | with_reducible apply State.issue_sound
    | with_reducible apply Env.setS_sound
    | with_reducible assumption
    | intro _
    | with_reducible apply res_next

end Sys2Proof.Machine
end

