-- ==== Sys2Proof/Laws/SoundSaivoVector.lean ====
section
/-! SUPPORT. The operations of SaivoVector keep the invariant State.Sound. -/
set_option Elab.async false
set_option linter.unusedTactic false
set_option linter.unreachableTactic false
namespace Sys2Proof.Machine

theorem semVmov_sound (i : SaivoFields) {e : Env} (he : e.Sound) : (semVmov i e).Sound := by
  unfold semVmov
  repeat' first
    | with_reducible apply Env.unsealed_sound
    | with_reducible apply Env.putLanes_sound
    | with_reducible apply res_next
    | with_reducible assumption
    | split
    | intro _

theorem execVmov_sound (u : FurrowRef) (i : SaivoFields) {s : State} (hs : s.Sound) : Keeps (execVmov u i s) := by
  unfold execVmov
  apply keeps_next
  repeat' first | with_reducible apply State.issue_sound | with_reducible apply semVmov_sound | with_reducible assumption

theorem semVbcast_sound (i : SaivoFields) {e : Env} (he : e.Sound) : (semVbcast i e).Sound := by
  unfold semVbcast
  repeat' first
    | with_reducible apply Env.unsealed_sound
    | with_reducible apply Env.putElems_sound
    | with_reducible apply res_next
    | with_reducible assumption
    | intro _

theorem execVbcast_sound (u : FurrowRef) (i : SaivoFields) {s : State} (hs : s.Sound) : Keeps (execVbcast u i s) := by
  unfold execVbcast
  apply keeps_next
  repeat' first | with_reducible apply State.issue_sound | with_reducible apply semVbcast_sound | with_reducible assumption

theorem semVext_sound (i : SaivoFields) {e : Env} (he : e.Sound) : (semVext i e).Sound := by
  unfold semVext
  repeat' first
    | with_reducible apply Env.unsealed_sound
    | with_reducible apply Env.setS_sound
    | with_reducible apply res_next
    | with_reducible assumption
    | intro _

theorem execVext_sound (u : FurrowRef) (i : SaivoFields) {s : State} (hs : s.Sound) : Keeps (execVext u i s) := by
  unfold execVext
  apply keeps_next
  repeat' first | with_reducible apply State.issue_sound | with_reducible apply semVext_sound | with_reducible assumption

theorem semVins_sound (i : SaivoFields) {e : Env} (he : e.Sound) : (semVins i e).Sound := by
  unfold semVins
  repeat' first
    | with_reducible apply Env.unsealed_sound
    | with_reducible apply Env.putElems_sound
    | with_reducible apply res_next
    | with_reducible assumption
    | intro _

theorem execVins_sound (u : FurrowRef) (i : SaivoFields) {s : State} (hs : s.Sound) : Keeps (execVins u i s) := by
  unfold execVins
  apply keeps_next
  repeat' first | with_reducible apply State.issue_sound | with_reducible apply semVins_sound | with_reducible assumption

theorem semValu_sound (i : SaivoFields) {e : Env} (he : e.Sound) : (semValu i e).Sound := by
  unfold semValu
  repeat' first
    | with_reducible apply Env.unsealed_sound
    | with_reducible apply Env.putLanes_sound
    | with_reducible apply Env.putElems_sound
    | with_reducible apply res_next
    | with_reducible assumption
    | split
    | intro _

theorem execValu_sound (u : FurrowRef) (i : SaivoFields) {s : State} (hs : s.Sound) : Keeps (execValu u i s) := by
  unfold execValu
  apply keeps_next
  repeat' first | with_reducible apply State.issue_sound | with_reducible apply semValu_sound | with_reducible assumption

theorem semValui_sound (i : SaivoFields) {e : Env} (he : e.Sound) : (semValui i e).Sound := by
  unfold semValui
  repeat' first
    | with_reducible apply Env.unsealed_sound
    | with_reducible apply Env.putLanes_sound
    | with_reducible apply Env.putElems_sound
    | with_reducible apply res_next
    | with_reducible assumption
    | split
    | intro _

theorem execValui_sound (u : FurrowRef) (i : SaivoFields) {s : State} (hs : s.Sound) : Keeps (execValui u i s) := by
  unfold execValui
  apply keeps_next
  repeat' first | with_reducible apply State.issue_sound | with_reducible apply semValui_sound | with_reducible assumption

theorem semVcmp_sound (i : SaivoFields) {e : Env} (he : e.Sound) : (semVcmp i e).Sound := by
  unfold semVcmp
  repeat' first
    | with_reducible apply Env.unsealed_sound
    | with_reducible apply Env.setMask_sound
    | with_reducible apply res_next
    | with_reducible assumption
    | intro _

theorem execVcmp_sound (u : FurrowRef) (i : SaivoFields) {s : State} (hs : s.Sound) : Keeps (execVcmp u i s) := by
  unfold execVcmp
  apply keeps_next
  repeat' first | with_reducible apply State.issue_sound | with_reducible apply semVcmp_sound | with_reducible assumption

theorem semFixed_sound (i : SaivoFields) (g : Int → Int → Nat → Int) {e : Env} (he : e.Sound) : (semFixed i g e).Sound := by
  unfold semFixed
  repeat' first
    | with_reducible apply Env.unsealed_sound
    | with_reducible apply Env.putElems_sound
    | with_reducible apply res_next
    | with_reducible assumption
    | intro _

theorem execQadd_sound (u : FurrowRef) (i : SaivoFields) {s : State} (hs : s.Sound) : Keeps (execQadd u i s) := by
  unfold execQadd
  apply keeps_next
  repeat' first | with_reducible apply State.issue_sound | with_reducible apply semFixed_sound | with_reducible assumption

theorem execQsub_sound (u : FurrowRef) (i : SaivoFields) {s : State} (hs : s.Sound) : Keeps (execQsub u i s) := by
  unfold execQsub
  apply keeps_next
  repeat' first | with_reducible apply State.issue_sound | with_reducible apply semFixed_sound | with_reducible assumption

theorem execQmulh_sound (u : FurrowRef) (i : SaivoFields) {s : State} (hs : s.Sound) : Keeps (execQmulh u i s) := by
  unfold execQmulh
  apply keeps_next
  repeat' first | with_reducible apply State.issue_sound | with_reducible apply semFixed_sound | with_reducible assumption

theorem semQrshr_sound (i : SaivoFields) {e : Env} (he : e.Sound) : (semQrshr i e).Sound := by
  unfold semQrshr
  repeat' first
    | with_reducible apply semFixed_sound
    | with_reducible apply Env.unsealed_sound
    | with_reducible apply Env.putElems_sound
    | with_reducible apply res_next
    | with_reducible assumption
    | split
    | intro _

theorem execQrshr_sound (u : FurrowRef) (i : SaivoFields) {s : State} (hs : s.Sound) : Keeps (execQrshr u i s) := by
  unfold execQrshr
  apply keeps_next
  repeat' first | with_reducible apply State.issue_sound | with_reducible apply semQrshr_sound | with_reducible assumption

theorem semMod_sound (i : SaivoFields) (rs : List Nat) (g : Nat → Nat → Nat → Nat) {e : Env} (he : e.Sound) : (semMod i rs g e).Sound := by
  unfold semMod
  repeat' first
    | with_reducible apply Env.withQ_sound
    | with_reducible apply Env.unsealed_sound
    | with_reducible apply Env.putElems_sound
    | with_reducible apply res_next
    | with_reducible assumption
    | intro _

theorem execModadd_sound (u : FurrowRef) (i : SaivoFields) {s : State} (hs : s.Sound) : Keeps (execModadd u i s) := by
  unfold execModadd
  apply keeps_next
  repeat' first | with_reducible apply State.issue_sound | with_reducible apply semMod_sound | with_reducible assumption

theorem execModsub_sound (u : FurrowRef) (i : SaivoFields) {s : State} (hs : s.Sound) : Keeps (execModsub u i s) := by
  unfold execModsub
  apply keeps_next
  repeat' first | with_reducible apply State.issue_sound | with_reducible apply semMod_sound | with_reducible assumption

theorem execModmul_sound (u : FurrowRef) (i : SaivoFields) {s : State} (hs : s.Sound) : Keeps (execModmul u i s) := by
  unfold execModmul
  apply keeps_next
  repeat' first | with_reducible apply State.issue_sound | with_reducible apply semMod_sound | with_reducible assumption

theorem execBarrett_sound (u : FurrowRef) (i : SaivoFields) {s : State} (hs : s.Sound) : Keeps (execBarrett u i s) := by
  unfold execBarrett
  apply keeps_next
  repeat' first | with_reducible apply State.issue_sound | with_reducible apply semMod_sound | with_reducible assumption

theorem execCompress_sound (u : FurrowRef) (i : SaivoFields) {s : State} (hs : s.Sound) : Keeps (execCompress u i s) := by
  unfold execCompress
  apply keeps_next
  repeat' first | with_reducible apply State.issue_sound | with_reducible apply semMod_sound | with_reducible assumption

theorem execDecompress_sound (u : FurrowRef) (i : SaivoFields) {s : State} (hs : s.Sound) : Keeps (execDecompress u i s) := by
  unfold execDecompress
  apply keeps_next
  repeat' first | with_reducible apply State.issue_sound | with_reducible apply semMod_sound | with_reducible assumption

theorem semRound_sound (i : SaivoFields) (g : Nat → Nat → Nat × Int) {e : Env} (he : e.Sound) : (semRound i g e).Sound := by
  unfold semRound
  repeat' first
    | with_reducible apply Env.withQ_sound
    | with_reducible apply Env.unsealed_sound
    | with_reducible apply Env.putElems_sound
    | with_reducible apply res_next
    | with_reducible assumption
    | intro _

theorem execP2round_sound (u : FurrowRef) (i : SaivoFields) {s : State} (hs : s.Sound) : Keeps (execP2round u i s) := by
  unfold execP2round
  apply keeps_next
  repeat' first | with_reducible apply State.issue_sound | with_reducible apply semRound_sound | with_reducible assumption

theorem semDecompose_sound (i : SaivoFields) {e : Env} (he : e.Sound) : (semDecompose i e).Sound := by
  unfold semDecompose
  repeat' first
    | with_reducible apply semRound_sound
    | with_reducible assumption
    | split
    | with_reducible apply res_fault
    | dsimp only

theorem execDecompose_sound (u : FurrowRef) (i : SaivoFields) {s : State} (hs : s.Sound) : Keeps (execDecompose u i s) := by
  unfold execDecompose
  apply keeps_next
  repeat' first
    | with_reducible apply State.issue_sound
    | with_reducible apply semDecompose_sound
    | with_reducible assumption

end Sys2Proof.Machine
end

