-- ==== Sys2Proof/Laws/SoundSaivoMemory.lean ====
section
/-! SUPPORT. The operations of SaivoMemory keep the invariant State.Sound. -/
set_option Elab.async false
set_option linter.unusedTactic false
set_option linter.unreachableTactic false
namespace Sys2Proof.Machine

theorem semVld_sound (i : SaivoFields) {e : Env} (he : e.Sound) : (semVld i e).Sound := by
  unfold semVld
  repeat' first
    | with_reducible apply Env.unsealed_sound
    | with_reducible apply Env.access_sound
    | with_reducible apply Env.putLanes_sound
    | with_reducible assumption
    | intro _

theorem execVld_sound (u : FurrowRef) (i : SaivoFields) {s : State} (hs : s.Sound) : Keeps (execVld u i s) := by
  unfold execVld
  apply keeps_next
  repeat' first | with_reducible apply State.issue_sound | with_reducible apply semVld_sound | with_reducible assumption

theorem semVst_sound (i : SaivoFields) {e : Env} (he : e.Sound) : (semVst i e).Sound := by
  unfold semVst
  repeat' first
    | with_reducible apply Env.unsealed_sound
    | with_reducible apply Env.access_sound
    | with_reducible apply Env.write_sound
    | with_reducible apply foldl_env
    | with_reducible assumption
    | intro _

theorem execVst_sound (u : FurrowRef) (i : SaivoFields) {s : State} (hs : s.Sound) : Keeps (execVst u i s) := by
  unfold execVst
  apply keeps_next
  repeat' first | with_reducible apply State.issue_sound | with_reducible apply semVst_sound | with_reducible assumption

theorem semLdk_sound (n : Nat) (i : SaivoFields) {e : Env} (he : e.Sound) : (semLdk n i e).Sound := by
  unfold semLdk
  repeat' first
    | with_reducible apply Env.unsealed_sound
    | with_reducible apply Env.access_sound
    | with_reducible apply Env.putElems_sound
    | with_reducible apply foldl_env
    | with_reducible assumption
    | intro _

theorem execLd2Ld4_sound (u : FurrowRef) (k : Nat) (i : SaivoFields) {s : State} (hs : s.Sound) : Keeps (execLd2Ld4 u k i s) := by
  unfold execLd2Ld4
  apply keeps_next
  repeat' first
    | with_reducible apply State.issue_sound
    | with_reducible apply semLdk_sound
    | with_reducible assumption
    | split

theorem semStk_sound (n : Nat) (i : SaivoFields) {e : Env} (he : e.Sound) : (semStk n i e).Sound := by
  unfold semStk
  repeat' first
    | with_reducible apply Env.unsealed_sound
    | with_reducible apply Env.access_sound
    | with_reducible apply Env.writeElem_sound
    | with_reducible apply foldl_env
    | with_reducible assumption
    | intro _

theorem execSt2St4_sound (u : FurrowRef) (k : Nat) (i : SaivoFields) {s : State} (hs : s.Sound) : Keeps (execSt2St4 u k i s) := by
  unfold execSt2St4
  apply keeps_next
  repeat' first
    | with_reducible apply State.issue_sound
    | with_reducible apply semStk_sound
    | with_reducible assumption
    | split

theorem semGather_sound (i : SaivoFields) {e : Env} (he : e.Sound) : (semGather i e).Sound := by
  unfold semGather
  repeat' first
    | with_reducible apply Env.unsealed_sound
    | with_reducible apply Env.access_sound
    | with_reducible apply Env.putElems_sound
    | with_reducible assumption
    | intro _

theorem execGather_sound (u : FurrowRef) (i : SaivoFields) {s : State} (hs : s.Sound) : Keeps (execGather u i s) := by
  unfold execGather
  apply keeps_next
  repeat' first | with_reducible apply State.issue_sound | with_reducible apply semGather_sound | with_reducible assumption

theorem semScatter_sound (i : SaivoFields) {e : Env} (he : e.Sound) : (semScatter i e).Sound := by
  unfold semScatter
  repeat' first
    | with_reducible apply Env.unsealed_sound
    | with_reducible apply Env.access_sound
    | with_reducible apply Env.writeElem_sound
    | with_reducible apply foldl_env
    | with_reducible assumption
    | intro _

theorem execScatter_sound (u : FurrowRef) (i : SaivoFields) {s : State} (hs : s.Sound) : Keeps (execScatter u i s) := by
  unfold execScatter
  apply keeps_next
  repeat' first | with_reducible apply State.issue_sound | with_reducible apply semScatter_sound | with_reducible assumption

theorem semShuf_sound (i : SaivoFields) {e : Env} (he : e.Sound) : (semShuf i e).Sound := by
  unfold semShuf
  repeat' first | with_reducible apply res_next | split | exact ⟨he.1, he.2⟩

theorem execShuf_sound (u : FurrowRef) (i : SaivoFields) {s : State} (hs : s.Sound) : Keeps (execShuf u i s) := by
  unfold execShuf
  apply keeps_next
  repeat' first | with_reducible apply State.issue_sound | with_reducible apply semShuf_sound | with_reducible assumption

theorem resumeSem_sound (op : Nat) (i : SaivoFields) {e : Env} (he : e.Sound) : (resumeSem op i e).Sound := by
  unfold resumeSem
  split
  · exact semLdk_sound _ i he
  · exact semLdk_sound _ i he
  · exact semLdk_sound _ i he
  · exact semStk_sound _ i he
  · exact semStk_sound _ i he
  · exact semStk_sound _ i he
  · exact semGather_sound i he
  · exact semScatter_sound i he

end Sys2Proof.Machine
end

