-- ==== Sys2Proof/Laws/SoundSaivoShares.lean ====
section
/-! SUPPORT. The operations of SaivoShares keep the invariant State.Sound. -/
set_option Elab.async false
set_option linter.unusedTactic false
set_option linter.unreachableTactic false
namespace Sys2Proof.Machine

theorem Env.kind_sound {e : Env} (he : e.Sound) (i : SaivoFields) (bool : Bool) (k : Nat → Res) (hk : ∀ q, (k q).Sound) :
    (e.kind i bool k).Sound := by
  unfold Env.kind
  split
  · exact hk _
  · exact Env.withQ_sound he i k hk

theorem Env.putShares_sound {e : Env} (he : e.Sound) (i : SaivoFields) (x : Nat) (g : Nat → List Nat) : (Env.putShares e i x g).Sound := by
  unfold Env.putShares
  repeat' first
    | with_reducible apply Env.putElems_sound
    | with_reducible apply foldl_env
    | with_reducible assumption
    | intro _

theorem semRecomb_sound (i : SaivoFields) {e : Env} (he : e.Sound) : (semRecomb i e).Sound := by
  unfold semRecomb
  repeat' first
    | with_reducible apply Env.kind_sound
    | with_reducible apply Env.unsealed_sound
    | with_reducible apply Env.putElems_sound
    | with_reducible apply res_next
    | with_reducible assumption
    | split
    | intro _
    | with_reducible apply res_fault

theorem semShare_sound (i : SaivoFields) (bool : Bool) (two : Bool) (g : Env → Nat → Nat → List Nat → List Nat → List Nat) {e : Env} (he : e.Sound) : (semShare i bool two g e).Sound := by
  unfold semShare
  repeat' first
    | with_reducible apply Env.kind_sound
    | with_reducible apply Env.sealSet_sound
    | with_reducible apply Env.putShares_sound
    | with_reducible apply res_next
    | with_reducible assumption
    | intro _

theorem semScmp_sound (i : SaivoFields) {e : Env} (he : e.Sound) : (semScmp i e).Sound := by
  unfold semScmp
  apply Env.kind_sound he
  intro q
  apply Env.unsealed_sound he
  intro t ht
  exact ⟨ht.1, ht.2⟩

theorem semShld_sound (i : SaivoFields) {e : Env} (he : e.Sound) : (semShld i e).Sound := by
  unfold semShld
  repeat' first
    | with_reducible apply Env.access_sound
    | with_reducible apply Env.sealSet_sound
    | with_reducible apply Env.putLanes_sound
    | with_reducible apply foldl_env
    | with_reducible assumption
    | intro _

theorem semShmask_sound (i : SaivoFields) {e : Env} (he : e.Sound) : (semShmask i e).Sound := by
  unfold semShmask
  repeat' first
    | with_reducible apply Env.kind_sound
    | with_reducible apply Env.unsealed_sound
    | with_reducible apply Env.putShares_sound
    | with_reducible apply res_next
    | with_reducible assumption
    | split
    | intro _

theorem semShpub_sound (i : SaivoFields) {e : Env} (he : e.Sound) : (semShpub i e).Sound := by
  unfold semShpub
  repeat' first
    | with_reducible apply Env.kind_sound
    | with_reducible apply Env.sealSet_sound
    | with_reducible apply Env.putLanes_sound
    | with_reducible apply Env.unsealed_sound
    | with_reducible apply Env.putShares_sound
    | with_reducible apply res_next
    | with_reducible apply foldl_env
    | with_reducible assumption
    | split
    | intro _

theorem semShst_sound (i : SaivoFields) {e : Env} (he : e.Sound) : (semShst i e).Sound := by
  unfold semShst
  repeat' first
    | with_reducible apply Env.access_sound
    | with_reducible apply Env.write_sound
    | with_reducible apply Env.sealWord_sound
    | with_reducible apply foldl_env
    | with_reducible assumption
    | split
    | intro _

theorem semSsel_sound (i : SaivoFields) {e : Env} (he : e.Sound) : (semSsel i e).Sound := by
  unfold semSsel
  repeat' first
    | with_reducible apply semShare_sound
    | with_reducible apply res_quit
    | with_reducible assumption
    | split
    | dsimp only

theorem execShmask_sound (u : FurrowRef) (i : SaivoFields) {s : State} (hs : s.Sound) : Keeps (execShmask u i s) := by
  unfold execShmask
  apply keeps_next
  repeat' first | with_reducible apply State.issue_sound | with_reducible apply semShmask_sound | with_reducible assumption

theorem execShadd_sound (u : FurrowRef) (i : SaivoFields) {s : State} (hs : s.Sound) : Keeps (execShadd u i s) := by
  unfold execShadd
  apply keeps_next
  repeat' first | with_reducible apply State.issue_sound | with_reducible apply semShare_sound | with_reducible assumption

theorem execShsub_sound (u : FurrowRef) (i : SaivoFields) {s : State} (hs : s.Sound) : Keeps (execShsub u i s) := by
  unfold execShsub
  apply keeps_next
  repeat' first | with_reducible apply State.issue_sound | with_reducible apply semShare_sound | with_reducible assumption

theorem execShpub_sound (u : FurrowRef) (i : SaivoFields) {s : State} (hs : s.Sound) : Keeps (execShpub u i s) := by
  unfold execShpub
  apply keeps_next
  repeat' first | with_reducible apply State.issue_sound | with_reducible apply semShpub_sound | with_reducible assumption

theorem execShmul_sound (u : FurrowRef) (i : SaivoFields) {s : State} (hs : s.Sound) : Keeps (execShmul u i s) := by
  unfold execShmul
  apply keeps_next
  repeat' first | with_reducible apply State.issue_sound | with_reducible apply semShare_sound | with_reducible assumption

theorem execSrefresh_sound (u : FurrowRef) (i : SaivoFields) {s : State} (hs : s.Sound) : Keeps (execSrefresh u i s) := by
  unfold execSrefresh
  apply keeps_next
  repeat' first | with_reducible apply State.issue_sound | with_reducible apply semShare_sound | with_reducible assumption

theorem execSa2b_sound (u : FurrowRef) (i : SaivoFields) {s : State} (hs : s.Sound) : Keeps (execSa2b u i s) := by
  unfold execSa2b
  apply keeps_next
  repeat' first | with_reducible apply State.issue_sound | with_reducible apply semShare_sound | with_reducible assumption

theorem execSb2a_sound (u : FurrowRef) (i : SaivoFields) {s : State} (hs : s.Sound) : Keeps (execSb2a u i s) := by
  unfold execSb2a
  apply keeps_next
  repeat' first | with_reducible apply State.issue_sound | with_reducible apply semShare_sound | with_reducible assumption

theorem execScmp_sound (u : FurrowRef) (i : SaivoFields) {s : State} (hs : s.Sound) : Keeps (execScmp u i s) := by
  unfold execScmp
  apply keeps_next
  repeat' first | with_reducible apply State.issue_sound | with_reducible apply semScmp_sound | with_reducible assumption

theorem execSsel_sound (u : FurrowRef) (i : SaivoFields) {s : State} (hs : s.Sound) : Keeps (execSsel u i s) := by
  unfold execSsel
  apply keeps_next
  repeat' first | with_reducible apply State.issue_sound | with_reducible apply semSsel_sound | with_reducible assumption

theorem execRecomb_sound (u : FurrowRef) (i : SaivoFields) {s : State} (hs : s.Sound) : Keeps (execRecomb u i s) := by
  unfold execRecomb
  apply keeps_next
  repeat' first | with_reducible apply State.issue_sound | with_reducible apply semRecomb_sound | with_reducible assumption

theorem execShst_sound (u : FurrowRef) (i : SaivoFields) {s : State} (hs : s.Sound) : Keeps (execShst u i s) := by
  unfold execShst
  apply keeps_next
  repeat' first | with_reducible apply State.issue_sound | with_reducible apply semShst_sound | with_reducible assumption

theorem execShld_sound (u : FurrowRef) (i : SaivoFields) {s : State} (hs : s.Sound) : Keeps (execShld u i s) := by
  unfold execShld
  apply keeps_next
  repeat' first | with_reducible apply State.issue_sound | with_reducible apply semShld_sound | with_reducible assumption

end Sys2Proof.Machine
end

