-- ==== Sys2Proof/Laws/SoundPrograms.lean ====
section
/-! SUPPORT. The operations of Programs keep the invariant State.Sound. -/
set_option Elab.async false
set_option linter.unusedTactic false
set_option linter.unreachableTactic false
namespace Sys2Proof.Machine

/-- A held run is one of the state's. -/
theorem State.heldRun_sound {s : State} (hs : s.Sound) {u : FurrowRef} {r : Run} (e : s.heldRun u = some r) : r.Sound := by
  unfold State.heldRun at e
  split at e
  · obtain ⟨k, _, hk⟩ := Option.bind_eq_some_iff.1 e
    exact State.run?_sound hs hk
  · cases e

theorem State.heldEnv_sound {s : State} (hs : s.Sound) {u : FurrowRef} {e : Env} (h : s.heldEnv u = some e) : e.Sound := by
  unfold State.heldEnv at h
  obtain ⟨r, hr, rfl⟩ := Option.map_eq_some_iff.1 h
  exact ⟨State.furrow_sound hs u, State.heldRun_sound hs hr⟩

theorem programLoadDesc_sound : programLoadDesc.Sound := by
  unfold programLoadDesc
  refine ⟨fun hs c => ?_, fun hs c => ?_, fun hs c => ?_, fun hs c x => ?_, fun hs c => ?_, fun hs c => ?_, fun hs c => ?_⟩ <;> dsimp only
  all_goals
    repeat' first
      | with_reducible apply State.modPkg_sound
      | with_reducible apply State.modCmd_sound
      | with_reducible assumption
      | with_reducible exact sound_mk (by assumption)

theorem execProgramLoad_sound (r : CmdRec) {s : State} (hs : s.Sound) : Keeps (execProgramLoad r s) := by
  unfold execProgramLoad
  apply keeps_next
  repeat' first
    | with_reducible apply runCommand_sound
    | with_reducible apply programLoadDesc_sound
    | with_reducible assumption

theorem programUnloadDesc_sound : programUnloadDesc.Sound := by
  unfold programUnloadDesc
  refine ⟨fun hs c => ?_, fun hs c => ?_, fun hs c => ?_, fun hs c x => ?_, fun hs c => ?_, fun hs c => ?_, fun hs c => ?_⟩ <;> dsimp only
  all_goals
    repeat' first
      | with_reducible apply State.dropImage_sound
      | with_reducible assumption
      | split
      | with_reducible exact sound_mk (by assumption)

theorem execProgramUnload_sound (r : CmdRec) {s : State} (hs : s.Sound) : Keeps (execProgramUnload r s) := by
  unfold execProgramUnload
  apply keeps_next
  repeat' first
    | with_reducible apply runCommand_sound
    | with_reducible apply programUnloadDesc_sound
    | with_reducible assumption

theorem programInfoDesc_sound : programInfoDesc.Sound where
  body hs _ := hs

theorem execProgramInfo_sound (r : CmdRec) {s : State} (hs : s.Sound) : Keeps (execProgramInfo r s) := by
  unfold execProgramInfo
  apply keeps_next
  repeat' first
    | with_reducible apply runCommand_sound
    | with_reducible apply programInfoDesc_sound
    | with_reducible assumption

theorem programRunDesc_sound : programRunDesc.Sound := by
  unfold programRunDesc
  refine ⟨fun hs c => ?_, fun hs c => ?_, fun hs c => ?_, fun hs c x => ?_, fun hs c => ?_, fun hs c => ?_, fun hs c => ?_⟩ <;> dsimp only
  all_goals
    repeat' first
      | with_reducible apply State.modCmd_sound
      | with_reducible apply State.beginRun_sound
      | with_reducible apply foldl_sound
      | with_reducible assumption
      | split
      | intro _
      | exact ⟨rfl, rfl⟩

theorem execProgramRun_sound (r : CmdRec) {s : State} (hs : s.Sound) : Keeps (execProgramRun r s) := by
  unfold execProgramRun
  apply keeps_next
  repeat' first
    | with_reducible apply runCommand_sound
    | with_reducible apply programRunDesc_sound
    | with_reducible assumption

theorem execAcreFreeRunStart_sound (field : Nat) (acre : Nat) {s : State} (hs : s.Sound) : Keeps (execAcreFreeRunStart field acre s) := by
  unfold execAcreFreeRunStart
  apply keeps_next
  repeat' first | with_reducible apply State.startRun_sound | with_reducible assumption | split

theorem execFurrowWatchdog_sound (u : FurrowRef) {s : State} (hs : s.Sound) : Keeps (execFurrowWatchdog u s) := by
  unfold execFurrowWatchdog
  apply keeps_next
  dsimp only
  split
  · exact hs
  · apply State.furrowFault_sound
    · exact State.modFurrow_sound hs u fun _ h => h
    · exact fun _ h => nomatch h

theorem State.releaseHeld_sound {s : State} (hs : s.Sound) (u : FurrowRef) : (s.releaseHeld u).Sound := by
  unfold State.releaseHeld
  split
  · exact hs
  · exact sound_runs (State.modFurrow_sound hs u fun _ => Furrow.stop_sound) (runs_filter hs _)

theorem diagRunDesc_sound : diagRunDesc.Sound where
  body {s} hs c := by
    dsimp only [diagRunDesc]
    split
    · exact hs
    · apply State.modFurrow_sound
      · exact sound_runs (State.releaseHeld_sound hs _) (runs_append (State.releaseHeld_sound hs _) ⟨rfl, rfl⟩)
      · exact fun _ _ => Furrow.start_sound ..

theorem execDiagRun_sound (r : CmdRec) {s : State} (hs : s.Sound) : Keeps (execDiagRun r s) := by
  unfold execDiagRun
  apply keeps_next
  repeat' first | with_reducible apply runCommand_sound | with_reducible apply diagRunDesc_sound | with_reducible assumption

theorem diagWordDesc_sound : diagWordDesc.Sound where
  body {s} hs c := by
    dsimp only [diagWordDesc]
    split
    · exact hs
    · have he := State.heldEnv_sound hs ‹_›
      apply State.store_sound hs
      split
      · exact Env.write_sound he ..
      · exact he

theorem execDiagWord_sound (r : CmdRec) {s : State} (hs : s.Sound) : Keeps (execDiagWord r s) := by
  unfold execDiagWord
  apply keeps_next
  repeat' first
    | with_reducible apply runCommand_sound
    | with_reducible apply diagWordDesc_sound
    | with_reducible assumption

theorem diagResumeDesc_sound : diagResumeDesc.Sound where
  body {s} hs c := by
    dsimp only [diagResumeDesc]
    split
    · exact hs
    · split
      · have hr := State.heldRun_sound hs ‹_›
        apply State.runInstr_sound
        · apply State.modFurrow_sound
          · exact State.modRun_sound (State.modCmd_sound hs ..) _ fun _ _ => ⟨hr.1, hr.2⟩
          · exact fun _ h => h
        · exact ⟨hr.1, hr.2⟩
        · exact fun _ => resumeSem_sound _ _
      · exact hs

theorem execDiagResume_sound (r : CmdRec) {s : State} (hs : s.Sound) : Keeps (execDiagResume r s) := by
  unfold execDiagResume
  apply keeps_next
  repeat' first
    | with_reducible apply runCommand_sound
    | with_reducible apply diagResumeDesc_sound
    | with_reducible assumption

end Sys2Proof.Machine
end

