-- ==== Sys2Proof/Laws/SoundMicrocode.lean ====
section
/-! SUPPORT. The operations of Microcode keep the invariant State.Sound. -/
set_option Elab.async false
set_option linter.unusedTactic false
set_option linter.unreachableTactic false
namespace Sys2Proof.Machine

theorem State.boundary_sound {s : State} (hs : s.Sound) (t : ThreadRef) (c : Cmd) : (State.boundary s t c).Sound := by
  unfold State.boundary
  repeat' first
    | with_reducible apply State.setDone_sound
    | with_reducible apply foldl_sound
    | with_reducible refine of_snd (by with_reducible assumption) ?_
    | with_reducible refine of_fst (by with_reducible assumption) ?_
    | with_reducible refine of_trd (by with_reducible assumption) ?_
    | with_reducible assumption
    | split
    | intro _
    | with_reducible exact field_mk (by assumption)
    | with_reducible exact sound_mk (by assumption)
    | (with_reducible refine field_mk_map (by assumption) ?_; intro _ h; exact furrow_mk h)
    | with_reducible exact sound_zipMap (by assumption) fun _ _ h => field_mk h
    | with_reducible exact sound_runs (by assumption) (runs_filter (by assumption) _)
    | dsimp only
    | (with_reducible apply field_mk; first | split | with_reducible assumption)
    | (with_reducible apply sound_mk; first | split | with_reducible apply foldl_sound | with_reducible apply State.setDone_sound | with_reducible apply State.modField_sound | with_reducible apply State.modFields_sound | with_reducible apply State.modPkg_sound | with_reducible apply State.modInst_sound | with_reducible apply State.modCmd_sound)

theorem State.word_sound {s : State} (hs : s.Sound) (t : ThreadRef) (nxt : Nat) (w : Micro) {g : State → Cmd → Thread → State}
    (hg : ∀ {x : State}, x.Sound → ∀ c h, (g x c h).Sound) : (s.word t nxt w g).Sound := by
  unfold State.word
  split
  · exact hs
  · have hm := State.modField_sound hs t.field (g := fun x => { x with lastThread := t.thread, threads := x.threads.map fun y =>
      { y with resting := false } }) fun _ hx => field_congr hx rfl (List.length_map ..)
    dsimp only
    split
    · exact State.complete_sound hm ..
    · exact State.boundary_sound (hg (State.modThread_sound hm ..) _ _) ..

theorem State.goto_sound {s : State} (hs : s.Sound) (t : ThreadRef) (pc : Nat) : (State.goto s t pc).Sound := by
  unfold State.goto
  repeat' first | with_reducible apply State.modThread_sound | with_reducible assumption

theorem execNextWord_sound (t : ThreadRef) (w : Micro) {s : State} (hs : s.Sound) : Keeps (execNextWord t w s) := by
  unfold execNextWord
  apply keeps_next
  repeat' first
    | with_reducible apply State.word_sound
    | with_reducible apply State.goto_sound
    | with_reducible assumption
    | intro _

theorem execJumpWord_sound (t : ThreadRef) (w : Micro) {s : State} (hs : s.Sound) : Keeps (execJumpWord t w s) := by
  unfold execJumpWord
  apply keeps_next
  repeat' first
    | with_reducible apply State.word_sound
    | with_reducible apply State.goto_sound
    | with_reducible assumption
    | intro _

theorem execCallWord_sound (t : ThreadRef) (w : Micro) {s : State} (hs : s.Sound) : Keeps (execCallWord t w s) := by
  unfold execCallWord
  apply keeps_next
  repeat' first
    | with_reducible apply State.word_sound
    | with_reducible apply State.complete_sound
    | with_reducible apply State.modThread_sound
    | with_reducible assumption
    | split
    | intro _

theorem execRetWord_sound (t : ThreadRef) (w : Micro) {s : State} (hs : s.Sound) : Keeps (execRetWord t w s) := by
  unfold execRetWord
  apply keeps_next
  repeat' first
    | with_reducible apply State.word_sound
    | with_reducible apply State.complete_sound
    | with_reducible apply State.modThread_sound
    | with_reducible assumption
    | split
    | intro _

theorem execBranchWord_sound (t : ThreadRef) (w : Micro) {s : State} (hs : s.Sound) : Keeps (execBranchWord t w s) := by
  unfold execBranchWord
  apply keeps_next
  repeat' first
    | with_reducible apply State.word_sound
    | with_reducible apply State.goto_sound
    | with_reducible assumption
    | intro _

theorem execEndWord_sound (t : ThreadRef) (w : Micro) {s : State} (hs : s.Sound) : Keeps (execEndWord t w s) := by
  unfold execEndWord
  apply keeps_next
  repeat' first
    | with_reducible apply State.word_sound
    | with_reducible apply State.complete_sound
    | with_reducible assumption
    | intro _

theorem execYieldWord_sound (t : ThreadRef) (w : Micro) {s : State} (hs : s.Sound) : Keeps (execYieldWord t w s) := by
  unfold execYieldWord
  apply keeps_next
  repeat' first
    | with_reducible apply State.modThread_sound
    | with_reducible apply State.word_sound
    | with_reducible apply State.goto_sound
    | with_reducible apply foldl_sound
    | with_reducible refine of_snd (by with_reducible assumption) ?_
    | with_reducible refine of_fst (by with_reducible assumption) ?_
    | with_reducible refine of_trd (by with_reducible assumption) ?_
    | with_reducible assumption
    | split
    | intro _
    | with_reducible exact field_mk (by assumption)
    | with_reducible exact sound_mk (by assumption)
    | (with_reducible refine field_mk_map (by assumption) ?_; intro _ h; exact furrow_mk h)
    | with_reducible exact sound_zipMap (by assumption) fun _ _ h => field_mk h
    | with_reducible exact sound_runs (by assumption) (runs_filter (by assumption) _)
    | dsimp only
    | (with_reducible apply field_mk; first | split | with_reducible assumption)
    | (with_reducible apply sound_mk; first | split | with_reducible apply foldl_sound | with_reducible apply State.modThread_sound | with_reducible apply State.word_sound | with_reducible apply State.goto_sound | with_reducible apply State.modField_sound | with_reducible apply State.modFields_sound | with_reducible apply State.modPkg_sound | with_reducible apply State.modInst_sound | with_reducible apply State.modCmd_sound)

theorem execWaitWord_sound (t : ThreadRef) (w : Micro) {s : State} (hs : s.Sound) : Keeps (execWaitWord t w s) := by
  unfold execWaitWord
  apply keeps_next
  repeat' first
    | with_reducible apply State.word_sound
    | with_reducible apply State.goto_sound
    | with_reducible assumption
    | intro _

theorem execDispatchWord_sound (t : ThreadRef) (w : Micro) {s : State} (hs : s.Sound) : Keeps (execDispatchWord t w s) := by
  unfold execDispatchWord
  apply keeps_next
  repeat' first
    | with_reducible apply State.word_sound
    | with_reducible apply State.goto_sound
    | with_reducible assumption
    | cases ‹(_, _) = (_, _)›
    | split
    | intro _
    | with_reducible exact sound_mk (by assumption)

theorem execTrapWord_sound (t : ThreadRef) (w : Micro) {s : State} (hs : s.Sound) : Keeps (execTrapWord t w s) := by
  unfold execTrapWord
  apply keeps_next
  repeat' first
    | with_reducible apply State.word_sound
    | with_reducible apply State.complete_sound
    | with_reducible assumption
    | intro _

theorem execMicrocodeRunLimit_sound (t : ThreadRef) {s : State} (hs : s.Sound) : Keeps (execMicrocodeRunLimit t s) := by
  unfold execMicrocodeRunLimit
  apply keeps_next
  repeat' first | with_reducible apply State.complete_sound | with_reducible assumption | split

theorem customerDesc_sound (op : Nat) : (customerDesc op).Sound := by
  unfold customerDesc
  refine ⟨fun hs c => ?_, fun hs c => ?_, fun hs c => ?_, fun hs c x => ?_, fun hs c => ?_, fun hs c => ?_, fun hs c => ?_⟩ <;> dsimp only
  all_goals
    repeat' first
      | with_reducible apply State.modCmd_sound
      | with_reducible apply State.modThread_sound
      | with_reducible assumption
      | split

theorem execCustomerOpcode_sound (opcode : Nat) (r : CmdRec) {s : State} (hs : s.Sound) : Keeps (execCustomerOpcode opcode r s) := by
  unfold execCustomerOpcode
  apply keeps_next
  repeat' first
    | with_reducible apply runCommand_sound
    | with_reducible apply customerDesc_sound
    | with_reducible assumption
    | split

theorem execCaddyThreadFree_sound (field : Nat) {s : State} (hs : s.Sound) : Keeps (execCaddyThreadFree field s) := by
  unfold execCaddyThreadFree
  apply keeps_next
  repeat' first | with_reducible apply State.modCmd_sound | with_reducible assumption | split

theorem State.gate_sound {s : State} (hs : s.Sound) (t : ThreadRef) (entry : Nat) {g : Cmd → Thread → State} (hg : ∀ c h, (g c h).Sound) :
    (s.gate t entry g).Sound := by
  unfold State.gate
  split
  · split
    · exact hg _ _
    · exact hs
  · exact hs

theorem State.gateRet_sound {s : State} (hs : s.Sound) (t : ThreadRef) (st : Status) : (State.gateRet s t st).Sound := by
  unfold State.gateRet
  repeat' first | with_reducible apply State.modThread_sound | with_reducible assumption

theorem State.gateChecks_sound {s : State} (hs : s.Sound) (t : ThreadRef) (cs : List (Bool × Status)) {ok : State} (ho : ok.Sound) :
    (s.gateChecks t cs ok).Sound := by
  unfold State.gateChecks
  split
  · exact State.modThread_sound hs ..
  · exact ho

theorem State.gateRandom_sound {s : State} (hs : s.Sound) (c : Cmd) (needs up : Bool) {go : State} (hg : go.Sound) :
    (s.gateRandom c needs up go).Sound := by
  unfold State.gateRandom
  repeat' first
    | with_reducible apply State.complete_sound
    | with_reducible apply State.modCmd_sound
    | with_reducible assumption
    | split

theorem State.gateWhisk_sound {s : State} (hs : s.Sound) (t : ThreadRef) (c : Cmd) (k : Nat) {go : State} (hgo : go.Sound) :
    (State.gateWhisk s t c k go).Sound := by
  unfold State.gateWhisk
  split
  · exact State.modCmd_sound hs ..
  · split
    · refine State.modCmd_sound (State.modField_sound hs _ fun x hx => ?_) ..
      split
      · exact hx
      · exact field_mk hx
    · exact State.modCmd_sound (State.modField_sound hgo _ fun x hx => FieldSt.offWhisk_sound hx ..) ..

theorem State.gateLoad_sound {s : State} (hs : s.Sound) (t : ThreadRef) (hit : Hit) (c : Cmd) (key : List Key) (cold : List Key) : (State.gateLoad s t hit c key cold).Sound := by
  unfold State.gateLoad
  repeat' first
    | with_reducible apply State.modField_sound
    | with_reducible apply State.modCmd_sound
    | with_reducible apply State.complete_sound
    | with_reducible apply FieldSt.reseat_sound
    | with_reducible apply State.loadKeys_sound
    | with_reducible apply State.modThread_sound
    | with_reducible apply customerDesc_sound
    | with_reducible apply State.gateRet_sound
    | with_reducible apply foldl_sound
    | with_reducible refine of_snd (by with_reducible assumption) ?_
    | with_reducible refine of_fst (by with_reducible assumption) ?_
    | with_reducible refine of_trd (by with_reducible assumption) ?_
    | with_reducible assumption
    | split
    | intro _
    | with_reducible exact field_mk (by assumption)
    | with_reducible exact sound_mk (by assumption)
    | (with_reducible refine field_mk_map (by assumption) ?_; intro _ h; exact furrow_mk h)
    | with_reducible exact sound_zipMap (by assumption) fun _ _ h => field_mk h
    | with_reducible exact sound_runs (by assumption) (runs_filter (by assumption) _)
    | dsimp only
    | (with_reducible apply field_mk; first | split | with_reducible apply FieldSt.reseat_sound)
    | (with_reducible apply sound_mk; first | split | with_reducible apply foldl_sound | with_reducible apply State.modField_sound | with_reducible apply State.modCmd_sound | with_reducible apply State.complete_sound | with_reducible apply FieldSt.reseat_sound | with_reducible apply State.loadKeys_sound | with_reducible apply State.modThread_sound | with_reducible apply customerDesc_sound | with_reducible apply State.gateRet_sound | with_reducible apply State.modField_sound | with_reducible apply State.modFields_sound | with_reducible apply State.modPkg_sound | with_reducible apply State.modInst_sound | with_reducible apply State.modCmd_sound)

theorem State.gateKey_sound {s : State} (hs : s.Sound) (t : ThreadRef) (hit : Hit) (c : Cmd) (h : Thread) : (State.gateKey s t hit c h).Sound := by
  unfold State.gateKey
  repeat' first
    | with_reducible apply State.readDesc_sound
    | with_reducible apply State.spoilDesc_sound
    | with_reducible apply State.gateChecks_sound
    | with_reducible apply State.gateRandom_sound
    | with_reducible apply State.gateWhisk_sound
    | with_reducible apply State.gateLoad_sound
    | with_reducible apply foldl_sound
    | with_reducible refine of_snd (by with_reducible assumption) ?_
    | with_reducible refine of_fst (by with_reducible assumption) ?_
    | with_reducible refine of_trd (by with_reducible assumption) ?_
    | with_reducible assumption
    | split
    | intro _
    | with_reducible exact field_mk (by assumption)
    | with_reducible exact sound_mk (by assumption)
    | (with_reducible refine field_mk_map (by assumption) ?_; intro _ h; exact furrow_mk h)
    | with_reducible exact sound_zipMap (by assumption) fun _ _ h => field_mk h
    | with_reducible exact sound_runs (by assumption) (runs_filter (by assumption) _)
    | dsimp only
    | (with_reducible apply field_mk; first | split | with_reducible assumption)
    | (with_reducible apply sound_mk; first | split | with_reducible apply foldl_sound | with_reducible apply State.readDesc_sound | with_reducible apply State.spoilDesc_sound | with_reducible apply State.gateChecks_sound | with_reducible apply State.gateRandom_sound | with_reducible apply State.gateWhisk_sound | with_reducible apply State.gateLoad_sound | with_reducible apply State.modField_sound | with_reducible apply State.modFields_sound | with_reducible apply State.modPkg_sound | with_reducible apply State.modInst_sound | with_reducible apply State.modCmd_sound)

theorem execGateKey_sound (g : GateRef) {s : State} (hs : s.Sound) : Keeps (execGateKey g s) := by
  unfold execGateKey
  apply keeps_next
  repeat' first
    | with_reducible apply State.gate_sound
    | with_reducible apply State.gateKey_sound
    | with_reducible apply foldl_sound
    | with_reducible refine of_snd (by with_reducible assumption) ?_
    | with_reducible refine of_fst (by with_reducible assumption) ?_
    | with_reducible refine of_trd (by with_reducible assumption) ?_
    | with_reducible assumption
    | split
    | intro _
    | with_reducible exact field_mk (by assumption)
    | with_reducible exact sound_mk (by assumption)
    | (with_reducible refine field_mk_map (by assumption) ?_; intro _ h; exact furrow_mk h)
    | with_reducible exact sound_zipMap (by assumption) fun _ _ h => field_mk h
    | with_reducible exact sound_runs (by assumption) (runs_filter (by assumption) _)
    | dsimp only
    | (with_reducible apply field_mk; first | split | with_reducible assumption)
    | (with_reducible apply sound_mk; first | split | with_reducible apply foldl_sound | with_reducible apply State.gate_sound | with_reducible apply State.gateKey_sound | with_reducible apply State.modField_sound | with_reducible apply State.modFields_sound | with_reducible apply State.modPkg_sound | with_reducible apply State.modInst_sound | with_reducible apply State.modCmd_sound)

theorem State.gateQuota_sound {s : State} (hs : s.Sound) (t : ThreadRef) (c : Cmd) (h : Thread) : (State.gateQuota s t c h).Sound := by
  unfold State.gateQuota
  repeat' first
    | with_reducible apply State.gateChecks_sound
    | with_reducible apply State.gateRet_sound
    | with_reducible assumption

theorem execGateQuota_sound (t : ThreadRef) {s : State} (hs : s.Sound) : Keeps (execGateQuota t s) := by
  unfold execGateQuota
  apply keeps_next
  repeat' first
    | with_reducible apply State.gate_sound
    | with_reducible apply State.gateQuota_sound
    | with_reducible assumption

theorem State.gateDraw_sound {s : State} (hs : s.Sound) (t : ThreadRef) (c : Cmd) (h : Thread) : (State.gateDraw s t c h).Sound := by
  unfold State.gateDraw
  repeat' first
    | with_reducible apply State.modCmd_sound
    | with_reducible apply State.complete_sound
    | with_reducible apply State.steep_sound
    | with_reducible apply State.waitForPool_sound
    | with_reducible apply State.modThread_sound
    | with_reducible apply State.gateRandom_sound
    | with_reducible apply foldl_sound
    | with_reducible refine of_snd (by with_reducible assumption) ?_
    | with_reducible refine of_fst (by with_reducible assumption) ?_
    | with_reducible refine of_trd (by with_reducible assumption) ?_
    | with_reducible assumption
    | split
    | intro _
    | with_reducible exact field_mk (by assumption)
    | with_reducible exact sound_mk (by assumption)
    | (with_reducible refine field_mk_map (by assumption) ?_; intro _ h; exact furrow_mk h)
    | with_reducible exact sound_zipMap (by assumption) fun _ _ h => field_mk h
    | with_reducible exact sound_runs (by assumption) (runs_filter (by assumption) _)
    | dsimp only
    | (with_reducible apply field_mk; first | split | with_reducible assumption)
    | (with_reducible apply sound_mk; first | split | with_reducible apply foldl_sound | with_reducible apply State.modCmd_sound | with_reducible apply State.complete_sound | with_reducible apply State.steep_sound | with_reducible apply State.waitForPool_sound | with_reducible apply State.modThread_sound | with_reducible apply State.gateRandom_sound | with_reducible apply State.modField_sound | with_reducible apply State.modFields_sound | with_reducible apply State.modPkg_sound | with_reducible apply State.modInst_sound | with_reducible apply State.modCmd_sound)

theorem execGateDraw_sound (t : ThreadRef) {s : State} (hs : s.Sound) : Keeps (execGateDraw t s) := by
  unfold execGateDraw
  apply keeps_next
  repeat' first
    | with_reducible apply State.gate_sound
    | with_reducible apply State.gateDraw_sound
    | with_reducible assumption

theorem State.gateProgram_sound {s : State} (hs : s.Sound) (t : ThreadRef) (c : Cmd) (h : Thread) : (State.gateProgram s t c h).Sound := by
  unfold State.gateProgram
  repeat' first
    | with_reducible apply State.complete_sound
    | with_reducible apply State.gateChecks_sound
    | with_reducible apply State.beginRun_sound
    | with_reducible assumption
    | split
    | dsimp only
    | exact ⟨rfl, rfl⟩

theorem execGateProgram_sound (t : ThreadRef) {s : State} (hs : s.Sound) : Keeps (execGateProgram t s) := by
  unfold execGateProgram
  apply keeps_next
  repeat' first
    | with_reducible apply State.gate_sound
    | with_reducible apply State.gateProgram_sound
    | with_reducible assumption

theorem State.gateDigest_sound {s : State} (hs : s.Sound) (t : ThreadRef) (c : Cmd) (h : Thread) : (State.gateDigest s t c h).Sound := by
  unfold State.gateDigest
  repeat' first
    | with_reducible apply State.modCmd_sound
    | with_reducible apply State.hashQueues_sound
    | with_reducible apply State.hashServed_sound
    | with_reducible apply State.modThread_sound
    | with_reducible apply State.gateChecks_sound
    | with_reducible apply foldl_sound
    | with_reducible refine of_snd (by with_reducible assumption) ?_
    | with_reducible refine of_fst (by with_reducible assumption) ?_
    | with_reducible refine of_trd (by with_reducible assumption) ?_
    | with_reducible assumption
    | split
    | intro _
    | with_reducible exact field_mk (by assumption)
    | with_reducible exact sound_mk (by assumption)
    | (with_reducible refine field_mk_map (by assumption) ?_; intro _ h; exact furrow_mk h)
    | with_reducible exact sound_zipMap (by assumption) fun _ _ h => field_mk h
    | with_reducible exact sound_runs (by assumption) (runs_filter (by assumption) _)
    | dsimp only
    | (with_reducible apply field_mk; first | split | with_reducible assumption)
    | (with_reducible apply sound_mk; first | split | with_reducible apply foldl_sound | with_reducible apply State.modCmd_sound | with_reducible apply State.hashQueues_sound | with_reducible apply State.hashServed_sound | with_reducible apply State.modThread_sound | with_reducible apply State.gateChecks_sound | with_reducible apply State.modField_sound | with_reducible apply State.modFields_sound | with_reducible apply State.modPkg_sound | with_reducible apply State.modInst_sound | with_reducible apply State.modCmd_sound)

theorem execGateDigest_sound (t : ThreadRef) {s : State} (hs : s.Sound) : Keeps (execGateDigest t s) := by
  unfold execGateDigest
  apply keeps_next
  repeat' first
    | with_reducible apply State.gate_sound
    | with_reducible apply State.gateDigest_sound
    | with_reducible assumption

theorem State.gateTally_sound {s : State} (hs : s.Sound) (t : ThreadRef) (c : Cmd) (h : Thread) : (State.gateTally s t c h).Sound := by
  unfold State.gateTally
  repeat' first
    | with_reducible apply State.gateChecks_sound
    | with_reducible apply State.modThread_sound
    | with_reducible assumption

theorem execGateTally_sound (t : ThreadRef) {s : State} (hs : s.Sound) : Keeps (execGateTally t s) := by
  unfold execGateTally
  apply keeps_next
  repeat' first
    | with_reducible apply State.gate_sound
    | with_reducible apply State.gateTally_sound
    | with_reducible assumption

theorem State.gateNewkey_sound {s : State} (hs : s.Sound) (t : ThreadRef) (c : Cmd) (h : Thread) : (State.gateNewkey s t c h).Sound := by
  unfold State.gateNewkey
  repeat' first
    | with_reducible apply State.complete_sound
    | with_reducible apply State.addKey_sound
    | with_reducible apply State.modThread_sound
    | with_reducible apply State.gateChecks_sound
    | with_reducible apply State.gateWhisk_sound
    | with_reducible apply foldl_sound
    | with_reducible refine of_snd (by with_reducible assumption) ?_
    | with_reducible refine of_fst (by with_reducible assumption) ?_
    | with_reducible refine of_trd (by with_reducible assumption) ?_
    | with_reducible assumption
    | split
    | intro _
    | with_reducible exact field_mk (by assumption)
    | with_reducible exact sound_mk (by assumption)
    | (with_reducible refine field_mk_map (by assumption) ?_; intro _ h; exact furrow_mk h)
    | with_reducible exact sound_zipMap (by assumption) fun _ _ h => field_mk h
    | with_reducible exact sound_runs (by assumption) (runs_filter (by assumption) _)
    | dsimp only
    | (with_reducible apply field_mk; first | split | with_reducible assumption)
    | (with_reducible apply sound_mk; first | split | with_reducible apply foldl_sound | with_reducible apply State.complete_sound | with_reducible apply State.addKey_sound | with_reducible apply State.modThread_sound | with_reducible apply State.gateChecks_sound | with_reducible apply State.gateWhisk_sound | with_reducible apply State.modField_sound | with_reducible apply State.modFields_sound | with_reducible apply State.modPkg_sound | with_reducible apply State.modInst_sound | with_reducible apply State.modCmd_sound)

theorem execGateNewkey_sound (t : ThreadRef) {s : State} (hs : s.Sound) : Keeps (execGateNewkey t s) := by
  unfold execGateNewkey
  apply keeps_next
  repeat' first
    | with_reducible apply State.gate_sound
    | with_reducible apply State.gateNewkey_sound
    | with_reducible assumption

theorem State.gateResult_sound {s : State} (hs : s.Sound) (t : ThreadRef) (c : Cmd) (h : Thread) : (State.gateResult s t c h).Sound := by
  unfold State.gateResult
  repeat' first
    | with_reducible apply State.gateChecks_sound
    | with_reducible apply State.modThread_sound
    | with_reducible apply State.modCmd_sound
    | with_reducible assumption

theorem execGateResult_sound (t : ThreadRef) {s : State} (hs : s.Sound) : Keeps (execGateResult t s) := by
  unfold execGateResult
  apply keeps_next
  repeat' first
    | with_reducible apply State.gate_sound
    | with_reducible apply State.gateResult_sound
    | with_reducible assumption

end Sys2Proof.Machine
end

