-- ==== Sys2Proof/Laws/SoundSeedRows.lean ====
section
/-! SUPPORT. The operations of SeedRows keep the invariant State.Sound. -/
set_option Elab.async false
set_option linter.unusedTactic false
set_option linter.unreachableTactic false
namespace Sys2Proof.Machine

theorem randomGenerateDesc_sound : randomGenerateDesc.Sound where
  body hs _ := hs

theorem execRandomGenerate_sound (r : CmdRec) {s : State} (hs : s.Sound) : Keeps (execRandomGenerate r s) := by
  unfold execRandomGenerate
  apply keeps_next
  repeat' first
    | with_reducible apply runCommand_sound
    | with_reducible apply randomGenerateDesc_sound
    | with_reducible assumption

theorem rngHealthDesc_sound : rngHealthDesc.Sound where
  body hs _ := hs

theorem execRngHealth_sound (r : CmdRec) {s : State} (hs : s.Sound) : Keeps (execRngHealth r s) := by
  unfold execRngHealth
  apply keeps_next
  repeat' first
    | with_reducible apply runCommand_sound
    | with_reducible apply rngHealthDesc_sound
    | with_reducible assumption

theorem State.finishRngConfig_sound {s : State} (hs : s.Sound) : (State.finishRngConfig s).Sound := by
  unfold State.finishRngConfig
  repeat' first
    | with_reducible apply State.complete_sound
    | with_reducible apply foldl_sound
    | with_reducible assumption
    | split
    | intro _
    | dsimp only

theorem rngConfigDesc_sound : rngConfigDesc.Sound := by
  unfold rngConfigDesc
  refine ⟨fun hs c => ?_, fun hs c => ?_, fun hs c => ?_, fun hs c x => ?_, fun hs c => ?_, fun hs c => ?_, fun hs c => ?_⟩ <;> dsimp only
  all_goals
    repeat' first
      | with_reducible apply State.modField_sound
      | with_reducible apply State.modCmd_sound
      | with_reducible apply foldl_sound
      | with_reducible assumption
      | split
      | intro _
      | with_reducible exact field_mk (by assumption)

theorem execRngConfig_sound (r : CmdRec) {s : State} (hs : s.Sound) : Keeps (execRngConfig r s) := by
  unfold execRngConfig
  apply keeps_next
  repeat' first
    | with_reducible apply runCommand_sound
    | with_reducible apply rngConfigDesc_sound
    | with_reducible assumption

theorem execSeedbedStartupDone_sound (field : Nat) {s : State} (hs : s.Sound) : Keeps (execSeedbedStartupDone field s) := by
  unfold execSeedbedStartupDone
  apply keeps_next
  repeat' first
    | with_reducible apply State.modField_sound
    | with_reducible apply FieldSt.instantiate_sound
    | with_reducible apply State.newNonce_sound
    | with_reducible apply State.finishRngConfig_sound
    | with_reducible apply foldl_sound
    | with_reducible refine of_snd (by with_reducible assumption) ?_
    | with_reducible refine of_fst (by with_reducible assumption) ?_
    | with_reducible refine of_trd (by with_reducible assumption) ?_
    | with_reducible assumption
    | split
    | intro _
    | with_reducible exact field_mk (by assumption)
    | with_reducible exact sound_mk (by assumption)
    | (with_reducible refine field_mk_map (by assumption) ?_; intro _ h; exact furrow_mk h)
    | with_reducible exact sound_zipMap (by assumption) fun _ _ h => field_mk h
    | with_reducible exact sound_runs (by assumption) (runs_filter (by assumption) _)
    | dsimp only
    | (with_reducible apply field_mk; first | split | with_reducible apply FieldSt.instantiate_sound)
    | (with_reducible apply sound_mk; first | split | with_reducible apply foldl_sound | with_reducible apply State.modField_sound | with_reducible apply FieldSt.instantiate_sound | with_reducible apply State.newNonce_sound | with_reducible apply State.finishRngConfig_sound | with_reducible apply State.modField_sound | with_reducible apply State.modFields_sound | with_reducible apply State.modPkg_sound | with_reducible apply State.modInst_sound | with_reducible apply State.modCmd_sound)

theorem State.latchSeed_sound {s : State} (hs : s.Sound) (f : Nat) : (State.latchSeed s f).Sound := by
  unfold State.latchSeed
  repeat' first
    | with_reducible apply State.modField_sound
    | with_reducible apply State.modPkg_sound
    | with_reducible apply State.raise_sound
    | with_reducible apply Furrow.stop_sound
    | with_reducible apply State.endAll_sound
    | with_reducible apply State.finishRngConfig_sound
    | with_reducible apply foldl_sound
    | with_reducible refine of_snd (by with_reducible assumption) ?_
    | with_reducible refine of_fst (by with_reducible assumption) ?_
    | with_reducible refine of_trd (by with_reducible assumption) ?_
    | with_reducible assumption
    | split
    | intro _
    | with_reducible exact field_mk (by assumption)
    | with_reducible exact sound_mk (by assumption)
    | (with_reducible refine field_mk_map (by assumption) ?_; intro _ h; exact furrow_mk h)
    | with_reducible exact sound_zipMap (by assumption) fun _ _ h => field_mk h
    | with_reducible exact sound_runs (by assumption) (runs_filter (by assumption) _)
    | dsimp only
    | (with_reducible apply field_mk; first | split | with_reducible assumption)
    | (with_reducible apply sound_mk; first | split | with_reducible apply foldl_sound | with_reducible apply State.modField_sound | with_reducible apply State.modPkg_sound | with_reducible apply State.raise_sound | with_reducible apply Furrow.stop_sound | with_reducible apply State.endAll_sound | with_reducible apply State.finishRngConfig_sound | with_reducible apply State.modField_sound | with_reducible apply State.modFields_sound | with_reducible apply State.modPkg_sound | with_reducible apply State.modInst_sound | with_reducible apply State.modCmd_sound)

theorem execHealthFailure_sound (field : Nat) (source : Nat) (apt : Bool) {s : State} (hs : s.Sound) : Keeps (execHealthFailure field source apt s) := by
  unfold execHealthFailure
  apply keeps_next
  repeat' first
    | with_reducible apply State.modField_sound
    | with_reducible apply State.log_sound
    | with_reducible apply State.endAll_sound
    | with_reducible apply State.raise_sound
    | with_reducible apply State.latchSeed_sound
    | with_reducible assumption
    | split
    | intro _
    | with_reducible exact field_mk (by assumption)
    | dsimp only

theorem execSeedbedHealthWindow_sound (field : Nat) (source : Nat) (ones : Nat) (ac : List Int) {s : State} (hs : s.Sound) : Keeps (execSeedbedHealthWindow field source ones ac s) := by
  unfold execSeedbedHealthWindow
  apply keeps_next
  repeat' first
    | with_reducible apply State.modField_sound
    | with_reducible apply State.raise_sound
    | with_reducible assumption
    | split
    | intro _
    | with_reducible exact field_mk (by assumption)
    | dsimp only

theorem FieldSt.resumeAcre_sound {x : FieldSt} (hx : x.Sound) (a : Nat) : (FieldSt.resumeAcre x a).Sound := by
  refine field_furrows hx (by simp) fun u hu => ?_
  obtain ⟨⟨v, k⟩, hv, rfl⟩ := List.mem_map.1 hu
  obtain ⟨_, hk, e⟩ := List.mem_zipIdx hv
  have hx' : v.Sound := hx.2.2 v (e ▸ List.getElem_mem _)
  dsimp only
  split
  · exact furrow_mk hx'
  · exact hx'

theorem State.serveLeaf_sound {s : State} (hs : s.Sound) (f : Nat) (place : Nat) : (State.serveLeaf s f place).Sound := by
  unfold State.serveLeaf
  repeat' first
    | with_reducible apply State.modField_sound
    | with_reducible apply State.steep_sound
    | with_reducible apply FieldSt.resumeAcre_sound
    | with_reducible apply foldl_sound
    | with_reducible refine of_snd (by with_reducible assumption) ?_
    | with_reducible refine of_fst (by with_reducible assumption) ?_
    | with_reducible refine of_trd (by with_reducible assumption) ?_
    | with_reducible assumption
    | split
    | intro _
    | with_reducible exact field_mk (by assumption)
    | with_reducible exact sound_mk (by assumption)
    | (with_reducible refine field_mk_map (by assumption) ?_; intro _ h; exact furrow_mk h)
    | with_reducible exact sound_zipMap (by assumption) fun _ _ h => field_mk h
    | with_reducible exact sound_runs (by assumption) (runs_filter (by assumption) _)
    | dsimp only
    | (with_reducible apply field_mk; first | split | with_reducible apply FieldSt.resumeAcre_sound)
    | (with_reducible apply sound_mk; first | split | with_reducible apply foldl_sound | with_reducible apply State.modField_sound | with_reducible apply State.steep_sound | with_reducible apply FieldSt.resumeAcre_sound | with_reducible apply State.modField_sound | with_reducible apply State.modFields_sound | with_reducible apply State.modPkg_sound | with_reducible apply State.modInst_sound | with_reducible apply State.modCmd_sound)

theorem State.servePool_sound {s : State} (hs : s.Sound) (f : Nat) : (State.servePool s f).Sound := by
  unfold State.servePool
  repeat' first
    | with_reducible apply State.serveLeaf_sound
    | with_reducible apply foldl_sound
    | with_reducible refine of_snd (by with_reducible assumption) ?_
    | with_reducible refine of_fst (by with_reducible assumption) ?_
    | with_reducible refine of_trd (by with_reducible assumption) ?_
    | with_reducible assumption
    | split
    | intro _
    | with_reducible exact field_mk (by assumption)
    | with_reducible exact sound_mk (by assumption)
    | (with_reducible refine field_mk_map (by assumption) ?_; intro _ h; exact furrow_mk h)
    | with_reducible exact sound_zipMap (by assumption) fun _ _ h => field_mk h
    | with_reducible exact sound_runs (by assumption) (runs_filter (by assumption) _)
    | dsimp only
    | (with_reducible apply field_mk; first | split | with_reducible assumption)
    | (with_reducible apply sound_mk; first | split | with_reducible apply foldl_sound | with_reducible apply State.serveLeaf_sound | with_reducible apply State.modField_sound | with_reducible apply State.modFields_sound | with_reducible apply State.modPkg_sound | with_reducible apply State.modInst_sound | with_reducible apply State.modCmd_sound)

theorem execSteepReseed_sound (field : Nat) {s : State} (hs : s.Sound) : Keeps (execSteepReseed field s) := by
  unfold execSteepReseed
  apply keeps_next
  repeat' first
    | with_reducible apply State.modField_sound
    | with_reducible apply State.newNonce_sound
    | with_reducible apply State.servePool_sound
    | with_reducible apply foldl_sound
    | with_reducible refine of_snd (by with_reducible assumption) ?_
    | with_reducible refine of_fst (by with_reducible assumption) ?_
    | with_reducible refine of_trd (by with_reducible assumption) ?_
    | with_reducible assumption
    | split
    | intro _
    | with_reducible exact field_mk (by assumption)
    | with_reducible exact sound_mk (by assumption)
    | (with_reducible refine field_mk_map (by assumption) ?_; intro _ h; exact furrow_mk h)
    | with_reducible exact sound_zipMap (by assumption) fun _ _ h => field_mk h
    | with_reducible exact sound_runs (by assumption) (runs_filter (by assumption) _)
    | dsimp only
    | (with_reducible apply field_mk; first | split | with_reducible assumption)
    | (with_reducible apply sound_mk; first | split | with_reducible apply foldl_sound | with_reducible apply State.modField_sound | with_reducible apply State.newNonce_sound | with_reducible apply State.servePool_sound | with_reducible apply State.modField_sound | with_reducible apply State.modFields_sound | with_reducible apply State.modPkg_sound | with_reducible apply State.modInst_sound | with_reducible apply State.modCmd_sound)

theorem execLeafSeedRequest_sound (field : Nat) (acre : Nat) {s : State} (hs : s.Sound) : Keeps (execLeafSeedRequest field acre s) := by
  unfold execLeafSeedRequest
  apply keeps_next
  repeat' first
    | with_reducible apply State.modField_sound
    | with_reducible apply State.steep_sound
    | with_reducible apply State.nextPlace_sound
    | with_reducible apply foldl_sound
    | with_reducible refine of_snd (by with_reducible assumption) ?_
    | with_reducible refine of_fst (by with_reducible assumption) ?_
    | with_reducible refine of_trd (by with_reducible assumption) ?_
    | with_reducible assumption
    | split
    | intro _
    | with_reducible exact field_mk (by assumption)
    | with_reducible exact sound_mk (by assumption)
    | (with_reducible refine field_mk_map (by assumption) ?_; intro _ h; exact furrow_mk h)
    | with_reducible exact sound_zipMap (by assumption) fun _ _ h => field_mk h
    | with_reducible exact sound_runs (by assumption) (runs_filter (by assumption) _)
    | dsimp only
    | (with_reducible apply field_mk; first | split | with_reducible assumption)
    | (with_reducible apply sound_mk; first | split | with_reducible apply foldl_sound | with_reducible apply State.modField_sound | with_reducible apply State.steep_sound | with_reducible apply State.nextPlace_sound | with_reducible apply State.modField_sound | with_reducible apply State.modFields_sound | with_reducible apply State.modPkg_sound | with_reducible apply State.modInst_sound | with_reducible apply State.modCmd_sound)

theorem execLeafSwitchPoint_sound (field : Nat) (acre : Nat) {s : State} (hs : s.Sound) : Keeps (execLeafSwitchPoint field acre s) := by
  unfold execLeafSwitchPoint
  apply keeps_next
  repeat' first
    | with_reducible apply State.modField_sound
    | with_reducible apply State.endAll_sound
    | with_reducible apply foldl_sound
    | with_reducible refine of_snd (by with_reducible assumption) ?_
    | with_reducible refine of_fst (by with_reducible assumption) ?_
    | with_reducible refine of_trd (by with_reducible assumption) ?_
    | with_reducible assumption
    | split
    | intro _
    | with_reducible exact field_mk (by assumption)
    | with_reducible exact sound_mk (by assumption)
    | (with_reducible refine field_mk_map (by assumption) ?_; intro _ h; exact furrow_mk h)
    | with_reducible exact sound_zipMap (by assumption) fun _ _ h => field_mk h
    | with_reducible exact sound_runs (by assumption) (runs_filter (by assumption) _)
    | dsimp only
    | (with_reducible apply field_mk; first | split | with_reducible assumption)
    | (with_reducible apply sound_mk; first | split | with_reducible apply foldl_sound | with_reducible apply State.modField_sound | with_reducible apply State.endAll_sound | with_reducible apply State.modField_sound | with_reducible apply State.modFields_sound | with_reducible apply State.modPkg_sound | with_reducible apply State.modInst_sound | with_reducible apply State.modCmd_sound)

end Sys2Proof.Machine
end

