-- ==== Sys2Proof/Laws/SoundStores.lean ====
section
/-! SUPPORT. The operations of Stores keep the invariant State.Sound. -/
set_option Elab.async false
set_option linter.unusedTactic false
set_option linter.unreachableTactic false
namespace Sys2Proof.Machine

theorem ucodeVersionDesc_sound : ucodeVersionDesc.Sound where
  body hs _ := hs

theorem execUcodeVersion_sound (r : CmdRec) {s : State} (hs : s.Sound) : Keeps (execUcodeVersion r s) := by
  unfold execUcodeVersion
  apply keeps_next
  repeat' first
    | with_reducible apply runCommand_sound
    | with_reducible apply ucodeVersionDesc_sound
    | with_reducible assumption

theorem ucodePatchStoreDesc_sound : ucodePatchStoreDesc.Sound := by
  unfold ucodePatchStoreDesc
  refine ⟨fun hs c => ?_, fun hs c => ?_, fun hs c => ?_, fun hs c x => ?_, fun hs c => ?_, fun hs c => ?_, fun hs c => ?_⟩ <;> dsimp only
  all_goals
    repeat' first
      | with_reducible apply State.modGran_sound
      | with_reducible apply State.modCmd_sound
      | with_reducible assumption

theorem execUcodePatchStore_sound (r : CmdRec) {s : State} (hs : s.Sound) : Keeps (execUcodePatchStore r s) := by
  unfold execUcodePatchStore
  apply keeps_next
  repeat' first
    | with_reducible apply runCommand_sound
    | with_reducible apply ucodePatchStoreDesc_sound
    | with_reducible assumption

theorem State.putOpen_sound {s : State} (hs : s.Sound) (o : Option OpenImage) : (State.putOpen s o).Sound := by
  unfold State.putOpen
  repeat' first
    | with_reducible apply State.modFields_sound
    | with_reducible apply State.modPkg_sound
    | with_reducible apply FieldSt.putOpen_sound
    | with_reducible apply foldl_sound
    | with_reducible refine of_snd (by with_reducible assumption) ?_
    | with_reducible refine of_fst (by with_reducible assumption) ?_
    | with_reducible refine of_trd (by with_reducible assumption) ?_
    | with_reducible assumption
    | split
    | intro _
    | with_reducible exact field_mk (by assumption)
    | with_reducible exact sound_mk (by assumption)
    | (with_reducible refine field_mk_map (by assumption) ?_; intro _ h; exact furrow_mk h)
    | with_reducible exact sound_zipMap (by assumption) fun _ _ h => field_mk h
    | with_reducible exact sound_runs (by assumption) (runs_filter (by assumption) _)
    | dsimp only
    | (with_reducible apply field_mk; first | split | with_reducible apply FieldSt.putOpen_sound)
    | (with_reducible apply sound_mk; first | split | with_reducible apply foldl_sound | with_reducible apply State.modFields_sound | with_reducible apply State.modPkg_sound | with_reducible apply FieldSt.putOpen_sound | with_reducible apply State.modField_sound | with_reducible apply State.modFields_sound | with_reducible apply State.modPkg_sound | with_reducible apply State.modInst_sound | with_reducible apply State.modCmd_sound)

theorem openLoadDesc_sound : openLoadDesc.Sound := by
  unfold openLoadDesc
  refine ⟨fun hs c => ?_, fun hs c => ?_, fun hs c => ?_, fun hs c x => ?_, fun hs c => ?_, fun hs c => ?_, fun hs c => ?_⟩ <;> dsimp only
  all_goals
    repeat' first
      | with_reducible apply State.modGran_sound
      | with_reducible apply State.modCmd_sound
      | with_reducible apply FieldSt.putOpen_sound
      | with_reducible apply State.putOpen_sound
      | with_reducible apply foldl_sound
      | with_reducible refine of_snd (by with_reducible assumption) ?_
      | with_reducible refine of_fst (by with_reducible assumption) ?_
      | with_reducible refine of_trd (by with_reducible assumption) ?_
      | with_reducible assumption
      | split
      | intro _
      | with_reducible exact field_mk (by assumption)
      | with_reducible exact sound_mk (by assumption)
      | dsimp only

theorem execOpenLoad_sound (r : CmdRec) {s : State} (hs : s.Sound) : Keeps (execOpenLoad r s) := by
  unfold execOpenLoad
  apply keeps_next
  repeat' first
    | with_reducible apply runCommand_sound
    | with_reducible apply openLoadDesc_sound
    | with_reducible assumption

theorem openClearDesc_sound : openClearDesc.Sound := by
  unfold openClearDesc
  refine ⟨fun hs c => ?_, fun hs c => ?_, fun hs c => ?_, fun hs c x => ?_, fun hs c => ?_, fun hs c => ?_, fun hs c => ?_⟩ <;> dsimp only
  all_goals
    repeat' first
      | with_reducible apply State.modGran_sound
      | with_reducible apply State.modCmd_sound
      | with_reducible apply FieldSt.putOpen_sound
      | with_reducible apply State.putOpen_sound
      | with_reducible apply foldl_sound
      | with_reducible refine of_snd (by with_reducible assumption) ?_
      | with_reducible refine of_fst (by with_reducible assumption) ?_
      | with_reducible refine of_trd (by with_reducible assumption) ?_
      | with_reducible assumption
      | split
      | intro _
      | with_reducible exact field_mk (by assumption)
      | with_reducible exact sound_mk (by assumption)
      | dsimp only

theorem execOpenClear_sound (r : CmdRec) {s : State} (hs : s.Sound) : Keeps (execOpenClear r s) := by
  unfold execOpenClear
  apply keeps_next
  repeat' first
    | with_reducible apply runCommand_sound
    | with_reducible apply openClearDesc_sound
    | with_reducible assumption

theorem State.dropMade_sound {s : State} (hs : s.Sound) (x : Nat × Nat) : (State.dropMade s x).Sound := by
  unfold State.dropMade
  repeat' first
    | with_reducible apply State.destroyKey_sound
    | with_reducible apply State.dropSa_sound
    | with_reducible apply State.dropIke_sound
    | with_reducible apply State.dropImage_sound
    | with_reducible apply foldl_sound
    | with_reducible refine of_snd (by with_reducible assumption) ?_
    | with_reducible refine of_fst (by with_reducible assumption) ?_
    | with_reducible refine of_trd (by with_reducible assumption) ?_
    | with_reducible assumption
    | split
    | intro _
    | with_reducible exact field_mk (by assumption)
    | with_reducible exact sound_mk (by assumption)
    | (with_reducible refine field_mk_map (by assumption) ?_; intro _ h; exact furrow_mk h)
    | with_reducible exact sound_zipMap (by assumption) fun _ _ h => field_mk h
    | with_reducible exact sound_runs (by assumption) (runs_filter (by assumption) _)
    | dsimp only
    | (with_reducible apply field_mk; first | split | with_reducible assumption)
    | (with_reducible apply sound_mk; first | split | with_reducible apply foldl_sound | with_reducible apply State.destroyKey_sound | with_reducible apply State.dropSa_sound | with_reducible apply State.dropIke_sound | with_reducible apply State.dropImage_sound | with_reducible apply State.modField_sound | with_reducible apply State.modFields_sound | with_reducible apply State.modPkg_sound | with_reducible apply State.modInst_sound | with_reducible apply State.modCmd_sound)

theorem State.machineCheck_sound {s : State} (hs : s.Sound) (field : Nat) : (s.machineCheck field).Sound := by
  unfold State.machineCheck
  dsimp only
  apply foldl_sound
  · apply State.modField_sound
    · have h := State.endAll_sound (State.modField_sound hs field (g := fun x =>
        { x with mcheck := true, faults := (x.faults.filter fun t => s.clock.time < t + 60000000000) ++ [s.clock.time] }) fun _ h => h)
        (s.cmds.filter fun c => !c.isDone && (c.field == some field || c.field2 == some field)) .machineCheck
      exact sound_runs h (runs_filter h _)
    · exact fun _ hx => furrows_map hx fun _ => Furrow.stop_sound
  · exact fun _ _ h => State.dropMade_sound h _

theorem execParityError_sound (field : Nat) (word : Nat) {s : State} (hs : s.Sound) : Keeps (execParityError field word s) := by
  unfold execParityError
  apply keeps_next
  repeat' first | with_reducible apply State.machineCheck_sound | with_reducible assumption | split

theorem execControlStoreReloadDone_sound (field : Nat) {s : State} (hs : s.Sound) : Keeps (execControlStoreReloadDone field s) := by
  unfold execControlStoreReloadDone
  apply keeps_next
  repeat' first
    | with_reducible apply State.modField_sound
    | with_reducible apply State.raise_sound
    | with_reducible apply State.alarm_sound
    | with_reducible apply State.reloadStore_sound
    | with_reducible apply foldl_sound
    | with_reducible refine of_snd (by with_reducible assumption) ?_
    | with_reducible refine of_fst (by with_reducible assumption) ?_
    | with_reducible refine of_trd (by with_reducible assumption) ?_
    | with_reducible assumption
    | split
    | intro _
    | with_reducible exact field_mk (by assumption)
    | with_reducible exact sound_mk (by assumption)
    | (with_reducible refine field_mk_map (by assumption) ?_; intro _ h; exact furrow_mk h)
    | with_reducible exact sound_zipMap (by assumption) fun _ _ h => field_mk h
    | with_reducible exact sound_runs (by assumption) (runs_filter (by assumption) _)
    | dsimp only
    | (with_reducible apply field_mk; first | split | with_reducible assumption)
    | (with_reducible apply sound_mk; first | split | with_reducible apply foldl_sound | with_reducible apply State.modField_sound | with_reducible apply State.raise_sound | with_reducible apply State.alarm_sound | with_reducible apply State.reloadStore_sound | with_reducible apply State.modField_sound | with_reducible apply State.modFields_sound | with_reducible apply State.modPkg_sound | with_reducible apply State.modInst_sound | with_reducible apply State.modCmd_sound)

theorem execControlStoreScrub_sound (field : Nat) (bad : Bool) {s : State} (hs : s.Sound) : Keeps (execControlStoreScrub field bad s) := by
  unfold execControlStoreScrub
  apply keeps_next
  repeat' first
    | with_reducible apply State.modField_sound
    | with_reducible apply State.log_sound
    | with_reducible apply State.repairWord_sound
    | with_reducible apply foldl_sound
    | with_reducible refine of_snd (by with_reducible assumption) ?_
    | with_reducible refine of_fst (by with_reducible assumption) ?_
    | with_reducible refine of_trd (by with_reducible assumption) ?_
    | with_reducible assumption
    | split
    | intro _
    | with_reducible exact field_mk (by assumption)
    | with_reducible exact sound_mk (by assumption)
    | (with_reducible refine field_mk_map (by assumption) ?_; intro _ h; exact furrow_mk h)
    | with_reducible exact sound_zipMap (by assumption) fun _ _ h => field_mk h
    | with_reducible exact sound_runs (by assumption) (runs_filter (by assumption) _)
    | dsimp only
    | (with_reducible apply field_mk; first | split | with_reducible assumption)
    | (with_reducible apply sound_mk; first | split | with_reducible apply foldl_sound | with_reducible apply State.modField_sound | with_reducible apply State.log_sound | with_reducible apply State.repairWord_sound | with_reducible apply State.modField_sound | with_reducible apply State.modFields_sound | with_reducible apply State.modPkg_sound | with_reducible apply State.modInst_sound | with_reducible apply State.modCmd_sound)

end Sys2Proof.Machine
end

