-- ==== Sys2Proof/Laws/SoundMemory.lean ====
section
/-! SUPPORT. The operations of Memory keep the invariant State.Sound. -/
set_option Elab.async false
set_option linter.unusedTactic false
set_option linter.unreachableTactic false
namespace Sys2Proof.Machine

theorem execGddr6Refresh_sound (field : Nat) (channel : Nat) {s : State} (hs : s.Sound) : Keeps (execGddr6Refresh field channel s) := by
  unfold execGddr6Refresh
  apply keeps_next
  repeat' first
    | with_reducible apply State.modField_sound
    | with_reducible assumption
    | split
    | intro _
    | with_reducible exact field_mk (by assumption)

theorem execGddr6TemperatureRead_sound (field : Nat) (celsius : Int) {s : State} (hs : s.Sound) : Keeps (execGddr6TemperatureRead field celsius s) := by
  unfold execGddr6TemperatureRead
  apply keeps_next
  repeat' first
    | with_reducible apply State.modField_sound
    | with_reducible assumption
    | split
    | intro _
    | with_reducible exact field_mk (by assumption)

theorem State.retrain_sound {s : State} (hs : s.Sound) (f : Nat) : (State.retrain s f).Sound := by
  unfold State.retrain
  repeat' first
    | with_reducible apply State.modField_sound
    | with_reducible assumption
    | intro _
    | with_reducible exact field_mk (by assumption)

theorem execRetrainDue_sound (field : Nat) (queued : Bool) {s : State} (hs : s.Sound) : Keeps (execRetrainDue field queued s) := by
  unfold execRetrainDue
  apply keeps_next
  repeat' first
    | with_reducible apply State.modField_sound
    | with_reducible apply State.retrain_sound
    | with_reducible assumption
    | split
    | intro _
    | with_reducible exact field_mk (by assumption)

theorem execRetrainDeferLimit_sound (field : Nat) {s : State} (hs : s.Sound) : Keeps (execRetrainDeferLimit field s) := by
  unfold execRetrainDeferLimit
  apply keeps_next
  repeat' first | with_reducible apply State.retrain_sound | with_reducible assumption | split

theorem State.poisonPage_sound {s : State} (hs : s.Sound) (f : Nat) (p : Nat) : (State.poisonPage s f p).Sound := by
  unfold State.poisonPage
  repeat' first
    | with_reducible apply State.modField_sound
    | with_reducible apply FieldSt.putPage_sound
    | with_reducible assumption
    | intro _

theorem execEdcFailure_sound (e : EdcFault) {s : State} (hs : s.Sound) : Keeps (execEdcFailure e s) := by
  unfold execEdcFailure
  apply keeps_next
  repeat' first
    | with_reducible apply State.log_sound
    | with_reducible apply State.retrain_sound
    | with_reducible apply State.poisonPage_sound
    | with_reducible apply State.machineCheck_sound
    | with_reducible apply State.raise_sound
    | with_reducible apply State.complete_sound
    | with_reducible assumption
    | split

theorem FieldSt.advanceSweep_sound {x : FieldSt} (hx : x.Sound) : (FieldSt.advanceSweep x).Sound := by
  unfold FieldSt.advanceSweep
  repeat' first | split | with_reducible exact field_mk (by assumption)

theorem State.degrade_sound {s : State} (hs : s.Sound) (f : Nat) (p : Nat) (symbols : Nat) : (State.degrade s f p symbols).Sound := by
  unfold State.degrade
  repeat' first
    | with_reducible apply State.modField_sound
    | with_reducible apply FieldSt.putPage_sound
    | with_reducible assumption
    | split
    | intro _

theorem execHarrowVisit_sound (field : Nat) (symbols : Nat) (verifyBad : Bool) {s : State} (hs : s.Sound) : Keeps (execHarrowVisit field symbols verifyBad s) := by
  unfold execHarrowVisit
  apply keeps_next
  repeat' first
    | with_reducible apply State.modField_sound
    | with_reducible apply FieldSt.putPage_sound
    | with_reducible apply State.readPage_sound
    | with_reducible apply State.degrade_sound
    | with_reducible apply FieldSt.advanceSweep_sound
    | with_reducible refine of_snd (by with_reducible assumption) ?_
    | with_reducible assumption
    | split
    | intro _
    | with_reducible exact field_mk (by assumption)
    | dsimp only

theorem State.noSpare_sound {s : State} (hs : s.Sound) (f : Nat) (p : Nat) : (State.noSpare s f p).Sound := by
  unfold State.noSpare
  repeat' first
    | with_reducible apply State.withdraw_sound
    | with_reducible apply State.modField_sound
    | with_reducible apply FieldSt.putPage_sound
    | with_reducible assumption
    | split
    | intro _
    | with_reducible exact field_mk (by assumption)
    | dsimp only

theorem execPageRetirement_sound (field : Nat) (page : Nat) (spareBad : Bool) (recordBad : Bool) {s : State} (hs : s.Sound) : Keeps (execPageRetirement field page spareBad recordBad s) := by
  unfold execPageRetirement
  apply keeps_next
  repeat' first
    | with_reducible apply State.noSpare_sound
    | with_reducible apply State.modField_sound
    | with_reducible apply State.fresh_sound
    | with_reducible apply State.log_sound
    | with_reducible apply FieldSt.putPage_sound
    | with_reducible apply State.modGran_sound
    | with_reducible apply State.raise_sound
    | with_reducible refine of_snd (by with_reducible assumption) ?_
    | with_reducible assumption
    | split
    | intro _
    | with_reducible exact field_mk (by assumption)
    | dsimp only
    | (with_reducible apply field_mk; first | split | with_reducible apply FieldSt.putPage_sound)

theorem execMergeIdleTimer_sound (field : Nat) (page : Nat) {s : State} (hs : s.Sound) : Keeps (execMergeIdleTimer field page s) := by
  unfold execMergeIdleTimer
  apply keeps_next
  repeat' first | with_reducible apply State.commitMerge_sound | with_reducible assumption | split

theorem pageMetaDesc_sound : pageMetaDesc.Sound where
  body hs _ := hs

theorem execPageMeta_sound (r : CmdRec) {s : State} (hs : s.Sound) : Keeps (execPageMeta r s) := by
  unfold execPageMeta
  apply keeps_next
  repeat' first
    | with_reducible apply runCommand_sound
    | with_reducible apply pageMetaDesc_sound
    | with_reducible assumption

end Sys2Proof.Machine
end

