-- ==== Sys2Proof/Laws/SoundTunnel.lean ====
section
/-! SUPPORT. The operations of Tunnel keep the invariant State.Sound. -/
set_option Elab.async false
set_option linter.unusedTactic false
set_option linter.unreachableTactic false
namespace Sys2Proof.Machine

theorem State.putIke_sound {s : State} (hs : s.Sound) (k : Ike) : (State.putIke s k).Sound := by
  unfold State.putIke
  repeat' first
    | with_reducible apply State.fullWrite_sound
    | with_reducible apply foldl_sound
    | with_reducible refine of_snd (by with_reducible assumption) ?_
    | with_reducible refine of_fst (by with_reducible assumption) ?_
    | with_reducible refine of_trd (by with_reducible assumption) ?_
    | with_reducible assumption
    | split
    | intro _
    | with_reducible exact field_mk (by assumption)
    | with_reducible exact sound_mk (by assumption)
    | (with_reducible refine field_mk_map (by assumption) ?_; intro _ h; exact furrow_mk h)
    | with_reducible exact sound_zipMap (by assumption) fun _ _ h => field_mk h
    | with_reducible exact sound_runs (by assumption) (runs_filter (by assumption) _)
    | dsimp only
    | (with_reducible apply field_mk; first | split | with_reducible assumption)
    | (with_reducible apply sound_mk; first | split | with_reducible apply foldl_sound | with_reducible apply State.fullWrite_sound | with_reducible apply State.modField_sound | with_reducible apply State.modFields_sound | with_reducible apply State.modPkg_sound | with_reducible apply State.modInst_sound | with_reducible apply State.modCmd_sound)

theorem State.readIke_sound {s : State} (hs : s.Sound) (c : Cmd) (k : Ike) : (State.readIke s c k).2.Sound := by
  unfold State.readIke
  repeat' first | with_reducible apply State.readBlob_sound | with_reducible assumption

theorem State.tkEnd_sound {s : State} (hs : s.Sound) (k : Ike) (outcome : Nat) (notify : optParam Nat 0) (out : optParam Bytes []) (info : optParam Bytes []) (child : optParam Bytes []) : (State.tkEnd s k outcome notify out info child).1.Sound := by
  unfold State.tkEnd
  repeat' first | with_reducible apply State.putIke_sound | with_reducible assumption

theorem State.tkSame_sound {s : State} (hs : s.Sound) (k : Ike) (outcome : Nat) (out : Bytes) : (State.tkSame s k outcome out).1.Sound := by
  unfold State.tkSame
  repeat' first

    | with_reducible apply foldl_sound
    | with_reducible refine of_snd (by with_reducible assumption) ?_
    | with_reducible refine of_fst (by with_reducible assumption) ?_
    | with_reducible refine of_trd (by with_reducible assumption) ?_
    | with_reducible assumption
    | split
    | intro _
    | with_reducible exact field_mk (by assumption)
    | with_reducible exact sound_mk (by assumption)
    | (with_reducible refine field_mk_map (by assumption) ?_; intro _ h; exact furrow_mk h)
    | with_reducible exact sound_zipMap (by assumption) fun _ _ h => field_mk h
    | with_reducible exact sound_runs (by assumption) (runs_filter (by assumption) _)
    | dsimp only
    | (with_reducible apply field_mk; first | split | with_reducible assumption)
    | (with_reducible apply sound_mk; first | split | with_reducible apply foldl_sound | with_reducible apply State.modField_sound | with_reducible apply State.modFields_sound | with_reducible apply State.modPkg_sound | with_reducible apply State.modInst_sound | with_reducible apply State.modCmd_sound)

theorem State.tkReject_sound {s : State} (hs : s.Sound) (k : Ike) (notify : Nat) (out : optParam Bytes []) : (State.tkReject s k notify out).1.Sound := by
  unfold State.tkReject
  repeat' first | with_reducible apply State.dropIke_sound | with_reducible assumption

theorem execServiceBufferSpaceFree_sound {s : State} (hs : s.Sound) : Keeps (execServiceBufferSpaceFree s) := by
  unfold execServiceBufferSpaceFree
  apply keeps_next
  repeat' first
    | with_reducible apply State.settlePause_sound
    | with_reducible apply foldl_sound
    | with_reducible refine of_snd (by with_reducible assumption) ?_
    | with_reducible refine of_fst (by with_reducible assumption) ?_
    | with_reducible refine of_trd (by with_reducible assumption) ?_
    | with_reducible assumption
    | split
    | intro _
    | with_reducible exact field_mk (by assumption)
    | with_reducible exact sound_mk (by assumption)
    | (with_reducible refine field_mk_map (by assumption) ?_; intro _ h; exact furrow_mk h)
    | with_reducible exact sound_zipMap (by assumption) fun _ _ h => field_mk h
    | with_reducible exact sound_runs (by assumption) (runs_filter (by assumption) _)
    | dsimp only
    | (with_reducible apply field_mk; first | split | with_reducible assumption)
    | (with_reducible apply sound_mk; first | split | with_reducible apply foldl_sound | with_reducible apply State.settlePause_sound | with_reducible apply State.modField_sound | with_reducible apply State.modFields_sound | with_reducible apply State.modPkg_sound | with_reducible apply State.modInst_sound | with_reducible apply State.modCmd_sound)

theorem State.makeChild_sound {s : State} (hs : s.Sound) (c : Cmd) (k : Ike) (spiIn : Nat) (spiOut : Nat) (began : Bool) (replace : Bool) : (State.makeChild s c k spiIn spiOut began replace).2.2.Sound := by
  unfold State.makeChild
  repeat' first
    | with_reducible apply State.drop_sound
    | with_reducible apply State.addKey_sound
    | with_reducible apply State.addSa_sound
    | with_reducible apply foldl_sound
    | with_reducible refine of_snd (by with_reducible assumption) ?_
    | with_reducible refine of_fst (by with_reducible assumption) ?_
    | with_reducible refine of_trd (by with_reducible assumption) ?_
    | with_reducible assumption
    | split
    | intro _
    | with_reducible exact field_mk (by assumption)
    | with_reducible exact sound_mk (by assumption)
    | (with_reducible refine field_mk_map (by assumption) ?_; intro _ h; exact furrow_mk h)
    | with_reducible exact sound_zipMap (by assumption) fun _ _ h => field_mk h
    | with_reducible exact sound_runs (by assumption) (runs_filter (by assumption) _)
    | dsimp only
    | (with_reducible apply field_mk; first | split | with_reducible assumption)
    | (with_reducible apply sound_mk; first | split | with_reducible apply foldl_sound | with_reducible apply State.drop_sound | with_reducible apply State.addKey_sound | with_reducible apply State.addSa_sound | with_reducible apply State.modField_sound | with_reducible apply State.modFields_sound | with_reducible apply State.modPkg_sound | with_reducible apply State.modInst_sound | with_reducible apply State.modCmd_sound)

theorem State.retireChild_sound {s : State} (hs : s.Sound) (k : Ike) (x : Child) : (State.retireChild s k x).2.Sound := by
  unfold State.retireChild
  repeat' first | with_reducible apply State.dropChild_sound | with_reducible assumption

theorem State.retireChildren_sound {s : State} (hs : s.Sound) (k : Ike) (xs : List Child) : (State.retireChildren s k xs).2.Sound := by
  unfold State.retireChildren
  repeat' first
    | with_reducible apply State.retireChild_sound
    | with_reducible apply foldl_sound_snd
    | with_reducible assumption
    | intro _

theorem State.openIke_sound {s : State} (hs : s.Sound) (c : Cmd) (h : Nat) (i : Nat) : (State.openIke s c h i).2.Sound := by
  unfold State.openIke
  repeat' first
    | with_reducible apply State.allocPages_sound
    | with_reducible apply State.modCmd_sound
    | with_reducible assumption
    | split
    | intro _
    | with_reducible exact field_mk (by assumption)
    | dsimp only
    | (with_reducible apply sound_mk; first | split | with_reducible apply foldl_sound | with_reducible apply State.allocPages_sound | with_reducible apply State.modField_sound | with_reducible apply State.modCmd_sound | with_reducible apply State.modFields_sound | with_reducible apply State.modPkg_sound | with_reducible apply State.modInst_sound)

theorem tkOpenBody_sound {s : State} (hs : s.Sound) (c : Cmd) : (tkOpenBody s c).1.Sound := by
  unfold tkOpenBody
  repeat' first
    | with_reducible apply State.tkEnd_sound
    | with_reducible apply State.tkReject_sound
    | with_reducible apply State.modField_sound
    | with_reducible apply State.modCmd_sound
    | with_reducible assumption
    | cases ‹(_, _) = (_, _)›
    | split
    | intro _
    | with_reducible exact field_mk (by assumption)
    | dsimp only
    | (with_reducible apply sound_mk; first | split | with_reducible apply foldl_sound | with_reducible apply State.openIke_sound | with_reducible apply State.tkEnd_sound | with_reducible apply State.tkReject_sound | with_reducible apply State.modField_sound | with_reducible apply State.modFields_sound | with_reducible apply State.modPkg_sound | with_reducible apply State.modInst_sound | with_reducible apply State.modCmd_sound)

theorem tkOpenDesc_sound : tkOpenDesc.Sound := by
  unfold tkOpenDesc
  refine ⟨fun hs c => ?_, fun hs c => ?_, fun hs c => ?_, fun hs c x => ?_, fun hs c => ?_, fun hs c => ?_, fun hs c => ?_⟩ <;> dsimp only
  all_goals
    repeat' first | with_reducible apply tkOpenBody_sound | with_reducible assumption

theorem execTkOpen_sound (r : CmdRec) {s : State} (hs : s.Sound) : Keeps (execTkOpen r s) := by
  unfold execTkOpen
  apply keeps_next
  repeat' first | with_reducible apply runCommand_sound | with_reducible apply tkOpenDesc_sound | with_reducible assumption

theorem State.initiatorChild_sound {s : State} (hs : s.Sound) (c : Cmd) (k : Ike) (ps : List (Nat × Bytes)) (info : Bytes) : (State.initiatorChild s c k ps info).1.Sound := by
  unfold State.initiatorChild
  repeat' first
    | with_reducible apply State.request_sound
    | with_reducible apply State.tkEnd_sound
    | with_reducible apply State.makeChild_sound
    | with_reducible apply foldl_sound
    | with_reducible refine of_snd (by with_reducible assumption) ?_
    | with_reducible refine of_fst (by with_reducible assumption) ?_
    | with_reducible refine of_trd (by with_reducible assumption) ?_
    | with_reducible assumption
    | split
    | intro _
    | with_reducible exact field_mk (by assumption)
    | with_reducible exact sound_mk (by assumption)
    | (with_reducible refine field_mk_map (by assumption) ?_; intro _ h; exact furrow_mk h)
    | with_reducible exact sound_zipMap (by assumption) fun _ _ h => field_mk h
    | with_reducible exact sound_runs (by assumption) (runs_filter (by assumption) _)
    | dsimp only
    | (with_reducible apply field_mk; first | split | with_reducible assumption)
    | (with_reducible apply sound_mk; first | split | with_reducible apply foldl_sound | with_reducible apply State.request_sound | with_reducible apply State.tkEnd_sound | with_reducible apply State.makeChild_sound | with_reducible apply State.modField_sound | with_reducible apply State.modFields_sound | with_reducible apply State.modPkg_sound | with_reducible apply State.modInst_sound | with_reducible apply State.modCmd_sound)

theorem State.answerChild_sound {s : State} (hs : s.Sound) (c : Cmd) (k : Ike) (m : Bytes) (ps : List (Nat × Bytes)) : (State.answerChild s c k m ps).1.Sound := by
  unfold State.answerChild
  repeat' first
    | with_reducible apply State.drop_sound
    | with_reducible apply State.tkEnd_sound
    | with_reducible apply State.makeChild_sound
    | with_reducible apply foldl_sound
    | with_reducible refine of_snd (by with_reducible assumption) ?_
    | with_reducible refine of_fst (by with_reducible assumption) ?_
    | with_reducible refine of_trd (by with_reducible assumption) ?_
    | with_reducible assumption
    | split
    | intro _
    | with_reducible exact field_mk (by assumption)
    | with_reducible exact sound_mk (by assumption)
    | (with_reducible refine field_mk_map (by assumption) ?_; intro _ h; exact furrow_mk h)
    | with_reducible exact sound_zipMap (by assumption) fun _ _ h => field_mk h
    | with_reducible exact sound_runs (by assumption) (runs_filter (by assumption) _)
    | dsimp only
    | (with_reducible apply field_mk; first | split | with_reducible assumption)
    | (with_reducible apply sound_mk; first | split | with_reducible apply foldl_sound | with_reducible apply State.drop_sound | with_reducible apply State.tkEnd_sound | with_reducible apply State.makeChild_sound | with_reducible apply State.modField_sound | with_reducible apply State.modFields_sound | with_reducible apply State.modPkg_sound | with_reducible apply State.modInst_sound | with_reducible apply State.modCmd_sound)

theorem State.answerInfo_sound {s : State} (hs : s.Sound) (k : Ike) (m : Bytes) (ps : List (Nat × Bytes)) : (State.answerInfo s k m ps).1.Sound := by
  unfold State.answerInfo
  repeat' first
    | with_reducible apply State.retireChildren_sound
    | with_reducible apply State.tkEnd_sound
    | with_reducible refine of_snd (by with_reducible assumption) ?_
    | with_reducible assumption
    | cases ‹(_, _) = (_, _)›
    | split
    | dsimp only

theorem State.finishRekey_sound {s : State} (hs : s.Sound) (c : Cmd) (k : Ike) (m : Bytes) (ps : List (Nat × Bytes)) : (State.finishRekey s c k m ps).1.Sound := by
  unfold State.finishRekey
  repeat' first
    | with_reducible apply State.request_sound
    | with_reducible apply State.tkEnd_sound
    | with_reducible apply State.makeChild_sound
    | with_reducible apply foldl_sound
    | with_reducible refine of_snd (by with_reducible assumption) ?_
    | with_reducible refine of_fst (by with_reducible assumption) ?_
    | with_reducible refine of_trd (by with_reducible assumption) ?_
    | with_reducible assumption
    | split
    | intro _
    | with_reducible exact field_mk (by assumption)
    | with_reducible exact sound_mk (by assumption)
    | (with_reducible refine field_mk_map (by assumption) ?_; intro _ h; exact furrow_mk h)
    | with_reducible exact sound_zipMap (by assumption) fun _ _ h => field_mk h
    | with_reducible exact sound_runs (by assumption) (runs_filter (by assumption) _)
    | dsimp only
    | (with_reducible apply field_mk; first | split | with_reducible assumption)
    | (with_reducible apply sound_mk; first | split | with_reducible apply foldl_sound | with_reducible apply State.request_sound | with_reducible apply State.tkEnd_sound | with_reducible apply State.makeChild_sound | with_reducible apply State.modField_sound | with_reducible apply State.modFields_sound | with_reducible apply State.modPkg_sound | with_reducible apply State.modInst_sound | with_reducible apply State.modCmd_sound)

theorem State.tkProceed_sound {s : State} (hs : s.Sound) (c : Cmd) (k : Ike) (m : Bytes) (ps : List (Nat × Bytes)) : (State.tkProceed s c k m ps).1.Sound := by
  unfold State.tkProceed
  repeat' first
    | with_reducible apply State.tkEnd_sound
    | with_reducible apply State.initiatorChild_sound
    | with_reducible apply State.finishRekey_sound
    | with_reducible apply State.answerChild_sound
    | with_reducible apply State.answerInfo_sound
    | with_reducible assumption
    | split
    | dsimp only

theorem State.tkAgain_sound {s : State} (hs : s.Sound) (k : Ike) (ps : List (Nat × Bytes)) : (State.tkAgain s k ps).1.Sound := by
  unfold State.tkAgain
  repeat' first | with_reducible apply State.tkEnd_sound | with_reducible assumption | split

theorem tkStepBody_sound {s : State} (hs : s.Sound) (c : Cmd) : (tkStepBody s c).1.Sound := by
  unfold tkStepBody
  repeat' first
    | with_reducible apply State.readIke_sound
    | with_reducible apply State.tkSame_sound
    | with_reducible apply State.tkReject_sound
    | with_reducible apply State.tkProceed_sound
    | with_reducible apply State.tkAgain_sound
    | with_reducible apply foldl_sound
    | with_reducible refine of_snd (by with_reducible assumption) ?_
    | with_reducible refine of_fst (by with_reducible assumption) ?_
    | with_reducible refine of_trd (by with_reducible assumption) ?_
    | with_reducible assumption
    | split
    | intro _
    | with_reducible exact field_mk (by assumption)
    | with_reducible exact sound_mk (by assumption)
    | (with_reducible refine field_mk_map (by assumption) ?_; intro _ h; exact furrow_mk h)
    | with_reducible exact sound_zipMap (by assumption) fun _ _ h => field_mk h
    | with_reducible exact sound_runs (by assumption) (runs_filter (by assumption) _)
    | dsimp only
    | (with_reducible apply field_mk; first | split | with_reducible assumption)
    | (with_reducible apply sound_mk; first | split | with_reducible apply foldl_sound | with_reducible apply State.readIke_sound | with_reducible apply State.tkSame_sound | with_reducible apply State.tkReject_sound | with_reducible apply State.tkProceed_sound | with_reducible apply State.tkAgain_sound | with_reducible apply State.modField_sound | with_reducible apply State.modFields_sound | with_reducible apply State.modPkg_sound | with_reducible apply State.modInst_sound | with_reducible apply State.modCmd_sound)

theorem tkStepDesc_sound : tkStepDesc.Sound := by
  unfold tkStepDesc
  refine ⟨fun hs c => ?_, fun hs c => ?_, fun hs c => ?_, fun hs c x => ?_, fun hs c => ?_, fun hs c => ?_, fun hs c => ?_⟩ <;> dsimp only
  all_goals
    repeat' first
      | with_reducible apply tkStepBody_sound
      | with_reducible apply State.touchIke_sound
      | with_reducible assumption

theorem execTkStep_sound (r : CmdRec) {s : State} (hs : s.Sound) : Keeps (execTkStep r s) := by
  unfold execTkStep
  apply keeps_next
  repeat' first | with_reducible apply runCommand_sound | with_reducible apply tkStepDesc_sound | with_reducible assumption

theorem State.decideAnswer_sound {s : State} (hs : s.Sound) (c : Cmd) (k : Ike) : (State.decideAnswer s c k).1.Sound := by
  unfold State.decideAnswer
  repeat' first
    | with_reducible apply State.tkEnd_sound
    | with_reducible apply State.makeChild_sound
    | with_reducible apply foldl_sound
    | with_reducible refine of_snd (by with_reducible assumption) ?_
    | with_reducible refine of_fst (by with_reducible assumption) ?_
    | with_reducible refine of_trd (by with_reducible assumption) ?_
    | with_reducible assumption
    | split
    | intro _
    | with_reducible exact field_mk (by assumption)
    | with_reducible exact sound_mk (by assumption)
    | (with_reducible refine field_mk_map (by assumption) ?_; intro _ h; exact furrow_mk h)
    | with_reducible exact sound_zipMap (by assumption) fun _ _ h => field_mk h
    | with_reducible exact sound_runs (by assumption) (runs_filter (by assumption) _)
    | dsimp only
    | (with_reducible apply field_mk; first | split | with_reducible assumption)
    | (with_reducible apply sound_mk; first | split | with_reducible apply foldl_sound | with_reducible apply State.tkEnd_sound | with_reducible apply State.makeChild_sound | with_reducible apply State.modField_sound | with_reducible apply State.modFields_sound | with_reducible apply State.modPkg_sound | with_reducible apply State.modInst_sound | with_reducible apply State.modCmd_sound)

theorem tkDecideBody_sound {s : State} (hs : s.Sound) (c : Cmd) : (tkDecideBody s c).1.Sound := by
  unfold tkDecideBody
  repeat' first
    | with_reducible apply State.readIke_sound
    | with_reducible apply State.tkReject_sound
    | with_reducible apply State.decideAnswer_sound
    | with_reducible apply State.tkEnd_sound
    | with_reducible apply State.initiatorChild_sound
    | with_reducible refine of_snd (by with_reducible assumption) ?_
    | with_reducible assumption
    | split
    | dsimp only

theorem tkDecideDesc_sound : tkDecideDesc.Sound := by
  unfold tkDecideDesc
  refine ⟨fun hs c => ?_, fun hs c => ?_, fun hs c => ?_, fun hs c x => ?_, fun hs c => ?_, fun hs c => ?_, fun hs c => ?_⟩ <;> dsimp only
  all_goals
    repeat' first
      | with_reducible apply tkDecideBody_sound
      | with_reducible apply State.touchIke_sound
      | with_reducible assumption

theorem execTkDecide_sound (r : CmdRec) {s : State} (hs : s.Sound) : Keeps (execTkDecide r s) := by
  unfold execTkDecide
  apply keeps_next
  repeat' first
    | with_reducible apply runCommand_sound
    | with_reducible apply tkDecideDesc_sound
    | with_reducible assumption

theorem tkSendBody_sound {s : State} (hs : s.Sound) (c : Cmd) : (tkSendBody s c).1.Sound := by
  unfold tkSendBody
  repeat' first
    | with_reducible apply State.drop_sound
    | with_reducible apply State.request_sound
    | with_reducible apply State.readIke_sound
    | with_reducible apply State.tkEnd_sound
    | with_reducible apply State.tkSame_sound
    | with_reducible apply State.retireChild_sound
    | with_reducible apply State.retireChildren_sound
    | with_reducible apply foldl_sound
    | with_reducible refine of_snd (by with_reducible assumption) ?_
    | with_reducible refine of_fst (by with_reducible assumption) ?_
    | with_reducible refine of_trd (by with_reducible assumption) ?_
    | with_reducible assumption
    | split
    | intro _
    | with_reducible exact field_mk (by assumption)
    | with_reducible exact sound_mk (by assumption)
    | (with_reducible refine field_mk_map (by assumption) ?_; intro _ h; exact furrow_mk h)
    | with_reducible exact sound_zipMap (by assumption) fun _ _ h => field_mk h
    | with_reducible exact sound_runs (by assumption) (runs_filter (by assumption) _)
    | dsimp only
    | (with_reducible apply field_mk; first | split | with_reducible assumption)
    | (with_reducible apply sound_mk; first | split | with_reducible apply foldl_sound | with_reducible apply State.drop_sound | with_reducible apply State.request_sound | with_reducible apply State.readIke_sound | with_reducible apply State.tkEnd_sound | with_reducible apply State.tkSame_sound | with_reducible apply State.retireChild_sound | with_reducible apply State.retireChildren_sound | with_reducible apply State.modField_sound | with_reducible apply State.modFields_sound | with_reducible apply State.modPkg_sound | with_reducible apply State.modInst_sound | with_reducible apply State.modCmd_sound)

theorem tkSendDesc_sound : tkSendDesc.Sound := by
  unfold tkSendDesc
  refine ⟨fun hs c => ?_, fun hs c => ?_, fun hs c => ?_, fun hs c x => ?_, fun hs c => ?_, fun hs c => ?_, fun hs c => ?_⟩ <;> dsimp only
  all_goals
    repeat' first
      | with_reducible apply tkSendBody_sound
      | with_reducible apply State.touchIke_sound
      | with_reducible assumption

theorem execTkSend_sound (r : CmdRec) {s : State} (hs : s.Sound) : Keeps (execTkSend r s) := by
  unfold execTkSend
  apply keeps_next
  repeat' first | with_reducible apply runCommand_sound | with_reducible apply tkSendDesc_sound | with_reducible assumption

theorem tkCloseDesc_sound : tkCloseDesc.Sound := by
  unfold tkCloseDesc
  refine ⟨fun hs c => ?_, fun hs c => ?_, fun hs c => ?_, fun hs c x => ?_, fun hs c => ?_, fun hs c => ?_, fun hs c => ?_⟩ <;> dsimp only
  all_goals
    repeat' first | with_reducible apply State.dropIke_sound | with_reducible assumption

theorem execTkClose_sound (r : CmdRec) {s : State} (hs : s.Sound) : Keeps (execTkClose r s) := by
  unfold execTkClose
  apply keeps_next
  repeat' first | with_reducible apply runCommand_sound | with_reducible apply tkCloseDesc_sound | with_reducible assumption

theorem execTkIdleExpiry_sound (handle : Nat) {s : State} (hs : s.Sound) : Keeps (execTkIdleExpiry handle s) := by
  unfold execTkIdleExpiry
  apply keeps_next
  repeat' first
    | with_reducible apply State.raise_sound
    | with_reducible apply State.dropIke_sound
    | with_reducible assumption
    | split

end Sys2Proof.Machine
end

