-- ==== Sys2Proof/Laws/SoundSheaf.lean ====
section
/-! SUPPORT. The operations of Sheaf keep the invariant State.Sound. -/
set_option Elab.async false
set_option linter.unusedTactic false
set_option linter.unreachableTactic false
namespace Sys2Proof.Machine

theorem sheafSignDesc_sound : sheafSignDesc.Sound where
  body hs _ := hs

theorem execSheafSign_sound (r : CmdRec) {s : State} (hs : s.Sound) : Keeps (execSheafSign r s) := by
  unfold execSheafSign
  apply keeps_next
  repeat' first
    | with_reducible apply runCommand_sound
    | with_reducible apply sheafSignDesc_sound
    | with_reducible assumption

theorem sheafVerifyDesc_sound : sheafVerifyDesc.Sound where
  body hs _ := hs

theorem execSheafVerify_sound (r : CmdRec) {s : State} (hs : s.Sound) : Keeps (execSheafVerify r s) := by
  unfold execSheafVerify
  apply keeps_next
  repeat' first
    | with_reducible apply runCommand_sound
    | with_reducible apply sheafVerifyDesc_sound
    | with_reducible assumption

theorem attestDesc_sound : attestDesc.Sound where
  body hs _ := hs

theorem execAttest_sound (r : CmdRec) {s : State} (hs : s.Sound) : Keeps (execAttest r s) := by
  unfold execAttest
  apply keeps_next
  repeat' first | with_reducible apply runCommand_sound | with_reducible apply attestDesc_sound | with_reducible assumption

theorem attestBootDesc_sound : attestBootDesc.Sound where
  body hs _ := hs

theorem execAttestBoot_sound (r : CmdRec) {s : State} (hs : s.Sound) : Keeps (execAttestBoot r s) := by
  unfold execAttestBoot
  apply keeps_next
  repeat' first
    | with_reducible apply runCommand_sound
    | with_reducible apply attestBootDesc_sound
    | with_reducible assumption

end Sys2Proof.Machine
end

