-- ==== Sys2Proof/Laws/SoundTick.lean ====
section
/-! SUPPORT. The operations of Tick keep the invariant State.Sound. -/
set_option Elab.async false
set_option linter.unusedTactic false
set_option linter.unreachableTactic false
namespace Sys2Proof.Machine

theorem State.passTime_sound {s : State} (hs : s.Sound) : (State.passTime s).Sound := by
  have h : ∀ (c : Clock) (b : Bool) (g : Pkg → Pkg), State.Sound (let t : State := { s with clock := c }
      let t := { t with fields := t.fields.zipIdx.map fun (x, f) => if t.seedTests f then { x with seed := x.seed.sense f c.time } else x }
      if b then t.modPkg g else t) := by
    intro c b g
    have h : State.Sound { s with clock := c, fields := s.fields.zipIdx.map fun (x, f) =>
        if ({ s with clock := c } : State).seedTests f then { x with seed := x.seed.sense f c.time } else x } :=
      sound_mk_zip hs fun x f hx => by
        dsimp only
        split
        · exact field_mk hx
        · exact hx
    cases b
    · exact h
    · exact State.modPkg_sound h ..
  exact h _ _ _

end Sys2Proof.Machine
end

