-- ==== Sys2Proof/Laws/State.lean ====
section
/-! SUPPORT. What each update of the state changes, field by field, so that no proof unfolds one; and the mode word as software reads it. -/
namespace Sys2Proof.Machine

variable (s : State)

/-! ### modField -/

@[simp] theorem State.modField_fuses (f : Nat) (g : FieldSt → FieldSt) : (s.modField f g).fuses = s.fuses := rfl
@[simp] theorem State.modField_gran (f : Nat) (g : FieldSt → FieldSt) : (s.modField f g).gran = s.gran := rfl
@[simp] theorem State.modField_pkg (f : Nat) (g : FieldSt → FieldSt) : (s.modField f g).pkg = s.pkg := rfl
@[simp] theorem State.modField_clock (f : Nat) (g : FieldSt → FieldSt) : (s.modField f g).clock = s.clock := rfl
@[simp] theorem State.modField_power (f : Nat) (g : FieldSt → FieldSt) : (s.modField f g).power = s.power := rfl
@[simp] theorem State.modField_working (f : Nat) (g : FieldSt → FieldSt) : (s.modField f g).working = s.working := rfl
@[simp] theorem State.modField_inForce (f : Nat) (g : FieldSt → FieldSt) : (s.modField f g).inForce = s.inForce := rfl
@[simp] theorem State.modField_ports (f : Nat) (g : FieldSt → FieldSt) : (s.modField f g).ports = s.ports := rfl
@[simp] theorem State.modField_insts (f : Nat) (g : FieldSt → FieldSt) : (s.modField f g).insts = s.insts := rfl
@[simp] theorem State.modField_cmds (f : Nat) (g : FieldSt → FieldSt) : (s.modField f g).cmds = s.cmds := rfl
@[simp] theorem State.modField_xfers (f : Nat) (g : FieldSt → FieldSt) : (s.modField f g).xfers = s.xfers := rfl
@[simp] theorem State.modField_keys (f : Nat) (g : FieldSt → FieldSt) : (s.modField f g).keys = s.keys := rfl
@[simp] theorem State.modField_sas (f : Nat) (g : FieldSt → FieldSt) : (s.modField f g).sas = s.sas := rfl
@[simp] theorem State.modField_ikes (f : Nat) (g : FieldSt → FieldSt) : (s.modField f g).ikes = s.ikes := rfl
@[simp] theorem State.modField_images (f : Nat) (g : FieldSt → FieldSt) : (s.modField f g).images = s.images := rfl
@[simp] theorem State.modField_runs (f : Nat) (g : FieldSt → FieldSt) : (s.modField f g).runs = s.runs := rfl
@[simp] theorem State.modField_fields (f : Nat) (g : FieldSt → FieldSt) : (s.modField f g).fields = s.fields.modify f g := rfl
@[simp] theorem State.modField_tx (f : Nat) (g : FieldSt → FieldSt) : (s.modField f g).tx = s.tx := rfl
@[simp] theorem State.modField_txq (f : Nat) (g : FieldSt → FieldSt) : (s.modField f g).txq = s.txq := rfl
@[simp] theorem State.modField_free (f : Nat) (g : FieldSt → FieldSt) : (s.modField f g).free = s.free := rfl
@[simp] theorem State.modField_pending (f : Nat) (g : FieldSt → FieldSt) : (s.modField f g).pending = s.pending := rfl

/-! ### modFields -/

@[simp] theorem State.modFields_fuses (g : FieldSt → FieldSt) : (s.modFields g).fuses = s.fuses := rfl
@[simp] theorem State.modFields_gran (g : FieldSt → FieldSt) : (s.modFields g).gran = s.gran := rfl
@[simp] theorem State.modFields_pkg (g : FieldSt → FieldSt) : (s.modFields g).pkg = s.pkg := rfl
@[simp] theorem State.modFields_clock (g : FieldSt → FieldSt) : (s.modFields g).clock = s.clock := rfl
@[simp] theorem State.modFields_power (g : FieldSt → FieldSt) : (s.modFields g).power = s.power := rfl
@[simp] theorem State.modFields_working (g : FieldSt → FieldSt) : (s.modFields g).working = s.working := rfl
@[simp] theorem State.modFields_inForce (g : FieldSt → FieldSt) : (s.modFields g).inForce = s.inForce := rfl
@[simp] theorem State.modFields_ports (g : FieldSt → FieldSt) : (s.modFields g).ports = s.ports := rfl
@[simp] theorem State.modFields_insts (g : FieldSt → FieldSt) : (s.modFields g).insts = s.insts := rfl
@[simp] theorem State.modFields_cmds (g : FieldSt → FieldSt) : (s.modFields g).cmds = s.cmds := rfl
@[simp] theorem State.modFields_xfers (g : FieldSt → FieldSt) : (s.modFields g).xfers = s.xfers := rfl
@[simp] theorem State.modFields_keys (g : FieldSt → FieldSt) : (s.modFields g).keys = s.keys := rfl
@[simp] theorem State.modFields_sas (g : FieldSt → FieldSt) : (s.modFields g).sas = s.sas := rfl
@[simp] theorem State.modFields_ikes (g : FieldSt → FieldSt) : (s.modFields g).ikes = s.ikes := rfl
@[simp] theorem State.modFields_images (g : FieldSt → FieldSt) : (s.modFields g).images = s.images := rfl
@[simp] theorem State.modFields_runs (g : FieldSt → FieldSt) : (s.modFields g).runs = s.runs := rfl
@[simp] theorem State.modFields_fields (g : FieldSt → FieldSt) : (s.modFields g).fields = s.fields.map g := rfl
@[simp] theorem State.modFields_tx (g : FieldSt → FieldSt) : (s.modFields g).tx = s.tx := rfl
@[simp] theorem State.modFields_txq (g : FieldSt → FieldSt) : (s.modFields g).txq = s.txq := rfl
@[simp] theorem State.modFields_free (g : FieldSt → FieldSt) : (s.modFields g).free = s.free := rfl
@[simp] theorem State.modFields_pending (g : FieldSt → FieldSt) : (s.modFields g).pending = s.pending := rfl

/-! ### modPkg -/

@[simp] theorem State.modPkg_fuses (g : Pkg → Pkg) : (s.modPkg g).fuses = s.fuses := rfl
@[simp] theorem State.modPkg_gran (g : Pkg → Pkg) : (s.modPkg g).gran = s.gran := rfl
@[simp] theorem State.modPkg_pkg (g : Pkg → Pkg) : (s.modPkg g).pkg = g s.pkg := rfl
@[simp] theorem State.modPkg_clock (g : Pkg → Pkg) : (s.modPkg g).clock = s.clock := rfl
@[simp] theorem State.modPkg_power (g : Pkg → Pkg) : (s.modPkg g).power = s.power := rfl
@[simp] theorem State.modPkg_working (g : Pkg → Pkg) : (s.modPkg g).working = s.working := rfl
@[simp] theorem State.modPkg_inForce (g : Pkg → Pkg) : (s.modPkg g).inForce = s.inForce := rfl
@[simp] theorem State.modPkg_ports (g : Pkg → Pkg) : (s.modPkg g).ports = s.ports := rfl
@[simp] theorem State.modPkg_insts (g : Pkg → Pkg) : (s.modPkg g).insts = s.insts := rfl
@[simp] theorem State.modPkg_cmds (g : Pkg → Pkg) : (s.modPkg g).cmds = s.cmds := rfl
@[simp] theorem State.modPkg_xfers (g : Pkg → Pkg) : (s.modPkg g).xfers = s.xfers := rfl
@[simp] theorem State.modPkg_keys (g : Pkg → Pkg) : (s.modPkg g).keys = s.keys := rfl
@[simp] theorem State.modPkg_sas (g : Pkg → Pkg) : (s.modPkg g).sas = s.sas := rfl
@[simp] theorem State.modPkg_ikes (g : Pkg → Pkg) : (s.modPkg g).ikes = s.ikes := rfl
@[simp] theorem State.modPkg_images (g : Pkg → Pkg) : (s.modPkg g).images = s.images := rfl
@[simp] theorem State.modPkg_runs (g : Pkg → Pkg) : (s.modPkg g).runs = s.runs := rfl
@[simp] theorem State.modPkg_fields (g : Pkg → Pkg) : (s.modPkg g).fields = s.fields := rfl
@[simp] theorem State.modPkg_tx (g : Pkg → Pkg) : (s.modPkg g).tx = s.tx := rfl
@[simp] theorem State.modPkg_txq (g : Pkg → Pkg) : (s.modPkg g).txq = s.txq := rfl
@[simp] theorem State.modPkg_free (g : Pkg → Pkg) : (s.modPkg g).free = s.free := rfl
@[simp] theorem State.modPkg_pending (g : Pkg → Pkg) : (s.modPkg g).pending = s.pending := rfl

/-! ### modGran -/

@[simp] theorem State.modGran_fuses (g : Granary → Granary) : (s.modGran g).fuses = s.fuses := rfl
@[simp] theorem State.modGran_gran (g : Granary → Granary) : (s.modGran g).gran = g s.gran := rfl
@[simp] theorem State.modGran_pkg (g : Granary → Granary) : (s.modGran g).pkg = s.pkg := rfl
@[simp] theorem State.modGran_clock (g : Granary → Granary) : (s.modGran g).clock = s.clock := rfl
@[simp] theorem State.modGran_power (g : Granary → Granary) : (s.modGran g).power = s.power := rfl
@[simp] theorem State.modGran_working (g : Granary → Granary) : (s.modGran g).working = s.working := rfl
@[simp] theorem State.modGran_inForce (g : Granary → Granary) : (s.modGran g).inForce = s.inForce := rfl
@[simp] theorem State.modGran_ports (g : Granary → Granary) : (s.modGran g).ports = s.ports := rfl
@[simp] theorem State.modGran_insts (g : Granary → Granary) : (s.modGran g).insts = s.insts := rfl
@[simp] theorem State.modGran_cmds (g : Granary → Granary) : (s.modGran g).cmds = s.cmds := rfl
@[simp] theorem State.modGran_xfers (g : Granary → Granary) : (s.modGran g).xfers = s.xfers := rfl
@[simp] theorem State.modGran_keys (g : Granary → Granary) : (s.modGran g).keys = s.keys := rfl
@[simp] theorem State.modGran_sas (g : Granary → Granary) : (s.modGran g).sas = s.sas := rfl
@[simp] theorem State.modGran_ikes (g : Granary → Granary) : (s.modGran g).ikes = s.ikes := rfl
@[simp] theorem State.modGran_images (g : Granary → Granary) : (s.modGran g).images = s.images := rfl
@[simp] theorem State.modGran_runs (g : Granary → Granary) : (s.modGran g).runs = s.runs := rfl
@[simp] theorem State.modGran_fields (g : Granary → Granary) : (s.modGran g).fields = s.fields := rfl
@[simp] theorem State.modGran_tx (g : Granary → Granary) : (s.modGran g).tx = s.tx := rfl
@[simp] theorem State.modGran_txq (g : Granary → Granary) : (s.modGran g).txq = s.txq := rfl
@[simp] theorem State.modGran_free (g : Granary → Granary) : (s.modGran g).free = s.free := rfl
@[simp] theorem State.modGran_pending (g : Granary → Granary) : (s.modGran g).pending = s.pending := rfl

/-! ### modClock -/

@[simp] theorem State.modClock_fuses (g : Clock → Clock) : (s.modClock g).fuses = s.fuses := rfl
@[simp] theorem State.modClock_gran (g : Clock → Clock) : (s.modClock g).gran = s.gran := rfl
@[simp] theorem State.modClock_pkg (g : Clock → Clock) : (s.modClock g).pkg = s.pkg := rfl
@[simp] theorem State.modClock_clock (g : Clock → Clock) : (s.modClock g).clock = g s.clock := rfl
@[simp] theorem State.modClock_power (g : Clock → Clock) : (s.modClock g).power = s.power := rfl
@[simp] theorem State.modClock_working (g : Clock → Clock) : (s.modClock g).working = s.working := rfl
@[simp] theorem State.modClock_inForce (g : Clock → Clock) : (s.modClock g).inForce = s.inForce := rfl
@[simp] theorem State.modClock_ports (g : Clock → Clock) : (s.modClock g).ports = s.ports := rfl
@[simp] theorem State.modClock_insts (g : Clock → Clock) : (s.modClock g).insts = s.insts := rfl
@[simp] theorem State.modClock_cmds (g : Clock → Clock) : (s.modClock g).cmds = s.cmds := rfl
@[simp] theorem State.modClock_xfers (g : Clock → Clock) : (s.modClock g).xfers = s.xfers := rfl
@[simp] theorem State.modClock_keys (g : Clock → Clock) : (s.modClock g).keys = s.keys := rfl
@[simp] theorem State.modClock_sas (g : Clock → Clock) : (s.modClock g).sas = s.sas := rfl
@[simp] theorem State.modClock_ikes (g : Clock → Clock) : (s.modClock g).ikes = s.ikes := rfl
@[simp] theorem State.modClock_images (g : Clock → Clock) : (s.modClock g).images = s.images := rfl
@[simp] theorem State.modClock_runs (g : Clock → Clock) : (s.modClock g).runs = s.runs := rfl
@[simp] theorem State.modClock_fields (g : Clock → Clock) : (s.modClock g).fields = s.fields := rfl
@[simp] theorem State.modClock_tx (g : Clock → Clock) : (s.modClock g).tx = s.tx := rfl
@[simp] theorem State.modClock_txq (g : Clock → Clock) : (s.modClock g).txq = s.txq := rfl
@[simp] theorem State.modClock_free (g : Clock → Clock) : (s.modClock g).free = s.free := rfl
@[simp] theorem State.modClock_pending (g : Clock → Clock) : (s.modClock g).pending = s.pending := rfl

/-! ### modPort -/

@[simp] theorem State.modPort_fuses (p : Nat) (g : Port → Port) : (s.modPort p g).fuses = s.fuses := rfl
@[simp] theorem State.modPort_gran (p : Nat) (g : Port → Port) : (s.modPort p g).gran = s.gran := rfl
@[simp] theorem State.modPort_pkg (p : Nat) (g : Port → Port) : (s.modPort p g).pkg = s.pkg := rfl
@[simp] theorem State.modPort_clock (p : Nat) (g : Port → Port) : (s.modPort p g).clock = s.clock := rfl
@[simp] theorem State.modPort_power (p : Nat) (g : Port → Port) : (s.modPort p g).power = s.power := rfl
@[simp] theorem State.modPort_working (p : Nat) (g : Port → Port) : (s.modPort p g).working = s.working := rfl
@[simp] theorem State.modPort_inForce (p : Nat) (g : Port → Port) : (s.modPort p g).inForce = s.inForce := rfl
@[simp] theorem State.modPort_ports (p : Nat) (g : Port → Port) : (s.modPort p g).ports = s.ports.modify p g := rfl
@[simp] theorem State.modPort_insts (p : Nat) (g : Port → Port) : (s.modPort p g).insts = s.insts := rfl
@[simp] theorem State.modPort_cmds (p : Nat) (g : Port → Port) : (s.modPort p g).cmds = s.cmds := rfl
@[simp] theorem State.modPort_xfers (p : Nat) (g : Port → Port) : (s.modPort p g).xfers = s.xfers := rfl
@[simp] theorem State.modPort_keys (p : Nat) (g : Port → Port) : (s.modPort p g).keys = s.keys := rfl
@[simp] theorem State.modPort_sas (p : Nat) (g : Port → Port) : (s.modPort p g).sas = s.sas := rfl
@[simp] theorem State.modPort_ikes (p : Nat) (g : Port → Port) : (s.modPort p g).ikes = s.ikes := rfl
@[simp] theorem State.modPort_images (p : Nat) (g : Port → Port) : (s.modPort p g).images = s.images := rfl
@[simp] theorem State.modPort_runs (p : Nat) (g : Port → Port) : (s.modPort p g).runs = s.runs := rfl
@[simp] theorem State.modPort_fields (p : Nat) (g : Port → Port) : (s.modPort p g).fields = s.fields := rfl
@[simp] theorem State.modPort_tx (p : Nat) (g : Port → Port) : (s.modPort p g).tx = s.tx := rfl
@[simp] theorem State.modPort_txq (p : Nat) (g : Port → Port) : (s.modPort p g).txq = s.txq := rfl
@[simp] theorem State.modPort_free (p : Nat) (g : Port → Port) : (s.modPort p g).free = s.free := rfl
@[simp] theorem State.modPort_pending (p : Nat) (g : Port → Port) : (s.modPort p g).pending = s.pending := rfl

/-! ### modInst -/

@[simp] theorem State.modInst_fuses (i : Nat) (g : Inst → Inst) : (s.modInst i g).fuses = s.fuses := rfl
@[simp] theorem State.modInst_gran (i : Nat) (g : Inst → Inst) : (s.modInst i g).gran = s.gran := rfl
@[simp] theorem State.modInst_pkg (i : Nat) (g : Inst → Inst) : (s.modInst i g).pkg = s.pkg := rfl
@[simp] theorem State.modInst_clock (i : Nat) (g : Inst → Inst) : (s.modInst i g).clock = s.clock := rfl
@[simp] theorem State.modInst_power (i : Nat) (g : Inst → Inst) : (s.modInst i g).power = s.power := rfl
@[simp] theorem State.modInst_working (i : Nat) (g : Inst → Inst) : (s.modInst i g).working = s.working := rfl
@[simp] theorem State.modInst_inForce (i : Nat) (g : Inst → Inst) : (s.modInst i g).inForce = s.inForce := rfl
@[simp] theorem State.modInst_ports (i : Nat) (g : Inst → Inst) : (s.modInst i g).ports = s.ports := rfl
@[simp] theorem State.modInst_insts (i : Nat) (g : Inst → Inst) : (s.modInst i g).insts = s.insts.map fun x => if x.bind.id == i then g x else x := rfl
@[simp] theorem State.modInst_cmds (i : Nat) (g : Inst → Inst) : (s.modInst i g).cmds = s.cmds := rfl
@[simp] theorem State.modInst_xfers (i : Nat) (g : Inst → Inst) : (s.modInst i g).xfers = s.xfers := rfl
@[simp] theorem State.modInst_keys (i : Nat) (g : Inst → Inst) : (s.modInst i g).keys = s.keys := rfl
@[simp] theorem State.modInst_sas (i : Nat) (g : Inst → Inst) : (s.modInst i g).sas = s.sas := rfl
@[simp] theorem State.modInst_ikes (i : Nat) (g : Inst → Inst) : (s.modInst i g).ikes = s.ikes := rfl
@[simp] theorem State.modInst_images (i : Nat) (g : Inst → Inst) : (s.modInst i g).images = s.images := rfl
@[simp] theorem State.modInst_runs (i : Nat) (g : Inst → Inst) : (s.modInst i g).runs = s.runs := rfl
@[simp] theorem State.modInst_fields (i : Nat) (g : Inst → Inst) : (s.modInst i g).fields = s.fields := rfl
@[simp] theorem State.modInst_tx (i : Nat) (g : Inst → Inst) : (s.modInst i g).tx = s.tx := rfl
@[simp] theorem State.modInst_txq (i : Nat) (g : Inst → Inst) : (s.modInst i g).txq = s.txq := rfl
@[simp] theorem State.modInst_free (i : Nat) (g : Inst → Inst) : (s.modInst i g).free = s.free := rfl
@[simp] theorem State.modInst_pending (i : Nat) (g : Inst → Inst) : (s.modInst i g).pending = s.pending := rfl

/-! ### modCmd -/

@[simp] theorem State.modCmd_fuses (i t : Nat) (g : Cmd → Cmd) : (s.modCmd i t g).fuses = s.fuses := rfl
@[simp] theorem State.modCmd_gran (i t : Nat) (g : Cmd → Cmd) : (s.modCmd i t g).gran = s.gran := rfl
@[simp] theorem State.modCmd_pkg (i t : Nat) (g : Cmd → Cmd) : (s.modCmd i t g).pkg = s.pkg := rfl
@[simp] theorem State.modCmd_clock (i t : Nat) (g : Cmd → Cmd) : (s.modCmd i t g).clock = s.clock := rfl
@[simp] theorem State.modCmd_power (i t : Nat) (g : Cmd → Cmd) : (s.modCmd i t g).power = s.power := rfl
@[simp] theorem State.modCmd_working (i t : Nat) (g : Cmd → Cmd) : (s.modCmd i t g).working = s.working := rfl
@[simp] theorem State.modCmd_inForce (i t : Nat) (g : Cmd → Cmd) : (s.modCmd i t g).inForce = s.inForce := rfl
@[simp] theorem State.modCmd_ports (i t : Nat) (g : Cmd → Cmd) : (s.modCmd i t g).ports = s.ports := rfl
@[simp] theorem State.modCmd_insts (i t : Nat) (g : Cmd → Cmd) : (s.modCmd i t g).insts = s.insts := rfl
@[simp] theorem State.modCmd_cmds (i t : Nat) (g : Cmd → Cmd) : (s.modCmd i t g).cmds = s.cmds.map fun c => if c.inst == i && c.tag == t then g c else c := rfl
@[simp] theorem State.modCmd_xfers (i t : Nat) (g : Cmd → Cmd) : (s.modCmd i t g).xfers = s.xfers := rfl
@[simp] theorem State.modCmd_keys (i t : Nat) (g : Cmd → Cmd) : (s.modCmd i t g).keys = s.keys := rfl
@[simp] theorem State.modCmd_sas (i t : Nat) (g : Cmd → Cmd) : (s.modCmd i t g).sas = s.sas := rfl
@[simp] theorem State.modCmd_ikes (i t : Nat) (g : Cmd → Cmd) : (s.modCmd i t g).ikes = s.ikes := rfl
@[simp] theorem State.modCmd_images (i t : Nat) (g : Cmd → Cmd) : (s.modCmd i t g).images = s.images := rfl
@[simp] theorem State.modCmd_runs (i t : Nat) (g : Cmd → Cmd) : (s.modCmd i t g).runs = s.runs := rfl
@[simp] theorem State.modCmd_fields (i t : Nat) (g : Cmd → Cmd) : (s.modCmd i t g).fields = s.fields := rfl
@[simp] theorem State.modCmd_tx (i t : Nat) (g : Cmd → Cmd) : (s.modCmd i t g).tx = s.tx := rfl
@[simp] theorem State.modCmd_txq (i t : Nat) (g : Cmd → Cmd) : (s.modCmd i t g).txq = s.txq := rfl
@[simp] theorem State.modCmd_free (i t : Nat) (g : Cmd → Cmd) : (s.modCmd i t g).free = s.free := rfl
@[simp] theorem State.modCmd_pending (i t : Nat) (g : Cmd → Cmd) : (s.modCmd i t g).pending = s.pending := rfl

/-! ### modKey -/

@[simp] theorem State.modKey_fuses (h : Nat) (g : Key → Key) : (s.modKey h g).fuses = s.fuses := rfl
@[simp] theorem State.modKey_gran (h : Nat) (g : Key → Key) : (s.modKey h g).gran = s.gran := rfl
@[simp] theorem State.modKey_pkg (h : Nat) (g : Key → Key) : (s.modKey h g).pkg = s.pkg := rfl
@[simp] theorem State.modKey_clock (h : Nat) (g : Key → Key) : (s.modKey h g).clock = s.clock := rfl
@[simp] theorem State.modKey_power (h : Nat) (g : Key → Key) : (s.modKey h g).power = s.power := rfl
@[simp] theorem State.modKey_working (h : Nat) (g : Key → Key) : (s.modKey h g).working = s.working := rfl
@[simp] theorem State.modKey_inForce (h : Nat) (g : Key → Key) : (s.modKey h g).inForce = s.inForce := rfl
@[simp] theorem State.modKey_ports (h : Nat) (g : Key → Key) : (s.modKey h g).ports = s.ports := rfl
@[simp] theorem State.modKey_insts (h : Nat) (g : Key → Key) : (s.modKey h g).insts = s.insts := rfl
@[simp] theorem State.modKey_cmds (h : Nat) (g : Key → Key) : (s.modKey h g).cmds = s.cmds := rfl
@[simp] theorem State.modKey_xfers (h : Nat) (g : Key → Key) : (s.modKey h g).xfers = s.xfers := rfl
@[simp] theorem State.modKey_keys (h : Nat) (g : Key → Key) : (s.modKey h g).keys = s.keys.map fun k => if k.handle == h then g k else k := rfl
@[simp] theorem State.modKey_sas (h : Nat) (g : Key → Key) : (s.modKey h g).sas = s.sas := rfl
@[simp] theorem State.modKey_ikes (h : Nat) (g : Key → Key) : (s.modKey h g).ikes = s.ikes := rfl
@[simp] theorem State.modKey_images (h : Nat) (g : Key → Key) : (s.modKey h g).images = s.images := rfl
@[simp] theorem State.modKey_runs (h : Nat) (g : Key → Key) : (s.modKey h g).runs = s.runs := rfl
@[simp] theorem State.modKey_fields (h : Nat) (g : Key → Key) : (s.modKey h g).fields = s.fields := rfl
@[simp] theorem State.modKey_tx (h : Nat) (g : Key → Key) : (s.modKey h g).tx = s.tx := rfl
@[simp] theorem State.modKey_txq (h : Nat) (g : Key → Key) : (s.modKey h g).txq = s.txq := rfl
@[simp] theorem State.modKey_free (h : Nat) (g : Key → Key) : (s.modKey h g).free = s.free := rfl
@[simp] theorem State.modKey_pending (h : Nat) (g : Key → Key) : (s.modKey h g).pending = s.pending := rfl

/-! ### modSa -/

@[simp] theorem State.modSa_fuses (h : Nat) (g : Sa → Sa) : (s.modSa h g).fuses = s.fuses := rfl
@[simp] theorem State.modSa_gran (h : Nat) (g : Sa → Sa) : (s.modSa h g).gran = s.gran := rfl
@[simp] theorem State.modSa_pkg (h : Nat) (g : Sa → Sa) : (s.modSa h g).pkg = s.pkg := rfl
@[simp] theorem State.modSa_clock (h : Nat) (g : Sa → Sa) : (s.modSa h g).clock = s.clock := rfl
@[simp] theorem State.modSa_power (h : Nat) (g : Sa → Sa) : (s.modSa h g).power = s.power := rfl
@[simp] theorem State.modSa_working (h : Nat) (g : Sa → Sa) : (s.modSa h g).working = s.working := rfl
@[simp] theorem State.modSa_inForce (h : Nat) (g : Sa → Sa) : (s.modSa h g).inForce = s.inForce := rfl
@[simp] theorem State.modSa_ports (h : Nat) (g : Sa → Sa) : (s.modSa h g).ports = s.ports := rfl
@[simp] theorem State.modSa_insts (h : Nat) (g : Sa → Sa) : (s.modSa h g).insts = s.insts := rfl
@[simp] theorem State.modSa_cmds (h : Nat) (g : Sa → Sa) : (s.modSa h g).cmds = s.cmds := rfl
@[simp] theorem State.modSa_xfers (h : Nat) (g : Sa → Sa) : (s.modSa h g).xfers = s.xfers := rfl
@[simp] theorem State.modSa_keys (h : Nat) (g : Sa → Sa) : (s.modSa h g).keys = s.keys := rfl
@[simp] theorem State.modSa_sas (h : Nat) (g : Sa → Sa) : (s.modSa h g).sas = s.sas.map fun a => if a.handle == h then g a else a := rfl
@[simp] theorem State.modSa_ikes (h : Nat) (g : Sa → Sa) : (s.modSa h g).ikes = s.ikes := rfl
@[simp] theorem State.modSa_images (h : Nat) (g : Sa → Sa) : (s.modSa h g).images = s.images := rfl
@[simp] theorem State.modSa_runs (h : Nat) (g : Sa → Sa) : (s.modSa h g).runs = s.runs := rfl
@[simp] theorem State.modSa_fields (h : Nat) (g : Sa → Sa) : (s.modSa h g).fields = s.fields := rfl
@[simp] theorem State.modSa_tx (h : Nat) (g : Sa → Sa) : (s.modSa h g).tx = s.tx := rfl
@[simp] theorem State.modSa_txq (h : Nat) (g : Sa → Sa) : (s.modSa h g).txq = s.txq := rfl
@[simp] theorem State.modSa_free (h : Nat) (g : Sa → Sa) : (s.modSa h g).free = s.free := rfl
@[simp] theorem State.modSa_pending (h : Nat) (g : Sa → Sa) : (s.modSa h g).pending = s.pending := rfl

/-! ### modRun -/

@[simp] theorem State.modRun_fuses (id : Nat) (g : Run → Run) : (s.modRun id g).fuses = s.fuses := rfl
@[simp] theorem State.modRun_gran (id : Nat) (g : Run → Run) : (s.modRun id g).gran = s.gran := rfl
@[simp] theorem State.modRun_pkg (id : Nat) (g : Run → Run) : (s.modRun id g).pkg = s.pkg := rfl
@[simp] theorem State.modRun_clock (id : Nat) (g : Run → Run) : (s.modRun id g).clock = s.clock := rfl
@[simp] theorem State.modRun_power (id : Nat) (g : Run → Run) : (s.modRun id g).power = s.power := rfl
@[simp] theorem State.modRun_working (id : Nat) (g : Run → Run) : (s.modRun id g).working = s.working := rfl
@[simp] theorem State.modRun_inForce (id : Nat) (g : Run → Run) : (s.modRun id g).inForce = s.inForce := rfl
@[simp] theorem State.modRun_ports (id : Nat) (g : Run → Run) : (s.modRun id g).ports = s.ports := rfl
@[simp] theorem State.modRun_insts (id : Nat) (g : Run → Run) : (s.modRun id g).insts = s.insts := rfl
@[simp] theorem State.modRun_cmds (id : Nat) (g : Run → Run) : (s.modRun id g).cmds = s.cmds := rfl
@[simp] theorem State.modRun_xfers (id : Nat) (g : Run → Run) : (s.modRun id g).xfers = s.xfers := rfl
@[simp] theorem State.modRun_keys (id : Nat) (g : Run → Run) : (s.modRun id g).keys = s.keys := rfl
@[simp] theorem State.modRun_sas (id : Nat) (g : Run → Run) : (s.modRun id g).sas = s.sas := rfl
@[simp] theorem State.modRun_ikes (id : Nat) (g : Run → Run) : (s.modRun id g).ikes = s.ikes := rfl
@[simp] theorem State.modRun_images (id : Nat) (g : Run → Run) : (s.modRun id g).images = s.images := rfl
@[simp] theorem State.modRun_runs (id : Nat) (g : Run → Run) : (s.modRun id g).runs = s.runs.map fun r => if r.id == id then g r else r := rfl
@[simp] theorem State.modRun_fields (id : Nat) (g : Run → Run) : (s.modRun id g).fields = s.fields := rfl
@[simp] theorem State.modRun_tx (id : Nat) (g : Run → Run) : (s.modRun id g).tx = s.tx := rfl
@[simp] theorem State.modRun_txq (id : Nat) (g : Run → Run) : (s.modRun id g).txq = s.txq := rfl
@[simp] theorem State.modRun_free (id : Nat) (g : Run → Run) : (s.modRun id g).free = s.free := rfl
@[simp] theorem State.modRun_pending (id : Nat) (g : Run → Run) : (s.modRun id g).pending = s.pending := rfl

/-! ### modFurrow -/

@[simp] theorem State.modFurrow_fuses (u : FurrowRef) (g : Furrow → Furrow) : (s.modFurrow u g).fuses = s.fuses := rfl
@[simp] theorem State.modFurrow_gran (u : FurrowRef) (g : Furrow → Furrow) : (s.modFurrow u g).gran = s.gran := rfl
@[simp] theorem State.modFurrow_pkg (u : FurrowRef) (g : Furrow → Furrow) : (s.modFurrow u g).pkg = s.pkg := rfl
@[simp] theorem State.modFurrow_clock (u : FurrowRef) (g : Furrow → Furrow) : (s.modFurrow u g).clock = s.clock := rfl
@[simp] theorem State.modFurrow_power (u : FurrowRef) (g : Furrow → Furrow) : (s.modFurrow u g).power = s.power := rfl
@[simp] theorem State.modFurrow_working (u : FurrowRef) (g : Furrow → Furrow) : (s.modFurrow u g).working = s.working := rfl
@[simp] theorem State.modFurrow_inForce (u : FurrowRef) (g : Furrow → Furrow) : (s.modFurrow u g).inForce = s.inForce := rfl
@[simp] theorem State.modFurrow_ports (u : FurrowRef) (g : Furrow → Furrow) : (s.modFurrow u g).ports = s.ports := rfl
@[simp] theorem State.modFurrow_insts (u : FurrowRef) (g : Furrow → Furrow) : (s.modFurrow u g).insts = s.insts := rfl
@[simp] theorem State.modFurrow_cmds (u : FurrowRef) (g : Furrow → Furrow) : (s.modFurrow u g).cmds = s.cmds := rfl
@[simp] theorem State.modFurrow_xfers (u : FurrowRef) (g : Furrow → Furrow) : (s.modFurrow u g).xfers = s.xfers := rfl
@[simp] theorem State.modFurrow_keys (u : FurrowRef) (g : Furrow → Furrow) : (s.modFurrow u g).keys = s.keys := rfl
@[simp] theorem State.modFurrow_sas (u : FurrowRef) (g : Furrow → Furrow) : (s.modFurrow u g).sas = s.sas := rfl
@[simp] theorem State.modFurrow_ikes (u : FurrowRef) (g : Furrow → Furrow) : (s.modFurrow u g).ikes = s.ikes := rfl
@[simp] theorem State.modFurrow_images (u : FurrowRef) (g : Furrow → Furrow) : (s.modFurrow u g).images = s.images := rfl
@[simp] theorem State.modFurrow_runs (u : FurrowRef) (g : Furrow → Furrow) : (s.modFurrow u g).runs = s.runs := rfl
@[simp] theorem State.modFurrow_fields (u : FurrowRef) (g : Furrow → Furrow) : (s.modFurrow u g).fields = s.fields.modify u.field fun x => { x with furrows := x.furrows.modify u.furrow g } := rfl
@[simp] theorem State.modFurrow_tx (u : FurrowRef) (g : Furrow → Furrow) : (s.modFurrow u g).tx = s.tx := rfl
@[simp] theorem State.modFurrow_txq (u : FurrowRef) (g : Furrow → Furrow) : (s.modFurrow u g).txq = s.txq := rfl
@[simp] theorem State.modFurrow_free (u : FurrowRef) (g : Furrow → Furrow) : (s.modFurrow u g).free = s.free := rfl
@[simp] theorem State.modFurrow_pending (u : FurrowRef) (g : Furrow → Furrow) : (s.modFurrow u g).pending = s.pending := rfl

/-! ### modThread -/

@[simp] theorem State.modThread_fuses (t : ThreadRef) (g : Thread → Thread) : (s.modThread t g).fuses = s.fuses := rfl
@[simp] theorem State.modThread_gran (t : ThreadRef) (g : Thread → Thread) : (s.modThread t g).gran = s.gran := rfl
@[simp] theorem State.modThread_pkg (t : ThreadRef) (g : Thread → Thread) : (s.modThread t g).pkg = s.pkg := rfl
@[simp] theorem State.modThread_clock (t : ThreadRef) (g : Thread → Thread) : (s.modThread t g).clock = s.clock := rfl
@[simp] theorem State.modThread_power (t : ThreadRef) (g : Thread → Thread) : (s.modThread t g).power = s.power := rfl
@[simp] theorem State.modThread_working (t : ThreadRef) (g : Thread → Thread) : (s.modThread t g).working = s.working := rfl
@[simp] theorem State.modThread_inForce (t : ThreadRef) (g : Thread → Thread) : (s.modThread t g).inForce = s.inForce := rfl
@[simp] theorem State.modThread_ports (t : ThreadRef) (g : Thread → Thread) : (s.modThread t g).ports = s.ports := rfl
@[simp] theorem State.modThread_insts (t : ThreadRef) (g : Thread → Thread) : (s.modThread t g).insts = s.insts := rfl
@[simp] theorem State.modThread_cmds (t : ThreadRef) (g : Thread → Thread) : (s.modThread t g).cmds = s.cmds := rfl
@[simp] theorem State.modThread_xfers (t : ThreadRef) (g : Thread → Thread) : (s.modThread t g).xfers = s.xfers := rfl
@[simp] theorem State.modThread_keys (t : ThreadRef) (g : Thread → Thread) : (s.modThread t g).keys = s.keys := rfl
@[simp] theorem State.modThread_sas (t : ThreadRef) (g : Thread → Thread) : (s.modThread t g).sas = s.sas := rfl
@[simp] theorem State.modThread_ikes (t : ThreadRef) (g : Thread → Thread) : (s.modThread t g).ikes = s.ikes := rfl
@[simp] theorem State.modThread_images (t : ThreadRef) (g : Thread → Thread) : (s.modThread t g).images = s.images := rfl
@[simp] theorem State.modThread_runs (t : ThreadRef) (g : Thread → Thread) : (s.modThread t g).runs = s.runs := rfl
@[simp] theorem State.modThread_fields (t : ThreadRef) (g : Thread → Thread) : (s.modThread t g).fields = s.fields.modify t.field fun x => { x with threads := x.threads.modify t.thread g } := rfl
@[simp] theorem State.modThread_tx (t : ThreadRef) (g : Thread → Thread) : (s.modThread t g).tx = s.tx := rfl
@[simp] theorem State.modThread_txq (t : ThreadRef) (g : Thread → Thread) : (s.modThread t g).txq = s.txq := rfl
@[simp] theorem State.modThread_free (t : ThreadRef) (g : Thread → Thread) : (s.modThread t g).free = s.free := rfl
@[simp] theorem State.modThread_pending (t : ThreadRef) (g : Thread → Thread) : (s.modThread t g).pending = s.pending := rfl

/-! ### fresh -/

@[simp] theorem State.fresh_fuses (n : Nat) : (s.fresh n).2.fuses = s.fuses := rfl
@[simp] theorem State.fresh_gran (n : Nat) : (s.fresh n).2.gran = s.gran := rfl
@[simp] theorem State.fresh_pkg (n : Nat) : (s.fresh n).2.pkg = s.pkg := rfl
@[simp] theorem State.fresh_clock (n : Nat) : (s.fresh n).2.clock = s.clock := rfl
@[simp] theorem State.fresh_power (n : Nat) : (s.fresh n).2.power = s.power := rfl
@[simp] theorem State.fresh_working (n : Nat) : (s.fresh n).2.working = s.working := rfl
@[simp] theorem State.fresh_inForce (n : Nat) : (s.fresh n).2.inForce = s.inForce := rfl
@[simp] theorem State.fresh_ports (n : Nat) : (s.fresh n).2.ports = s.ports := rfl
@[simp] theorem State.fresh_insts (n : Nat) : (s.fresh n).2.insts = s.insts := rfl
@[simp] theorem State.fresh_cmds (n : Nat) : (s.fresh n).2.cmds = s.cmds := rfl
@[simp] theorem State.fresh_xfers (n : Nat) : (s.fresh n).2.xfers = s.xfers := rfl
@[simp] theorem State.fresh_keys (n : Nat) : (s.fresh n).2.keys = s.keys := rfl
@[simp] theorem State.fresh_sas (n : Nat) : (s.fresh n).2.sas = s.sas := rfl
@[simp] theorem State.fresh_ikes (n : Nat) : (s.fresh n).2.ikes = s.ikes := rfl
@[simp] theorem State.fresh_images (n : Nat) : (s.fresh n).2.images = s.images := rfl
@[simp] theorem State.fresh_runs (n : Nat) : (s.fresh n).2.runs = s.runs := rfl
@[simp] theorem State.fresh_fields (n : Nat) : (s.fresh n).2.fields = s.fields := rfl
@[simp] theorem State.fresh_tx (n : Nat) : (s.fresh n).2.tx = s.tx := rfl
@[simp] theorem State.fresh_txq (n : Nat) : (s.fresh n).2.txq = s.txq := rfl
@[simp] theorem State.fresh_free (n : Nat) : (s.fresh n).2.free = s.free + 1 := rfl
@[simp] theorem State.fresh_pending (n : Nat) : (s.fresh n).2.pending = s.pending := rfl
@[simp] theorem State.fresh_bytes (n : Nat) : (s.fresh n).1 = (List.range n).map (Config.fresh s.free) := rfl

/-! ### Reads after an update -/

/-- A field after an update of one. -/
theorem State.modField_read (f k : Nat) (g : FieldSt → FieldSt) :
    (s.modField f g).field k = if f = k ∧ k < s.fields.length then g (s.field k) else s.field k := by
  simp only [State.field, State.modField, List.getD_eq_getElem?_getD, List.getElem?_modify]
  by_cases h : f = k
  · by_cases hk : k < s.fields.length
    · simp [h, hk]
    · simp [h, hk]
  · simp [h]

/-- An update leaves every other field. -/
theorem State.modField_other {f k : Nat} (h : f ≠ k) (g : FieldSt → FieldSt) : (s.modField f g).field k = s.field k := by
  rw [State.modField_read, if_neg fun x => h x.1]

/-- The number of fields is the same after it. -/
theorem State.modField_count (f : Nat) (g : FieldSt → FieldSt) : (s.modField f g).fields.length = s.fields.length := by simp

/-- An update of a command leaves what the part knows of the others. -/
theorem State.modCmd_other {i t j k : Nat} (h : ¬ (j = i ∧ k = t)) (g : Cmd → Cmd) (hg : ∀ c, (g c).inst = c.inst ∧ (g c).tag = c.tag) :
    (s.modCmd i t g).cmd? j k = s.cmd? j k := by
  simp only [State.cmd?, State.modCmd_cmds]
  induction s.cmds with
  | nil => rfl
  | cons c cs ih =>
    simp only [List.map_cons, List.find?_cons]
    by_cases hc : (c.inst == i && c.tag == t) = true
    · have h1 : c.inst = i ∧ c.tag = t := by simpa using hc
      have h2 : (c.inst == j && c.tag == k) = false := by
        rw [h1.1, h1.2]
        simp only [Bool.and_eq_false_iff, beq_eq_false_iff_ne]
        by_cases hj : i = j
        · exact .inr fun hk => h ⟨hj.symm, hk.symm⟩
        · exact .inl hj
      simp only [hc, if_true, (hg c).1, (hg c).2, h2]
      exact ih
    · simp only [hc, if_false, Bool.false_eq_true]
      cases c.inst == j && c.tag == k with
      | true => rfl
      | false => exact ih

end Sys2Proof.Machine
end

