-- ==== Sys2Proof/WellFormed.lean ====
section
/-! DEFINITION. The operands a command of the block can have: numbers within what the spec gives them. -/
namespace Sys2Proof

/-- A byte string short enough for its length field (R70: P is 24 bits). -/
def paramsOk (b : Bytes) : Bool := b.length < 2 ^ 24

/-- A 48-bit address. -/
def addressOk (a : Nat) : Bool := a < 2 ^ 48

/-- A port, an address, a tag control word, an SCI (R19, R65). -/
def Ctx.ok (c : Ctx) : Bool := c.port < 2 && addressOk c.src && c.tci.all (· < 65536) && c.sci.all (· < 2 ^ 64)

/-- A command record (R70). -/
def CmdRec.ok (r : CmdRec) : Bool :=
  r.inst < 256 && r.tag < 2 ^ 32 && r.flags < 256 && paramsOk r.params && r.seq < 2 ^ 32 && r.prio < 8 && r.ctx.ok

/-- A received frame (R65). -/
def RxFrame.ok (f : RxFrame) : Bool :=
  f.port < 2 && addressOk f.dst && addressOk f.src && f.tci.all (· < 65536) && f.ethertype < 65536 && f.len < 16384 &&
    f.sec.all fun t => t.sci < 2 ^ 64 && t.an < 4 && t.pn < 2 ^ 32

/-- A furrow (R4). -/
def FurrowRef.ok (u : FurrowRef) : Bool := u.field < 8 && u.furrow < 16

/-- A Caddy thread (R366). -/
def ThreadRef.ok (t : ThreadRef) : Bool := t.field < 8 && t.thread < 64

/-- The fields of a Saivo instruction fit their bits (R341). -/
def SaivoFields.ok (i : SaivoFields) : Bool :=
  i.t < 4 && i.l < 2 && i.m < 8 && i.d < 32 && i.a < 32 && i.b < 32 && i.q < 4 && i.f < 32 && i.c < 4096

/-- The fields of a microword fit their bits (R369). -/
def Micro.ok (w : Micro) : Bool :=
  w.addr < 16384 && w.cond < 64 && w.xop < 32 && w.xd < 32 && w.xa < 32 && w.xb < 32 && w.imm < 65536 && w.rest < 2 ^ 99

/-- A failing burst (R450). -/
def EdcFault.ok (e : EdcFault) : Bool := e.field < 8 && e.channel < 2 && e.page < 2 ^ 20

/-- A request to the test access port (R476). -/
def JtagOp.ok (j : JtagOp) : Bool :=
  match j with
  | .idcode => true
  | .bypass => true
  | .furrowReg u r => u.ok && r < 32
  | .furrowWord u a => u.ok && a < 32768
  | .caddyReg t r => t.ok && r < 32
  | .islandSetPoint f => f < 8
  | .sealedState f => f < 8

/-- The command's operands are in range. -/
def wellFormed (i : Instr) : Bool :=
  match i with
  | .powerUp _ => true
  | .resetNAssert _ => true
  | .powerDown => true
  | .resetNRelease => true
  | .selfTestComplete failed => failed.all (· < 8)
  | .selfTestTimeout field => field < 8
  | .bootstrapLinkUp => true
  | .hostLinkUp port _ => port < 2
  | .hostLinkDown port => port < 2
  | .refclkSdStop => true
  | .refclkSysStop => true
  | .requestFrame f => f.ok
  | .dataSegment f => f.ok
  | .segGapExpiry inst xfer => inst < 256 && 0 < xfer && xfer < 2 ^ 32
  | .creditQuery f => f.ok
  | .creditUpdateTimer inst => inst < 256
  | .mailboxFrame f => f.ok
  | .mboxDoorbellRepeat tenant _ => tenant < 256
  | .pauseFrameRx port _ _ => port < 2
  | .replyRelease inst tag => inst < 256 && tag < 2 ^ 32
  | .padExpiry inst tag => inst < 256 && tag < 2 ^ 32
  | .pending inst tag => inst < 256 && tag < 2 ^ 32
  | .rngWaitExpiry inst tag => inst < 256 && tag < 2 ^ 32
  | .eventSend inst => inst < 256
  | .identify r => r.ok
  | .enable r => r.ok
  | .reset r => r.ok
  | .resetExecute => true
  | .instanceReset r => r.ok
  | .fallow r => r.ok
  | .fallowDrainDone => true
  | .wake r => r.ok
  | .recover r => r.ok
  | .recoverDrainTimeout => true
  | .echo r => r.ok
  | .modeSet r => r.ok
  | .macsecSa r => r.ok
  | .keyGenerate r => r.ok
  | .keyLoad r => r.ok
  | .keyLoadPublic r => r.ok
  | .keyUnwrap r => r.ok
  | .keyWrap r => r.ok
  | .keyDerive r => r.ok
  | .keyDestroy r => r.ok
  | .keyNarrow r => r.ok
  | .keyInfo r => r.ok
  | .keyExportPublic r => r.ok
  | .siloSlotsFree field => field < 8
  | .mlkemKeygen r => r.ok
  | .mlkemEncaps r => r.ok
  | .mlkemDecaps r => r.ok
  | .hybridEncaps r => r.ok
  | .hybridDecaps r => r.ok
  | .mldsaSign r => r.ok
  | .mldsaVerify r => r.ok
  | .hybridSign r => r.ok
  | .hybridVerify r => r.ok
  | .slhdsaSign r => r.ok
  | .slhdsaVerify r => r.ok
  | .statefulKeygen r => r.ok
  | .statefulSign r => r.ok
  | .leafReservationDone handle _ => handle < 2 ^ 48
  | .statefulVerify r => r.ok
  | .statefulStatus r => r.ok
  | .statefulSetBlock r => r.ok
  | .cacheRebuildDone handle => handle < 2 ^ 48
  | .mceEncaps r => r.ok
  | .mceDecaps r => r.ok
  | .rsaEncrypt r => r.ok
  | .rsaDecrypt r => r.ok
  | .rsaSign r => r.ok
  | .rsaVerify r => r.ok
  | .ecdsaSign r => r.ok
  | .ecdsaVerify r => r.ok
  | .ecAgree r => r.ok
  | .eddsaSign r => r.ok
  | .eddsaVerify r => r.ok
  | .digest r => r.ok
  | .macGen r => r.ok
  | .macVerify r => r.ok
  | .digestCompare r => r.ok
  | .contextSaveDone field _ => field < 8
  | .contextRestoreDone field _ _ => field < 8
  | .winnowContextFree field => field < 8
  | .aeadSeal r => r.ok
  | .aeadOpen r => r.ok
  | .saInstall r => r.ok
  | .saRetire r => r.ok
  | .saInfo r => r.ok
  | .cmacGen r => r.ok
  | .cmacVerify r => r.ok
  | .hostPortInlineFrame f => f.ok
  | .linePortFrame f => f.ok
  | .saLifetimeScan => true
  | .randomGenerate r => r.ok
  | .rngHealth r => r.ok
  | .rngConfig r => r.ok
  | .seedbedStartupDone field => field < 8
  | .healthFailure field source _ => field < 8 && source < 2
  | .seedbedHealthWindow field source ones _ => field < 8 && source < 2 && ones ≤ 4096
  | .steepReseed field => field < 8
  | .leafSeedRequest field acre => field < 8 && acre < 4
  | .leafSwitchPoint field acre => field < 8 && acre < 4
  | .programLoad r => r.ok
  | .programRun r => r.ok
  | .programUnload r => r.ok
  | .programInfo r => r.ok
  | .acreFreeRunStart field acre => field < 8 && acre < 4
  | .furrowWatchdog u => u.ok
  | .li u i => u.ok && i.ok
  | .alu u i => u.ok && i.ok
  | .alui u i => u.ok && i.ok
  | .ld u i => u.ok && i.ok
  | .st u i => u.ok && i.ok
  | .br u i => u.ok && i.ok
  | .jmp u i => u.ok && i.ok
  | .jal u i => u.ok && i.ok
  | .jr u i => u.ok && i.ok
  | .loop u i => u.ok && i.ok
  | .barrier u i => u.ok && i.ok
  | .halt u i => u.ok && i.ok
  | .retry u i => u.ok && i.ok
  | .abort u i => u.ok && i.ok
  | .frec u i => u.ok && i.ok
  | .qld u i => u.ok && i.ok
  | .tread u i => u.ok && i.ok
  | .mop u i => u.ok && i.ok
  | .mset u i => u.ok && i.ok
  | .mget u i => u.ok && i.ok
  | .vmov u i => u.ok && i.ok
  | .vbcast u i => u.ok && i.ok
  | .vext u i => u.ok && i.ok
  | .vins u i => u.ok && i.ok
  | .valu u i => u.ok && i.ok
  | .valui u i => u.ok && i.ok
  | .vcmp u i => u.ok && i.ok
  | .qadd u i => u.ok && i.ok
  | .qsub u i => u.ok && i.ok
  | .qmulh u i => u.ok && i.ok
  | .qrshr u i => u.ok && i.ok
  | .modadd u i => u.ok && i.ok
  | .modsub u i => u.ok && i.ok
  | .modmul u i => u.ok && i.ok
  | .barrett u i => u.ok && i.ok
  | .compress u i => u.ok && i.ok
  | .decompress u i => u.ok && i.ok
  | .p2round u i => u.ok && i.ok
  | .decompose u i => u.ok && i.ok
  | .vld u i => u.ok && i.ok
  | .vst u i => u.ok && i.ok
  | .ld2Ld4 u k i => u.ok && 2 ≤ k && k ≤ 4 && i.ok
  | .st2St4 u k i => u.ok && 2 ≤ k && k ≤ 4 && i.ok
  | .gather u i => u.ok && i.ok
  | .scatter u i => u.ok && i.ok
  | .shuf u i => u.ok && i.ok
  | .shmask u i => u.ok && i.ok
  | .shadd u i => u.ok && i.ok
  | .shsub u i => u.ok && i.ok
  | .shpub u i => u.ok && i.ok
  | .shmul u i => u.ok && i.ok
  | .srefresh u i => u.ok && i.ok
  | .sa2b u i => u.ok && i.ok
  | .sb2a u i => u.ok && i.ok
  | .scmp u i => u.ok && i.ok
  | .ssel u i => u.ok && i.ok
  | .recomb u i => u.ok && i.ok
  | .shst u i => u.ok && i.ok
  | .shld u i => u.ok && i.ok
  | .ucodeVersion r => r.ok
  | .ucodePatchStore r => r.ok
  | .openLoad r => r.ok
  | .openClear r => r.ok
  | .customerOpcode opcode r => 0xE000 ≤ opcode && opcode ≤ 0xEFFF && r.ok
  | .caddyThreadFree field => field < 8
  | .nextWord t w => t.ok && w.ok
  | .jumpWord t w => t.ok && w.ok
  | .callWord t w => t.ok && w.ok
  | .retWord t w => t.ok && w.ok
  | .branchWord t w => t.ok && w.ok
  | .endWord t w => t.ok && w.ok
  | .yieldWord t w => t.ok && w.ok
  | .waitWord t w => t.ok && w.ok
  | .dispatchWord t w => t.ok && w.ok
  | .trapWord t w => t.ok && w.ok
  | .gateKey g => g.thread.ok
  | .gateQuota t => t.ok
  | .gateDraw t => t.ok
  | .gateProgram t => t.ok
  | .gateDigest t => t.ok
  | .gateTally t => t.ok
  | .gateNewkey t => t.ok
  | .gateResult t => t.ok
  | .microcodeRunLimit t => t.ok
  | .parityError field word => field < 8 && word < 16384
  | .controlStoreReloadDone field => field < 8
  | .controlStoreScrub field _ => field < 8
  | .tkOpen r => r.ok
  | .tkStep r => r.ok
  | .tkDecide r => r.ok
  | .tkSend r => r.ok
  | .tkClose r => r.ok
  | .tkIdleExpiry handle => handle < 2 ^ 48
  | .sheafSign r => r.ok
  | .sheafVerify r => r.ok
  | .attest r => r.ok
  | .instanceCreate r => r.ok
  | .instanceDestroy r => r.ok
  | .shareSet r => r.ok
  | .instanceInfo r => r.ok
  | .instanceBind r => r.ok
  | .instanceList r => r.ok
  | .mboxStatus r => r.ok
  | .settingGet r => r.ok
  | .settingSet r => r.ok
  | .storeSettings r => r.ok
  | .lifecycleStatus r => r.ok
  | .attestBoot r => r.ok
  | .debugUnlock r => r.ok
  | .lcAdvance r => r.ok
  | .ownerSet r => r.ok
  | .identityInfo r => r.ok
  | .gleanRead r => r.ok
  | .logRead r => r.ok
  | .alarmRead r => r.ok
  | .timeGet r => r.ok
  | .timeCtl r => r.ok
  | .gleanCtl r => r.ok
  | .pageMeta r => r.ok
  | .diagRun r => r.ok
  | .diagWord r => r.ok
  | .diagResume r => r.ok
  | .telemetryPeriod => true
  | .ptpSyncRx port _ => port < 2
  | .ptpSyncTimeout => true
  | .ppsInEdge => true
  | .ppsInMissed => true
  | .ppsOutSecond => true
  | .fieldAliveFall field => field < 8
  | .headlandFailover => true
  | .plolysCrcFail field port => field < 8 && port < 3
  | .plolysLinkDown field port => field < 8 && port < 3
  | .sensorTrip field cls island detail => field < 8 && cls < 16 && island < 64 && detail < 256
  | .alarmLineReceived field source => field < 8 && source < 8
  | .tamperMismatch input => input < 2
  | .tempSensorReading field sensor _ => field < 8 && sensor < 8
  | .thermalShutdown field => field < 8
  | .powerWindow _ => true
  | .cappedGateDrained field => field < 8
  | .powerReversalStep _ => true
  | .brownNLow => true
  | .brownNHigh => true
  | .gddr6Refresh field channel => field < 8 && channel < 2
  | .gddr6TemperatureRead field _ => field < 8
  | .retrainDue field _ => field < 8
  | .retrainDeferLimit field => field < 8
  | .edcFailure e => e.ok
  | .harrowVisit field symbols _ => field < 8 && symbols < 1374
  | .pageRetirement field page _ _ => field < 8 && page < 2 ^ 20
  | .mergeIdleTimer field page => field < 8 && page < 2 ^ 20
  | .whiskRequestPromotion field => field < 8
  | .serviceBufferSpaceFree => true
  | .lcAdvanceDrainTimeout => true
  | .refclkSdReturn => true
  | .refclkSysReturn => true
  | .vddCoreBelow075V field => field < 8
  | .vppFuseVoltageOutsideTest field => field < 8
  | .jtagTapAccess j => j.ok
  | .pauseRefresh port prio => port < 2 && prio < 8
  | .pauseTimerExpiry port prio => port < 2 && prio < 8

end Sys2Proof
end

