-- ==== Sys2Proof/Tests/Slice0.lean ====
section
/-! SUPPORT. Tests: the checks of WellFormed, a state and operands for the hypotheses of every statement, and examples of the spec. -/
namespace Sys2Proof.Tests
open Sys2Proof Sys2Proof.Machine

/-! ### A part in service and a command in it -/

/-- The context of a frame on port 0. -/
def cx : Ctx := { port := 0, src := 0x0A1C35000001, tci := none, sci := none }

/-- A field in service. -/
def fieldUp : FieldSt :=
  { FieldSt.start with
    run := .operational, kek := [List.replicate 32 0, List.replicate 32 0],
    seed := { state := .ready, seeded := true, sources := [{ pooled := 2048 }, { pooled := 2048 }] }, leaf := List.replicate 4 { running := true } }

/-- The part in OPERATIONAL, both ports up. -/
def partUp : State :=
  { State.reset with
    pkg := { State.reset.pkg with run := .operational, outputs := true }, fields := [fieldUp, fieldUp],
    ports := [{ form := some .kr1, up := true }, { form := some .kr1, firstLane := 2, up := true }] }

/-- A dispatched command of instance 0 with tag 1, on field 0. -/
def cmd (op : Nat) (params : Bytes) : Cmd := { inst := 0, tag := 1, op := op, params := params, ctx := cx, field := some 0 }

/-- Its admitted record. -/
def recOf (c : Cmd) : CmdRec :=
  { inst := c.inst, tag := c.tag, expert := c.expert, flags := c.flags, params := c.params, seq := 0, pos := 0, prio := 0, ordered := false,
    ctx := c.ctx, admitted := true, hit := .none }

/-- The state with that one command. -/
def having (s : State) (c : Cmd) : State := { s with cmds := [c] }

/-- The command comes to its commit point: the hypothesis of the completion statements has a solution. -/
abbrev Comes (d : Desc) (s : State) (c : Cmd) : Prop := (d.effectAt? (recOf c) (having s c)).isSome = true

/-- The command comes to its commit point and p holds of the state its effect is made in and of it. -/
abbrev ComesWith (d : Desc) (s : State) (c : Cmd) (p : State → Cmd → Bool) : Prop :=
  ((d.effectAt? (recOf c) (having s c)).any fun q => p q.1 q.2) = true


/-- The handle of the key of index k on field 0, of instance 0. -/
def hk (k : Nat) : Nat := k * 2 ^ 18 + 1

/-- A key. -/
def key (k type attr size : Nat) (body : Bytes := []) : Key := { handle := hk k, type := type, attr := attr, size := size, body := body }

/-- The part with keys. -/
def keyed (ks : List Key) : State := { partUp with keys := ks }

/-- A handle field. -/
def hb (k : Nat) : Bytes := toBE 6 (hk k)

/-- Zero bytes. -/
def z (n : Nat) : Bytes := List.replicate n 0

/-- A consumable key with a leaf left. -/
def leafy : Key := { key 3 0x40 0x20 0 (z 32) with leaf := some { life := 32, hwm := 32, block := 64 } }

/-- The part with INLINE on and a key for its SAs. -/
def inl : State := { keyed [key 3 2 3 0 (z 32)] with pkg := { partUp.pkg with modes := 2 } }

/-- A receive SA of MACsec. -/
def sa1 : Sa :=
  { handle := hk 5, field := 0, kind := 4, cipher := 3, esn := false, outerV6 := false, key := 0, spi := 0, salt := [], sci := 1, next := 1,
    sel := 1, window := 0, softS := 0, hardS := 0, softB := 0, hardB := 0, tmpl := [] }

/-- A loaded image of one instruction, LI. -/
def img : Image :=
  { handle := hk 9, header := [0x53, 0x41, 0x49, 0x56, 1, 0, 0, 0, 0, 0, 2, 1, 0, 1] ++ z 50, instrs := [0], dinit := [], bytes := 70 }

/-- No operand. -/
def noFields : SaivoFields := { t := 0, l := 0, m := 0, d := 0, a := 0, b := 0, q := 0, f := 0, c := 0 }

/-- A held run of a test program on furrow 0 of field 0. -/
def rn : Run := { id := 7, inst := 256, tag := 0, field := 0, acre := some 0, furrows := [0], image := img, test := true }

/-- The part in RECOVERY with that run. -/
def held : State :=
  { partUp with
    pkg := { partUp.pkg with run := .recovery }, runs := [rn],
    fields := [{ fieldUp with furrows := { ({} : Furrow) with run := some 7, held := some (1, noFields) } :: List.replicate 15 {} }, fieldUp] }

/-- An entry of the open region: opcode E000, no parameters, its routine at word 15000. -/
def entry : Bytes := [0xE0, 0x00] ++ toBE 2 15000 ++ z 12

/-- The part with an open image, a copy of it in each field. -/
def openedBy (im : OpenImage) : State :=
  { partUp with
    pkg := { partUp.pkg with openImg := some im }, fields := [{ fieldUp with openCopy := some im }, { fieldUp with openCopy := some im }] }

/-- The part with an open image of one opcode. -/
def opened : State := openedBy { ident := 1, entries := [entry], words := [], data := [] }

/-- The part with SERVICE on and a signing key. -/
def served : State := { keyed [key 3 0x20 0x20 0 (z 2560)] with pkg := { partUp.pkg with modes := 4 } }

/-- The part with PARTITIONED on and a tenant. -/
def parted : State :=
  { partUp with
    insts := [Inst.manager, { bind := { id := 1, vid := 7, shares := { qslots := 16 } } }], pkg := { partUp.pkg with modes := 1 } }

/-- The part in the life-cycle state Test. -/
def tested : State := { partUp with gran := { partUp.gran with lc := [{ fuses := 1, copies := [] }, { fuses := 1, copies := [] }] } }

/-- An initiator's IKE SA of instance 0 on field 0. -/
def ike (st : Nat) : Ike :=
  { handle := hk 6, field := 0, state := st,
    params := [0, 0, 1, 0, 1, 1, 1, 0] ++ hb 3 ++ z 6 ++ z 28 ++ [0, 5, 0, 0, 0, 0, 0, 16] ++ z 6 ++ z 21, spiI := z 8, spiR := z 8, sendId := 1 }

/-- The part with SERVICE on and that IKE SA. -/
def iked (st : Nat) : State := { served with ikes := [ike st] }

/-- A command admitted with SERVICE on. -/
def withAs (c : Cmd) : Cmd := { c with modes := 4 }

set_option maxRecDepth 20000
set_option Elab.async false

/-! ### Commands that come to their commit point -/

theorem test_ControlCommandsComplete_witness :
    Comes identifyDesc partUp (cmd 1 []) ∧
    Comes echoDesc partUp (cmd 8 (z 256)) ∧
    Comes enableDesc { partUp with pkg := { partUp.pkg with run := .bootstrap } } { cmd 2 [] with runAt := .bootstrap, field := none } ∧
    Comes wakeDesc { partUp with pkg := { partUp.pkg with run := .fallow } } { cmd 6 [] with runAt := .fallow, field := none } ∧
    Comes fallowDesc partUp (cmd 5 []) ∧
    Comes recoverDesc partUp (cmd 7 []) ∧
    Comes modeSetDesc partUp (cmd 0x10 [0,0]) ∧
    Comes macsecSaDesc (keyed [key 3 2 1 0 (z 32)]) (cmd 0x20 ([0, 0x80, 0, 1] ++ z 8 ++ hb 3 ++ z 24)) ∧
    Comes instanceResetDesc partUp (cmd 4 (z 4)) := by decide +kernel

theorem test_KeyCommandsComplete_witness :
    Comes keyGenerateDesc partUp (cmd 0x101 ([4, 0] ++ toBE 3 0x10 ++ [0] ++ toBE 2 32)) ∧
    Comes keyLoadDesc { partUp with working := [(0x41, some 0, 1)] } { cmd 0x102 ([4, 0] ++ toBE 3 0x10 ++ [0] ++ toBE 2 32 ++ z 32) with ctx := {
      cx with sci := some 1 } } ∧
    Comes keyLoadPublicDesc partUp (cmd 0x103 ([0xA0, 0] ++ toBE 3 0x40 ++ z 3 ++ z 1312)) ∧
    Comes keyWrapDesc (keyed [key 3 2 4 0 (z 32), key 4 4 0x1010 32 (z 32)]) (cmd 0x105 (hb 3 ++ hb 4)) ∧
    Comes keyDeriveDesc (keyed [key 3 4 0x10 32 (z 32)]) (cmd 0x106 (hb 3 ++ [1, 2] ++ toBE 3 3 ++ [0, 0, 0])) ∧
    Comes keyDestroyDesc (keyed [key 3 4 0x10 32 (z 32)]) (cmd 0x107 (hb 3)) ∧
    Comes keyNarrowDesc (keyed [key 3 4 0x10 32 (z 32)]) (cmd 0x108 (hb 3 ++ z 4)) ∧
    Comes keyInfoDesc (keyed [key 3 4 0x10 32 (z 32)]) (cmd 0x109 (hb 3)) ∧
    Comes keyExportPublicDesc (keyed [key 3 0xA0 0x40 0 (z 1312)]) (cmd 0x10A (hb 3)) := by decide +kernel

theorem test_LatticeCommandsComplete_witness :
    Comes mlkemKeygenDesc partUp (cmd 0x201 ([0, 0] ++ toBE 3 0x100 ++ [0])) ∧
    Comes mlkemEncapsDesc (keyed [key 3 0x90 0x80 0 (z 800)]) (cmd 0x202 ([0, 0] ++ hb 3)) ∧
    Comes mlkemDecapsDesc (keyed [key 3 0x10 0x100 0 (z 1632)]) (cmd 0x203 ([0, 0] ++ hb 3 ++ z 768)) ∧
    Comes hybridEncapsDesc (keyed [key 3 0xF3 0x200 0 (z 32), key 4 0x91 0x80 0 (z 1184)]) (cmd 0x210 ([1, 0] ++ hb 3 ++ hb 4)) ∧
    Comes mldsaSignDesc (keyed [key 3 0x20 0x20 0 (z 2560)]) (cmd 0x301 (hb 3 ++ [0, 0, 0] ++ toBE 3 4 ++ z 4)) ∧
    Comes mldsaVerifyDesc (keyed [key 3 0xA0 0x40 0 (z 1312)]) (cmd 0x302 (hb 3 ++ [0, 0, 0, 0] ++ toBE 3 4 ++ z 2420 ++ z 4)) ∧
    Comes hybridSignDesc (keyed [key 3 0x20 0x20 0 (z 2560), key 4 0x70 0x20 0 (z 32)]) (cmd 0x310 (hb 3 ++ hb 4 ++ [0, 0] ++ toBE 3 4 ++ z 4)) ∧
    Comes hybridVerifyDesc (keyed [key 3 0xA0 0x40 0 (z 1312), key 4 0xF0 0x40 0 (z 65)]) (cmd 0x311 (hb 3 ++ hb 4 ++ [0, 0, 0] ++ toBE 3 4 ++ z
      (2420 + 64) ++ z 4)) := by decide +kernel

theorem test_HashSignatureCommandsComplete_witness :
    Comes slhdsaSignDesc (keyed [key 3 0x30 0x20 0 (z 64)]) (cmd 0x320 (hb 3 ++ [0, 0, 0, 0, 0, 0] )) ∧
    Comes slhdsaVerifyDesc (keyed [key 3 0xB0 0x40 0 (z 32)]) (cmd 0x321 (hb 3 ++ [0, 0, 0, 0, 0, 0, 0] ++ z (slhSig 0))) ∧
    Comes statefulKeygenDesc partUp (cmd 0x801 ([0x40, 1] ++ toBE 3 0x00C020 ++ [0] ++ [0x11] ++ z 7 )) ∧
    Comes statefulSignDesc (keyed [leafy]) (cmd 0x802 (hb 3 ++ [0,0,0])) ∧
    Comes statefulVerifyDesc (keyed [key 3 0xC0 0x40 0 (z 60)]) (cmd 0x803 (hb 3 ++ [0xC0, 0] ++ [0,0,0] ++ [0,0,0])) ∧
    Comes statefulStatusDesc (keyed [leafy]) (cmd 0x804 (hb 3)) ∧
    Comes statefulSetBlockDesc (keyed [leafy]) (cmd 0x805 (hb 3 ++ [0, 64])) := by decide +kernel

theorem test_ClassicalCommandsComplete_witness :
    Comes mceEncapsDesc (keyed [key 3 0xD0 0x80 0 (z 8)]) (cmd 0x220 ([0, 0] ++ hb 3)) ∧
    Comes mceDecapsDesc (keyed [key 3 0x50 0x100 0 (z 64)]) (cmd 0x221 ([0, 0] ++ hb 3 ++ z (mceCt 0))) ∧
    Comes rsaEncryptDesc (keyed [key 3 0xE0 0x1 2048 (z 264)]) (cmd 0x401 (hb 3 ++ toBE 2 2048 ++ [1, 1, 0, 0, 0, 0])) ∧
    Comes rsaSignDesc (keyed [key 3 0x60 0x20 2048 (z 1000)]) (cmd 0x403 (hb 3 ++ toBE 2 2048 ++ [2, 1, 0, 0, 0, 0, 0])) ∧
    Comes rsaVerifyDesc (keyed [key 3 0xE0 0x40 2048 (z 264)]) (cmd 0x404 (hb 3 ++ toBE 2 2048 ++ [2, 1, 0, 0, 0, 0, 0] ++ z 256)) ∧
    Comes ecdsaSignDesc (keyed [key 3 0x70 0x20 0 (z 32)]) (cmd 0x410 (hb 3 ++ [0, 1, 0, 0, 0, 0])) ∧
    Comes ecdsaVerifyDesc (keyed [key 3 0xF0 0x40 0 (z 65)]) (cmd 0x411 (hb 3 ++ [0, 1, 0, 0, 0, 0] ++ z 64)) ∧
    Comes ecAgreeDesc (keyed [key 3 0x70 0x200 0 (z 32), key 4 0xF0 0x200 0 (z 65)]) (cmd 0x412 (hb 3 ++ [0, 0] ++ hb 4)) ∧
    Comes eddsaSignDesc (keyed [key 3 0x75 0x20 0 (z 32)]) (cmd 0x420 (hb 3 ++ [0, 0, 0, 0, 0])) ∧
    Comes eddsaVerifyDesc (keyed [key 3 0xF5 0x40 0 (z 32)]) (cmd 0x421 (hb 3 ++ [0, 0, 0, 0, 0] ++ z 64)) ∧
    Comes rsaDecryptDesc (keyed [key 3 0x60 0x2 2048 [0x30, 6, 2, 1, 0, 2, 1, 5]]) (cmd 0x402 (hb 3 ++ toBE 2 2048 ++ [1, 1, 0, 0] ++ z 256)) := by
      decide +kernel

theorem test_HashAndCipherCommandsComplete_witness :
    Comes (winnowDesc 0x601) partUp (cmd 0x601 (z 6 ++ [0x12, 0] ++ z 7)) ∧
    Comes (winnowDesc 0x602) (keyed [key 3 4 0x400 32 (z 32)]) (cmd 0x602 (hb 3 ++ [0x61, 0] ++ [0, 0, 0, 32, 0, 0, 0])) ∧
    Comes (winnowDesc 0x603) (keyed [key 3 4 0x800 32 (z 32)]) (cmd 0x603 (hb 3 ++ [0x61, 0] ++ [0, 0, 0, 4, 0, 0, 0] ++ z 4)) ∧
    Comes (winnowDesc 0x604) partUp (cmd 0x604 (z 6 ++ [0x12, 0] ++ [0, 0, 0, 32, 0, 0, 0] ++ z 32)) ∧
    Comes aeadSealDesc (keyed [key 3 2 1 0 (z 32)]) (cmd 0x501 (hb 3 ++ [1, 0, 12, 16, 0, 0, 0, 0, 0] ++ z 12)) ∧
    Comes aeadOpenDesc (keyed [key 3 2 2 0 (z 32)]) (cmd 0x502 (hb 3 ++ [1, 0, 12, 16, 0, 0, 0, 0, 0] ++ z 12 ++ z 16)) ∧
    Comes saInstallDesc inl { cmd 0x510 ([4, 3, 0, 0] ++ hb 3 ++ z 4 ++ z 12 ++ toBE 8 1 ++ toBE 8 1 ++ [0, 1] ++ z 2 ++ z 24 ++ [0, 0]) with modes
      := 2 } ∧
    Comes saRetireDesc { partUp with sas := [sa1] } (cmd 0x511 (hb 5)) ∧
    Comes saInfoDesc { partUp with sas := [sa1] } (cmd 0x512 (hb 5)) ∧
    Comes (cmacDesc 0x520 aMacGen false) (keyed [key 3 2 0x400 0 (z 32)]) (cmd 0x520 (hb 3 ++ [16, 0, 0, 0, 0])) ∧
    Comes (cmacDesc 0x521 aMacVerify true) (keyed [key 3 2 0x800 0 (z 32)]) (cmd 0x521 (hb 3 ++ [8, 0, 0, 0, 0] ++ z 8)) := by decide +kernel

theorem test_RandomAndProgramCommandsComplete_witness :
    Comes randomGenerateDesc partUp (cmd 0x701 [0, 0, 1, 0]) ∧
    Comes rngHealthDesc partUp (cmd 0x702 [1, 0, 0, 0]) ∧
    Comes rngConfigDesc partUp (cmd 0x710 ([0xFF, 1, 41, 0] ++ toBE 2 792 ++ toBE 2 700 ++ toBE 2 600 ++ [0, 0])) ∧
    Comes programRunDesc { partUp with images := [img] } (cmd 0xA02 (hb 9 ++ z 34)) ∧
    Comes programUnloadDesc { partUp with images := [img] } (cmd 0xA03 (hb 9)) ∧
    Comes programInfoDesc { partUp with images := [img] } (cmd 0xA04 (hb 9)) ∧
    Comes diagRunDesc { partUp with pkg := { partUp.pkg with run := .recovery } } { cmd 0xD20 [0, 0, 3, 0] with runAt := .recovery, field := none } ∧
    Comes diagWordDesc held { cmd 0xD21 [0, 0, 1, 0, 0, 0, 4, 0, 0, 0] with runAt := .recovery, field := none } ∧
    Comes diagResumeDesc held { cmd 0xD22 [0, 0, 0, 0] with runAt := .recovery, field := none } := by decide +kernel

theorem test_ControlStoreCommandsComplete_witness :
    Comes ucodeVersionDesc partUp (cmd 0xA10 []) ∧
    Comes openClearDesc partUp (cmd 0xA13 [0, 0, 0, 0]) := by decide +kernel

theorem test_ServiceCommandsComplete_witness :
    Comes tkCloseDesc { partUp with ikes := [{ handle := hk 6, field := 0 }] } (cmd 0x905 (hb 6)) ∧
    Comes sheafSignDesc served { cmd 0x910 (hb 3 ++ [1, 0] ++ z 8 ++ toBE 4 1 ++ z 3) with modes := 4 } ∧
    Comes sheafVerifyDesc { keyed [key 3 0xA0 0x40 0 (z 1312)] with pkg := { partUp.pkg with modes := 4 } } { cmd 0x911 (hb 3 ++ z 2 ++ toBE 3 (20
      + 32 + 2420) ++ toBE 2 6 ++ z 3 ++ [0x53, 0x48, 0x46, 0x31, 1, 0xA0] ++ z (14 + 32 + 2420) ++ z 6) with modes := 4 } ∧
    Comes attestDesc partUp (cmd 0x920 (z 40)) ∧
    Comes tkStepDesc (iked 1) (withAs (cmd 0x902 (hb 6 ++ z 2 ++ toBE 3 28 ++ z 1 ++ z 28))) := by decide +kernel

theorem test_InstanceAndSettingCommandsComplete_witness :
    Comes instanceCreateDesc parted { cmd 0xE01 ([0, 0, 0, 8] ++ z 16 ++ [0, 16, 0, 100, 0, 100] ++ z 18) with modes := 1, field := none } ∧
    Comes instanceDestroyDesc parted { cmd 0xE02 [1, 0, 0, 0] with modes := 1, field := none } ∧
    Comes shareSetDesc parted { cmd 0xE03 ([1, 1, 0, 0] ++ [0, 32] ++ z 22) with modes := 1, field := none } ∧
    Comes instanceInfoDesc parted { cmd 0xE04 [1, 0, 0, 0] with modes := 1, field := none } ∧
    Comes instanceBindDesc parted { cmd 0xE05 ([1, 0, 0, 9] ++ z 16) with modes := 1, field := none } ∧
    Comes instanceListDesc parted { cmd 0xE06 [] with modes := 1, field := none } ∧
    Comes mboxStatusDesc parted { cmd 0xE20 [1, 0, 0, 0] with modes := 1, field := none } ∧
    Comes settingGetDesc partUp (cmd 0xB01 [0, 1, 0, 0]) ∧
    Comes settingSetDesc partUp (cmd 0xB02 [0, 6, 0, 0, 1, 1]) ∧
    Comes storeSettingsDesc partUp (cmd 0xB03 [0, 0, 0, 0]) := by decide +kernel

theorem test_LifeCycleCommandsComplete_witness :
    Comes attestBootDesc partUp (cmd 0xC02 (z 32)) ∧
    Comes lifecycleStatusDesc partUp (cmd 0xC01 []) ∧
    Comes lcAdvanceDesc tested (cmd 0xC10 ([7, 0, 0, 0] ++ toBE 4 0x2C5E9A41)) ∧
    Comes ownerSetDesc tested (cmd 0xC11 (z 4738)) ∧
    Comes identityInfoDesc partUp (cmd 0xC12 []) := by decide +kernel

theorem test_TelemetryCommandsComplete_witness :
    Comes gleanReadDesc partUp (cmd 0xD01 (z 4)) ∧
    Comes logReadDesc partUp (cmd 0xD02 ([0, 1] ++ z 10)) ∧
    Comes alarmReadDesc partUp (cmd 0xD03 []) ∧
    Comes timeGetDesc partUp (cmd 0xD04 []) ∧
    Comes timeCtlDesc partUp (cmd 0xD05 (z 12)) ∧
    Comes gleanCtlDesc partUp (cmd 0xD06 (toBE 4 10)) ∧
    Comes pageMetaDesc partUp (cmd 0xD10 (z 8)) := by decide +kernel

/-- A KEY_UNWRAP of an AES-256 key. -/
def unwrapping : Cmd :=
  cmd 0x104 (hb 3 ++ [255,255,255] ++ z 3 ++ [1, 4] ++ toBE 3 0x10 ++ [0] ++ toBE 2 32 ++ toBE 4 32 ++ z 4 ++ z 40)

/-- KEY_UNWRAP comes to its commit point with either verdict of the integrity check. -/
theorem test_keyUnwrap_witness (b : Bool)
    (h : Config.test .keyUnwrap [exportKey (z 32) (slice unwrapping.params 12 16), toBE 4 32, unwrapping.params.drop 28] = b) :
    ∃ y c, keyUnwrapDesc.effectAt? (recOf unwrapping) (having (keyed [key 3 2 8 0 (z 32)]) unwrapping) = some (y, c) ∧ unwrapOk c = b := by
  obtain ⟨x, c, hx, hp⟩ : ∃ x c, Desc.effectAt? { keyUnwrapDesc with writes := fun s c => s.descPages c 1 } (recOf unwrapping)
      (having (keyed [key 3 2 8 0 (z 32)]) unwrapping) = some (x, c) ∧ (c.params = unwrapping.params ∧ c.key (hk 3) = key 3 2 8 0 (z 32)) := by
    have hd : ((Desc.effectAt? { keyUnwrapDesc with writes := fun s c => s.descPages c 1 } (recOf unwrapping)
      (having (keyed [key 3 2 8 0 (z 32)]) unwrapping)).any fun q => q.2.params == unwrapping.params && q.2.key (hk 3) == key 3 2 8 0 (z 32)) = true := by
      decide +kernel
    rw [Option.any_eq_true] at hd
    obtain ⟨q, hq, hp⟩ := hd
    simp only [Bool.and_eq_true, beq_iff_eq] at hp
    exact ⟨q.1, q.2, hq, hp⟩
  obtain ⟨y, hy⟩ := writes_of keyUnwrapDesc (fun s c => s.descPages c 1) (recOf unwrapping) _ x c
    (fun s c p hp => by
      have hw : keyUnwrapDesc.writes s c = if unwrapOk c then s.descPages c 1 else [] := rfl
      rw [hw] at hp
      split at hp
      · exact hp
      · simp at hp) hx
  refine ⟨y, c, hy, ?_⟩
  rw [← h]
  simp only [unwrapOk, Cmd.p, hp.1]
  rw [show num unwrapping.params 0 6 = hk 3 by decide, hp.2, show num unwrapping.params 20 4 = 32 by decide]
  rfl

/-- AEAD_OPEN comes to its commit point with either verdict of the tag check, and its staged output can be read. -/
theorem test_aeadOpen_witness (b : Bool) (h : Config.test (.aeadTag 1) [z 32, z 12, [], [], z 16] = b) :
    ∃ x c, aeadOpenDesc.effectAt? (recOf (cmd 0x502 (hb 3 ++ [1, 0, 12, 16, 0, 0, 0, 0, 0] ++ z 12 ++ z 16)))
        (having (keyed [key 3 2 2 0 (z 32)]) (cmd 0x502 (hb 3 ++ [1, 0, 12, 16, 0, 0, 0, 0, 0] ++ z 12 ++ z 16))) = some (x, c) ∧
      (x.releaseOut c 0 (num c.params 12 3)).1 = none ∧
      Config.test (.aeadTag (num c.params 6 1)) [(c.key (num c.params 0 6)).body, slice c.params 15 (aI c), slice c.params (15 + aI c) (num c.params 10 2),
        slice c.params (15 + aI c + num c.params 10 2) (num c.params 12 3),
        slice c.params (15 + aI c + num c.params 10 2 + num c.params 12 3) (num c.params 9 1)] = b := by
  have hd : ComesWith aeadOpenDesc (keyed [key 3 2 2 0 (z 32)]) (cmd 0x502 (hb 3 ++ [1, 0, 12, 16, 0, 0, 0, 0, 0] ++ z 12 ++ z 16)) (fun x c =>
      (x.releaseOut c 0 (num c.params 12 3)).1.isNone && c.params == hb 3 ++ [1, 0, 12, 16, 0, 0, 0, 0, 0] ++ z 12 ++ z 16 &&
        (c.key (hk 3)).body == z 32 && aI c == 12) := by decide +kernel
  rw [ComesWith, Option.any_eq_true] at hd
  obtain ⟨q, hq, hp⟩ := hd
  simp only [Bool.and_eq_true, beq_iff_eq, Option.isNone_iff_eq_none] at hp
  refine ⟨q.1, q.2, hq, hp.1.1.1, ?_⟩
  rw [hp.2, hp.1.1.2, show num (hb 3 ++ [1, 0, 12, 16, 0, 0, 0, 0, 0] ++ z 12 ++ z 16) 0 6 = hk 3 by decide, hp.1.2, ← h]
  rfl

theorem test_CompletesWhere_witness :
    ComesWith keyGenerateDesc partUp (cmd 0x101 ([4, 0] ++ toBE 3 0x10 ++ [0] ++ toBE 2 32)) (fun _ c => tClass (c.p 0 1) == 0) ∧
    ComesWith keyGenerateDesc partUp (cmd 0x101 ([0x75, 0] ++ toBE 3 0x20 ++ [0] ++ toBE 2 0)) (fun _ c => tClass (c.p 0 1) != 0) ∧
    ComesWith saInfoDesc { partUp with sas := [sa1] } (cmd 0x512 (hb 5)) (fun s c => s.clean c.fld (saPage s.n (c.p 0 6))) ∧
    ComesWith aeadSealDesc (keyed [key 3 2 1 0 (z 32)]) (cmd 0x501 (hb 3 ++ [1, 0, 12, 16, 0, 0, 0, 0, 0] ++ z 12)) (fun s c =>
      let g := if aIvGen c then num c.params 8 1 else 0
      (s.releaseOut c g (g + num c.params 12 3 + num c.params 9 1)).1.isNone) ∧
    ComesWith aeadOpenDesc (keyed [key 3 2 2 0 (z 32)]) (cmd 0x502 (hb 3 ++ [1, 0, 12, 16, 0, 0, 0, 0, 0] ++ z 12 ++ z 16)) (fun s c =>
      (s.releaseOut c 0 (num c.params 12 3)).1.isNone) ∧
    ComesWith rngConfigDesc partUp (cmd 0x710 ([0xFF, 1, 41, 0] ++ toBE 2 792 ++ toBE 2 700 ++ toBE 2 600 ++ [0, 0])) (fun _ c => c.aux == 0) ∧
    ComesWith programRunDesc { partUp with images := [img] } (cmd 0xA02 (hb 9 ++ z 34)) (fun _ c => c.aux == 0) ∧
    ComesWith diagRunDesc { partUp with pkg := { partUp.pkg with run := .recovery } }
      { cmd 0xD20 [0, 0, 3, 0] with runAt := .recovery, field := none } (fun _ c => c.aux == 0) ∧
    ComesWith diagWordDesc held { cmd 0xD21 [0, 0, 1, 0, 0, 0, 4, 0, 0, 0] with runAt := .recovery, field := none }
      (fun s c => (s.heldEnv (diagRef c 1)).isSome) ∧
    ComesWith diagResumeDesc held { cmd 0xD22 [0, 0, 0, 0] with runAt := .recovery, field := none }
      (fun s c => c.aux == 0 && (s.heldRun (diagRef c 1)).isSome && (s.furrow (diagRef c 1)).held.isSome) ∧
    ComesWith openClearDesc partUp (cmd 0xA13 [0, 0, 0, 0]) (fun s _ => !s.openBusy) ∧
    ((openClearDesc.effectAt? (recOf (cmd 0xA13 [0, 0, 0, 0]))
      { opened with cmds := [cmd 0xA13 [0, 0, 0, 0], { cmd 0xE000 [] with tag := 2 }] }).any fun q => q.1.openBusy) = true ∧
    ComesWith tkStepDesc (iked 1) (withAs (cmd 0x902 (hb 6 ++ z 2 ++ toBE 3 28 ++ z 1 ++ z 28))) (fun s c => (s.readIke c (s.ikeOf c)).1) ∧
    ComesWith tkSendDesc { served with ikes := [{ ike 5 with request := z 28, asked := 37 }] } (withAs (cmd 0x904 (hb 6 ++ [1, 0] ++ z 6)))
      (fun s c => (s.readIke c (s.ikeOf c)).1 && (s.ikeOf c).request != []) ∧
    ComesWith instanceCreateDesc parted { cmd 0xE01 ([0, 0, 0, 8] ++ z 16 ++ [0, 16, 0, 100, 0, 100] ++ z 18) with modes := 1, field := none }
      (fun s c => (s.createId c).isSome) := by decide +kernel

/-! ### The TK commands whose message out has a length to be shown -/

theorem stepResult_num (h st o n L : Nat) (out : Bytes) (hl : out.length = L) (hL : beNat (toBE 3 L) = L) :
    num (stepResult h st o n out [] []) 12 3 = L := by
  have h1 : stepResult h st o n out [] [] = (toBE 6 h ++ toBE 1 st ++ toBE 1 o ++ toBE 2 n ++ toBE 1 0 ++ [0]) ++ (toBE 3 L ++ (toBE 3 0 ++ out)) := by
    simp [stepResult, hl]
  have hs : slice (stepResult h st o n out [] []) 12 3 = toBE 3 L := by
    rw [h1, slice, List.drop_left' (by simp [toBE_length]), List.take_left' (by simp [toBE_length])]
  rw [num, hs]
  simpa [toBE_length] using hL

/-- A TK_DECIDE that rejects, with the peer's key in a handle. -/
def rejecting : Cmd := withAs (cmd 0x903 (hb 6 ++ [2, 0, 0, 24] ++ hb 4 ++ z 10))

/-- The part with an initiator's IKE SA, its own key and the peer's. -/
def deciding (k : Ike) : State := { keyed [key 3 0x20 0x20 0 (z 2560), key 4 0xA0 0x40 0 (z 1312)] with pkg := served.pkg, ikes := [k] }

theorem decide_rejects (s : State) (c : Cmd) (hi : s.ikeOf c = ike 3) (hp : c.params = rejecting.params) :
    (tkDecideBody s c).2 = ok (stepResult (hk 6) 6 3 24 ((ike 3).protect 37 false 2 [notifyPayload 24]) [] []) := by
  have h1 : s.readIke c (ike 3) = (true, s) := rfl
  have h2 : decideOk (ike 3) c = false := by
    unfold decideOk
    have : c.p 6 1 = 2 := by simp only [Cmd.p, hp]; decide
    rw [this]; rfl
  have h3 : c.p 6 1 = 2 := by simp only [Cmd.p, hp]; decide
  have h4 : c.p 8 2 = 24 := by simp only [Cmd.p, hp]; decide
  unfold tkDecideBody
  simp only [hi, h1, h2, h3, h4]
  rfl

theorem protect_length : ((ike 3).protect 37 false 2 [notifyPayload 24]).length = 65 := by
  simp only [Ike.protect, List.length_append, std_length]
  decide

theorem wait_rejects (s : State) (c : Cmd) (n : Nat) (hi : s.ikeOf { c with drawn := List.replicate n 0 } = ike 3)
    (hp : c.params = rejecting.params) (hu : s.serviceUsed c + tkInLen c + 65 ≤ s.servicePart) : tkWait tkDecideBody n s c = none := by
  unfold tkWait
  simp only [decide_rejects s { c with drawn := List.replicate n 0 } hi hp, ok, stepResult_num _ _ _ _ 65 _ protect_length (by decide)]
  rw [if_neg]
  omega

theorem test_tkDecide_witness : ComesWith tkDecideDesc (deciding (ike 3)) rejecting (fun x c =>
    (x.readIke c (x.ikeOf c)).1 && !decideOk (x.ikeOf c) c) := by
  rw [ComesWith, wait_eq_of _ _ _ rejecting (by decide)]
  · decide +kernel
  intro hs hh
  have h : Desc.homes tkDecideDesc (tkDecideDesc.servedState (having (deciding (ike 3)) rejecting) rejecting)
    (tkDecideDesc.judgedCmd (having (deciding (ike 3)) rejecting) rejecting) = some [(0, [])] := by decide +kernel
  rw [h] at hh
  cases hh
  rw [show tkDecideDesc.wait = fun s c => tkWait tkDecideBody (tkDecideDraws s c).sum s c from rfl]
  simp only
  rw [wait_rejects _ _ _ (by decide +kernel) (by decide +kernel) (by decide +kernel)]
  rfl

/-- A TK_OPEN of an initiator. -/
def opening : Cmd := withAs (cmd 0x901 ([0, 0, 1, 0, 1, 1, 1, 0] ++ hb 3 ++ z 6 ++ z 28 ++ [0, 5, 0, 0, 0, 0, 0, 16] ++ z 6 ++ z 21))

theorem init_length (k : Ike) (drawn : Bytes) (hp : k.params = opening.params) (hs : k.spiI.length = 8) (hr : k.spiR.length = 8)
    (hd : (slice drawn 8 32).length = 32) : (k.clear 34 false 0 (k.initPayloads 1 drawn)).length = 158 := by
  have hi : initNotifies k = [notifyPayload 16431 [0, 2, 0, 3, 0, 5]] := by
    unfold initNotifies Ike.initiator
    rw [hp]
    decide
  have hk : ∀ d, (kePayload (byteAt k.params 2) d).2.length = 36 := by
    intro d
    rw [hp, show byteAt opening.params 2 = 1 from by decide]
    simp only [kePayload, ecPublicOf, toBE_length, std_length, List.length_append, List.length_cons, List.length_nil, beq_self_eq_true, if_true]
    rfl
  have hb : (saBody 1 1 [] (ikePolicy k.params)).length = 36 := by rw [hp]; decide
  have hn : (notifyPayload 16431 [0, 2, 0, 3, 0, 5]).2.length = 10 := by decide
  simp only [Ike.clear, Ike.initPayloads, hi, buildPayloads, List.cons_append, List.nil_append, List.length_append, ikeHeader, toBE_length,
    hk, hb, hd, hn, hs, hr, List.length_cons, List.length_nil]

theorem opens (s : State) (c : Cmd) (h i : Nat) (hn : s.newIke c.inst c.fld = some (h, i)) (hp : c.params = opening.params)
    (hd : c.drawn.length = 72) : ∃ (k : Ike) (out : Bytes), out.length = 158 ∧ (tkOpenBody s c).2 = ok (stepResult k.handle k.state 0 0 out [] []) := by
  have h0 : (c.p 0 1 == 0) = true := by simp only [Cmd.p, hp]; decide
  have hk : (s.openIke c h i).1.params = opening.params := by
    rw [← hp]
    unfold State.openIke Ike.recharge
    dsimp only
    split <;> rfl
  unfold tkOpenBody
  simp only [hn, h0]
  refine ⟨_, _, init_length { (s.openIke c h i).1 with spiI := c.drawn.take 8, spiR := List.replicate 8 0, asked := 34 } c.drawn hk ?_ ?_ ?_, rfl⟩
  · simp [hd]
  · simp
  · simp [slice, hd]

theorem wait_opens (s : State) (c : Cmd) (h i : Nat) (hn : s.newIke c.inst c.fld = some (h, i)) (hp : c.params = opening.params)
    (hu : s.serviceUsed c + tkInLen c + 158 ≤ s.servicePart) : tkWait tkOpenBody 72 s c = none := by
  obtain ⟨k, out, hl, hb⟩ := opens s { c with drawn := List.replicate 72 0 } h i hn hp (by simp)
  unfold tkWait
  simp only [hb, ok, stepResult_num _ _ _ _ 158 out hl (by decide)]
  rw [if_neg]
  omega

theorem test_tkOpen_witness : ComesWith tkOpenDesc served opening (fun x c => (x.newIke c.inst c.fld).isSome) := by
  rw [ComesWith, wait_eq_of _ _ _ opening (by decide)]
  · decide
  intro hs hh
  have h : ∃ rs, Desc.homes tkOpenDesc (tkOpenDesc.servedState (having served opening) opening)
    (tkOpenDesc.judgedCmd (having served opening) opening) = some [(0, rs)] := ⟨_, rfl⟩
  obtain ⟨rs, h⟩ := h
  rw [h] at hh
  cases hh
  rw [show tkOpenDesc.wait = fun s c => tkWait tkOpenBody (40 + keDraw (c.p 2 1)) s c from rfl]
  simp only
  rw [show 40 + keDraw _ = 72 from rfl]
  have hn : (tkOpenDesc.startedState (tkOpenDesc.servedState (having served opening) opening)
      (tkOpenDesc.judgedCmd (having served opening) opening) [(0, rs)]).newIke
      (tkOpenDesc.judgedCmd (having served opening) opening).inst (tkOpenDesc.judgedCmd (having served opening) opening).fld =
      some (1, 0) := by
    refine Eq.trans ?_ (show served.newIke 0 0 = some (1, 0) by decide)
    show _ = served.newIke 0 0
    unfold State.newIke
    congr 1
  have hu : (tkOpenDesc.startedState (tkOpenDesc.servedState (having served opening) opening)
      (tkOpenDesc.judgedCmd (having served opening) opening) [(0, rs)]).serviceUsed
      (tkOpenDesc.judgedCmd (having served opening) opening) = 0 := by with_unfolding_all rfl
  have hp : (tkOpenDesc.startedState (tkOpenDesc.servedState (having served opening) opening)
      (tkOpenDesc.judgedCmd (having served opening) opening) [(0, rs)]).servicePart = served.servicePart := rfl
  have hl : tkInLen (tkOpenDesc.judgedCmd (having served opening) opening) + 158 ≤ served.servicePart := by decide
  rw [wait_opens _ _ 1 0 hn (by decide) (by rw [hu, hp]; omega)]
  rfl

/-- An initiator's IKE SA that holds the responder's IKE_AUTH answer: its identity and an AUTH payload. -/
def authed : Ike := { ike 3 with peer := [(36, [1, 0, 0, 0]), (39, [14, 0, 0, 0, 13] ++ authAlg 0x20 ++ z 2420)] }

/-- A TK_DECIDE that accepts it, with the peer's key in a handle. -/
def accepting : Cmd := withAs (cmd 0x903 (hb 6 ++ [1, 0, 0, 0] ++ hb 4 ++ z 10))

theorem accept_draws (s : State) (c : Cmd) (hi : s.ikeOf c = authed) : (tkDecideDraws s c).sum = 0 := by
  have hb : authed.buildsOwn = false := by decide
  have hn : authed.initiator = true := by decide
  simp only [tkDecideDraws, hi, hb, hn]
  split <;> rfl

theorem accepts (s : State) (c : Cmd) (hi : s.ikeOf c = authed) (ho : decideOk authed c = true) :
    ∃ st, (tkDecideBody s c).2 = ok (stepResult (hk 6) st 0 0 [] [] []) := by
  have h1 : s.readIke c authed = (true, s) := rfl
  unfold tkDecideBody
  simp only [hi, h1, ho]
  exact ⟨_, rfl⟩


theorem accept_waits (s : State) (c : Cmd) (hi : s.ikeOf { c with drawn := [] } = authed) (ho : decideOk authed { c with drawn := [] } = true)
    (hu : s.serviceUsed c + tkInLen c + 0 ≤ s.servicePart) : tkWait tkDecideBody 0 s c = none := by
  obtain ⟨st, hb⟩ := accepts s { c with drawn := [] } hi ho
  unfold tkWait
  simp only [List.replicate_zero, hb, ok, stepResult_num _ _ _ _ 0 [] rfl (by decide)]
  rw [if_neg]
  omega

/-- Its checks pass with no secret to seat. -/
theorem accept_homes : Desc.homes tkDecideDesc (tkDecideDesc.servedState (having (deciding authed) accepting) accepting)
    (tkDecideDesc.judgedCmd (having (deciding authed) accepting) accepting) = some [(0, [])] := by decide

theorem test_tkDecide_accepts_witness (h : authed.peerAuthOk 0x20 (z 1312) = true) :
    ∃ q, tkDecideDesc.effectAt? (recOf accepting) (having (deciding authed) accepting) = some q ∧
      (q.1.readIke q.2 (q.1.ikeOf q.2)).1 = true ∧ decideOk (q.1.ikeOf q.2) q.2 = true := by
  have ho : ∀ c : Cmd, c.params = accepting.params → c.key (hk 4) = key 4 0xA0 0x40 0 (z 1312) → decideOk authed c = true := by
    intro c hp hk
    have ht : decideType c = 0x20 := by
      simp only [decideType, Cmd.inline, Cmd.p, hp]
      rw [show num accepting.params 10 6 = Tests.hk 4 by decide, hk]
      rfl
    have hb : decideKey c = z 1312 := by
      simp only [decideKey, Cmd.inline, Cmd.p, hp]
      rw [show num accepting.params 10 6 = Tests.hk 4 by decide, hk]
      rfl
    simp only [decideOk, ht, hb, h, Cmd.p, hp]
    decide
  rw [draw_eq_of tkDecideDesc (recOf accepting) (having (deciding authed) accepting) accepting (by decide) (fun _ _ => rfl)
    (congrArg some (accept_draws _ _ (by decide +kernel))) (congrArg some (accept_draws _ _ (by decide +kernel)))
    (fun hs hh => by
      rw [accept_homes] at hh
      cases hh
      exact congrArg some (accept_draws _ _ (by decide)))]
  rw [wait_eq_of { tkDecideDesc with draw := fun _ _ => some 0 } (recOf accepting) (having (deciding authed) accepting) accepting (by decide)
    (fun hs hh => by
      have hh' : some [(0, [])] = some hs := accept_homes.symm.trans hh
      cases hh'
      have hw : ∀ x c, (Desc.wait { tkDecideDesc with draw := fun _ _ => some 0 } x c) = tkWait tkDecideBody (tkDecideDraws x c).sum x c :=
        fun _ _ => rfl
      rw [hw, accept_draws _ _ (by decide), accept_waits _ _ (by decide) (ho _ (by decide) (by decide)) (by decide)]
      rfl)]
  have hd : ((Desc.effectAt? { tkDecideDesc with draw := fun _ _ => some 0, wait := fun _ _ => none } (recOf accepting)
      (having (deciding authed) accepting)).any fun q => q.1.ikeOf q.2 == authed && q.2.params == accepting.params &&
        q.2.key (hk 4) == key 4 0xA0 0x40 0 (z 1312) && (q.1.readIke q.2 authed).1) = true := by decide +kernel
  rw [Option.any_eq_true] at hd
  obtain ⟨q, hq, hp⟩ := hd
  simp only [Bool.and_eq_true, beq_iff_eq] at hp
  exact ⟨q, hq, by rw [hp.1.1.1]; exact hp.2, by rw [hp.1.1.1]; exact ho _ hp.1.1.2 hp.1.2⟩

/-- A TK_SEND that asks whether the peer is there. -/
def probing : Cmd := withAs (cmd 0x904 (hb 6 ++ [1, 0] ++ z 6))

theorem probes (s : State) (c : Cmd) (hi : s.ikeOf c = ike 5) (hp : c.params = probing.params) :
    ∃ out, out.length = 57 ∧ (tkSendBody s c).2 = ok (stepResult (hk 6) 5 0 0 out [] []) := by
  have h1 : s.readIke c (ike 5) = (true, s) := rfl
  have h2 : c.p 6 1 = 1 := by simp only [Cmd.p, hp]; decide
  refine ⟨((ike 5).ask 37 []).1, ?_, ?_⟩
  · simp only [Ike.ask, Ike.protect, List.length_append, std_length]
    decide
  · unfold tkSendBody
    simp only [hi, h1, h2]
    rfl

theorem test_tkSend_probes_witness :
    ∃ q, tkSendDesc.effectAt? (recOf probing) (having (iked 5) probing) = some q ∧
      (q.1.readIke q.2 (q.1.ikeOf q.2)).1 = true ∧ (q.1.ikeOf q.2).request = [] ∧ num q.2.params 6 1 = 1 := by
  rw [wait_eq_of tkSendDesc (recOf probing) (having (iked 5) probing) probing (by decide) (fun hs hh => by
    have h : Desc.homes tkSendDesc (tkSendDesc.servedState (having (iked 5) probing) probing)
      (tkSendDesc.judgedCmd (having (iked 5) probing) probing) = some [(0, [])] := by decide
    rw [h] at hh
    cases hh
    obtain ⟨out, hl, hb⟩ := probes (tkSendDesc.startedState (tkSendDesc.servedState (having (iked 5) probing) probing)
      (tkSendDesc.judgedCmd (having (iked 5) probing) probing) [(0, [])])
      { tkSendDesc.judgedCmd (having (iked 5) probing) probing with drawn := [] } (by decide) (by decide)
    have hw : ∀ x c, tkSendDesc.wait x c = tkWait tkSendBody (tkSendDraws x c).sum x c := fun _ _ => rfl
    rw [hw, show (tkSendDraws _ _).sum = 0 by decide]
    unfold tkWait
    simp only [List.replicate_zero, hb, ok, stepResult_num _ _ _ _ 57 out hl (by decide)]
    decide)]
  have hd : ((Desc.effectAt? { tkSendDesc with wait := fun _ _ => none } (recOf probing) (having (iked 5) probing)).any fun q =>
      (q.1.readIke q.2 (q.1.ikeOf q.2)).1 && (q.1.ikeOf q.2).request == [] && num q.2.params 6 1 == 1) = true := by decide +kernel
  rw [Option.any_eq_true] at hd
  obtain ⟨q, hq, hp⟩ := hd
  simp only [Bool.and_eq_true, beq_iff_eq] at hp
  exact ⟨q, hq, hp.1.1, hp.1.2, hp.2⟩

/-- A TK_SEND that sends its outstanding request again (R400). -/
theorem test_tkSend_witness :
    Comes tkSendDesc { served with ikes := [{ ike 5 with request := z 28, asked := 37 }] } (withAs (cmd 0x904 (hb 6 ++ [1, 0] ++ z 6))) := by
  decide +kernel

/-! ### Commands whose checks read an opaque signature or point check -/

/-- The ECDSA part of a signature block: both its numbers are 1. -/
def ecSig : Bytes := z 47 ++ [1] ++ z 47 ++ [1]
/-- A program image of one instruction, HALT. -/
def imageBytes : Bytes :=
  [0x53, 0x41, 0x49, 0x56, 1, 0, 0, 0, 0, 0, 2, 1, 0, 1, 0, 0, 0xFF, 0xFF, 0, 1] ++ z 23 ++ [1] ++ z 20 ++ z 5 ++ [0x0E] ++ z 4627 ++ ecSig
/-- A microcode patch of one zero word. -/
def patchBytes : Bytes := [0x49, 0x58, 0x4E, 0x50, 1] ++ toBE 3 0x020301 ++ [0, 0, 1, 0, 0, 1, 0, 0] ++ z 48 ++ [0, 0, 0] ++ z 20 ++ [0xFF] ++ z 4627 ++ ecSig
/-- An open image of one opcode and one zero word. -/
def openBytes : Bytes := [0x49, 0x58, 0x4E, 0x4F, 1, 0, 0, 0, 1, 0, 0, 1, 0, 1] ++ z 50 ++ ([0xE0, 0] ++ toBE 2 openBase ++ z 8 ++ [0, 1] ++ z 2) ++ z 20 ++ [0xFF] ++ z 4627 ++ ecSig
/-- A debug token of the part. -/
def tokenBytes : Bytes := [0x49, 0x58, 0x4E, 0x54, 1, 1, 7, 0] ++ toBE 8 0x4E490B1700002C4D ++ z 32 ++ z 32 ++ z 16 ++ z 3309 ++ ecSig ++ z 3309 ++ ecSig
/-- The part in RECOVERY with an owner. -/
def owned : State := { partUp with gran := { partUp.gran with owner := some { data := [1] } }, pkg := { partUp.pkg with run := .recovery } }
/-- A DEBUG_UNLOCK with it. -/
def unlocking : Cmd := { cmd 0xC03 tokenBytes with runAt := .recovery, field := none }
/-- A HYBRID_DECAPS. -/
def decapsing : Cmd := cmd 0x211 ([2, 0] ++ hb 3 ++ hb 4 ++ z (1568+194))
/-- A RESET. -/
def resetting : Cmd := { cmd 3 (toBE 4 0x6B1D0F3A) with field := none }

/-- The two standards' checks of a signature block of z 3309 or z 4627 and ecSig pass. -/
abbrev Verifies (set n : Nat) (dsaPk ecPk ctx msg : Bytes) : Prop :=
  dsaPureOk set dsaPk ctx msg (z n) = true ∧ Config.test (.ecdsa 1) [ecPk, digestOf 0x03 48 msg, ecSig] = true

theorem pair_of (set n : Nat) (dsaPk ecPk ctx msg : Bytes) (h : Verifies set n dsaPk ecPk ctx msg) :
    pairVerifies set dsaPk ecPk ctx msg (z n ++ ecSig) = true := by
  have hl : (z n ++ ecSig).length - 96 = (z n).length := by
    rw [List.length_append, show ecSig.length = 96 by decide, Nat.add_sub_cancel]
  unfold pairVerifies ecdsaVerifies
  rw [hl, List.take_left, List.drop_left, h.1]
  dsimp only
  rw [h.2]
  decide +kernel

theorem sigOk_of (s : State) (hl : (s.lc == .test || s.lc == .production) = true) (u : SigUse) (b : Bytes) (hb : sigPart b = z 4627 ++ ecSig)
    (h : Verifies 2 4627 (Config.vendorKey false false) (Config.vendorKey false true) u.ctx (signedPart b)) : s.sigOk u 0 b = true := by
  have hv : vendorSigned u b = true := by
    unfold vendorSigned
    rw [hb]
    exact pair_of _ _ _ _ _ _ h
  unfold State.sigOk
  rw [hl, hv]
  cases u <;> rfl

/-- A vendor image whose signatures verify loads. -/
theorem test_programLoad_witness
    (h : Verifies 2 4627 (Config.vendorKey false false) (Config.vendorKey false true) SigUse.saivo.ctx (signedPart imageBytes)) :
    Comes programLoadDesc partUp (cmd 0xA01 imageBytes) := by
  refine effect_of _ _ _ (cmd 0xA01 imageBytes) (by decide +kernel) (by decide +kernel) ?_ (by decide +kernel)
  have hs : partUp.sigOk .saivo (byteAt imageBytes 5) imageBytes = true := sigOk_of partUp (by decide +kernel) .saivo imageBytes (by decide +kernel) h
  show (firstFail [(!partUp.sigOk .saivo (byteAt imageBytes 5) imageBytes || !allAssigned (readInstrs (num imageBytes 12 2) (imageBytes.drop 64)), Status.imageRejected), _]).isNone = true
  rw [hs]
  decide +kernel

/-- A patch whose signatures verify is stored. -/
theorem test_ucodePatchStore_witness
    (h : Verifies 2 4627 (Config.vendorKey false false) (Config.vendorKey false true) SigUse.ucode.ctx (signedPart patchBytes)) :
    Comes ucodePatchStoreDesc partUp (cmd 0xA11 patchBytes) := by
  refine effect_of _ _ _ (cmd 0xA11 patchBytes) (by decide +kernel) (by decide +kernel) ?_ (by decide +kernel)
  have hs : partUp.sigOk .ucode 0 patchBytes = true := sigOk_of partUp (by decide +kernel) .ucode patchBytes (by decide +kernel) h
  show (firstFail [(!partUp.sigOk .ucode 0 patchBytes || num patchBytes 5 3 != partUp.fuses.ucodeBase || patchLevel patchBytes ≤ partUp.pend ||
    !patchParityOk patchBytes, Status.imageRejected)]).isNone = true
  rw [hs]
  decide +kernel

/-- An open image whose signatures verify loads. -/
theorem test_openLoad_witness
    (h : Verifies 2 4627 (Config.vendorKey false false) (Config.vendorKey false true) SigUse.openImage.ctx (signedPart openBytes)) :
    ComesWith openLoadDesc partUp (cmd 0xA12 (z 4 ++ openBytes)) fun s _ => !s.openBusy := by
  have hs : partUp.sigOk .openImage (byteAt openBytes 5) openBytes = true := sigOk_of partUp (by decide +kernel) .openImage openBytes (by decide +kernel) h
  rw [ComesWith, effect_eq_of _ _ _ (cmd 0xA12 (z 4 ++ openBytes)) (by decide +kernel) (by decide +kernel)]
  · decide +kernel
  · show (firstFail [(!(partUp.sigOk .openImage (byteAt openBytes 5) openBytes && (openWords openBytes).all (openWordOk (openNwords openBytes))), Status.imageRejected)]).isNone = true
    rw [hs]
    decide +kernel

/-- It does so too while a routine of the open region is outstanding, and then waits. -/
theorem test_openLoad_busy_witness
    (h : Verifies 2 4627 (Config.vendorKey false false) (Config.vendorKey false true) SigUse.openImage.ctx (signedPart openBytes)) :
    ((openLoadDesc.effectAt? (recOf (cmd 0xA12 (z 4 ++ openBytes)))
      { opened with cmds := [cmd 0xA12 (z 4 ++ openBytes), { cmd 0xE000 [] with tag := 2 }] }).any fun q => q.1.openBusy) = true := by
  have hs : opened.sigOk .openImage (byteAt openBytes 5) openBytes = true := sigOk_of opened (by decide +kernel) .openImage openBytes (by decide +kernel) h
  rw [effect_eq_of _ _ _ (cmd 0xA12 (z 4 ++ openBytes)) (by decide +kernel) (by decide +kernel)]
  · decide +kernel
  · show (firstFail [(!(opened.sigOk .openImage (byteAt openBytes 5) openBytes && (openWords openBytes).all (openWordOk (openNwords openBytes))), Status.imageRejected)]).isNone = true
    rw [hs]
    decide +kernel

/-- A token whose two signatures verify opens the debug port. -/
theorem test_debugUnlock_witness
    (h : Verifies 1 3309 (Config.vendorKey true false) (Config.vendorKey true true) (ascii "IXN TOKEN") (tokenBytes.take 96))
    (h' : Verifies 1 3309 [] [] (ascii "IXN TOKEN") (tokenBytes.take 96)) : Comes debugUnlockDesc owned unlocking := by
  refine effect_of _ _ _ unlocking (by decide +kernel) (by decide +kernel) ?_ (by decide +kernel)
  have hs : owned.tokenOk tokenBytes 1 (List.replicate 32 0) = true := by
    have h1 := pair_of _ _ _ _ _ _ h
    have h2 := pair_of _ _ _ _ _ _ h'
    unfold State.tokenOk
    rw [show owned.gran.owner = some { data := [1] } from rfl, show slice tokenBytes 96 3405 = z 3309 ++ ecSig by decide +kernel,
      show tokenBytes.drop 3501 = z 3309 ++ ecSig by decide +kernel]
    simp only [Option.any_some]
    rw [h1, show slice [1] 2689 1952 = ([] : Bytes) by decide, show slice [1] 4641 97 = ([] : Bytes) by decide, h2]
    decide +kernel
  show (firstFail [(_, _), (_, _), (!owned.tokenOk tokenBytes 1 (List.replicate 32 0), Status.tokenRejected)]).isNone = true
  rw [hs]
  decide +kernel

/-- Where both points of the ciphertext pass R168, HYBRID_DECAPS runs. -/
theorem test_hybridDecaps_witness (h : ecPointOk 1 (slice decapsing.params 14 97) = true) (h' : ecPointOk 1 (slice decapsing.params 111 97) = true) :
    Comes hybridDecapsDesc (keyed [key 3 0x71 0x200 0 (z 32), key 4 0x12 0x100 0 (z 2400)]) decapsing := by
  refine effect_of _ _ _ decapsing (by decide +kernel) ?_ (by decide +kernel) (by decide +kernel)
  show (firstFail [(_, _), (_, _), (!ecPointOk 1 (slice decapsing.params 14 97) || !ecPointOk 1 (slice decapsing.params 111 97), Status.badParameter)]).isNone = true
  rw [h, h']
  decide +kernel

theorem test_reset_witness :
    ComesWith resetDesc partUp resetting (fun x c => x.unmerged c.inst c.tag && (x.cmd? c.inst c.tag).any (!·.reset)) := by decide +kernel

/-! ### The queue, staging and refusals -/

/-- A record of no command. -/
def noCmd : CmdRec := recOf (cmd 1 [])

theorem test_EmptyQueueRunsWhatIsDue_witness :
    ({ partUp with pkg := { partUp.pkg with resetPending := true } } : State).due = some .resetExecute ∧
    partUp.pending = [] ∧ partUp.due = none ∧ partUp.retryRow = none := by decide +kernel

theorem test_CommitPointFrame_witness : Comes identifyDesc partUp (cmd 1 []) := by decide +kernel

theorem test_StagingFrame_witness :
    let s := having partUp (cmd 1 [])
    let rep : Reply := { status := .ok }
    s.cmd? 0 1 = some (cmd 1 []) ∧ (cmd 1 []).isDone = false ∧ s.unmerged 0 1 = true ∧ rep.status ≠ .internalError ∧
      rep.status ≠ .faultDetected ∧ s.runs.all (fun x => !(x.inst == 0 && x.tag == 1)) = true ∧ basicOp (cmd 1 []).op ≠ 0x0802 := by
  decide +kernel

theorem test_FirstFailingCheckRefuses_witness :
    (∀ r s, exec (.identify r) s = .next (runCommand identifyDesc r s)) ∧
    ((identifyDesc.refusal? (recOf (cmd 1 [0])) (having partUp (cmd 1 [0]))).map (·.1)) = some .badLength :=
  ⟨fun _ _ => rfl, by decide +kernel⟩

/-- A command whose execution is in progress. -/
abbrev Goes (d : Desc) (s : State) (c : Cmd) : Prop := (d.going? (recOf c) (having s { c with stage := .running })).isSome = true

theorem test_WaitingCommandsGoOn_witness :
    Goes fallowDesc partUp (cmd 5 []) ∧ Goes recoverDesc partUp (cmd 7 []) ∧ Goes lcAdvanceDesc partUp (cmd 0xC10 []) ∧
    Goes instanceResetDesc partUp (cmd 4 (z 4)) ∧ Goes instanceDestroyDesc partUp (cmd 0xE02 (z 4)) ∧
    Goes programUnloadDesc partUp (cmd 0xA03 (hb 9)) ∧ Goes openLoadDesc partUp (cmd 0xA12 (z 4)) ∧
    Goes openClearDesc partUp (cmd 0xA13 (z 4)) := by decide +kernel

theorem test_customerOpcode_witness :
    isCustomer 0xE000 = true ∧ opened.inRoutine (recOf (cmd 0xE000 [])) = false ∧ Comes (customerDesc 0xE000) opened (cmd 0xE000 []) := by
  decide +kernel

theorem test_TelemetryTimer_witness :
    Comes gleanCtlDesc partUp (cmd 0xD06 (toBE 4 10)) ∧
    (let s := having { partUp with pkg := { partUp.pkg with timers := [.ppsOut, .saScan, .ppsOut, .saScan] } } (cmd 0xD06 (toBE 4 60000))
     let c := cmd 0xD06 (toBE 4 60000)
     s.cmd? 0 1 = some c ∧ gleanCtlDesc.fresh (recOf c) s c = true ∧ c.params.length = 4 ∧ 10 ≤ num c.params 0 4 ∧ num c.params 0 4 ≤ 60000 ∧
       s.lc ≠ .blank ∧ s.lc ≠ .endOfLife ∧ c.runAt = .operational ∧ s.pkg.timers.contains .telemetry = false ∧ 4 ≤ s.pkg.timers.length) ∧
    ({ partUp with pkg := { partUp.pkg with telemetry := 10 } } : State).pkg.telemetry ≠ 0 ∧ partUp.pkg.telemetry = 0 := by decide +kernel

/-! ### Frames -/

theorem test_SequenceWindow_witness :
    let w : Window := { h := some 5, seen := [5, 3] }
    (({} : Window).judge 0 = .accept 0) ∧ (later (5 + 2 ^ 31 - 1) 5 = true ∧ w.judge (5 + 2 ^ 31 - 1) = .accept (5 + 2 ^ 31 - 1)) ∧
    (later 4 5 = false ∧ w.judge 4 = .accept 5) ∧ (later 3 5 = false ∧ w.judge 3 = .duplicate) ∧
    (later (2 ^ 32 + 5 - 4095) 5 = false ∧ w.judge (2 ^ 32 + 5 - 4095) = .accept 5) ∧
    (later (2 ^ 32 + 5 - 4096) 5 = false ∧ w.judge (2 ^ 32 + 5 - 4096) = .outside) := by decide +kernel

/-- A Drill frame to the part on port 0: version 1, its header check right. -/
def frameOf (ty flags inst prio seq tlen seg xfer : Nat) (payload : Bytes) : RxFrame :=
  let h := toBE 1 (16 + ty) ++ toBE 1 flags ++ toBE 1 inst ++ toBE 1 prio ++ toBE 4 seq ++ toBE 3 payload.length ++ toBE 3 tlen ++ toBE 2 seg ++
    toBE 4 xfer
  { port := 0, fcsOk := true, len := 64, dst := 0x0A1C3500082E, src := 0x0A1C35000001, tci := none, ethertype := 0x88B5, sec := none,
    body := h ++ toBE 4 (crc32c h).toNat ++ payload }

/-- The record of IDENTIFY. -/
def identifyRec : Bytes := toBE 2 1 ++ [0] ++ toBE 3 0 ++ toBE 4 9

/-- The frame passes checks 1 to 9 and its header and the state are so. -/
def acceptedAs (s : State) (f : RxFrame) (ty : Nat) (p : Header → State → Bool) : Bool :=
  match s.accepts? f ty with
  | some (h, x, _) => p h x
  | none => false

/-- The frame passes checks 1 to 6 and its header and the state are so. -/
def heardAs (s : State) (f : RxFrame) (ty : Nat) (p : Header → State → Bool) : Bool :=
  match s.hears? f ty with
  | some (h, x) => p h x
  | none => false

/-- An open transfer that has 6 of its 12 bytes. -/
def xfer6 : Xfer := { inst := 0, id := 7, tag := 4, tlen := 12, got := 6, nextSeg := 1, staged := z 6, port := 0, last := 0 }

theorem test_AcceptedFramesTakeEffect_witness :
    acceptedAs partUp (frameOf 0 0 0 0 9 10 0 0 identifyRec) 0 (fun h _ => !h.more && h.xfer == 0 && h.segIdx == 0 && h.tlen == h.flen &&
      (readRecords (rxPayload (frameOf 0 0 0 0 9 10 0 0 identifyRec)).length
        (rxPayload (frameOf 0 0 0 0 9 10 0 0 identifyRec))).toOption == some [(1, 0, [], 9)]) = true ∧
    (let f := frameOf 0 0x80 0 0 9 11 0 7 (toBE 2 8 ++ [0] ++ toBE 3 1 ++ toBE 4 9)
     acceptedAs partUp f 0 (fun h x => h.more && h.segIdx == 0 && h.xfer != 0 && decide (h.flen < h.tlen) &&
      !(x.xfers.any fun y => y.inst == h.inst && y.id == h.xfer) && (segZeroCheck h (rxPayload f)).isNone && (x.transferRoom h).isNone) = true) ∧
    (let f := frameOf 3 0 0 0 9 12 1 7 (z 6)
     acceptedAs { partUp with xfers := [xfer6] } f 3 (fun h x => (x.xfers.find? fun z => z.inst == h.inst && z.id == h.xfer) == some xfer6 &&
      h.segIdx == xfer6.nextSeg && h.tlen == xfer6.tlen && !h.more && xfer6.got + h.flen == xfer6.tlen) = true) ∧
    acceptedAs partUp (frameOf 5 0 0 0 9 0 0 0 []) 5 (fun h _ => !h.more && h.segIdx == 0 && h.xfer == 0 && h.flen == 0 && h.tlen == 0) = true ∧
    (let f := frameOf 4 0 1 0 9 8 0 0 (z 8)
     acceptedAs { parted with insts := parted.insts.map fun i => { i with bind := { i.bind with vid := 0 } } } f 4
      (fun h x => (x.mboxCheck h (rxPayload f)).isNone) = true) := by decide +kernel

theorem test_TurnedAwayFrames_witness :
    let dup : State := { partUp with insts := [{ Inst.manager with window := { h := some 9, seen := [9] } }] }
    heardAs dup (frameOf 0 0 0 0 9 10 0 0 identifyRec) 0 (fun h x => !h.rsv && !h.more && h.xfer == 0 && h.segIdx == 0 &&
      (x.inst h.inst).window.judge h.seq == .duplicate) = true ∧
    heardAs dup (frameOf 0 0 0 0 (2 ^ 32 + 9 - 4096) 10 0 0 identifyRec) 0 (fun h x => !h.rsv && !h.more && h.xfer == 0 && h.segIdx == 0 &&
      (x.inst h.inst).window.judge h.seq == .outside) = true ∧
    heardAs partUp (frameOf 0 1 0 0 9 10 0 0 identifyRec) 0 (fun h _ => h.rsv) = true ∧
    (let f := { frameOf 0 0 0 0 9 10 0 0 identifyRec with body := (frameOf 0 0 0 0 9 10 0 0 identifyRec).body.take 30 }
     heardAs partUp f 0 (fun h x => !h.rsv && !h.more && h.xfer == 0 && h.segIdx == 0 &&
      (x.inst h.inst).window.judge h.seq == .accept 9 && (lengthCheck f h) == some .lengthShort) = true) ∧
    partUp.pkg.failover = false ∧
    (match partUp.rxHead { frameOf 0 0 0 0 9 10 0 0 identifyRec with fcsOk := false } 0 with
      | .error _ => true
      | .ok _ => false) = true := by decide +kernel

/-! ### Replies, timers, pauses, resets and links -/

/-- A command with a staged reply. -/
def replied : Cmd := { cmd 1 [] with stage := .done { status := .ok } }

/-- A padded command that has begun. -/
def padded : Cmd := { cmd 1 [] with pad := true, begun := true }

theorem test_RepliesAndTimers_witness :
    ((having partUp replied).cmd? 0 1 = some replied ∧ (having partUp replied).releasable replied = true) ∧
    (let c := cmd 0x101 (0x50 :: z 7)
     (having partUp c).cmd? 0 1 = some c ∧ opLong (having partUp c) c.op c.params = true ∧ c.isDone = false ∧ c.pendingSent = false) ∧
    (let c := { padded with stage := .done { status := .ok } }
     (having partUp c).cmd? 0 1 = some c ∧ c.padDone = false ∧ c.isDone = true) ∧
    ((having partUp padded).cmd? 0 1 = some padded ∧ padded.padDone = false ∧ padded.isDone = false) ∧
    (let c := { cmd 0x701 [] with stage := .waitRng 5 }
     (having partUp c).cmd? 0 1 = some c ∧ c.stage = .waitRng 5) ∧
    partUp.hasInst 0 = true ∧
    (({ partUp with xfers := [xfer6] } : State).xfers.find? fun y => y.inst == 0 && y.id == 7) = some xfer6 ∧
    (having partUp replied).hasInst 0 = true ∧ ((having partUp replied).inst 0).heldSent ≠ (having partUp replied).held 0 ∧
    (let s : State := { parted with insts := [Inst.manager,
        { bind := { id := 1 }, fromMgr := { msgs := [(1, z 64)], next := 2 }, toMgr := { msgs := [(1, z 64)], next := 2 } }] }
     s.hasInst 1 = true ∧ (s.queueTo 0 1).msgs ≠ [] ∧ (s.queueTo 0 1).pulled = false ∧ (s.queueTo 1 0).msgs ≠ [] ∧
       (s.queueTo 1 0).pulled = false) := by decide +kernel

/-- The part whose port 0 has sent XOFF for priority 7. -/
def xoffed (occ : Nat) : State :=
  { partUp with ports := [{ form := some .kr1, up := true, flow := .pfc, xoff := List.replicate 7 false ++ [true],
                            occupancy := List.replicate 7 0 ++ [occ] }, {}] }

theorem test_PauseRows_witness :
    (partUp.port 1).up = true ∧ (xoffed 0).pkg.pausing = false ∧ (xoffed 0).pkg.packets = [] ∧
    (let s : State := { partUp with pkg := { partUp.pkg with pausing := true } }
     s.pkg.pausing = true ∧ (1 : Nat) < 2 ∧ (s.port 1).up = true) ∧
    (((xoffed 200000).port 0).xoff.getD 7 false = true ∧ (xoffed 200000).ingressPart 7 ≤ ((xoffed 200000).port 0).occupancy.getD 7 0 * 2) ∧
    (((xoffed 0).port 0).xoff.getD 7 false = true ∧ ((xoffed 0).port 0).occupancy.getD 7 0 * 2 < (xoffed 0).ingressPart 7) := by
  decide +kernel

theorem test_ResetRows_witness :
    ({ partUp with pkg := { partUp.pkg with railsUp := false } } : State).pkg.railsUp = false ∧
    (({ partUp with pkg := { partUp.pkg with resetN := false } } : State).pkg.railsUp = true ∧
      ({ partUp with pkg := { partUp.pkg with resetN := false } } : State).pkg.resetN = false) ∧
    partUp.pkg.railsUp = true ∧ ({ partUp with pkg := { partUp.pkg with resetPending := true } } : State).pkg.resetPending = true ∧
    State.reset.running = true ∧ State.reset.pkg.run = .inert ∧ State.reset.fields ≠ [] := by decide +kernel

theorem reset_sound : State.reset.Sound := by
  unfold State.Sound FieldSt.Sound Furrow.Sound Run.Sound
  decide +kernel

theorem partUp_sound : partUp.Sound := by
  unfold State.Sound FieldSt.Sound Furrow.Sound Run.Sound
  decide +kernel

theorem test_SelfTestLeavesInert_witness :
    State.reset.running = true ∧ State.reset.pkg.run = .inert ∧ (∀ x ∈ State.reset.fields, x.testFailed = false ∧ x.lost = false) ∧
    State.reset.Sound ∧ 2 ≤ State.reset.n ∧ (0 ∈ [0, 7] ∨ 1 ∈ [0, 7]) ∧ (0 ∈ [1] ∨ 1 ∈ [1]) ∧
    (∃ t, exec (.selfTestComplete []) State.reset = .next t) ∧ (∃ t, exec (.selfTestComplete [1]) State.reset = .next t) ∧
    (1 < State.reset.n ∧ (State.reset.field 1).lost = false) :=
  ⟨by decide +kernel, by decide +kernel, by decide +kernel, reset_sound, by decide +kernel, by decide +kernel, by decide +kernel,
    ⟨_, rfl⟩, ⟨_, rfl⟩, by decide +kernel⟩

/-- The part in BOOTSTRAP, its strapped lane not yet up. -/
def strapped : State :=
  { partUp with pkg := { partUp.pkg with run := .bootstrap }, ports := [{ form := some .kr1, bootstrap := true }, {}] }

theorem test_LinkAndClockRows_witness :
    ((List.range 2).find? (fun p => (strapped.port p).bootstrap && !(strapped.port p).up) = some 0 ∧ strapped.running = true ∧
      strapped.pkg.run ≠ .inert ∧ strapped.pkg.refSd = true ∧ strapped.laneAlive 0 = true) ∧
    (let s : State := { partUp with ports := [{ form := some .cr4 }, {}] }
     s.running = true ∧ s.pkg.run ≠ .inert ∧ s.pkg.refSd = true ∧ (s.port 0).bootstrap = false ∧ (s.port 0).up = false ∧
       s.laneAlive 0 = true ∧ (s.port 0).form = some .cr4 ∧ EthForm.cr4 ∈ [EthForm.kr1, .cr4]) ∧
    ((({ partUp with ports := [{ form := some .kr1 }, {}] } : State).port 0).form = some .kr1 ∧ EthForm.kr1 ∉ [EthForm.cr4]) ∧
    ({ partUp with pkg := { partUp.pkg with refSd := false } } : State).pkg.refSd = false := by
  decide +kernel

theorem test_FieldLossRows_witness :
    ((partUp.field 1).lost = false ∧ 1 < partUp.n ∧ partUp.Sound ∧ ∃ t, exec (.fieldAliveFall 1) partUp = .next t) ∧
    ({ partUp with pkg := { partUp.pkg with failover := true } } : State).pkg.failover = true ∧
    (partUp.portInUse 0 0 = true ∧ partUp.linkUp 0 0 = true) :=
  ⟨⟨by decide +kernel, by decide +kernel, partUp_sound, _, rfl⟩, by decide +kernel, by decide +kernel⟩

theorem test_SensorTripLocksField_witness :
    partUp.Sound ∧ partUp.armed 1 1 5 = true ∧ partUp.armed 0 5 5 = true ∧ partUp.pkg.run ≠ .inert ∧ (partUp.field 1).run ≠ .lockdown ∧
    (partUp.field 1).alarm.getLsbD 31 = false ∧
    ({ partUp with working := [(0x06, none, 0)] } : State).setting 0x06 = 0 :=
  ⟨partUp_sound, by decide +kernel, by decide +kernel, by decide +kernel, by decide +kernel, by decide +kernel, by decide +kernel⟩

theorem test_AlarmRows_witness :
    ((1, 0) ∈ ({ partUp with pkg := { partUp.pkg with alarmLine := [(1, 0)] } } : State).pkg.alarmLine) ∧ (1, 0) ∉ partUp.pkg.alarmLine ∧
    (let s : State := { partUp with pkg := { partUp.pkg with tamperArmed := true } }
     s.running = true ∧ s.pkg.tamperArmed = true ∧ (1 : Nat) < 2) ∧ partUp.pkg.tamperArmed = false ∧
    (partUp.running = true ∧ 1 < partUp.n ∧ (7 : Nat) < 8 ∧ (partUp.field 1).lost = false ∧ (-55 : Int) ≤ -55 ∧ (-55 : Int) ≤ 140 ∧
      (140 : Int) ≤ 140) ∧
    (let s : State := { partUp with fields := [{ fieldUp with outside := [true] }, fieldUp] }
     s.running = true ∧ 0 < s.n ∧ (s.field 0).lost = false ∧ ((-56 : Int) < -55 ∨ (140 : Int) < -56) ∧ ((141 : Int) < -55 ∨ (140 : Int) < 141) ∧
       (s.field 0).outside.getD 0 false = true) ∧
    ((partUp.field 1).outside.getD 7 false = false ∧ (140 : Int) < 141) := by decide +kernel

/-- The part with CAPPED on. -/
def capped : State := { partUp with pkg := { partUp.pkg with modes := 0x20 } }

/-- A measurement. -/
def reading (mw : Nat) : PowerReading := { average := mw, ungateEstimate := mw, raiseEstimates := [(700, 0)] }

theorem test_PowerRows_witness :
    (∀ c, capped.ceiling = some c → c < 2 ^ 30) ∧ capped.ceiling.isSome = true ∧
    (∀ c, partUp.ceiling = some c → (reading 0).average ≤ c) ∧ partUp.ceiling = none ∧
    (∀ c, capped.ceiling = some c → c < (reading (2 ^ 30)).average) ∧ capped.allScaled = false ∧
    (let s : State := { capped with fields := [{ fieldUp with setPoint := 600 }, { fieldUp with setPoint := 600 }] }
     s.allScaled = true ∧ s.mode .capped = true ∧ s.fields.any (·.gating) = false ∧ s.ceiling.isSome = true) ∧
    (let s : State := { capped with fields := [fieldUp, { fieldUp with gating := true }] }
     (s.field 1).gating = true ∧ (s.migrate 1).cmds.any ((s.migrate 1).runsOn 1) = false ∧ (s.migrate 1).liveService 1 = false) ∧
    capped.underCeiling (reading (2 ^ 30)).average = false ∧
    (let s : State := { capped with fields := [fieldUp, { fieldUp with gated := true }] }
     s.underCeiling (reading 0).average = true ∧ s.underCeiling (reading 0).ungateEstimate = true ∧
       (s.fieldNums.find? fun f => (s.field f).gated) = some 1) ∧
    (capped.underCeiling (reading 0).average = true ∧ (capped.fieldNums.all fun f => !(capped.field f).gated) = true ∧
      capped.raiseTo (reading 0).raiseEstimates = some 700) ∧
    partUp.lc ≠ .test ∧
    (let s : State := { partUp with working := [(0x19, none, 0x03000000)] }
     s.mfPin 3 = some 3 ∧ s.mfLevel 3 = some true) ∧
    (let s : State := { partUp with working := [(0x19, none, 3)], fields := [fieldUp, { fieldUp with entered := true, lost := true }] }
     s.mfPin 3 = some 0 ∧ s.mfLevel 0 = some false ∧ s.mfLevel 1 = none) := by decide +kernel

/-! ### Memory, entropy, the control store, waits, drains, time and INLINE -/

/-- A burst on page 983039 that fails. -/
def burst (o : EdcEnd) : EdcFault := { field := 1, channel := 1, page := 983039, write := false, outcome := o, inst := 0, tag := 1 }

/-- The part with a page due for retirement on field 1. -/
def dueing : State :=
  { partUp with fields := [fieldUp, { fieldUp with pages := [{ page := 983039, due := true }] }] }

theorem test_MemoryRows_witness :
    partUp.memoryUp 1 = true ∧
    (let s : State := { partUp with fields := [fieldUp, { fieldUp with retrainDeferred := true }] }
     s.memoryUp 1 = true ∧ (s.field 1).retrainDeferred = true) ∧
    ((burst (.retried 4)).page < 983040 ∧ (burst (.retried 4)).outcome = .retried 4) ∧
    ((burst .final).outcome = .final ∧ (burst .final).write = false) ∧
    (let s : State := { partUp with working := [(0x12, none, 1)], fields := [fieldUp, { fieldUp with sweepAt := 983039 }] }
     s.harrowRuns 1 = true ∧ s.clean 1 (s.field 1).sweepAt = true ∧ (s.pageOf 1 (s.field 1).sweepAt).retry = false ∧
       (s.field 1).sweepAt < 983040) ∧
    (dueing.memoryUp 1 = true ∧ (dueing.pageOf 1 983039).due = true ∧ (dueing.field 1).spare = some 0 ∧ 1 < dueing.fields.length) ∧
    (let m : Merge := { page := 5, valid := 8, writers := [(0, 1)], order := 0 }
     let s : State := { partUp with fields := [{ fieldUp with merge := [m] }, fieldUp] }
     ((s.field 0).merge.find? fun m => m.page == 5) = some m) ∧
    (∃ t, exec (.pageRetirement 1 983039 false false) dueing = .next t) :=
  ⟨by decide +kernel, by decide +kernel, by decide +kernel, by decide +kernel, by decide +kernel, by decide +kernel, by decide +kernel, _, rfl⟩

/-- The part with a reseed of field 0's Steep due and so many bits of each source pooled there. -/
def pooling (n : Nat) : State :=
  partUp.modField 0 fun x => { x with seed := { x.seed with reqs := 4096, sources := [{ pooled := n }, { pooled := n }] } }

theorem test_SeedbedRows_witness :
    (State.reset.seedTests 1 = true ∧ (State.reset.field 1).seed.state ≠ .ready ∧ 1 < State.reset.fields.length ∧
      ∃ t, exec (.seedbedStartupDone 1) State.reset = .next t) ∧
    (partUp.seedTests 0 = true ∧ 0 < partUp.fields.length ∧ (partUp.recentFails 0).length < 2) ∧
    (let s : State := { partUp with fields := [{ fieldUp with seed := { fieldUp.seed with fails := [0, 0] } }, fieldUp] }
     2 ≤ (s.recentFails 0).length ∧ s.seedTests 0 = true) ∧
    (partUp.seedTests 0 = true ∧ (1 : Nat) < 2 ∧ (4096 : Nat) ≤ 4096 ∧ ([0, 0, 0, -600] : List Int).length = 4) ∧
    (let s := pooling 512
     (s.field 0).seed.state = .ready ∧ 4096 ≤ (s.field 0).seed.reqs ∧ (s.field 0).seed.holds 512 = true ∧ s.poolQueue 0 = false ∧
       s.pkg.dnonceDue = false) ∧
    (let s : State := { pooling 512 with cmds := [{ cmd 0x701 [] with stage := .waitPool, queued := 7 }] }
     (s.field 0).seed.state = .ready ∧ (s.field 0).seed.holds 512 = true ∧ (s.poolPlaces 0).min? = some 7 ∧
       ((s.field 0).leaf.any fun g => g.asked == 7) = false) ∧
    (let s := (pooling 512).modField 0 fun x => { x with leaf := x.leaf.modify 3 fun g => { g with asked := 7 } }
     (s.field 0).seed.state = .ready ∧ (s.field 0).seed.holds 512 = true ∧ 0 < s.fields.length ∧ (s.poolPlaces 0).min? = some 7 ∧
       ((List.range 4).find? fun a => ((s.field 0).leaf.getD a {}).asked == 7) = some 3) ∧
    (let s := pooling 511
     (s.field 0).seed.state = .ready ∧ ((s.field 0).leaf.getD 0 {}).running = true ∧ s.steepStalls 0 false = true) ∧
    ((partUp.field 1).seed.state = .ready ∧ ((partUp.field 1).leaf.getD 3 {}).running = true ∧ 1 < partUp.fields.length ∧
      partUp.steepStalls 1 false = false ∧
      ∃ t, exec (.leafSeedRequest 1 3) partUp = .next t) ∧
    (let s : State := { partUp with fields := [{ fieldUp with leaf := [{ running := true, nextSeed := true }] }, fieldUp] }
     ((s.field 0).leaf.getD 0 {}).running = true ∧ ((s.field 0).leaf.getD 0 {}).nextSeed = true) ∧
    (((partUp.field 0).leaf.getD 0 {}).nextSeed = false ∧ (partUp.field 0).seed.state ≠ .latched) :=
  ⟨⟨by decide +kernel, by decide +kernel, by decide +kernel, _, rfl⟩, by decide +kernel, by decide +kernel, by decide +kernel, by decide +kernel,
    by decide +kernel, by decide +kernel, by decide +kernel,
    ⟨by decide +kernel, by decide +kernel, by decide +kernel, by decide +kernel, _, rfl⟩, by decide +kernel, by decide +kernel⟩

theorem test_ControlStoreRows_witness :
    (partUp.caddyRuns 1 = true ∧ (16383 : Nat) < 16384 ∧ 1 < partUp.fields.length ∧ (∀ c ∈ partUp.cmds, partUp.cmd? c.inst c.tag = some c) ∧
      ∃ t, exec (.parityError 1 16383) partUp = .next t) ∧
    (let s : State := { partUp with fields := [{ fieldUp with mcheck := true, faults := [0, 0, 0] }, { fieldUp with mcheck := true, faults := [0, 0, 0, 0] }] }
     (s.field 0).mcheck = true ∧ s.faultCount 0 < 4 ∧ (s.field 1).mcheck = true ∧ 4 ≤ s.faultCount 1) ∧
    (1 < partUp.n ∧ (partUp.field 1).lost = false ∧ (partUp.field 1).run ≠ .lockdown) :=
  ⟨⟨by decide +kernel, by decide +kernel, by decide +kernel, by decide +kernel, _, rfl⟩, by decide +kernel, by decide +kernel⟩

/-- A Winnow context of a command. -/
def ctx (st : Nat) : WCtx := { id := 3, inst := 0, tag := 1, core := 0, keyed := true, state := st }

/-- The part with that context on field 0. -/
def ctxed (st : Nat) : State := { having partUp (cmd 0x602 []) with fields := [{ fieldUp with ctxs := [ctx st] }, fieldUp] }

/-- A run that waits for an acre. -/
def waiting : Run := { id := 8, inst := 0, tag := 1, field := 0, image := img }

theorem test_WaitsEnd_witness :
    (let s := keyed [{ leafy with leaf := some { life := 32, reserving := true } }]
     (s.entryOf (hk 3)).leaves.reserving = true) ∧
    (let s := keyed [{ leafy with leaf := some { life := 32, cacheReady := false } }]
     (s.entryOf (hk 3)).leaves.cacheReady = false ∧ ∃ t, exec (.cacheRebuildDone (hk 3)) s = .next t) ∧
    ((((ctxed 2).field 0).ctxs.find? fun w => w.id == 3 && w.state == 2) = some (ctx 2) ∧ (ctx 2).again = false ∧
      (ctxed 2).imageServed 0 (ctx 2) = true ∧ (ctxed 4).imageServed 0 (ctx 4) = true) ∧
    (((ctxed 4).field 0).ctxs.find? fun w => w.id == 3 && w.state == 4) = some (ctx 4) ∧ (ctxed 4).clean 0 (ctx 4).page = true ∧
    (ctx 4).keyed = true ∧
    (let c := { cmd 1 [] with stage := .waitThread }
     (having partUp c).threadsUsed 0 < 64 ∧
     ((having partUp c).cmds.find? fun c => c.stage == .waitThread && (c.field == some 0 || c.field2 == some 0)) = some c) ∧
    ((3 : Nat) < 4 ∧ 0 < partUp.n ∧ ({ partUp with runs := [waiting] } : State).nextRun 0 3 = some waiting) :=
  ⟨by decide +kernel, ⟨by decide +kernel, _, rfl⟩, by decide +kernel, by decide +kernel, by decide +kernel, by decide +kernel, by decide +kernel,
    by decide +kernel, by decide +kernel⟩

theorem test_DrainRows_witness :
    (let c := { cmd 5 [] with stage := .running }
     (having partUp c).inProgress 5 = some c ∧ (having partUp c).othersDone c = true) ∧
    (let c := { cmd 5 [] with stage := .running }
     let s : State := { partUp with cmds := [c, { cmd 1 [] with tag := 2 }] }
     s.inProgress 5 = some c ∧ s.othersDone c = false) ∧
    (let c := { cmd 7 [] with stage := .running }
     (having partUp c).inProgress 7 = some c ∧ (having partUp c).pkg.run = .operational ∧
       (let s := having { partUp with pkg := { partUp.pkg with run := .lockdown } } c
        s.inProgress 7 = some c ∧ s.pkg.run ≠ .operational)) ∧
    (let c := { cmd 0xC10 [] with stage := .running }
     let others := fun s : State => s.endAll (s.cmds.filter fun d => !d.isDone && !(d.inst == c.inst && d.tag == c.tag)) .machineCheck
     (having tested c).inProgress 0xC10 = some c ∧ (others (having tested c)).lc ≠ .production ∧
       (having partUp c).inProgress 0xC10 = some c ∧ (others (having partUp c)).lc = .production) ∧
    ((iked 4).ikes.any fun k => k.handle == hk 6 && k.state < 5) = true ∧ ((iked 5).ikes.any fun k => k.handle == hk 6 && k.state < 5) = false ∧
    ({ partUp with pkg := { partUp.pkg with timers := [.saScan] } } : State).pkg.timers.contains .saScan = true := by decide +kernel

/-- The part with PTP on port 0, in holdover or not. -/
def ptp (h : Bool) : State := { partUp with clock := { source := 1, port := 0, holdover := h, time := 5 } }

/-- The part with PPS_IN on MF pin 0 and PPS_OUT on pin 1. -/
def pps : State := { partUp with clock := { source := 2, time := 5 }, working := [(0x19, none, 0x0201)] }

theorem test_TimeBaseRows_witness :
    ((ptp false).clock.source = 1 ∧ (ptp false).clock.port = 0 ∧ ((ptp false).port 0).up = true ∧ (1000001 : Int) > 1000000 ∧
      (1000000 : Int) ≤ 1000000) ∧ (ptp false).clock.holdover = false ∧ (ptp true).clock.holdover = true ∧
    (pps.clock.source = 2 ∧ pps.ppsIn = true ∧ pps.mfPin 2 = some 1) ∧ partUp.mfPin 2 = none := by decide +kernel

/-- The part with INLINE on and an outbound SA for VID 1 and an inbound ESP SA. -/
def lined (st : Nat) : State :=
  { inl with fields := [{ fieldUp with saKey := some (z 32) }, fieldUp], sas := [{ sa1 with kind := 1, cipher := 1, state := st }, { sa1 with handle := hk 6, kind := 2, spi := 256 },
                     { sa1 with handle := hk 7 }] }

/-- A plain IPv4 frame with VID v. -/
def plain (p v : Nat) : RxFrame :=
  { port := p, fcsOk := true, len := 9216, dst := 0x0A1C3500082E, src := 1, tci := some v, ethertype := 0x0800, sec := none,
    body := [0x45] ++ toBE 1 0 ++ toBE 2 36 ++ z 5 ++ [50] ++ z 10 ++ toBE 4 256 ++ z 12 }

theorem test_InlineRows_witness :
    (lined 0).mode .inline = true ∧ ((lined 0).port 0).up = true ∧ ((lined 0).port 1).up = true ∧
    (frameOf 0 0 0 0 9 10 0 0 []).ethertype = (lined 0).settingF 0x01 ∧
    ((plain 0 1).ethertype ≠ (lined 0).settingF 0x01 ∧ (plain 0 1).fcsOk = true ∧ (plain 0 1).len ≤ 9216) ∧
    ((lined 0).saForVid (plain 0 1) = (lined 0).sas[0]? ∧ ((lined 0).sas[0]?).any (lined 0).saLive = true) ∧
    ((lined 2).saForVid (plain 0 1) = (lined 2).sas[0]? ∧ ((lined 2).sas[0]?).any (fun a => !(lined 2).saLive a) = true) ∧
    ((lined 0).power.throttle = false ∧ ({ lined 0 with power := { throttle := true } } : State).power.throttle = true ∧
      (plain 1 1).ethertype ≠ (lined 0).settingF 0x01 ∧ (plain 1 1).sec = none ∧ (plain 1 1).fcsOk = true ∧ (plain 1 1).len ≤ 9216 ∧
      { plain 1 1 with ethertype := 0x88B5 }.ethertype = (lined 0).settingF 0x01) ∧
    (lined 0).saForVid (plain 0 2) = none ∧
    ((espIn (plain 1 1)).map fun x => (x.1, x.2.1, x.2.2.1)) = some (256, 0, false) ∧
    ((lined 0).sas.find? fun a => a.kind == 2 && a.spi == 256 && a.outerV6 == false && a.outerDst == 0) = (lined 0).sas[1]? ∧
    ((lined 0).sas[1]?).any (lined 0).saLive = true := by decide +kernel

theorem test_InlineRows_macsec_witness :
    let a : Sa := { sa1 with handle := hk 7 }
    ((lined 0).sas.find? fun x => x.kind == 4 && x.sci == 1 && x.an == a.an) = some a ∧ (lined 0).saLive a = true := by
  refine ⟨?_, by decide +kernel⟩
  simp [lined, sa1, List.find?]

theorem test_PauseRows_room_witness :
    (((xoffed 200000).port 0).xoff.getD 7 false = true ∧ ((xoffed 200000).ingressRoom 0 7).2 ≤ ((xoffed 200000).ingressRoom 0 7).1 * 2) ∧
    (((xoffed 0).port 0).xoff.getD 7 false = true ∧ ((xoffed 0).ingressRoom 0 7).1 * 2 < ((xoffed 0).ingressRoom 0 7).2) ∧
    (∀ w ∈ [FlowCtl.off, .pause, .pfc], (({ partUp with ports := [{ flow := w }, {}] } : State).port 0).flow = w) ∧
    (let s : State := { partUp with ports := [{ form := some .kr1, up := true, flow := .pause, xoff := List.replicate 7 false ++ [true],
                                                occupancy := List.replicate 7 0 ++ [2097152] }, {}] }
     (s.port 0).xoff.getD 7 false = true ∧ (s.ingressRoom 0 7).2 ≤ (s.ingressRoom 0 7).1 * 2) := by decide +kernel

theorem test_PowerDown_witness : partUp.pkg.railsUp = true ∧ partUp.pkg.resetN = true := by decide +kernel

theorem test_throttlePause_witness :
    let s : State := { partUp with
      pkg := { partUp.pkg with modes := 0x22 }, ports := [{ form := some .kr1, up := true, flow := .pause }, {}],
      power := { throttle := true } }
    s.mode .inline = true ∧ s.mode .capped = true ∧ s.power.throttle = true ∧ s.mustPause ≠ s.pkg.pausing ∧ (0 : Nat) < 2 ∧
      (s.port 0).up = true ∧ (s.port 0).flow = .pause ∧ partUp.mode .inline = false ∧ partUp.mustPause = partUp.pkg.pausing := by
  decide +kernel

theorem test_latchedSwitchPoint_witness :
    let s : State := { partUp with fields := [{ fieldUp with seed := { fieldUp.seed with state := .latched } }, fieldUp] }
    ((s.field 0).leaf.getD 3 {}).running = true ∧ (s.field 0).seed.state = .latched ∧ 0 < s.fields.length ∧
      (∃ t, exec (.leafSwitchPoint 0 3) s = .next t) ∧ (partUp.pkg.dnonceDue = false ∨ 0 ≠ partUp.pkg.headland) :=
  ⟨by decide +kernel, by decide +kernel, by decide +kernel, ⟨_, rfl⟩, by decide +kernel⟩

theorem test_WaitsEnd_rows_witness :
    (let s := keyed [{ leafy with leaf := some { life := 32, next := 0, hwm := 32, reserving := true } }]
     (s.entryOf (hk 3)).leaves.reserving = true ∧ (s.entryOf (hk 3)).leaves.next < (s.entryOf (hk 3)).leaves.hwm) ∧
    (let s := keyed [{ leafy with leaf := some { life := 32, cacheReady := false } }]
     s.rebuildNow (hHome (hk 3)) = some (hk 3) ∧ s.rebuildTurn (hk 3) = true ∧ ∃ t, exec (.cacheRebuildDone (hk 3)) s = .next t) ∧
    (∃ t, (((ctxed 2).modField 0 fun x => x.servedImage (ctx 2)).modField 0 fun x => { x.modCtx 3 (fun w => { w with state := 3, again := false }) with
      saves := sat48 (x.saves + 1) }).pageWrite (ctx 2).inst (ctx 2).tag 0 (ctx 2).page (ctx 2).image.length = (true, t)) :=
  ⟨by decide +kernel, ⟨by decide +kernel, by decide +kernel, _, rfl⟩, _, rfl⟩

theorem test_InlineRows_serves_witness : ∀ a ∈ (lined 0).sas, (lined 0).saServes a = true := by decide +kernel

theorem test_CommitPointFrame_hypotheses_witness :
    Comes keyInfoDesc (keyed [key 3 4 0x10 32 (z 32)]) (cmd 0x109 (hb 3)) ∧
    (∀ (y : State) (e : Cmd), keyInfoDesc.onPass y e = y) ∧ (∀ (y : State) (e : Cmd), keyInfoDesc.onStart y e = y) ∧
    (let s := having (keyed [key 3 4 0x10 32 (z 32)]) (cmd 0x109 (hb 3))
     s.xfers.any (fun y => y.inst == 0 && y.tag == 1) = false ∧ s.cmd? 0 1 = some (cmd 0x109 (hb 3)) ∧
       ∀ h ∈ keyInfoDesc.keys s (cmd 0x109 (hb 3)), (s.keyAt h).all fun k => s.clean (hHome h) k.descPage) :=
  ⟨by decide +kernel, fun _ _ => rfl, fun _ _ => rfl, by decide +kernel⟩

theorem test_pending_takesReply_witness : (having partUp (cmd 0x101 (0x50 :: z 7))).takesReply (cmd 0x101 (0x50 :: z 7)) = true := by decide +kernel

/-! ### Saivo instructions that issue -/

/-- The part with a run on furrow 0 of field 0, the furrow so. -/
def furrowed (f : Furrow) (r : Run := rn) : State :=
  { partUp with runs := [r], fields := [{ fieldUp with furrows := { f with run := some 7 } :: List.replicate 15 {} }, fieldUp] }

/-- The instruction issues there and p holds of it. -/
def issuesAs (op : Nat) (i : SaivoFields) (p : Env → Bool := fun _ => true) (f : Furrow := {}) (r : Run := rn) : Bool :=
  match (furrowed f r).issues? ⟨0, 0⟩ op i with
  | some (e, _) => p e
  | none => false

/-- The long form of the fields, on set registers. -/
def long : SaivoFields := { noFields with l := 1 }

/-- A furrow with modulus 3329 in q0, a pass pair in Tally and word 0x7FFF in s1, 0x8000 in s2. -/
def fq : Furrow := { q := Modulus.of 3329 :: List.replicate 3 {}, tally := 0x5AA5, s := [0, 0x7FFF, 0x8000] ++ List.replicate 29 0 }

/-- The same with every set sealed. -/
def fs : Furrow := { fq with sealedSets := List.replicate 8 true }

theorem test_FurrowStoreFrame_witness : ({ u := fq, r := rn } : Env).fixed = [] ∧ 0 < partUp.fields.length ∧ (⟨0, 1⟩ : FurrowRef) ≠ ⟨0, 0⟩ := by
  decide +kernel

theorem test_ScalarArithmetic_witness :
    issuesAs 0x02 { noFields with d := 31, f := 11 } = true ∧ issuesAs 0x03 { noFields with c := 4095 } = true ∧ issuesAs 0x01 noFields = true := by
  decide +kernel

theorem test_ControlFlow_witness :
    issuesAs 0x08 noFields (fun e => brCond 0 (e.sreg 0) (e.sreg 0)) = true ∧
    issuesAs 0x08 { noFields with d := 1 } (fun e => !brCond 1 (e.sreg 0) (e.sreg 0)) = true ∧
    issuesAs 0x0C noFields (fun e => e.sreg 0 != 1) = true ∧
    issuesAs 0x0C { noFields with a := 3 } (fun e => e.sreg 3 == 1) { fq with s := List.replicate 32 1 } = true ∧
    issuesAs 0x0A noFields = true ∧ issuesAs 0x0B noFields (fun e => (e.sreg 0).toNat < e.r.image.icount) = true ∧
    issuesAs 0x0B { noFields with a := 3 } (fun e => e.r.image.icount ≤ (e.sreg 3).toNat) { fq with s := List.replicate 32 1 } = true ∧
    issuesAs 0x09 noFields = true := by decide +kernel

theorem test_RunControl_witness :
    issuesAs 0x11 { noFields with c := 3 } = true ∧ issuesAs 0x12 { noFields with q := 3 } = true ∧
    issuesAs 0x13 noFields (fun e => e.paired && !e.u.tally.getLsbD 16) fq = true ∧ issuesAs 0x13 noFields (fun e => !e.paired) = true ∧
    issuesAs 0x0D noFields = true ∧ issuesAs 0x0E noFields (fun e => e.u.rank != 0) { fq with rank := 1 } = true ∧
    issuesAs 0x0E noFields (fun e => e.u.rank == 0 && decide ((e.sreg 1).toNat ≤ e.r.outMax) && decide ((e.sreg 2).toNat % 16 < 2 ^ e.r.image.nkeyout) &&
      (!e.r.image.verdict || e.paired)) = true ∧
    issuesAs 0x0F noFields (fun e => e.u.inHandler && decide (e.r.restarts < 15)) { fq with inHandler := true } { rn with restarts := 14 } = true ∧
    issuesAs 0x0F noFields (fun e => !e.u.inHandler) = true ∧
    issuesAs 0x0F noFields (fun e => decide (15 ≤ e.r.restarts)) { fq with inHandler := true } { rn with restarts := 15 } = true ∧
    issuesAs 0x10 noFields = true ∧
    (((furrowed fq).furrow ⟨0, 0⟩).halted = false ∧ ((furrowed fq).furrow ⟨0, 0⟩).held = none ∧
      ((furrowed fq).furrow ⟨0, 0⟩).run.bind (furrowed fq).run? = some rn) ∧
    ((3329 : Nat) % 2 = 1 ∧ 3 ≤ 3329 ∧ 3329 < 2 ^ 23) ∧ ¬ ((8388608 : Nat) % 2 = 1) := by decide +kernel

theorem test_MaskRegisters_witness :
    issuesAs 0x26 { long with d := 7, f := 5 } (fun e => e.clear 1 [0]) = true ∧ issuesAs 0x18 { noFields with d := 1, f := 4 } = true ∧
    issuesAs 0x19 { noFields with d := 1, c := 2 } = true ∧ issuesAs 0x1A { noFields with c := 2 } = true := by decide +kernel

theorem test_LoadStore_witness :
    issuesAs 0x04 { noFields with a := 1 } (fun e => (e.accFault { idx := 0, addr := e.wordAddr { noFields with a := 1 } 1 }).isNone) fq = true ∧
    issuesAs 0x05 { noFields with a := 1 }
      (fun e => (e.accFault { idx := 0, addr := e.wordAddr { noFields with a := 1 } 1, write := true }).isNone) fq = true ∧
    issuesAs 0x04 { noFields with a := 2 } (fun e => (e.accFault { idx := 0, addr := e.wordAddr { noFields with a := 2 } 2 }).isSome) fq = true ∧
    issuesAs 0x05 { noFields with a := 2 }
      (fun e => (e.accFault { idx := 0, addr := e.wordAddr { noFields with a := 2 } 2, write := true }).isSome) fq = true ∧
    (fq.dmem.wf = true ∧ rn.a1.wf = true ∧ rn.a2.wf = true ∧ (0x7FFF : Nat) < 0x8000 ∧ 0x500000 ≤ (0x500000 : Nat)) := by decide +kernel

theorem test_VectorMovesAndArithmetic_witness :
    issuesAs 0x20 long (fun e => e.clear 1 [0, 0]) = true ∧ issuesAs 0x20 { noFields with t := 3, f := 1, c := 7 } (fun e => e.clear 1 [0]) = true ∧
    issuesAs 0x20 { noFields with t := 3, f := 2, c := 7 } (fun e => e.clear 1 [0]) = true ∧ issuesAs 0x21 long (fun e => e.clear 1 [0]) = true ∧
    issuesAs 0x22 { long with c := 63 } (fun e => e.clear 1 [0]) = true ∧ issuesAs 0x23 { long with c := 63 } (fun e => e.clear 1 [0]) = true ∧
    issuesAs 0x24 { long with f := 3 } (fun e => e.clear 1 [0, 0, 0]) = true ∧ issuesAs 0x24 { long with f := 15, c := 5 } (fun e => e.clear 1 [0, 0]) = true ∧
    issuesAs 0x25 { long with f := 1, c := 4095 } (fun e => e.clear 1 [0, 0]) = true ∧
    issuesAs 0x25 { long with f := 15, c := 5 } (fun e => e.clear 1 [0, 0]) = true := by decide +kernel

theorem test_FixedPoint_witness :
    issuesAs 0x28 { long with f := 1 } (fun e => e.clear 1 [0, 0, 0]) = true ∧ issuesAs 0x29 long (fun e => e.clear 1 [0, 0, 0]) = true ∧
    issuesAs 0x2A { long with f := 7, c := 47 } (fun e => e.clear 1 [0, 0, 0]) = true ∧ issuesAs 0x2B { long with f := 8 } (fun e => e.clear 1 [0, 0, 0]) = true ∧
    issuesAs 0x2B { long with f := 7, c := 31 } (fun e => e.clear 1 [0, 0]) = true := by decide +kernel

theorem test_ModularArithmetic_witness :
    issuesAs 0x30 { long with t := 1 } (fun e => e.modOk { long with t := 1 } && e.clear 1 [0, 0, 0]) fq = true ∧
    issuesAs 0x31 long (fun e => e.modOk long && e.clear 1 [0, 0, 0]) fq = true ∧
    issuesAs 0x32 { long with f := 1 } (fun e => e.modOk long && e.clear 1 [0, 0, 0]) fq = true ∧
    issuesAs 0x32 long (fun e => e.modOk long && e.clear 1 [0, 0, 0]) fq = true ∧
    issuesAs 0x33 { long with f := 3 } (fun e => e.modOk long && e.clear 1 [0, 0]) fq = true ∧
    issuesAs 0x38 { long with c := 12 } (fun e => e.modOk long && e.clear 1 [0, 0]) fq = true ∧
    issuesAs 0x39 { long with c := 12 } (fun e => e.modOk long && e.clear 1 [0, 0]) fq = true ∧
    issuesAs 0x3A { long with b := 1, c := 22 } (fun e => e.modOk long && e.clear 1 [0, 0, 1]) fq = true ∧
    issuesAs 0x3B { long with b := 1, c := 1 } (fun e => e.modOk long && (e.modulus long - 1) % decomposeDiv 1 == 0 &&
      (e.modulus long - 1) / decomposeDiv 1 % 2 == 0 && e.clear 1 [0, 0, 1]) { fq with q := Modulus.of 8380417 :: List.replicate 3 {} } = true := by
  decide +kernel

theorem test_VectorFaults_witness :
    issuesAs 0x24 long (fun e => !e.clear 1 [0, 0, 0]) fs = true ∧ issuesAs 0x22 long (fun e => !e.clear 1 [0]) fs = true ∧
    issuesAs 0x26 long (fun e => !e.clear 1 [0, 0]) fs = true ∧ issuesAs 0x28 long (fun e => !e.clear 1 [0, 0, 0]) fs = true ∧
    issuesAs 0x30 { long with q := 1 } (fun e => !e.modOk { long with q := 1 }) fq = true ∧
    issuesAs 0x32 long (fun e => e.modOk long && !e.clear 1 [0, 0, 0]) fs = true ∧
    issuesAs 0x38 { long with q := 1, c := 1 } (fun e => !e.modOk { long with q := 1 }) fq = true ∧ issuesAs 0x40 long (fun e => !e.clear 1 [0]) fs = true ∧
    issuesAs 0x50 { long with q := 1 } (fun e => !isBool { long with q := 1 } && !e.modOk { long with q := 1 }) fq = true ∧
    issuesAs 0x5A { long with f := 16, a := 1 } (fun e => isBool { long with f := 16 } && e.sealedSet 1 && !e.r.image.release) fs = true ∧
    (let s := furrowed fq { rn with test := false }
     (s.furrow ⟨0, 0⟩).inHandler = false ∧ 0 < s.fields.length ∧ 0 < (s.field 0).furrows.length ∧ (255 : Nat) < 256 ∧
      ({ img with header := img.header.take 16 ++ [0, 0] ++ z 46 } : Image).handler = some 0) := by decide +kernel

theorem test_VectorMemory_witness :
    issuesAs 0x40 long (fun e => e.clear 1 [0] && e.reaches ((e.lanes long).map fun l => { idx := elPer 0 * l, addr := e.wordAddr long 0 + e.order long l })) fq = true ∧
    issuesAs 0x41 long (fun e => e.clear 1 [0] &&
      e.reaches ((e.lanes long).map fun l => { idx := elPer 0 * l, addr := e.wordAddr long 0 + e.order long l, write := true })) fq = true ∧
    (∀ k ∈ [2, 3, 4], issuesAs (0x40 + k) long (fun e => e.clear 1 (List.range k) && e.reaches (e.structAccs long k false)) fq = true) ∧
    (∀ k ∈ [2, 3, 4], issuesAs (0x43 + k) long (fun e => e.clear 1 (List.range k) && e.reaches (e.structAccs long k true)) fq = true) ∧
    issuesAs 0x48 long (fun e => e.clear 1 [0, 0] && e.reaches (e.indexAccs long false)) fq = true ∧
    issuesAs 0x49 long (fun e => e.clear 1 [0, 0] && e.reaches (e.indexAccs long true)) fq = true ∧
    issuesAs 0x4A { long with f := 1 } (fun _ => true) fq = true ∧ issuesAs 0x4A long (fun _ => true) fq = true := by decide +kernel

theorem test_ShareInstructions_witness :
    issuesAs 0x50 long (fun e => e.modOk long && e.clear 1 [0]) fq = true ∧ issuesAs 0x51 { long with f := 16 } (fun _ => isBool { long with f := 16 }) fs = true ∧
    issuesAs 0x52 long (fun e => e.modOk long) fs = true ∧
    issuesAs 0x53 { long with b := 31 } (fun e => e.modOk long && e.clear 1 [31]) fq = true ∧
    issuesAs 0x54 long (fun e => e.modOk long) fs = true ∧ issuesAs 0x55 long (fun e => e.modOk long) fs = true ∧
    issuesAs 0x56 long (fun e => e.modOk long) fs = true ∧ issuesAs 0x57 long (fun e => e.modOk long) fs = true ∧
    issuesAs 0x58 long (fun e => e.modOk long) fs = true ∧ issuesAs 0x59 long (fun e => e.paired && e.modOk long) fs = true ∧
    issuesAs 0x59 long (fun e => !e.paired) = true ∧
    issuesAs 0x5A { long with d := 31 } (fun e => e.modOk long && !e.sealedSet 0 && e.clear 1 [31]) fq = true ∧
    issuesAs 0x5B long (fun e => e.reaches (e.shareAccs long (e.wordAddr long 0) true)) fq = true ∧
    issuesAs 0x5C long (fun e => e.reaches (e.shareAccs long (e.wordAddr long 0) false) && e.u.sealedSets.length == 8) fq = true := by decide +kernel

/-! ### Microwords and call gates -/

/-- A word that does nothing in the scratch ALU. -/
def word0 : Micro := { addr := 15000, cond := 0, atom := false, xop := 0, xd := 0, xa := 0, xb := 0, imm := 0, rest := 0 }

/-- The part with an open image of 4,096 words and a customer command on thread 0 of field 0, the thread so. -/
def threaded (h : Thread) (params : Bytes := []) (ks : List Key := []) : State :=
  let s := openedBy { ident := 1, entries := [entry.take 10 ++ [1, 32] ++ z 4], words := List.replicate 4096 0, data := [] }
  { s.modField 0 (fun x => { x with threads := { h with busy := true, tag := 1 } :: List.replicate 63 {} }) with
    cmds := [{ cmd 0xE000 params with keys := ks }], keys := ks }

/-- The microword issues on a thread that stands at a word of the open region. -/
def micros (nxt : Nat) (h : Thread) (p : Thread → Bool := fun _ => true) : Bool :=
  match (threaded { h with pc := 15000 }).micro? ⟨0, 0⟩ nxt word0 with
  | some (_, _, g) => p g
  | none => false

theorem test_MicrowordRows_witness :
    (∀ n ∈ [0, 1, 4, 6], micros n {} = true) ∧
    (∀ n ∈ [7, 8, 15], ((threaded { pc := 5 }).micro? ⟨0, 0⟩ n word0).isSome = true) ∧
    (customerEntry (threaded {}) 0xE000).isSome = true ∧ word0.xop = 0 ∧ ((threaded { atom := true }).thread ⟨0, 0⟩).atom = true ∧
    (let s := threaded {}
     (s.cmd? 0 1).any (fun e => !e.reset) = true) ∧
    (let s : State := { threaded {} with cmds := [{ cmd 0xE000 [] with reset := true }] }
     (s.thread ⟨0, 0⟩).atom = false ∧ (s.cmd? 0 1).any (fun e => e.reset && !e.isDone) = true) := by decide +kernel

theorem test_ReturnStack_witness :
    opened.freeThread (cmd 0xE000 []).fld = some 0 ∧ (cmd 0xE000 []).fld < opened.fields.length ∧
      0 < (opened.field (cmd 0xE000 []).fld).threads.length ∧
    ¬ (0x40 ≤ word0.addr ∧ word0.addr < 0x100) ∧
    micros 2 { stack := List.replicate 7 5 } (fun g => g.stack.length < 8) = true ∧
    micros 2 { stack := List.replicate 8 5 } (fun g => 8 ≤ g.stack.length) = true ∧ micros 3 { stack := [5] } (fun g => g.stack == [5]) = true ∧
    micros 3 {} (fun g => g.stack == []) = true := by decide +kernel

/-- The same entry without VERDICT. -/
def plainEntry (s : State) : State := { s with pkg := opened.pkg, fields := s.fields.map fun x => { x with openCopy := opened.pkg.openImg } }

/-- A thread with a value in x0. -/
def x0 (v : BitVec 32) : Thread := { x := v :: List.replicate 31 0 }

theorem test_EndStatus_witness :
    micros 5 {} = true ∧
    (bit (byteAt ((plainEntry (threaded {})).opEntry (cmd 0xE000 [])) 10) 0 = false ∧ (((x0 0).x.getD 0 0).toNat % 65536) = Status.ok.code ∧
      ((x0 0x0FFF).x.getD 0 0).toNat % 65536 / 0x1000 = 0 ∧ ((x0 0x5FFF).x.getD 0 0).toNat % 65536 / 0x1000 = 5 ∧
      ((x0 0xFFFF).x.getD 0 0).toNat % 65536 = 0xFFFF) ∧
    ((0xFFFF : Nat) / 0x1000 ≠ 0 ∧ (0xFFFF : Nat) / 0x1000 ≠ 5 ∧ ∀ st : Status, (0xFFFF : Nat) ≠ st.code) ∧
    (bit (byteAt ((threaded {}).opEntry (cmd 0xE000 [])) 10) 0 = true ∧ ({} : Thread).verdict = .none ∧
      (statusOf (((x0 0x0FFF).x.getD 0 0).toNat % 65536)).cls = 0 ∧ (statusOf (((x0 0x5FFF).x.getD 0 0).toNat % 65536)).cls = 5) ∧
    ((threaded { words := 2 ^ 30 }).threadCmd ⟨0, 0⟩).isSome = true ∧ 2 ^ 30 ≤ ((threaded { words := 2 ^ 30 }).thread ⟨0, 0⟩).words := by
  refine ⟨by decide +kernel, by decide +kernel, ⟨by decide, by decide, fun st => ?_⟩, by decide +kernel, by decide +kernel, by decide +kernel⟩
  cases st <;> decide

/-- A thread at a gate, its return address on the stack, with arguments in x1 to x3. -/
def atGate (pc : Nat) (a1 a2 a3 : BitVec 32) (drawn : Bool := false) : Thread :=
  { pc := pc, stack := [15000], x := [0, a1, a2, a3] ++ List.replicate 28 0, drawMade := drawn }

/-- The thread stands at the gate and p holds of its command and of it. -/
def gated (s : State) (entry : Nat) (p : Cmd → Thread → Bool) : Bool :=
  match s.atGate? ⟨0, 0⟩ entry with
  | some (c, h) => p c h
  | none => false

/-- A secret for the gates. -/
def k32 : Key := key 3 4 0x10 32 (z 32)

/-- A thread that has drawn and has a slot and an output set. -/
def drawnAt (pc : Nat) (a1 a2 a3 : BitVec 32) : Thread := { atGate pc a1 a2 a3 true with sets := [z 32], buf := z 8 }

theorem test_CallGates_witness :
    gated (threaded (atGate 0 0 0x10 0) (hb 3) [k32]) 0x000 (fun c h =>
      let s := threaded (atGate 0 0 0x10 0) (hb 3) [k32]
      let k := num c.params (h.arg 1) 6
      let y := s.readDesc c k
      let c' := { c with keys := c.keys.filter (fun x => x.handle != k) ++ [k32] }
      let cold := c'.keys.filter fun x => !tPublic x.type && c'.coldKey y x
      y.key? c.inst k == some k32 && (firstFail (y.keyChecks c' [k] ++ y.commonChecks c' [k32] ++
          [((k32.attr &&& (h.arg 2 % 2 ^ 12)) != h.arg 2 % 2 ^ 12, .usageDenied)])).isNone &&
        y.random c' (!cold.isEmpty) (y.streamsUp c' false (!cold.isEmpty)) == .there && ((customerDesc c.op).homes y c').isSome &&
        cold == [k32] && y.whiskUp 0 && (y.field 0).whiskTurn c.inst c.tag 1 &&
        ((cold ++ [k32].filter fun x => tPublic x.type).all fun x => x.pages.all fun p => y.clean (hHome x.handle) p)) = true ∧
    gated (threaded (atGate 8 1 1 0)) 0x008 (fun _ _ => true) = true ∧
    gated (threaded (atGate 16 32 0 0)) 0x010 (fun c h =>
      let s := threaded (atGate 16 32 0 0)
      !h.drawMade && decide (h.arg 1 ≤ byteAt (s.opEntry c) 11) && (s.random c (h.arg 1 != 0) (s.streamsUp c (s.maskedOp c) (c.twinWrap (h.arg 1 != 0))) == .there) &&
        !s.steepStalls 0 false 1 c.queued) = true ∧
    gated (threaded (atGate 16 0 0 0 true)) 0x010 (fun _ h => h.drawMade) = true ∧
    gated (threaded (atGate 24 0 0 0)) 0x018 (fun _ h => !h.drawMade) = true ∧
    gated { threaded (atGate 24 0 0 0 true) (hb 9 ++ z 34) with images := [img] } 0x018 (fun c h =>
      let s : State := { threaded (atGate 24 0 0 0 true) (hb 9 ++ z 34) with images := [img] }
      let b := h.block c
      let m := s.prog b
      h.drawMade && decide (40 ≤ b.len) && b.len == 40 + b.p 37 3 && b.p 33 1 == 0 && decide (b.p 34 3 ≤ 262144) && decide (b.p 37 3 ≤ 1048575) &&
        (s.image? c.inst (b.p 0 6)).isSome && (h.refs m.nkeyin).isEmpty && outAttrOk m (b.p 30 3) && m.nkeyout == 0 &&
        bit (byteAt m.header 10) (c.raised [] 0) && decide (blockSram m b ≤ acreSram)) = true ∧
    gated (threaded (atGate 32 0 8 0x12) (z 8)) 0x020 (fun c h => (hashFn? (h.arg 3)).any (·.out != 0) && decide (h.arg 1 + h.arg 2 ≤ c.params.length) &&
      !(threaded (atGate 32 0 8 0x12) (z 8)).noContext c) = true ∧
    gated (threaded (drawnAt 40 0 0 8) (z 8)) 0x028 (fun c h => decide (h.arg 1 + h.arg 3 ≤ h.buf.length) && decide (h.arg 2 + h.arg 3 ≤ c.params.length)) = true ∧
    gated (threaded (drawnAt 48 0 0x040020 0x10)) 0x030 (fun c h =>
      let s := threaded (drawnAt 48 0 0x040020 0x10)
      h.drawMade && h.arg 2 / 65536 % 256 == 4 && sizeOk 4 (h.arg 2 % 65536) && attrOk 4 (h.arg 3) && !bit (h.arg 3) aPersistent &&
        h.sets.getD (h.arg 1) [] != [] && attrBounded (h.arg 3) c.keys && !s.noRoom c 1 (secretBlob 32) &&
        s.whiskUp 0 && (s.field 0).whiskTurn c.inst c.tag 2) = true ∧
    gated (threaded (atGate 48 0 0 0)) 0x030 (fun _ h => !h.drawMade) = true ∧
    gated (threaded (atGate 56 0 0 8) (z 8)) 0x038 (fun c h => h.arg 1 == 0 && decide (h.arg 2 + h.arg 3 ≤ c.params.length)) = true ∧
    gated (threaded (drawnAt 56 1 0 8)) 0x038 (fun _ h => h.arg 1 == 1 && decide (h.arg 2 + h.arg 3 ≤ h.buf.length)) = true ∧
    (atGate 0 0 0 0).x.length ≠ 0 := by decide +kernel

/-! ### Ill-formed operands, one for each check of WellFormed -/

/-- A well-formed record and its neighbours. -/
def rec0 : CmdRec := recOf (cmd 1 [])

/-- A well-formed frame. -/
def frame0 : RxFrame :=
  { port := 1, fcsOk := true, len := 64, dst := 0, src := 0, tci := some 65535, ethertype := 65535,
    sec := some { sci := 0, an := 3, pn := 0, encrypted := true, icvOk := true }, body := [] }

theorem test_illFormed_refused : ∀ i ∈ ([
   .identify { rec0 with inst := 256 }, .identify { rec0 with tag := 2 ^ 32 }, .identify { rec0 with flags := 256 },
   .identify { rec0 with seq := 2 ^ 32 }, .identify { rec0 with prio := 8 }, .identify { rec0 with ctx := { cx with port := 2 } },
   .identify { rec0 with ctx := { cx with src := 2 ^ 48 } }, .identify { rec0 with ctx := { cx with tci := some 65536 } },
   .identify { rec0 with ctx := { cx with sci := some (2 ^ 64) } },
   .requestFrame { frame0 with port := 2 }, .requestFrame { frame0 with dst := 2 ^ 48 }, .requestFrame { frame0 with src := 2 ^ 48 },
   .requestFrame { frame0 with tci := some 65536 }, .requestFrame { frame0 with ethertype := 65536 }, .requestFrame { frame0 with len := 16384 },
   .requestFrame { frame0 with sec := some { sci := 2 ^ 64, an := 0, pn := 0, encrypted := true, icvOk := true } },
   .requestFrame { frame0 with sec := some { sci := 0, an := 4, pn := 0, encrypted := true, icvOk := true } },
   .requestFrame { frame0 with sec := some { sci := 0, an := 0, pn := 2 ^ 32, encrypted := true, icvOk := true } },
   .selfTestComplete [8], .selfTestTimeout 8, .hostLinkUp 2 [], .segGapExpiry 0 0, .segGapExpiry 0 (2 ^ 32), .segGapExpiry 256 1,
   .creditUpdateTimer 256, .replyRelease 256 0, .replyRelease 0 (2 ^ 32), .leafReservationDone (2 ^ 48) true, .healthFailure 0 2 true,
   .seedbedHealthWindow 0 0 4097 [], .leafSeedRequest 0 4, .li ⟨8, 0⟩ noFields, .li ⟨0, 16⟩ noFields, .li ⟨0, 0⟩ { noFields with t := 4 },
   .li ⟨0, 0⟩ { noFields with l := 2 }, .li ⟨0, 0⟩ { noFields with m := 8 }, .li ⟨0, 0⟩ { noFields with d := 32 },
   .li ⟨0, 0⟩ { noFields with a := 32 }, .li ⟨0, 0⟩ { noFields with b := 32 }, .li ⟨0, 0⟩ { noFields with q := 4 },
   .li ⟨0, 0⟩ { noFields with f := 32 }, .li ⟨0, 0⟩ { noFields with c := 4096 }, .ld2Ld4 ⟨0, 0⟩ 1 noFields, .st2St4 ⟨0, 0⟩ 5 noFields,
   .customerOpcode 0xDFFF rec0, .customerOpcode 0xF000 rec0, .nextWord ⟨8, 0⟩ word0, .nextWord ⟨0, 64⟩ word0,
   .nextWord ⟨0, 0⟩ { word0 with addr := 16384 }, .nextWord ⟨0, 0⟩ { word0 with cond := 64 }, .nextWord ⟨0, 0⟩ { word0 with xop := 32 },
   .nextWord ⟨0, 0⟩ { word0 with xd := 32 }, .nextWord ⟨0, 0⟩ { word0 with xa := 32 }, .nextWord ⟨0, 0⟩ { word0 with xb := 32 },
   .nextWord ⟨0, 0⟩ { word0 with imm := 65536 }, .nextWord ⟨0, 0⟩ { word0 with rest := 2 ^ 99 }, .parityError 0 16384,
   .plolysCrcFail 0 3, .sensorTrip 0 16 0 0, .sensorTrip 0 0 64 0, .sensorTrip 0 0 0 256, .alarmLineReceived 0 8, .tamperMismatch 2,
   .tempSensorReading 0 8 0, .gddr6Refresh 0 2, .edcFailure { burst .final with channel := 2 }, .edcFailure { burst .final with page := 2 ^ 20 },
   .edcFailure { burst .final with field := 8 }, .harrowVisit 0 1374 false, .pageRetirement 0 (2 ^ 20) true true,
   .mergeIdleTimer 0 (2 ^ 20), .jtagTapAccess (.furrowReg ⟨0, 0⟩ 32), .jtagTapAccess (.furrowWord ⟨0, 0⟩ 32768),
   .jtagTapAccess (.caddyReg ⟨0, 0⟩ 32), .jtagTapAccess (.islandSetPoint 8), .jtagTapAccess (.sealedState 8), .pauseRefresh 0 8,
   .pauseTimerExpiry 2 0] : List Instr), wellFormed i = false := by decide +kernel

theorem test_longParams_refused (b : Bytes) (h : b.length = 2 ^ 24) : wellFormed (.identify { rec0 with params := b }) = false := by
  simp [wellFormed, CmdRec.ok, paramsOk, h]

theorem test_wellFormed :
    wellFormed (.identify rec0) = true ∧ wellFormed (.requestFrame frame0) = true ∧ wellFormed (.li ⟨7, 15⟩ noFields) = true ∧
    wellFormed (.nextWord ⟨7, 63⟩ word0) = true ∧ wellFormed (.customerOpcode 0xEFFF rec0) = true := by decide +kernel

/-! ### Examples of the spec -/

/-- *Worked example: one header, three outcomes*: the header, its check and the frame. -/
def headerBytes : Bytes := [0x10, 0, 0, 0x40, 0, 0, 0, 0x17, 0, 0, 0x0A, 0, 0, 0x0A, 0, 0, 0, 0, 0, 0]

/-- The frame of the example, padded to a length. -/
def exampleFrame (pad : Nat) (r : Bytes) : RxFrame :=
  { port := 0, fcsOk := true, len := 52 + pad, dst := 0x0A1C3500082E, src := 0x0A7710000001, tci := none, ethertype := 0x88B5, sec := none,
    body := headerBytes ++ toBE 4 0xA223F4F4 ++ r ++ z pad }

theorem test_header_check : crc32c headerBytes = 0xA223F4F4 ∧ crc32c (ascii "123456789") = 0xE3069283 := by decide +kernel

theorem test_header_outcomes :
    acceptedAs partUp (exampleFrame 12 [0, 1, 0, 0, 0, 0, 0, 0, 0, 0x51]) 0 (fun h _ => h.seq == 0x17 && h.prio == 2 && h.flen == 10) = true ∧
    heardAs partUp (exampleFrame 16 [0, 1, 0, 0, 0, 0, 0, 0, 0, 0x51]) 0
      (fun h _ => lengthCheck (exampleFrame 16 [0, 1, 0, 0, 0, 0, 0, 0, 0, 0x51]) h == some .lengthLong) = true ∧
    (match readRecords 10 [0, 0x10, 0, 0, 0, 2, 0, 0, 0, 0x51] with
      | .error e => e == .lengthShort
      | .ok _ => false) = true ∧
    replyRecord 0 0 0 { status := .lengthShort, results := toBE 4 0x17 ++ toBE 4 0 } =
      [0, 0, 0x20, 3, 0, 0, 0, 0, 8, 0, 0, 0, 0, 0, 0, 0, 0x17, 0, 0, 0, 0] := by decide +kernel

/-- *Worked example: one frame, two outcomes*: the results of IDENTIFY. -/
theorem test_identify_example :
    ({ parted with fields := [{ fieldUp with patch := 4 }, fieldUp] } : State).identify =
      [2, 0xB0, 2, 0, 0x0A, 0x1C, 0x35, 0, 8, 0x2E, 0, 1, 0, 0, 0x4E, 0x49, 0x0B, 0x17, 0, 0, 0x2C, 0x4D, 2, 3, 1, 0, 0, 4, 0, 0, 0, 0, 2, 2] := by
  decide +kernel

/-- *Worked example: MODE_SET at both levels*: the same eight result bytes, and BAD_PARAMETER for a brown ceiling above the power ceiling. -/
theorem test_modeSet_example :
    let s : State := { partUp with working := [(0x03, none, 2), (0x04, none, 28), (0x05, none, 24)] }
    ((modeSetDesc.body s (cmd 0x10 [0, 0x38])).2.map (·.results)) = some [0, 0x38, 2, 0, 0, 0x1C, 0, 0x18] ∧
    ((modeSetDesc.body s (cmd 0x90 [0, 0x38, 2, 0, 0, 0x1C, 0, 0x18])).2.map (·.results)) = some [0, 0x38, 2, 0, 0, 0x1C, 0, 0x18] ∧
    ((modeSetDesc.refusal? (recOf (cmd 0x90 [0, 0x38, 2, 0, 0, 0x1C, 0, 0x1E])) (having s (cmd 0x90 [0, 0x38, 2, 0, 0, 0x1C, 0, 0x1E]))).map (·.1)) =
      some .badParameter := by decide +kernel

/-- *Worked example: a key pair, then two narrowings*: the parts of a handle. -/
theorem test_handle_example :
    hInst 0x03A52840D003 = 3 ∧ hHome 0x03A52840D003 = 5 ∧ hIndex 0x03A52840D003 = 0x294A10 ∧
    3 * 2 ^ 40 + 0x294A11 * 2 ^ 18 + 0xD001 = 0x03A52844D001 := by decide +kernel

/-- *Worked example: DECOMPOSE on four lanes*: the word and the four results. -/
theorem test_decompose_example :
    saivoOp 0x3B21044A0001 = 0x3B ∧ saivoFields 0x3B21044A0001 = { noFields with l := 1, d := 8, a := 4, b := 9, q := 1, c := 1 } ∧
    readInstrs 1 [0x01, 0x00, 0x4A, 0x04, 0x21, 0x3B] = [0x3B21044A0001] ∧
    ([8380416, 3000000, 261888, 8200000].map (decomposeFn 523776 8380417)) = [(0, -1), (6, -142656), (0, 261888), (0, -180417)] := by
  decide +kernel

/-- *Worked example: a gather faults at element 4*: the address, the record and the destination. -/
def gathering (x : Nat) : Furrow :=
  { s := List.replicate 4 0 ++ [0xF00] ++ List.replicate 27 0, dwsize := 0x1000, poison := [0xF08],
    v := List.replicate 5 (List.replicate 8 0) ++ [[0x001000, 0x00F00A, BitVec.ofNat 24 (0x20000 + x), 0x21020, 0x22021, 0x23022, 0x24023, 0x25024]] ++
      List.replicate 10 (List.replicate 8 0) }

/-- The gather of the example. -/
def gatherFields : SaivoFields := { noFields with t := 1, d := 3, a := 4, b := 5 }

theorem test_gather_example :
    (let t := match exec (.gather ⟨0, 0⟩ gatherFields) (furrowed (gathering 0x011) { rn with test := false }) with
       | .next t => t
       | _ => partUp
     (t.furrow ⟨0, 0⟩).frec.word 0 = 0x020004 ∧ (t.furrow ⟨0, 0⟩).frec.addr = 0xF08 ∧ (t.furrow ⟨0, 0⟩).frec.mode = false ∧
       (t.furrow ⟨0, 0⟩).v.getD 3 [] = List.replicate 8 0) ∧
    (let t := match exec (.gather ⟨0, 0⟩ gatherFields) (furrowed (gathering 0x201) { rn with test := false }) with
       | .next t => t
       | _ => partUp
     (t.furrow ⟨0, 0⟩).frec.cause = 1 ∧ (t.furrow ⟨0, 0⟩).frec.addr = 0x1000) := by decide +kernel

/-- *Worked example: light on field 3*: the cause register and the reply; *a truncated tag checked*: the two verdicts. -/
theorem test_records_example :
    alarmWord 4 0x3B 2 3 = 0x843B0203 ∧
    replyRecord 0x0203 0x0D40 0 { status := .alarmErased } = [2, 3, 0x90, 2, 0, 0, 0, 0, 0, 0, 0, 0x0D, 0x40] ∧
    replyRecord 0x0603 0x0E51 0 { status := .ok, verdict := .pass } = [6, 3, 0, 0, 0x5A, 0xA5, 0, 0, 0, 0, 0, 0x0E, 0x51] ∧
    replyRecord 0x0603 0x0E51 0 { status := .verdictFail, verdict := .fail } = [6, 3, 0x50, 0, 0x3C, 0xC3, 0, 0, 0, 0, 0, 0x0E, 0x51] := by
  decide +kernel

/-- *Worked example: a scrub meets a partial write*: an AEAD_SEAL with a page of output whose codeword has e symbols in error. -/
def sealing (e : Nat) : State :=
  { partUp with cmds := [{ cmd 0x501 [] with stage := .running, field := some 0, checked := true, outPages := [(0, 0xA2C4)] }] }.modField 0
    fun x => x.putPage { page := 0xA2C4, strength := 1, region := 4, version := 7, owner := 0, errors := e }

theorem test_scrub_example :
    (let t := (sealing 0).outPiece (cmd 0x501 []).inst (cmd 0x501 []).tag 0 512
     (t.pageOf 0 0xA2C4).version = 8 ∧ (t.cmds.all (·.isDone)) = false) ∧
    (let t := (sealing 9).outPiece (cmd 0x501 []).inst (cmd 0x501 []).tag 0 512
     (t.replyOf (cmd 0x501 []).inst (cmd 0x501 []).tag).map (·.status) = some .destPoisoned) ∧
    stagePieces 2000 100 = [(0, 48), (1, 52)] := by decide +kernel

end Sys2Proof.Tests
end

section
/-! The sequence window (R84): what `Window.judge` answers in each of the rule's five steps, what `Window.record` keeps, and the
obligation about both. -/

namespace Sys2Proof.Machine

namespace Window

variable {w : Window} {t h : Nat}

/-- R84, step 1. -/
theorem judge_of_empty (hw : w.h = none) : w.judge t = .accept t := by
  simp [judge, hw]

/-- R84, step 2. -/
theorem judge_of_later (hw : w.h = some h) (hl : later t h = true) : w.judge t = .accept t := by
  simp [judge, hw, hl]

/-- R84, steps 3 and 4: within the last 4,096 tags only the record decides. -/
theorem judge_of_within (hw : w.h = some h) (hl : later t h = false) (hr : (h + 2 ^ 32 - t) % 2 ^ 32 ≤ 4095) :
    w.judge t = if t ∈ w.seen then .duplicate else .accept h := by
  simp only [judge, hw, hl, Bool.false_eq_true, if_false, if_pos hr, List.contains_iff_mem]

/-- R84, step 5. -/
theorem judge_of_beyond (hw : w.h = some h) (hl : later t h = false) (hr : 4095 < (h + 2 ^ 32 - t) % 2 ^ 32) :
    w.judge t = .outside := by
  simp only [judge, hw, hl, Bool.false_eq_true, if_false, if_neg hr.not_ge]

@[simp] theorem record_h (w : Window) (top t : Nat) : (w.record top t).h = some top := rfl

/-- The recorded tag stands in the record beside the earlier ones that are still within reach of the new top. -/
@[simp] theorem mem_seen_record (w : Window) (top t x : Nat) :
    x ∈ (w.record top t).seen ↔ x = t ∨ x ∈ w.seen ∧ (top + 2 ^ 32 - x) % 2 ^ 32 ≤ 4095 := by
  simp [record]

end Window

/-- Settles O24: one lemma about `Window.judge` for each step of R84, and the two about `Window.record`. -/
theorem sequenceWindow : Obligations.SequenceWindow := by
  unfold Obligations.SequenceWindow
  intro w t _ _
  refine ⟨Window.judge_of_empty, fun _ => Window.judge_of_later, ?unseen, ?seen, fun _ => Window.judge_of_beyond, ?recorded⟩
  case unseen =>
    intro h hw hl hr hn
    rw [Window.judge_of_within hw hl hr, if_neg hn]
  case seen =>
    intro h hw hl hr hm
    rw [Window.judge_of_within hw hl hr, if_pos hm]
  case recorded =>
    intro top
    exact ⟨w.record_h top t, (w.mem_seen_record top t t).2 (.inl rfl)⟩

end Sys2Proof.Machine
end

section
/-! How a Saivo instruction that jumps or faults settles: the counterparts of `leaves_of`. -/

namespace Sys2Proof.Machine

variable {op : Nat} {row : FurrowRef → SaivoFields → Instr} {ok : SaivoFields → Env → Prop} {sem : SaivoFields → Env → Res}

/-- A jump costs one cycle more where the encoding is BR's or LOOP's (R346). -/
theorem gives_of_jump {g : SaivoFields → Env → Env} {pc : SaivoFields → Env → Nat}
    (hx : ∀ u i s, exec (row u i) s = .next (s.issue u op i (sem i))) (h : ∀ i e, ok i e → sem i e = .jump (g i e) (pc i e)) :
    Gives op row ok fun u i e x => x.store u ((g i e).go (pc i e) (op == 0x08 || op == 0x0C).toNat) :=
  gives_of hx fun s u i e _ ho => by rw [h i e ho]; rfl

/-- A fault that keeps no part of the instruction's work. -/
theorem faults_of {cause : Nat} {place : SaivoFields → Env → Nat × Nat}
    (hx : ∀ u i s, exec (row u i) s = .next (s.issue u op i (sem i)))
    (h : ∀ i e, ok i e → sem i e = .fault cause (place i e).1 (place i e).2 e none) : Faults op row ok cause place :=
  gives_of hx fun s u i e _ ho => by rw [h i e ho]; rfl

end Sys2Proof.Machine
end

section
/-! Scalar arithmetic (R347): the functions of the table, the immediates, and the obligation about ALU, ALUI and LI. -/

namespace Sys2Proof.Machine

theorem aluFn_mul (a b : Word24) : aluFn 2 a b = BitVec.ofNat 24 (a.toNat * b.toNat % 2 ^ 24) :=
  BitVec.eq_of_toNat_eq (by simp [aluFn])

theorem aluFn_slt (a b : Word24) : aluFn 10 a b = if a.toInt < b.toInt then 1 else 0 := by
  simp only [aluFn, BitVec.slt_iff_toInt_lt]

theorem aluFn_sltu (a b : Word24) : aluFn 11 a b = if a.toNat < b.toNat then 1 else 0 := by
  simp only [aluFn, BitVec.ult_iff_toNat_lt]

/-- A shift to the right by the whole width leaves the sign in every bit. -/
theorem sshiftRight_of_width_le {w n : Nat} (a : BitVec w) (h : w ≤ n) : a.sshiftRight n = if a.msb then BitVec.allOnes w else 0 := by
  ext k hk
  have outside : ¬ n + k < w := by omega
  cases hm : a.msb <;> simp [BitVec.getElem_sshiftRight, outside, hm]

/-- A shift by 24 or more (R347). -/
theorem aluFn_shift_out {a b : Word24} (h : 24 ≤ b.toNat % 32) :
    aluFn 7 a b = 0 ∧ aluFn 8 a b = 0 ∧ aluFn 9 a b = if a.msb then BitVec.allOnes 24 else 0 :=
  ⟨BitVec.shiftLeft_eq_zero h, BitVec.ushiftRight_eq_zero h, sshiftRight_of_width_le a h⟩

/-- sext12 reads its 12 bits as two's complement. -/
theorem sext12_eq_toInt (c : Nat) : sext12 c = (BitVec.ofNat 12 c).toInt := by
  simp only [sext12, signedOf, BitVec.toInt_eq_toNat_cond, BitVec.toNat_ofNat]
  split <;> split <;> omega

/-- B, Q, F and C are the fields of bits [23:0] (R341). -/
theorem imm24_saivoFields (w : Nat) : imm24 (saivoFields w) = w % 2 ^ 24 := by
  simp only [imm24, saivoFields, bits]
  omega

/-- Settles O45: each instruction's meaning goes on with the register written; the table's rows are the equations of `aluFn`. -/
theorem scalarArithmetic : Obligations.ScalarArithmetic := by
  unfold Obligations.ScalarArithmetic
  refine ⟨?alu, ?alui, ?li, ?sext, imm24_saivoFields, ?table⟩
  case alu => exact leaves_of (sem := semAlu) (fun _ _ _ => rfl) fun _ _ _ _ _ => rfl
  case alui => exact leaves_of (sem := semAlui) (fun _ _ _ => rfl) fun _ _ _ _ _ => rfl
  case li => exact leaves_of (sem := semLi) (fun _ _ _ => rfl) fun _ _ _ _ _ => rfl
  case sext =>
    intro c _
    rw [sext12_eq_toInt, BitVec.signExtend]
  case table =>
    intro a b
    exact ⟨rfl, rfl, aluFn_mul a b, rfl, rfl, rfl, rfl, rfl, rfl, rfl, aluFn_slt a b, aluFn_sltu a b, aluFn_shift_out⟩

end Sys2Proof.Machine
end

section
/-! Control flow (R348): what BR, LOOP and JR decide, the conditions, and the obligation about where each goes. -/

namespace Sys2Proof.Machine

variable {i : SaivoFields} {e : Env}

theorem semBr_taken (h : brCond i.d (e.sreg i.a) (e.sreg i.b) = true) : semBr i e = .jump e (target i) := if_pos h

theorem semBr_not_taken (h : brCond i.d (e.sreg i.a) (e.sreg i.b) = false) : semBr i e = .next e := by
  simp only [semBr, h, Bool.false_eq_true, if_false]

/-- LOOP branches unless the count was 1: its decrement is then not zero. -/
theorem semLoop_taken (h : e.sreg i.a ≠ 1) : semLoop i e = .jump (e.setS i.a (e.sreg i.a - 1)) (target i) :=
  if_pos (bne_iff_ne.2 (sub_ne_zero.2 h))

theorem semLoop_done (h : e.sreg i.a = 1) : semLoop i e = .next (e.setS i.a 0) := by
  simp [semLoop, h]

theorem semJr_inside (h : (e.sreg i.a).toNat < e.r.image.icount) : semJr i e = .jump e (e.sreg i.a).toNat := if_neg h.not_ge

theorem semJr_outside (h : e.r.image.icount ≤ (e.sreg i.a).toNat) : semJr i e = .fault 0x01 0 (e.sreg i.a).toNat e none := if_pos h

/-- The signed conditions are each other's negation. -/
theorem brCond_signed (a b : Word24) : brCond 2 a b = decide (a.toInt < b.toInt) ∧ brCond 3 a b = decide (b.toInt ≤ a.toInt) := by
  simp only [brCond, BitVec.slt_eq_decide, ← decide_not, not_lt, and_self]

/-- The unsigned conditions are each other's negation. -/
theorem brCond_unsigned (a b : Word24) : brCond 4 a b = decide (a.toNat < b.toNat) ∧ brCond 5 a b = decide (b.toNat ≤ a.toNat) := by
  simp only [brCond, BitVec.ult_eq_decide, ← decide_not, not_lt, and_self]

theorem brCond_equality (a b : Word24) : brCond 0 a b = decide (a = b) ∧ brCond 1 a b = decide (a ≠ b) := by
  simp only [brCond, beq_eq_decide, bne, ← decide_not, ne_eq, and_self]

/-- Settles O46: an instruction that branches jumps, at the cost of its encoding; one that does not goes on. -/
theorem controlFlow : Obligations.ControlFlow := by
  unfold Obligations.ControlFlow
  refine ⟨?brTaken, ?brNot, ?loopTaken, ?loopDone, ?jal, ?jrInside, ?jrOutside, ?jmp, ?conditions⟩
  case brTaken => exact gives_of_jump (sem := semBr) (fun _ _ _ => rfl) fun _ _ => semBr_taken
  case brNot => exact leaves_of (sem := semBr) (fun _ _ _ => rfl) fun _ _ _ _ => semBr_not_taken
  case loopTaken => exact gives_of_jump (sem := semLoop) (fun _ _ _ => rfl) fun _ _ => semLoop_taken
  case loopDone => exact leaves_of (sem := semLoop) (fun _ _ _ => rfl) fun _ _ _ _ => semLoop_done
  case jal => exact gives_of_jump (fun _ _ _ => rfl) fun _ _ _ => rfl
  case jrInside => exact gives_of_jump (sem := semJr) (fun _ _ _ => rfl) fun _ _ => semJr_inside
  case jrOutside => exact faults_of (sem := semJr) (fun _ _ _ => rfl) fun _ _ => semJr_outside
  case jmp => exact gives_of_jump (fun _ _ _ => rfl) fun _ _ _ => rfl
  case conditions =>
    intro a b
    obtain ⟨eq, ne⟩ := brCond_equality a b
    obtain ⟨lt, ge⟩ := brCond_signed a b
    obtain ⟨ltu, geu⟩ := brCond_unsigned a b
    exact ⟨eq, ne, lt, ge, ltu, geu⟩

end Sys2Proof.Machine
end

section
/-! Mask registers (R315, R351): the bits of what VCMP, MSET and MGET write, and the obligation about the four instructions. -/

namespace Sys2Proof.Machine

/-- A sum of distinct powers of two has the bits that are its exponents. -/
theorem testBit_sum_two_pow {ks : List Nat} (hk : ks.SortedLT) (k : Nat) :
    (ks.map fun l => 2 ^ l).sum.testBit k = decide (k ∈ ks) := by
  rw [Bool.eq_iff_iff, decide_eq_true_iff, ← Nat.mem_bitIndices, Nat.bitIndices_sum_map_two_pow hk]

/-- The mask made of the lanes below n that a test picks has their bits and no other. -/
theorem getLsbD_sum_lanes {n : Nat} (hn : n ≤ 64) (p : Nat → Bool) (l : Nat) :
    (BitVec.ofNat 64 (((List.range n).filter p).map fun l => 2 ^ l).sum).getLsbD l = (decide (l < n) && p l) := by
  have sorted : ((List.range n).filter p).SortedLT := ((List.sortedLT_range n).pairwise.filter p).sortedLT
  rw [BitVec.getLsbD_ofNat, testBit_sum_two_pow sorted]
  by_cases h : l < n
  · simp [h, show l < 64 by omega]
  · simp [h]

theorem laneCount_le (l : Nat) : laneCount l ≤ 64 := by
  unfold laneCount
  split <;> omega

/-- A number with its w bits from s on replaced by those of x. -/
theorem testBit_replace (n s w x k : Nat) : (n - n / 2 ^ s % 2 ^ w * 2 ^ s + x % 2 ^ w * 2 ^ s).testBit k =
    if s ≤ k ∧ k < s + w then x.testBit (k - s) else n.testBit k := by
  have decomposed : n = 2 ^ s * (2 ^ w * (n / 2 ^ s / 2 ^ w) + n / 2 ^ s % 2 ^ w) + n % 2 ^ s := by
    rw [Nat.div_add_mod, Nat.div_add_mod]
  have parts : n - n / 2 ^ s % 2 ^ w * 2 ^ s + x % 2 ^ w * 2 ^ s =
      2 ^ s * (2 ^ w * (n / 2 ^ s / 2 ^ w) + x % 2 ^ w) + n % 2 ^ s := by
    generalize n / 2 ^ s / 2 ^ w = hi, n / 2 ^ s % 2 ^ w = p, n % 2 ^ s = lo at decomposed ⊢
    subst decomposed
    rw [mul_add, mul_add, mul_comm p, mul_comm (x % 2 ^ w)]
    omega
  rw [parts, Nat.testBit_two_pow_mul_add _ (Nat.mod_lt _ (by positivity)), Nat.testBit_two_pow_mul_add _ (Nat.mod_lt _ (by positivity))]
  simp only [Nat.testBit_mod_two_pow, Nat.testBit_div_two_pow]
  by_cases below : k < s
  · simp [below, below.not_ge]
  · by_cases inside : k - s < w
    · have range : s ≤ k ∧ k < s + w := by omega
      simp [below, inside, range]
    · have range : ¬(s ≤ k ∧ k < s + w) := by omega
      have place : k - s - w + w + s = k := by omega
      simp [below, inside, range, place]

/-- Part c of a mask register is its bits [24c + 23:24c], of which part 2 has the lower 16 only (R351). -/
theorem lt_maskPart_iff {c j : Nat} (hj : 24 * c + j < 64) : j < maskPart c ↔ j < 24 := by
  unfold maskPart
  split
  · rename_i h
    have := eq_of_beq h
    omega
  · rfl

/-- MSET replaces part c and keeps the other bits. -/
theorem getLsbD_maskPut {c k : Nat} (hk : k < 64) (old : BitVec 64) (x : Word24) :
    (maskPut old c x.toNat).getLsbD k = if 24 * c ≤ k ∧ k < 24 * c + 24 then x.getLsbD (k - 24 * c) else old.getLsbD k := by
  have part : 24 * c ≤ k → (k < 24 * c + maskPart c ↔ k < 24 * c + 24) := fun h => by
    have := lt_maskPart_iff (c := c) (j := k - 24 * c) (by omega)
    omega
  simp only [maskPut, BitVec.getLsbD_ofNat, testBit_replace, hk, decide_true, Bool.true_and, and_congr_right_iff.2 part, BitVec.testBit_toNat]

/-- MGET reads part c, zero-extended. -/
theorem getLsbD_maskPart {c k : Nat} (hk : k < 24) (m : BitVec 64) :
    (BitVec.ofNat 24 (m.toNat / 2 ^ (24 * c) % 2 ^ maskPart c)).getLsbD k = m.getLsbD (24 * c + k) := by
  simp only [BitVec.getLsbD_ofNat, hk, decide_true, Bool.true_and, Nat.testBit_mod_two_pow, Nat.testBit_div_two_pow, BitVec.testBit_toNat]
  rw [Nat.add_comm k]
  by_cases h : 24 * c + k < 64
  · simp [lt_maskPart_iff h, hk]
  · simp [BitVec.getLsbD_of_ge m (24 * c + k) (by omega)]

/-- The conditions on elements of w bits, as R348 codes them. -/
theorem vcmpCond_eq (w a b : Nat) : vcmpCond w 0 a b = decide (a = b) ∧ vcmpCond w 1 a b = decide (a ≠ b) ∧
    vcmpCond w 2 a b = decide (signedOf w a < signedOf w b) ∧ vcmpCond w 3 a b = decide (signedOf w b ≤ signedOf w a) ∧
    vcmpCond w 4 a b = decide (a < b) ∧ vcmpCond w 5 a b = decide (b ≤ a) := by
  simp only [vcmpCond, beq_eq_decide, bne, ← decide_not, not_lt, ne_eq, and_self]

/-- The mask VCMP writes. -/
def cmpMask (i : SaivoFields) (e : Env) : BitVec 64 :=
  BitVec.ofNat 64 (((List.range (laneCount i.l)).filter fun l => e.lane i l && (List.range (elPer i.t)).all fun j =>
    vcmpCond (elWidth i.t) i.f (elAt (e.elems i i.a) (elPer i.t * l + j)) (elAt (e.elems i i.b) (elPer i.t * l + j))).map fun l => 2 ^ l).sum

theorem vcmp_leaves : Leaves 0x26 .vcmp (fun i e => e.clear i.l [i.a, i.b] = true) fun i e => e.setMask i.d (cmpMask i e) :=
  leaves_of (sem := semVcmp) (fun _ _ _ => rfl) fun _ _ _ _ h => unsealed_clear h

theorem mset_leaves : Leaves 0x19 .mset (fun _ _ => True) fun i e => e.setMask i.d (maskPut (e.mask i.d) i.c (e.sreg i.a).toNat) :=
  leaves_of (fun _ _ _ => rfl) fun _ _ _ _ _ => rfl

theorem mget_leaves : Leaves 0x1A .mget (fun _ _ => True) fun i e =>
    e.setS i.d (BitVec.ofNat 24 ((e.mask i.a).toNat / 2 ^ (24 * i.c) % 2 ^ maskPart i.c)) :=
  leaves_of (fun _ _ _ => rfl) fun _ _ _ _ _ => rfl

/-- Settles O48: VCMP's mask bit by bit from `getLsbD_sum_lanes`, MSET's and MGET's from the bits of a part. -/
theorem maskRegisters : Obligations.MaskRegisters := by
  unfold Obligations.MaskRegisters
  refine ⟨?vcmp, ?mop, ?mset, ?mget, ?m0, vcmpCond_eq⟩
  case vcmp =>
    intro s x u i e hi hc
    exact ⟨cmpMask i e, vcmp_leaves s x u i e hi hc, getLsbD_sum_lanes (laneCount_le i.l) _⟩
  case mop => exact leaves_of (fun _ _ _ => rfl) fun _ _ _ _ _ => rfl
  case mset =>
    intro s x u i e hi
    exact ⟨_, mset_leaves s x u i e hi trivial, fun k hk => getLsbD_maskPut hk _ _⟩
  case mget =>
    intro s x u i e hi
    exact ⟨_, mget_leaves s x u i e hi trivial, fun k hk => getLsbD_maskPart hk _⟩
  case m0 => exact fun _ _ => ⟨rfl, rfl⟩

end Sys2Proof.Machine
end

section
/-! The return stack (R367): what a thread holds when a customer opcode starts it, what CALL and RET do to it, and the obligation about both. -/

namespace Sys2Proof.Machine

/-- A thread of a field that is there, once changed. -/
theorem thread_modThread (s : State) {t : ThreadRef} (g : Thread → Thread) (hf : t.field < s.fields.length)
    (hk : t.thread < (s.field t.field).threads.length) : (s.modThread t g).thread t = g (s.thread t) := by
  have changed : ((s.modThread t g).field t.field).threads = (s.field t.field).threads.modify t.thread g := by
    rw [State.modThread, State.modField_read, if_pos ⟨rfl, hf⟩]
  simp [State.thread, changed, hk]

/-- A command that takes a thread finds it as the reset values of `Thread` have it, at its opcode's ENTRY (R381). -/
theorem customerDesc_body_thread {op k : Nat} {s : State} {c : Cmd} (hk : s.freeThread c.fld = some k) (hf : c.fld < s.fields.length)
    (hl : k < (s.field c.fld).threads.length) : ((customerDesc op).body s c).1.thread ⟨c.fld, k⟩ =
      { busy := true, inst := c.inst, tag := c.tag, pc := num (s.opEntry c) 2 2 } := by
  simp only [customerDesc, hk]
  exact thread_modThread _ _ hf hl

section

variable {s x : State} {t : ThreadRef} {w : Micro} {c : Cmd} {h : Thread}

theorem exec_callWord_of_room (hm : s.micro? t 2 w = some (x, c, h)) (hg : ¬(0x40 ≤ w.addr ∧ w.addr < 0x100)) (hr : h.stack.length < 8) :
    exec (.callWord t w) s =
      .next ((x.modThread t fun h => { h with stack := (h.pc + 1) % 16384 :: h.stack, pc := w.addr }).boundary t c) := by
  simp only [exec, execCallWord, micro_of hm, Bool.and_eq_true, decide_eq_true_eq, hg, hr.not_ge, if_false, Thread.following]

theorem exec_callWord_of_full (hm : s.micro? t 2 w = some (x, c, h)) (hg : ¬(0x40 ≤ w.addr ∧ w.addr < 0x100)) (hr : 8 ≤ h.stack.length) :
    exec (.callWord t w) s = .next ((x.complete c.inst c.tag { status := stackError h }).boundary t c) := by
  simp only [exec, execCallWord, micro_of hm, Bool.and_eq_true, decide_eq_true_eq, hg, ge_iff_le, hr, if_true, if_false]

theorem exec_retWord_of_cons {a : Nat} {rest : List Nat} (hm : s.micro? t 3 w = some (x, c, h)) (hs : h.stack = a :: rest) :
    exec (.retWord t w) s = .next ((x.modThread t fun h => { h with stack := rest, pc := a }).boundary t c) := by
  simp only [exec, execRetWord, micro_of hm, hs]

theorem exec_retWord_of_nil (hm : s.micro? t 3 w = some (x, c, h)) (hs : h.stack = []) :
    exec (.retWord t w) s = .next ((x.complete c.inst c.tag { status := stackError h }).boundary t c) := by
  simp only [exec, execRetWord, micro_of hm, hs]

end

/-- Settles O57: a thread starts at `Thread`'s defaults, and CALL and RET each have a case for the depth of the stack; `stackError` is the
status of the two that find it full or empty. -/
theorem returnStack : Obligations.ReturnStack := by
  unfold Obligations.ReturnStack
  refine ⟨⟨rfl, rfl, rfl, rfl⟩, ?started, ?pushed, ?full, ?popped, ?empty⟩
  case started =>
    intro op k s c hk hf hl
    rw [customerDesc_body_thread hk hf hl]
    exact ⟨rfl, rfl, rfl, rfl, rfl⟩
  case pushed => exact fun _ _ _ _ _ _ => exec_callWord_of_room
  case full => exact fun _ _ _ _ _ _ => exec_callWord_of_full
  case popped => exact fun _ _ _ _ _ _ _ _ => exec_retWord_of_cons
  case empty => exact fun _ _ _ _ _ _ => exec_retWord_of_nil

end Sys2Proof.Machine
end

section
/-! END and the run limit (R112, R378): the status a code of x0 names, the reply of END by the opcode's VERDICT bit and the thread's
verdict, and the obligation about both. -/

namespace Sys2Proof.Machine

theorem statusOf_of_code {code : Nat} {st : Status} (h : code = st.code) : statusOf code = st := h ▸ statusOf_code st

/-- In class 0 every code is OK (R112). -/
theorem statusOf_class_ok {code : Nat} (h : code / 0x1000 = 0) : statusOf code = .ok := by
  simp only [statusOf, h, beq_self_eq_true, if_true]

/-- In class 5 every code is VERDICT_FAIL (R112). -/
theorem statusOf_class_verdictFail {code : Nat} (h : code / 0x1000 = 5) : statusOf code = .verdictFail := by
  simp [statusOf, h]

/-- In every other class a value that is no code gives INTERNAL_ERROR (R378). -/
theorem statusOf_unlisted {code : Nat} (h0 : code / 0x1000 ≠ 0) (h5 : code / 0x1000 ≠ 5) (hn : ∀ st : Status, code ≠ st.code) :
    statusOf code = .internalError := by
  have unlisted : (statuses.find? fun x => x.code == code) = none :=
    List.find?_eq_none.2 fun st _ => by simpa using (hn st).symm
  simp only [statusOf, beq_iff_eq, h0, h5, unlisted, if_false, Option.getD_none]

section

variable {s : State} {c : Cmd} {h : Thread}

/-- Without VERDICT the reply has x0's status and no verdict. -/
theorem endReply_plain {st : Status} (hv : bit (byteAt (s.opEntry c) 10) 0 = false) (hs : statusOf ((h.x.getD 0 0).toNat % 65536) = st) :
    (s.endReply c h).status = st ∧ (s.endReply c h).verdict = .none := by
  simp only [State.endReply, hv, hs, Bool.false_eq_true, if_false, and_self]

theorem endReply_pass (hv : bit (byteAt (s.opEntry c) 10) 0 = true) (ht : h.verdict = .pass) :
    (s.endReply c h).status = .ok ∧ (s.endReply c h).verdict = .pass := by
  simp [State.endReply, hv, ht]

theorem endReply_fail (hv : bit (byteAt (s.opEntry c) 10) 0 = true) (ht : h.verdict = .fail) :
    (s.endReply c h).status = .verdictFail ∧ (s.endReply c h).verdict = .fail := by
  simp [State.endReply, hv, ht]

/-- With VERDICT, no verdict of the thread and x0's status of class 0 or 5 (R110). -/
theorem endReply_undecided (hv : bit (byteAt (s.opEntry c) 10) 0 = true) (ht : h.verdict = .none)
    (hc : (statusOf ((h.x.getD 0 0).toNat % 65536)).cls = 0 ∨ (statusOf ((h.x.getD 0 0).toNat % 65536)).cls = 5) :
    (s.endReply c h).status = .faultDetected := by
  simp only [State.endReply, hv, ht, if_true, Bool.or_eq_true, beq_iff_eq, hc]

theorem exec_endWord {x : State} {t : ThreadRef} {w : Micro} (hm : s.micro? t 5 w = some (x, c, h)) :
    exec (.endWord t w) s = .next ((x.complete c.inst c.tag (x.endReply c h)).boundary t c) := by
  simp only [exec, execEndWord, micro_of hm]

theorem exec_microcodeRunLimit {t : ThreadRef} (hc : s.threadCmd t = some c) (hw : 2 ^ 30 ≤ (s.thread t).words) :
    exec (.microcodeRunLimit t) s = .next (s.complete c.inst c.tag { status := .programFault }) := by
  simp only [exec, execMicrocodeRunLimit, hc, ge_iff_le, hw, if_true]

end

/-- Settles O58: END's reply has the status `statusOf` gives, case by case, unless the opcode is declared VERDICT; then the thread's verdict
decides. -/
theorem endStatus : Obligations.EndStatus := by
  unfold Obligations.EndStatus
  refine ⟨fun _ _ _ _ _ _ => exec_endWord, ?code, ?ok, ?verdictFail, ?unlisted, ?verdict, fun _ _ _ => exec_microcodeRunLimit⟩
  case code => exact fun _ _ _ _ hv hx => endReply_plain hv (statusOf_of_code hx)
  case ok => exact fun _ _ _ hv hx => endReply_plain hv (statusOf_class_ok hx)
  case verdictFail => exact fun _ _ _ hv hx => endReply_plain hv (statusOf_class_verdictFail hx)
  case unlisted => exact fun _ _ _ hv h0 h5 hn => endReply_plain hv (statusOf_unlisted h0 h5 hn)
  case verdict => exact fun _ _ _ hv => ⟨endReply_pass hv, endReply_fail hv, endReply_undecided hv⟩

end Sys2Proof.Machine
end

section
/-! GLEAN_CTL and the telemetry period (R57, R522): what the command leaves at its commit point, which check refuses it where no timer channel
is free, what a period that passes does, and the obligation about all three. -/

namespace Sys2Proof.Machine

/-- Checks that pass leave the verdict to those after them. -/
theorem firstFail_append_of_none {a b : List (Bool × Status)} (h : firstFail a = none) : firstFail (a ++ b) = firstFail b := by
  rw [firstFail, Option.map_eq_none_iff] at h
  simp only [firstFail, List.find?_append, h, Option.none_or]

/-- A command that names no key passes R463's check in the life-cycle states in which keys live. -/
theorem commonChecks_of_no_keys {s : State} {c : Cmd} (hb : s.lc ≠ .blank) (he : s.lc ≠ .endOfLife) :
    firstFail (s.commonChecks c []) = none := by
  simp [State.commonChecks, firstFail, hb, he]

/-- Where steps 7 and 8 pass, the first failing check of steps 9 to 12 refuses the command (R101, R102). -/
theorem refusal_of_later {d : Desc} {r : CmdRec} {s : State} {c : Cmd} {x : Status} (hc : s.cmd? r.inst r.tag = some c)
    (hf : d.fresh r s c = true) (hp : firstFail (d.pre s c) = none) (hl : firstFail (d.later s c) = some x) :
    d.refusal? r s = some (x, d.onRefuse (d.readState s c) (d.readCmd s c) x) := by
  simp only [Desc.refusal?, hc, hf, hp, hl, if_true, Option.map_some]

/-- Every timer channel is another owner's (R57). -/
theorem noChannel_of_full {s : State} {period : Nat} (hp : period ≠ 0) (ht : s.pkg.timers.contains .telemetry = false)
    (hn : 4 ≤ s.pkg.timers.length) : s.noChannel period = true := by
  simp only [State.noChannel, ht, bne_iff_ne.2 hp, ge_iff_le, hn, Bool.not_false, decide_true, Bool.and_self]

/-- GLEAN_CTL gives up its channel and, for a PERIOD that is not 0, owns one again (R522). -/
theorem gleanCtlDesc_body (s : State) (c : Cmd) : gleanCtlDesc.body s c =
    ({ s with pkg := { s.pkg with
        telemetry := num c.params 0 4,
        timers := s.pkg.timers.filter (· != .telemetry) ++ (if num c.params 0 4 = 0 then [] else [.telemetry]) } },
      some { status := .ok }) := by
  by_cases h : num c.params 0 4 = 0 <;> simp [gleanCtlDesc, State.modPkg, Cmd.p, ok, h]

theorem exec_gleanCtl (r : CmdRec) (s : State) : exec (.gleanCtl r) s = .next (runCommand gleanCtlDesc r s) := rfl

section

variable {s : State} {c : Cmd}

/-- A PERIOD in range passes steps 7 and 8 (R519). -/
theorem gleanCtlDesc_pre (hlen : c.params.length = 4) (hlo : 10 ≤ num c.params 0 4) (hhi : num c.params 0 4 ≤ 60000) :
    firstFail (gleanCtlDesc.pre s c) = none := by
  simp [gleanCtlDesc, firstFail, Cmd.len, Cmd.p, hlen, hlo.not_gt, hhi.not_gt]

/-- GLEAN_CTL names no key: of steps 9 to 12 it has the life cycle's check and its own two. -/
theorem gleanCtlDesc_later : gleanCtlDesc.later s c =
    s.commonChecks (gleanCtlDesc.readCmd s c) [] ++ [(c.notOperational, .stateForbids), (s.noChannel (c.p 0 4), .pinClaimed)] := rfl

/-- With no channel to claim, PIN_CLAIMED is the first check of an OPERATIONAL command's steps 9 to 12 that fails (R522). -/
theorem gleanCtlDesc_later_pinClaimed (hb : s.lc ≠ .blank) (he : s.lc ≠ .endOfLife) (hrun : c.runAt = .operational)
    (hn : s.noChannel (num c.params 0 4) = true) : firstFail (gleanCtlDesc.later s c) = some .pinClaimed := by
  rw [gleanCtlDesc_later, firstFail_append_of_none (commonChecks_of_no_keys hb he)]
  simp [firstFail, Cmd.notOperational, Cmd.p, hrun, hn]

end

theorem exec_telemetryPeriod_on {s : State} (h : s.pkg.telemetry ≠ 0) :
    exec .telemetryPeriod s = .next (s.raise 0 0x0601 s.gleanFields) := by
  simp only [exec, execTelemetryPeriod, bne_iff_ne, ne_eq, h, not_false_eq_true, if_true]

theorem exec_telemetryPeriod_off {s : State} (h : s.pkg.telemetry = 0) : exec .telemetryPeriod s = .next s := by
  simp only [exec, execTelemetryPeriod, h, bne_self_eq_false, Bool.false_eq_true, if_false]

/-- Settles O23: GLEAN_CTL completes with its description's effect, the first failing check of its steps is PIN_CLAIMED's, and a period has a
case for PERIOD 0. -/
theorem telemetryTimer : Obligations.TelemetryTimer := by
  unfold Obligations.TelemetryTimer
  refine ⟨?completes, ?claimed, fun _ => exec_telemetryPeriod_on, fun _ => exec_telemetryPeriod_off⟩
  case completes =>
    rw [← funext₂ gleanCtlDesc_body]
    exact completes_of exec_gleanCtl
  case claimed =>
    intro r s c hc hf hlen hlo hhi hb he hrun ht hn
    have full : s.noChannel (num c.params 0 4) = true := noChannel_of_full (by omega) ht hn
    exact refuses_of exec_gleanCtl r s s _
      (refusal_of_later hc hf (gleanCtlDesc_pre hlen hlo hhi) (gleanCtlDesc_later_pinClaimed hb he hrun full))

end Sys2Proof.Machine
end

section
/-! Every step keeps the shape invariant: each row's meaning does, by the lemma of its own under Laws/Sound, and so do the tick and the queue. -/

namespace Sys2Proof.Machine

/-- The meaning of every row keeps the invariant. -/
theorem exec_keeps (i : Instr) {s : State} (hs : s.Sound) : Keeps (exec i s) := by
  unfold exec
  cases i with
  | powerUp strap => exact execPowerUp_sound strap hs
  | resetNAssert longEnough => exact execResetNAssert_sound longEnough hs
  | powerDown => exact execPowerDown_sound hs
  | resetNRelease => exact execResetNRelease_sound hs
  | selfTestComplete failed => exact execSelfTestComplete_sound failed hs
  | selfTestTimeout field => exact execSelfTestTimeout_sound field hs
  | bootstrapLinkUp => exact execBootstrapLinkUp_sound hs
  | hostLinkUp port partner => exact execHostLinkUp_sound port partner hs
  | hostLinkDown port => exact execHostLinkDown_sound port hs
  | refclkSdStop => exact execRefclkSdStop_sound hs
  | refclkSysStop => exact execRefclkSysStop_sound hs
  | requestFrame f => exact execRequestFrame_sound f hs
  | dataSegment f => exact execDataSegment_sound f hs
  | segGapExpiry inst xfer => exact execSegGapExpiry_sound inst xfer hs
  | creditQuery f => exact execCreditQuery_sound f hs
  | creditUpdateTimer inst => exact execCreditUpdateTimer_sound inst hs
  | mailboxFrame f => exact execMailboxFrame_sound f hs
  | mboxDoorbellRepeat tenant toTenant => exact execMboxDoorbellRepeat_sound tenant toTenant hs
  | pauseFrameRx port prios on => exact execPauseFrameRx_sound port prios on hs
  | replyRelease inst tag => exact execReplyRelease_sound inst tag hs
  | padExpiry inst tag => exact execPadExpiry_sound inst tag hs
  | pending inst tag => exact execPending_sound inst tag hs
  | rngWaitExpiry inst tag => exact execRngWaitExpiry_sound inst tag hs
  | eventSend inst => exact execEventSend_sound inst hs
  | identify r => exact execIdentify_sound r hs
  | enable r => exact execEnable_sound r hs
  | reset r => exact execReset_sound r hs
  | resetExecute => exact execResetExecute_sound hs
  | instanceReset r => exact execInstanceReset_sound r hs
  | fallow r => exact execFallow_sound r hs
  | fallowDrainDone => exact execFallowDrainDone_sound hs
  | wake r => exact execWake_sound r hs
  | recover r => exact execRecover_sound r hs
  | recoverDrainTimeout => exact execRecoverDrainTimeout_sound hs
  | echo r => exact execEcho_sound r hs
  | modeSet r => exact execModeSet_sound r hs
  | macsecSa r => exact execMacsecSa_sound r hs
  | keyGenerate r => exact execKeyGenerate_sound r hs
  | keyLoad r => exact execKeyLoad_sound r hs
  | keyLoadPublic r => exact execKeyLoadPublic_sound r hs
  | keyUnwrap r => exact execKeyUnwrap_sound r hs
  | keyWrap r => exact execKeyWrap_sound r hs
  | keyDerive r => exact execKeyDerive_sound r hs
  | keyDestroy r => exact execKeyDestroy_sound r hs
  | keyNarrow r => exact execKeyNarrow_sound r hs
  | keyInfo r => exact execKeyInfo_sound r hs
  | keyExportPublic r => exact execKeyExportPublic_sound r hs
  | siloSlotsFree field => exact execSiloSlotsFree_sound field hs
  | mlkemKeygen r => exact execMlkemKeygen_sound r hs
  | mlkemEncaps r => exact execMlkemEncaps_sound r hs
  | mlkemDecaps r => exact execMlkemDecaps_sound r hs
  | hybridEncaps r => exact execHybridEncaps_sound r hs
  | hybridDecaps r => exact execHybridDecaps_sound r hs
  | mldsaSign r => exact execMldsaSign_sound r hs
  | mldsaVerify r => exact execMldsaVerify_sound r hs
  | hybridSign r => exact execHybridSign_sound r hs
  | hybridVerify r => exact execHybridVerify_sound r hs
  | slhdsaSign r => exact execSlhdsaSign_sound r hs
  | slhdsaVerify r => exact execSlhdsaVerify_sound r hs
  | statefulKeygen r => exact execStatefulKeygen_sound r hs
  | statefulSign r => exact execStatefulSign_sound r hs
  | leafReservationDone handle ok => exact execLeafReservationDone_sound handle ok hs
  | statefulVerify r => exact execStatefulVerify_sound r hs
  | statefulStatus r => exact execStatefulStatus_sound r hs
  | statefulSetBlock r => exact execStatefulSetBlock_sound r hs
  | cacheRebuildDone handle => exact execCacheRebuildDone_sound handle hs
  | mceEncaps r => exact execMceEncaps_sound r hs
  | mceDecaps r => exact execMceDecaps_sound r hs
  | rsaEncrypt r => exact execRsaEncrypt_sound r hs
  | rsaDecrypt r => exact execRsaDecrypt_sound r hs
  | rsaSign r => exact execRsaSign_sound r hs
  | rsaVerify r => exact execRsaVerify_sound r hs
  | ecdsaSign r => exact execEcdsaSign_sound r hs
  | ecdsaVerify r => exact execEcdsaVerify_sound r hs
  | ecAgree r => exact execEcAgree_sound r hs
  | eddsaSign r => exact execEddsaSign_sound r hs
  | eddsaVerify r => exact execEddsaVerify_sound r hs
  | digest r => exact execDigest_sound r hs
  | macGen r => exact execMacGen_sound r hs
  | macVerify r => exact execMacVerify_sound r hs
  | digestCompare r => exact execDigestCompare_sound r hs
  | contextSaveDone field ctx => exact execContextSaveDone_sound field ctx hs
  | contextRestoreDone field ctx wrapOk => exact execContextRestoreDone_sound field ctx wrapOk hs
  | winnowContextFree field => exact execWinnowContextFree_sound field hs
  | aeadSeal r => exact execAeadSeal_sound r hs
  | aeadOpen r => exact execAeadOpen_sound r hs
  | saInstall r => exact execSaInstall_sound r hs
  | saRetire r => exact execSaRetire_sound r hs
  | saInfo r => exact execSaInfo_sound r hs
  | cmacGen r => exact execCmacGen_sound r hs
  | cmacVerify r => exact execCmacVerify_sound r hs
  | hostPortInlineFrame f => exact execHostPortInlineFrame_sound f hs
  | linePortFrame f => exact execLinePortFrame_sound f hs
  | saLifetimeScan => exact execSaLifetimeScan_sound hs
  | randomGenerate r => exact execRandomGenerate_sound r hs
  | rngHealth r => exact execRngHealth_sound r hs
  | rngConfig r => exact execRngConfig_sound r hs
  | seedbedStartupDone field => exact execSeedbedStartupDone_sound field hs
  | healthFailure field source apt => exact execHealthFailure_sound field source apt hs
  | seedbedHealthWindow field source ones ac => exact execSeedbedHealthWindow_sound field source ones ac hs
  | steepReseed field => exact execSteepReseed_sound field hs
  | leafSeedRequest field acre => exact execLeafSeedRequest_sound field acre hs
  | leafSwitchPoint field acre => exact execLeafSwitchPoint_sound field acre hs
  | programLoad r => exact execProgramLoad_sound r hs
  | programRun r => exact execProgramRun_sound r hs
  | programUnload r => exact execProgramUnload_sound r hs
  | programInfo r => exact execProgramInfo_sound r hs
  | acreFreeRunStart field acre => exact execAcreFreeRunStart_sound field acre hs
  | furrowWatchdog u => exact execFurrowWatchdog_sound u hs
  | li u f => exact execLi_sound u f hs
  | alu u f => exact execAlu_sound u f hs
  | alui u f => exact execAlui_sound u f hs
  | ld u f => exact execLd_sound u f hs
  | st u f => exact execSt_sound u f hs
  | br u f => exact execBr_sound u f hs
  | jmp u f => exact execJmp_sound u f hs
  | jal u f => exact execJal_sound u f hs
  | jr u f => exact execJr_sound u f hs
  | loop u f => exact execLoop_sound u f hs
  | barrier u f => exact execBarrier_sound u f hs
  | halt u f => exact execHalt_sound u f hs
  | retry u f => exact execRetry_sound u f hs
  | abort u f => exact execAbort_sound u f hs
  | frec u f => exact execFrec_sound u f hs
  | qld u f => exact execQld_sound u f hs
  | tread u f => exact execTread_sound u f hs
  | mop u f => exact execMop_sound u f hs
  | mset u f => exact execMset_sound u f hs
  | mget u f => exact execMget_sound u f hs
  | vmov u f => exact execVmov_sound u f hs
  | vbcast u f => exact execVbcast_sound u f hs
  | vext u f => exact execVext_sound u f hs
  | vins u f => exact execVins_sound u f hs
  | valu u f => exact execValu_sound u f hs
  | valui u f => exact execValui_sound u f hs
  | vcmp u f => exact execVcmp_sound u f hs
  | qadd u f => exact execQadd_sound u f hs
  | qsub u f => exact execQsub_sound u f hs
  | qmulh u f => exact execQmulh_sound u f hs
  | qrshr u f => exact execQrshr_sound u f hs
  | modadd u f => exact execModadd_sound u f hs
  | modsub u f => exact execModsub_sound u f hs
  | modmul u f => exact execModmul_sound u f hs
  | barrett u f => exact execBarrett_sound u f hs
  | compress u f => exact execCompress_sound u f hs
  | decompress u f => exact execDecompress_sound u f hs
  | p2round u f => exact execP2round_sound u f hs
  | decompose u f => exact execDecompose_sound u f hs
  | vld u f => exact execVld_sound u f hs
  | vst u f => exact execVst_sound u f hs
  | ld2Ld4 u k f => exact execLd2Ld4_sound u k f hs
  | st2St4 u k f => exact execSt2St4_sound u k f hs
  | gather u f => exact execGather_sound u f hs
  | scatter u f => exact execScatter_sound u f hs
  | shuf u f => exact execShuf_sound u f hs
  | shmask u f => exact execShmask_sound u f hs
  | shadd u f => exact execShadd_sound u f hs
  | shsub u f => exact execShsub_sound u f hs
  | shpub u f => exact execShpub_sound u f hs
  | shmul u f => exact execShmul_sound u f hs
  | srefresh u f => exact execSrefresh_sound u f hs
  | sa2b u f => exact execSa2b_sound u f hs
  | sb2a u f => exact execSb2a_sound u f hs
  | scmp u f => exact execScmp_sound u f hs
  | ssel u f => exact execSsel_sound u f hs
  | recomb u f => exact execRecomb_sound u f hs
  | shst u f => exact execShst_sound u f hs
  | shld u f => exact execShld_sound u f hs
  | ucodeVersion r => exact execUcodeVersion_sound r hs
  | ucodePatchStore r => exact execUcodePatchStore_sound r hs
  | openLoad r => exact execOpenLoad_sound r hs
  | openClear r => exact execOpenClear_sound r hs
  | customerOpcode opcode r => exact execCustomerOpcode_sound opcode r hs
  | caddyThreadFree field => exact execCaddyThreadFree_sound field hs
  | nextWord t w => exact execNextWord_sound t w hs
  | jumpWord t w => exact execJumpWord_sound t w hs
  | callWord t w => exact execCallWord_sound t w hs
  | retWord t w => exact execRetWord_sound t w hs
  | branchWord t w => exact execBranchWord_sound t w hs
  | endWord t w => exact execEndWord_sound t w hs
  | yieldWord t w => exact execYieldWord_sound t w hs
  | waitWord t w => exact execWaitWord_sound t w hs
  | dispatchWord t w => exact execDispatchWord_sound t w hs
  | trapWord t w => exact execTrapWord_sound t w hs
  | gateKey g => exact execGateKey_sound g hs
  | gateQuota t => exact execGateQuota_sound t hs
  | gateDraw t => exact execGateDraw_sound t hs
  | gateProgram t => exact execGateProgram_sound t hs
  | gateDigest t => exact execGateDigest_sound t hs
  | gateTally t => exact execGateTally_sound t hs
  | gateNewkey t => exact execGateNewkey_sound t hs
  | gateResult t => exact execGateResult_sound t hs
  | microcodeRunLimit t => exact execMicrocodeRunLimit_sound t hs
  | parityError field word => exact execParityError_sound field word hs
  | controlStoreReloadDone field => exact execControlStoreReloadDone_sound field hs
  | controlStoreScrub field bad => exact execControlStoreScrub_sound field bad hs
  | tkOpen r => exact execTkOpen_sound r hs
  | tkStep r => exact execTkStep_sound r hs
  | tkDecide r => exact execTkDecide_sound r hs
  | tkSend r => exact execTkSend_sound r hs
  | tkClose r => exact execTkClose_sound r hs
  | tkIdleExpiry handle => exact execTkIdleExpiry_sound handle hs
  | sheafSign r => exact execSheafSign_sound r hs
  | sheafVerify r => exact execSheafVerify_sound r hs
  | attest r => exact execAttest_sound r hs
  | instanceCreate r => exact execInstanceCreate_sound r hs
  | instanceDestroy r => exact execInstanceDestroy_sound r hs
  | shareSet r => exact execShareSet_sound r hs
  | instanceInfo r => exact execInstanceInfo_sound r hs
  | instanceBind r => exact execInstanceBind_sound r hs
  | instanceList r => exact execInstanceList_sound r hs
  | mboxStatus r => exact execMboxStatus_sound r hs
  | settingGet r => exact execSettingGet_sound r hs
  | settingSet r => exact execSettingSet_sound r hs
  | storeSettings r => exact execStoreSettings_sound r hs
  | lifecycleStatus r => exact execLifecycleStatus_sound r hs
  | attestBoot r => exact execAttestBoot_sound r hs
  | debugUnlock r => exact execDebugUnlock_sound r hs
  | lcAdvance r => exact execLcAdvance_sound r hs
  | ownerSet r => exact execOwnerSet_sound r hs
  | identityInfo r => exact execIdentityInfo_sound r hs
  | gleanRead r => exact execGleanRead_sound r hs
  | logRead r => exact execLogRead_sound r hs
  | alarmRead r => exact execAlarmRead_sound r hs
  | timeGet r => exact execTimeGet_sound r hs
  | timeCtl r => exact execTimeCtl_sound r hs
  | gleanCtl r => exact execGleanCtl_sound r hs
  | pageMeta r => exact execPageMeta_sound r hs
  | diagRun r => exact execDiagRun_sound r hs
  | diagWord r => exact execDiagWord_sound r hs
  | diagResume r => exact execDiagResume_sound r hs
  | telemetryPeriod => exact execTelemetryPeriod_sound hs
  | ptpSyncRx port offset => exact execPtpSyncRx_sound port offset hs
  | ptpSyncTimeout => exact execPtpSyncTimeout_sound hs
  | ppsInEdge => exact execPpsInEdge_sound hs
  | ppsInMissed => exact execPpsInMissed_sound hs
  | ppsOutSecond => exact execPpsOutSecond_sound hs
  | fieldAliveFall field => exact execFieldAliveFall_sound field hs
  | headlandFailover => exact execHeadlandFailover_sound hs
  | plolysCrcFail field port => exact execPlolysCrcFail_sound field port hs
  | plolysLinkDown field port => exact execPlolysLinkDown_sound field port hs
  | sensorTrip field cls island detail => exact execSensorTrip_sound field cls island detail hs
  | alarmLineReceived field source => exact execAlarmLineReceived_sound field source hs
  | tamperMismatch input => exact execTamperMismatch_sound input hs
  | tempSensorReading field sensor celsius => exact execTempSensorReading_sound field sensor celsius hs
  | thermalShutdown field => exact execThermalShutdown_sound field hs
  | powerWindow m => exact execPowerWindow_sound m hs
  | cappedGateDrained field => exact execCappedGateDrained_sound field hs
  | powerReversalStep m => exact execPowerReversalStep_sound m hs
  | brownNLow => exact execBrownNLow_sound hs
  | brownNHigh => exact execBrownNHigh_sound hs
  | gddr6Refresh field channel => exact execGddr6Refresh_sound field channel hs
  | gddr6TemperatureRead field celsius => exact execGddr6TemperatureRead_sound field celsius hs
  | retrainDue field queued => exact execRetrainDue_sound field queued hs
  | retrainDeferLimit field => exact execRetrainDeferLimit_sound field hs
  | edcFailure e => exact execEdcFailure_sound e hs
  | harrowVisit field symbols verifyBad => exact execHarrowVisit_sound field symbols verifyBad hs
  | pageRetirement field page spareBad recordBad => exact execPageRetirement_sound field page spareBad recordBad hs
  | mergeIdleTimer field page => exact execMergeIdleTimer_sound field page hs
  | whiskRequestPromotion field => exact execWhiskRequestPromotion_sound field hs
  | serviceBufferSpaceFree => exact execServiceBufferSpaceFree_sound hs
  | lcAdvanceDrainTimeout => exact execLcAdvanceDrainTimeout_sound hs
  | refclkSdReturn => exact execRefclkSdReturn_sound hs
  | refclkSysReturn => exact execRefclkSysReturn_sound hs
  | vddCoreBelow075V field => exact execVddCoreBelow075V_sound field hs
  | vppFuseVoltageOutsideTest field => exact execVppFuseVoltageOutsideTest_sound field hs
  | jtagTapAccess j => exact execJtagTapAccess_sound j hs
  | pauseRefresh port prio => exact execPauseRefresh_sound port prio hs
  | pauseTimerExpiry port prio => exact execPauseTimerExpiry_sound port prio hs

/-- On an empty queue: the row that is due, the row to be tried again before time passes, or the passing of time alone. -/
theorem tick_keeps {s : State} (hs : s.Sound) : Keeps s.tick := by
  unfold State.tick
  cases s.due with
  | some i => exact exec_keeps i hs
  | none =>
    cases s.retryRow with
    | none => exact keeps_next (State.passTime_sound hs)
    | some i =>
      have kept := exec_keeps i hs
      dsimp only
      generalize exec i s = o at kept ⊢
      cases o with
      | next t => exact keeps_next (State.passTime_sound (kept t rfl))
      | fault r => exact kept
      | refused r => exact kept

theorem step_keeps {s : State} (hs : s.Sound) : Keeps (step s) := by
  unfold step
  cases s.pending with
  | nil => exact tick_keeps hs
  | cons i rest => exact exec_keeps i (sound_mk hs)

/-- Settles O5: a step runs the row at the front of the queue or ticks, and each keeps the invariant. -/
theorem stepKeepsSound : Obligations.StepKeepsSound := by
  unfold Obligations.StepKeepsSound
  exact fun _ t hs => step_keeps hs t

end Sys2Proof.Machine
end

section
/-! The command rows. Each runs its description (`completes_of`, `completesWhere_of`, `goesOn_of`, `refuses_of`), so that a statement about a
row is one about the body of that description: the same term, or the branch of it that the statement's condition selects. -/

namespace Sys2Proof.Machine

/-- Where a record's command comes to its commit point, the row answers what the description's body leaves. -/
theorem exec_effectAt {d : Desc} {row : CmdRec → Instr} {r : CmdRec} {s x : State} {c : Cmd} {p : State × Option Reply}
    (hrow : ∀ r s, exec (row r) s = .next (runCommand d r s)) (hx : d.effectAt? r s = some (x, c)) (hp : d.body x c = p) :
    exec (row r) s = .next (settled c.inst c.tag p) := hp ▸ completes_of hrow r s x c hx

/-- A row completes with any effect that is its description's body. -/
theorem completes_of_eq {d : Desc} {row : CmdRec → Instr} {g : State → Cmd → State × Option Reply}
    (hrow : ∀ r s, exec (row r) s = .next (runCommand d r s)) (hg : ∀ s c, d.body s c = g s c) : d.Completes row g :=
  fun _ _ x c hx => exec_effectAt hrow hx (hg x c)

/-- Settles O8: `refuses_of` for any description. -/
theorem firstFailingCheckRefuses : Obligations.FirstFailingCheckRefuses := by
  unfold Obligations.FirstFailingCheckRefuses
  exact fun _ _ => refuses_of

/-- Settles O9: the bodies of the control page are the effects written. -/
theorem controlCommandsComplete : Obligations.ControlCommandsComplete := by
  unfold Obligations.ControlCommandsComplete
  refine ⟨?_, ?_, ?_, ?_, ?_, ?_, ?_, ?_, ?_⟩ <;> exact completes_of fun _ _ => rfl

/-- Settles O13: the bodies of the hash-based signature commands are the effects written. -/
theorem hashSignatureCommandsComplete : Obligations.HashSignatureCommandsComplete := by
  unfold Obligations.HashSignatureCommandsComplete
  refine ⟨?_, ?_, ?keygen, ?sign, ?_, ?_, ?_⟩
  case keygen => exact completes_of_eq (fun _ _ => rfl) fun s c => by simp only [statefulKeygenDesc, Cmd.p, ok] <;> rfl
  case sign => exact completes_of_eq (fun _ _ => rfl) fun s c => by simp only [statefulSignDesc, Cmd.p, ok] <;> rfl
  all_goals exact completes_of fun _ _ => rfl

/-- A customer opcode's row runs its description where its command is in no routine yet. -/
theorem exec_customerOpcode {op : Nat} {r : CmdRec} {s : State} (ho : isCustomer op = true) (hr : s.inRoutine r = false) :
    exec (.customerOpcode op r) s = .next (runCommand (customerDesc op) r s) := by
  simp only [exec, execCustomerOpcode, ho, hr, Bool.not_true, Bool.or_self, Bool.false_eq_true, if_false]

/-- Settles O17: an opcode of the open region waits where a routine of the region is outstanding, and a customer opcode's command goes on in
its routine. -/
theorem controlStoreCommandsComplete : Obligations.ControlStoreCommandsComplete := by
  unfold Obligations.ControlStoreCommandsComplete
  refine ⟨?_, ?_, ?load, ?loadWaits, ?clear, ?clearWaits, ?customer⟩
  case load => exact completesWhere_of (fun _ _ => rfl) fun _ _ h => if_neg (Bool.eq_false_iff.1 h)
  case loadWaits => exact completesWhere_of (fun _ _ => rfl) fun _ _ h => if_pos h
  case clear => exact completesWhere_of (fun _ _ => rfl) fun _ _ h => if_neg (Bool.eq_false_iff.1 h)
  case clearWaits => exact completesWhere_of (fun _ _ => rfl) fun _ _ h => if_pos h
  case customer =>
    intro op r s x c ho hr hx
    rw [exec_customerOpcode ho hr, runCommand_effectAt hx]
    simp only [customerDesc]
    cases x.freeThread c.fld <;> rfl
  all_goals exact completes_of fun _ _ => rfl

/-- Settles O22: a description whose command is in progress makes its effect again. -/
theorem waitingCommandsGoOn : Obligations.WaitingCommandsGoOn := by
  unfold Obligations.WaitingCommandsGoOn
  refine ⟨?_, ?_, ?_, ?_, ?_, ?_, ?_, ?_⟩ <;> exact goesOn_of fun _ _ => rfl

/-- Settles O11: KEY_GENERATE has a case for a secret key and one for a pair, KEY_UNWRAP for a blob that is whole and one that is not. -/
theorem keyCommandsComplete : Obligations.KeyCommandsComplete := by
  unfold Obligations.KeyCommandsComplete
  refine ⟨?secret, ?pair, ?_, ?_, ?unwraps, ?fails, ?_, ?_, ?_, ?_, ?_, ?_⟩
  case secret => exact completesWhere_of (fun _ _ => rfl) fun _ _ h => if_pos (beq_iff_eq.2 h)
  case pair =>
    refine completesWhere_of (fun _ _ => rfl) fun _ _ h => ?_
    simp only [keyGenerateDesc, Cmd.p, beq_iff_eq, h, if_false, ok] <;> rfl
  case unwraps => exact completesWhere_of (fun _ _ => rfl) fun _ _ h => if_pos h
  case fails => exact completesWhere_of (fun _ _ => rfl) fun _ _ h => if_neg (Bool.eq_false_iff.1 h)
  all_goals exact completes_of fun _ _ => rfl

/-- Settles O12: the bodies of the lattice page are the effects written. -/
theorem latticeCommandsComplete : Obligations.LatticeCommandsComplete := by
  unfold Obligations.LatticeCommandsComplete
  refine ⟨?keygen, ?_, ?_, ?_, ?_, ?_, ?_, ?_, ?_⟩
  case keygen => exact completes_of_eq (fun _ _ => rfl) fun s c => by simp only [mlkemKeygenDesc, Cmd.p, ok] <;> rfl
  all_goals exact completes_of fun _ _ => rfl

/-- Settles O14: the bodies of the code-based and classical commands are the effects written. -/
theorem classicalCommandsComplete : Obligations.ClassicalCommandsComplete := by
  unfold Obligations.ClassicalCommandsComplete
  refine ⟨?_, ?_, ?_, ?_, ?_, ?_, ?_, ?_, ?_, ?_, ?_⟩ <;> exact completes_of fun _ _ => rfl

section

variable {s y : State} {c : Cmd}

/-- A Winnow command without a verdict answers its digest, or under PARTIAL its continuation token (R248). -/
theorem winnowDesc_body_of_output {op : Nat} (h : wVerdict op = false) : (winnowDesc op).body s c =
    (s, some { status := .ok, results := if wPartial c then s.wToken op c else s.wOutput op c }) := by
  simp only [winnowDesc, h, Bool.false_eq_true, if_false, ok]
  cases wPartial c <;> rfl

/-- One with a verdict compares what it computes with what it was given (R110). -/
theorem winnowDesc_body_of_verdict {op : Nat} (h : wVerdict op = true) : (winnowDesc op).body s c =
    (s, some (if (s.wOutput op c).take (num c.params 10 2) == wExpected op c then { status := .ok, verdict := .pass }
      else { status := .verdictFail, verdict := .fail })) := by
  simp only [winnowDesc, h, if_true, verdict, Cmd.p]
  rfl

/-- A seal whose staged output can be written (R265). -/
theorem aeadSealDesc_body_of_released
    (h : s.releaseOut c (if aIvGen c then num c.params 8 1 else 0) ((if aIvGen c then num c.params 8 1 else 0) + num c.params 12 3 + num c.params 9 1) =
      (none, y)) : aeadSealDesc.body s c = (y, some
    { status := .ok
      results := (if aIvGen c then (if aIvGen c then c.drawn else slice c.params 15 (aI c)) else []) ++
        std (num c.params 12 3 + num c.params 9 1) (.aeadSeal (num c.params 6 1))
          [(c.key (num c.params 0 6)).body, if aIvGen c then c.drawn else slice c.params 15 (aI c), slice c.params (15 + aI c) (num c.params 10 2),
            slice c.params (15 + aI c + num c.params 10 2) (num c.params 12 3), toBE 1 (num c.params 9 1)] }) := by
  simp only [aeadSealDesc, Cmd.p, h, ok]

/-- What the tag check of an open reads. -/
def openArgs (c : Cmd) : List Bytes :=
  [(c.key (num c.params 0 6)).body, slice c.params 15 (aI c), slice c.params (15 + aI c) (num c.params 10 2),
    slice c.params (15 + aI c + num c.params 10 2) (num c.params 12 3),
    slice c.params (15 + aI c + num c.params 10 2 + num c.params 12 3) (num c.params 9 1)]

/-- An open whose tag is right and whose staged output can be read (R266, R267). -/
theorem aeadOpenDesc_body_of_released (ht : Config.test (.aeadTag (num c.params 6 1)) (openArgs c) = true)
    (hr : s.releaseOut c 0 (num c.params 12 3) = (none, y)) : aeadOpenDesc.body s c = (y, some
      { status := .ok, verdict := .pass, results := std (num c.params 12 3) (.aeadOpen (num c.params 6 1)) (openArgs c) }) := by
  unfold openArgs at ht ⊢
  simp only [aeadOpenDesc, Cmd.p, ht, hr, Bool.not_true, Bool.false_eq_true, if_false, verdict, if_true]

/-- An open whose tag is wrong overwrites what it staged (R266). -/
theorem aeadOpenDesc_body_of_bad_tag (ht : Config.test (.aeadTag (num c.params 6 1)) (openArgs c) = false) :
    aeadOpenDesc.body s c = (s.wipeOut c, some { status := .verdictFail, verdict := .fail }) := by
  unfold openArgs at ht
  simp only [aeadOpenDesc, Cmd.p, ht, Bool.not_false, if_true, verdict, Bool.false_eq_true, if_false]

/-- SA_INFO reads the SA's table page (R272). -/
theorem saInfoDesc_body_of_clean (h : s.clean c.fld (saPage s.n (num c.params 0 6)) = true) : saInfoDesc.body s c =
    (s, some { status := .ok, results := ((s.sa? c.inst (num c.params 0 6)).map Sa.info).getD [] }) := by
  simp only [saInfoDesc, Cmd.p, State.readPage_clean h, beq_self_eq_true, if_true, ok]

end

/-- Settles O15: AEAD and SA_INFO do so where the pages they release or read can be; the other bodies are the effects written. -/
theorem hashAndCipherCommandsComplete : Obligations.HashAndCipherCommandsComplete := by
  unfold Obligations.HashAndCipherCommandsComplete
  refine ⟨?digest, ?macGen, ?macVerify, ?compare, ?sealed, ?opened, ?_, ?_, ?saInfo, ?_, ?_⟩
  case digest => exact completes_of_eq (fun _ _ => rfl) fun _ _ => winnowDesc_body_of_output rfl
  case macGen => exact completes_of_eq (fun _ _ => rfl) fun _ _ => winnowDesc_body_of_output rfl
  case macVerify => exact completes_of_eq (fun _ _ => rfl) fun _ _ => winnowDesc_body_of_verdict rfl
  case compare => exact completes_of_eq (fun _ _ => rfl) fun _ _ => winnowDesc_body_of_verdict rfl
  case sealed => exact fun r s x y c hx hr => exec_effectAt (row := .aeadSeal) (fun _ _ => rfl) hx (aeadSealDesc_body_of_released hr)
  case opened =>
    exact fun r s x y c hx => ⟨fun ht hr => exec_effectAt (row := .aeadOpen) (fun _ _ => rfl) hx (aeadOpenDesc_body_of_released ht hr),
      fun ht => exec_effectAt (row := .aeadOpen) (fun _ _ => rfl) hx (aeadOpenDesc_body_of_bad_tag ht)⟩
  case saInfo => exact completesWhere_of (fun _ _ => rfl) fun _ _ => saInfoDesc_body_of_clean
  all_goals exact completes_of fun _ _ => rfl

section

variable {s : State} {c : Cmd}

/-- A command that begins a run takes this branch once: its entry then counts it. -/
theorem aux_not_begun (h : c.aux = 0) : ¬(c.aux != 0) = true := by simp [h]

theorem diagWordDesc_body_of_held {e : Env} (h : s.heldEnv (diagRef c 1) = some e) : diagWordDesc.body s c =
    (let e' := if num c.params 2 1 == 2 then e.write (num c.params 4 3) (BitVec.ofNat 24 (num c.params 7 3)) else e
     (s.store (diagRef c 1) e', some { status := .ok, results := e'.diagWord (num c.params 4 3) })) := by
  simp only [diagWordDesc, Cmd.p, h, ok]
  rfl

/-- The state in which DIAG_RESUME runs the held instruction: the run is the command's, and the furrow holds nothing. -/
def resumed (s : State) (c : Cmd) (run : Run) : State :=
  ((s.modCmd c.inst c.tag fun e => { e with aux := 1 }).modRun run.id fun _ => { run with inst := c.inst, tag := c.tag }).modFurrow (diagRef c 1)
    fun f => { f with held := none }

theorem diagResumeDesc_body_of_held {run : Run} {op : Nat} {i : SaivoFields} (ha : c.aux = 0) (hr : s.heldRun (diagRef c 1) = some run)
    (hi : (s.furrow (diagRef c 1)).held = some (op, i)) : diagResumeDesc.body s c =
      ((resumed s c run).runInstr (diagRef c 1) op i { run with inst := c.inst, tag := c.tag } ((resumed s c run).furrow (diagRef c 1)).frec.idx
        (resumeSem op i), none) := by
  simp only [diagResumeDesc, aux_not_begun ha, hr, hi, if_false, Bool.false_eq_true]
  rfl

end

/-- Settles O16: a command that begins runs, or restarts Seedbeds, does so at its first call. -/
theorem randomAndProgramCommandsComplete : Obligations.RandomAndProgramCommandsComplete := by
  unfold Obligations.RandomAndProgramCommandsComplete
  refine ⟨?_, ?_, ?config, ?_, ?run, ?_, ?_, ?diag, ?word, ?resume⟩
  case config => exact completesWhere_of (fun _ _ => rfl) fun _ _ h => if_neg (aux_not_begun h)
  case run => exact completesWhere_of (fun _ _ => rfl) fun _ _ h => if_neg (aux_not_begun h)
  case diag => exact completesWhere_of (fun _ _ => rfl) fun _ _ h => if_neg (aux_not_begun h)
  case word => exact fun r s x c e hx he => exec_effectAt (row := .diagWord) (fun _ _ => rfl) hx (diagWordDesc_body_of_held he)
  case resume =>
    exact fun r s x c run op i hx ha hr hi => exec_effectAt (row := .diagResume) (fun _ _ => rfl) hx (diagResumeDesc_body_of_held ha hr hi)
  all_goals exact completes_of fun _ _ => rfl

theorem instanceCreateDesc_body_of_id {s : State} {c : Cmd} {id : Nat} (h : s.createId c = some id) : instanceCreateDesc.body s c =
    (let new : Inst := { bind := bindingOf c id (readShares c.params 20) }
     let t := State.writeTable { s with insts := s.insts ++ [new] }
     (s.limitZero (t.modCmd c.inst c.tag fun e => { e with durable := true }), some { status := .ok, results := toBE 1 id })) := by
  simp only [instanceCreateDesc, h, ok]

/-- Settles O19: INSTANCE_CREATE takes the branch in which it has an ID to give; the other bodies are the effects written. -/
theorem instanceAndSettingCommandsComplete : Obligations.InstanceAndSettingCommandsComplete := by
  unfold Obligations.InstanceAndSettingCommandsComplete
  refine ⟨?create, ?_, ?_, ?_, ?_, ?_, ?_, ?_, ?_, ?_⟩
  case create => exact fun r s x c id hx hi => exec_effectAt (row := .instanceCreate) (fun _ _ => rfl) hx (instanceCreateDesc_body_of_id hi)
  all_goals exact completes_of fun _ _ => rfl

/-- Settles O20: the bodies of the life-cycle commands are the effects written. -/
theorem lifeCycleCommandsComplete : Obligations.LifeCycleCommandsComplete := by
  unfold Obligations.LifeCycleCommandsComplete
  refine ⟨?_, ?_, ?_, ?_, ?_, ?_⟩ <;> exact completes_of fun _ _ => rfl

/-- Settles O21: the bodies of the telemetry commands are the effects written. -/
theorem telemetryCommandsComplete : Obligations.TelemetryCommandsComplete := by
  unfold Obligations.TelemetryCommandsComplete
  refine ⟨?_, ?_, ?_, ?_, ?_, ?_, ?_⟩ <;> exact completes_of fun _ _ => rfl

end Sys2Proof.Machine
end

section
/-! The service page (R386 to R408): every effect of a TK command ends in one of three replies, and each of them is OK with results. -/

namespace Sys2Proof.Machine

/-- An effect that answers OK. -/
def AnswersOk (p : State × Option Reply) : Prop := ∃ y res, p = (y, some { status := .ok, results := res })

section

variable {s : State} {k : Ike} {c : Cmd} {m : Bytes} {ps : List (Nat × Bytes)}

theorem tkSame_answersOk {o : Nat} {out : Bytes} : AnswersOk (s.tkSame k o out) := ⟨_, _, rfl⟩

theorem tkEnd_answersOk {o n : Nat} {out info child : Bytes} : AnswersOk (s.tkEnd k o n out info child) := ⟨_, _, rfl⟩

theorem tkReject_answersOk {n : Nat} {out : Bytes} : AnswersOk (s.tkReject k n out) := ⟨_, _, rfl⟩

theorem tkAgain_answersOk : AnswersOk (s.tkAgain k ps) := by
  unfold State.tkAgain
  dsimp only
  split <;> exact tkEnd_answersOk

theorem initiatorChild_answersOk {info : Bytes} : AnswersOk (s.initiatorChild c k ps info) := by
  unfold State.initiatorChild
  dsimp only
  split <;> exact tkEnd_answersOk

theorem finishRekey_answersOk : AnswersOk (s.finishRekey c k m ps) := by
  unfold State.finishRekey
  dsimp only
  split <;> exact tkEnd_answersOk

theorem answerChild_answersOk : AnswersOk (s.answerChild c k m ps) := by
  unfold State.answerChild
  split <;> exact tkEnd_answersOk

theorem answerInfo_answersOk : AnswersOk (s.answerInfo k m ps) := by
  unfold State.answerInfo
  dsimp only
  split <;> exact tkEnd_answersOk

/-- A message that is taken: a response by the exchange it answers, a request by its own. -/
theorem tkProceed_answersOk : AnswersOk (s.tkProceed c k m ps) := by
  unfold State.tkProceed
  split
  · split
    · exact tkEnd_answersOk
    · exact tkEnd_answersOk
    · dsimp only
      split
      · exact tkEnd_answersOk
      · exact initiatorChild_answersOk
    · exact finishRekey_answersOk
    · exact tkEnd_answersOk
  · split
    · exact tkEnd_answersOk
    · exact tkEnd_answersOk
    · exact answerChild_answersOk
    · exact answerInfo_answersOk

theorem decideAnswer_answersOk : AnswersOk (s.decideAnswer c k) := by
  unfold State.decideAnswer
  dsimp only
  split
  · exact tkEnd_answersOk
  · split <;> exact tkEnd_answersOk

/-- TK_OPEN with a free entry: an unsuitable first message, an initiator's opening, or a responder's answer to a message with or without a
fault (R394). -/
theorem tkOpenBody_answersOk (h : (s.newIke c.inst c.fld).isSome = true) : AnswersOk (tkOpenBody s c) := by
  obtain ⟨p, hp⟩ := Option.isSome_iff_exists.1 h
  unfold tkOpenBody
  simp only [hp]
  split
  · exact ⟨_, _, rfl⟩
  · split
    · exact tkEnd_answersOk
    · split
      · exact tkReject_answersOk
      · exact tkEnd_answersOk

end

section

variable {s : State} {c : Cmd} (hr : (s.readIke c (s.ikeOf c)).1 = true)
include hr

theorem readIke_eq : s.readIke c (s.ikeOf c) = (true, (s.readIke c (s.ikeOf c)).2) := Prod.ext hr rfl

/-- TK_STEP acts by what its message calls for (R395 to R401). -/
theorem tkStepBody_of_read : tkStepBody s c = match (s.ikeOf c).plan (tkMsg c) with
    | .discard => (s.readIke c (s.ikeOf c)).2.tkSame (s.ikeOf c) 2
    | .replay => (s.readIke c (s.ikeOf c)).2.tkSame (s.ikeOf c) 4 (s.ikeOf c).response
    | .reject n d => (s.readIke c (s.ikeOf c)).2.tkReject (s.ikeOf c) n ((s.ikeOf c).errorMessage (tkMsg c) n d)
    | .received n => (s.readIke c (s.ikeOf c)).2.tkReject (s.ikeOf c) n
    | .again ps => (s.readIke c (s.ikeOf c)).2.tkAgain (s.ikeOf c) ps
    | .proceed ps => (s.readIke c (s.ikeOf c)).2.tkProceed c (s.ikeOf c) (tkMsg c) ps := by
  unfold tkStepBody
  dsimp only
  rw [readIke_eq hr] <;> rfl

theorem tkStepBody_answersOk : AnswersOk (tkStepBody s c) := by
  rw [tkStepBody_of_read hr]
  cases (s.ikeOf c).plan (tkMsg c) with
  | discard => exact tkSame_answersOk
  | replay => exact tkSame_answersOk
  | reject n d => exact tkReject_answersOk
  | received n => exact tkReject_answersOk
  | again ps => exact tkAgain_answersOk
  | proceed ps => exact tkProceed_answersOk

/-- TK_DECIDE that does not accept, or whose peer's AUTH does not verify (R398). -/
theorem tkDecideBody_of_rejected (hd : decideOk (s.ikeOf c) c = false) : tkDecideBody s c =
    (s.readIke c (s.ikeOf c)).2.tkReject (s.ikeOf c) (if num c.params 6 1 == 1 then 24 else num c.params 8 2)
      (if (s.ikeOf c).initiator then (s.ikeOf c).protect 37 false ((s.ikeOf c).sendId + 1)
          [notifyPayload (if num c.params 6 1 == 1 then 24 else num c.params 8 2)]
        else (s.ikeOf c).protect 35 true (s.ikeOf c).recvId [notifyPayload (if num c.params 6 1 == 1 then 24 else num c.params 8 2)]) := by
  unfold tkDecideBody
  dsimp only
  rw [readIke_eq hr]
  exact if_pos (by rw [hd]; rfl)

/-- TK_DECIDE that accepts: a responder answers, an initiator goes on to its second authentication or makes the child (R398, R399). -/
theorem tkDecideBody_of_accepted (hd : decideOk (s.ikeOf c) c = true) : tkDecideBody s c =
    (if !(s.ikeOf c).initiator then (s.readIke c (s.ikeOf c)).2.decideAnswer c (s.ikeOf c)
    else if (s.ikeOf c).further then
      let (out, k) := (s.readIke c (s.ikeOf c)).2.authRequest c { s.ikeOf c with peerAuths := (s.ikeOf c).peerAuths + 1, peer := [] }
      (s.readIke c (s.ikeOf c)).2.tkEnd k 0 0 out
    else (s.readIke c (s.ikeOf c)).2.initiatorChild c
      { s.ikeOf c with peerAuths := (s.ikeOf c).peerAuths + 1, sendId := (s.ikeOf c).sendId + 1 } (s.ikeOf c).peer []) := by
  unfold tkDecideBody
  dsimp only
  rw [readIke_eq hr]
  exact if_neg (by rw [hd]; decide)

theorem tkDecideBody_answersOk : AnswersOk (tkDecideBody s c) := by
  cases hd : decideOk (s.ikeOf c) c with
  | false =>
    rw [tkDecideBody_of_rejected hr hd]
    exact tkReject_answersOk
  | true =>
    rw [tkDecideBody_of_accepted hr hd]
    split
    · exact decideAnswer_answersOk
    · split
      · exact tkEnd_answersOk
      · exact initiatorChild_answersOk

/-- TK_SEND with a request outstanding sends it again (R400). -/
theorem tkSendBody_of_request (hq : (s.ikeOf c).request ≠ []) : tkSendBody s c =
    (s.readIke c (s.ikeOf c)).2.tkSame (s.ikeOf c) 4 (s.ikeOf c).request := by
  unfold tkSendBody
  dsimp only
  rw [readIke_eq hr]
  exact if_pos (by simpa using hq)

/-- TK_SEND of KIND 1 asks whether the peer is there (R400). -/
theorem tkSendBody_of_probe (hq : (s.ikeOf c).request = []) (hk : num c.params 6 1 = 1) : tkSendBody s c =
    (s.readIke c (s.ikeOf c)).2.tkEnd ((s.ikeOf c).ask 37 []).2 0 0 ((s.ikeOf c).ask 37 []).1 := by
  unfold tkSendBody
  dsimp only
  rw [readIke_eq hr]
  simp only [hq, List.isEmpty_nil, Bool.not_true, Bool.false_eq_true, if_false, Cmd.p, hk]

theorem tkSendBody_answersOk : AnswersOk (tkSendBody s c) := by
  unfold tkSendBody
  dsimp only
  rw [readIke_eq hr]
  dsimp only
  split
  · exact tkSame_answersOk
  · split <;> exact tkEnd_answersOk

end

/-- A TK row whose effect answers OK answers so. -/
theorem exec_answersOk {d : Desc} {row : CmdRec → Instr} {r : CmdRec} {s x : State} {c : Cmd}
    (hrow : ∀ r s, exec (row r) s = .next (runCommand d r s)) (hx : d.effectAt? r s = some (x, c)) (hp : AnswersOk (d.body x c)) :
    ∃ y res, exec (row r) s = .next (settled c.inst c.tag (y, some { status := .ok, results := res })) := by
  obtain ⟨y, res, h⟩ := hp
  exact ⟨y, res, exec_effectAt hrow hx h⟩

/-- Settles O18: each TK effect where its IKE SA can be read, and that it answers OK; the other bodies are the effects written. -/
theorem serviceCommandsComplete : Obligations.ServiceCommandsComplete := by
  unfold Obligations.ServiceCommandsComplete
  refine ⟨?_, ?openOk, ?_, ?stepOk, ?_, ?decideOk, ?_, ?step, ?rejects, ?accepts, ?again, ?probe, ?sendOk, ?tkEnd, ?tkSame, ?tkReject, ?_, ?_, ?_, ?_⟩
  case openOk => exact fun r s x c hx h => exec_answersOk (row := .tkOpen) (fun _ _ => rfl) hx (tkOpenBody_answersOk h)
  case stepOk => exact fun r s x c hx h => exec_answersOk (row := .tkStep) (fun _ _ => rfl) hx (tkStepBody_answersOk h)
  case decideOk => exact fun r s x c hx h => exec_answersOk (row := .tkDecide) (fun _ _ => rfl) hx (tkDecideBody_answersOk h)
  case sendOk => exact fun r s x c hx h => exec_answersOk (row := .tkSend) (fun _ _ => rfl) hx (tkSendBody_answersOk h)
  case step => exact completesWhere_of (fun _ _ => rfl) fun s c h => tkStepBody_of_read h
  case rejects => exact completesWhere_of (fun _ _ => rfl) fun s c h => tkDecideBody_of_rejected h.1 h.2
  case accepts => exact completesWhere_of (fun _ _ => rfl) fun s c h => tkDecideBody_of_accepted h.1 h.2
  case again => exact completesWhere_of (fun _ _ => rfl) fun s c h => tkSendBody_of_request h.1 h.2
  case probe => exact completesWhere_of (fun _ _ => rfl) fun s c ⟨h, hq, hk⟩ => tkSendBody_of_probe h hq hk
  case tkEnd => exact fun _ _ _ _ _ _ _ => rfl
  case tkSame => exact fun _ _ _ _ => rfl
  case tkReject => exact fun _ _ _ _ => rfl
  all_goals exact completes_of fun _ _ => rfl

end Sys2Proof.Machine
end

section
/-! Received frames (R72 to R88): what a frame that passes, or fails, the receive checks has met, what `State.rxBody` does in each case, and the
obligations about accepted frames and about those turned away. -/

namespace Sys2Proof.Machine

section

variable {s x : State} {f : RxFrame} {h : Header}

/-- Receive checks 1 to 6 are passed with no failover running. -/
theorem hears?_eq_some {ty : Nat} (ha : s.hears? f ty = some (h, x)) : s.pkg.failover = false ∧ s.rxHead f ty = .ok (h, x) := by
  unfold State.hears? at ha
  split at ha
  · cases ha
  · rename_i hf
    split at ha
    · cases ha
    · rename_i p hp
      cases ha
      exact ⟨Bool.eq_false_iff.2 hf, hp⟩

/-- Receive checks 1 to 9 are passed: the window takes the tag, no reserved bit is set and the length is right. -/
theorem accepts?_eq_some {ty top : Nat} (ha : s.accepts? f ty = some (h, x, top)) : s.pkg.failover = false ∧ s.rxHead f ty = .ok (h, x) ∧
    (x.inst h.inst).window.judge h.seq = .accept top ∧ h.rsv = false ∧ lengthCheck f h = none := by
  unfold State.accepts? at ha
  split at ha
  · cases ha
  · rename_i hf
    split at ha
    · cases ha
    · rename_i g y hp
      split at ha
      · rename_i t hj
        split at ha
        · cases ha
        · rename_i hc
          cases ha
          simp only [Bool.or_eq_true, not_or, Bool.not_eq_true, Option.isSome_eq_false_iff, Option.isNone_iff_eq_none] at hc
          exact ⟨Bool.eq_false_iff.2 hf, hp, hj, hc⟩
      · cases ha

variable {bad : Bool} {own : State → Option Status} {effect : Nat → State → State} {top : Nat} {e : Status}

theorem rxBody_of_pass (hr : h.rsv = false) (hb : bad = false) (hj : (s.inst h.inst).window.judge h.seq = .accept top)
    (hl : lengthCheck f h = none) (ho : own s = none) : s.rxBody f h bad own effect = effect top s := by
  simp [State.rxBody, firstFail, hr, hb, hj, hl, ho]

theorem rxBody_of_status (hr : h.rsv = false) (hb : bad = false) (hj : (s.inst h.inst).window.judge h.seq = .accept top)
    (hl : lengthCheck f h = some e) : s.rxBody f h bad own effect = s.frameStatus h.inst (rxCtx f) e h.seq h.xfer := by
  simp [State.rxBody, firstFail, hr, hb, hj, hl]

theorem rxBody_of_duplicate (hr : h.rsv = false) (hb : bad = false) (hj : (s.inst h.inst).window.judge h.seq = .duplicate) :
    s.rxBody f h bad own effect = ((s.countTurned h.inst).drop f.port fun d => { d with dup := d.dup + 1 }).ackIf f h := by
  simp [State.rxBody, firstFail, hr, hb, hj]

theorem rxBody_of_outside (hr : h.rsv = false) (hb : bad = false) (hj : (s.inst h.inst).window.judge h.seq = .outside) :
    s.rxBody f h bad own effect = s.frameStatus h.inst (rxCtx f) .seqOutOfWindow h.seq h.xfer := by
  simp [State.rxBody, firstFail, hr, hb, hj]

theorem rxBody_of_reserved (hr : h.rsv = true) :
    s.rxBody f h bad own effect = s.frameStatus h.inst (rxCtx f) .badParameter h.seq h.xfer := by
  simp [State.rxBody, firstFail, hr]

/-- A frame that is not buffered for a failover is received by its type. -/
theorem exec_requestFrame (hf : s.pkg.failover = false) : exec (.requestFrame f) s = .next (s.request f) := by
  simp only [exec, execRequestFrame, hf, Bool.false_eq_true, if_false]

theorem exec_dataSegment (hf : s.pkg.failover = false) : exec (.dataSegment f) s = .next (s.segment f) := by
  simp only [exec, execDataSegment, hf, Bool.false_eq_true, if_false]

theorem exec_creditQuery (hf : s.pkg.failover = false) : exec (.creditQuery f) s = .next (s.creditQuery f) := by
  simp only [exec, execCreditQuery, hf, Bool.false_eq_true, if_false]

theorem exec_mailboxFrame (hf : s.pkg.failover = false) : exec (.mailboxFrame f) s = .next (s.mailbox f) := by
  simp only [exec, execMailboxFrame, hf, Bool.false_eq_true, if_false]

/-- A frame whose TLEN is its FLEN is whole (R75). -/
theorem unsegLen_of_eq (ht : h.tlen = h.flen) : unsegLen h = none := by
  simp [unsegLen, ht]

/-- A request frame of one piece: R77's fields are judged with the reserved bits, its records with its length. -/
theorem request_of_whole (hp : s.rxHead f 0 = .ok (h, x)) (hm : h.more = false) : s.request f =
    x.rxBody f h (h.xfer != 0 || h.segIdx != 0)
      (fun _ => match readRecords (rxPayload f).length (rxPayload f) with
        | .error e => some e
        | .ok _ => unsegLen h)
      (fun top s => match readRecords (rxPayload f).length (rxPayload f) with
        | .error _ => s
        | .ok rs => ((s.accept f h top).admitAll f h 0 rs).ackIf f h) := by
  simp only [State.request, hp, hm, Bool.false_eq_true, if_false] <;> rfl

/-- The first segment of a transfer. -/
theorem request_of_first (hp : s.rxHead f 0 = .ok (h, x)) (hm : h.more = true) : s.request f =
    x.rxBody f h (h.segIdx != 0 || h.xfer == 0 || h.flen ≥ h.tlen || x.xfers.any (fun y => y.inst == h.inst && y.id == h.xfer))
      (fun s => (segZeroCheck h (rxPayload f)).or (s.transferRoom h))
      (fun top s => ((s.accept f h top).openXfer f h
        { recOf f h 0 (num (rxPayload f) 0 2, byteAt (rxPayload f) 2, (rxPayload f).drop 10, num (rxPayload f) 6 4) with
          whole := false }).ackIf f h) := by
  simp only [State.request, hp, hm, if_true]

/-- A request frame is judged by receive checks 7 to 9 whatever it holds. -/
theorem request_is_judged (hp : s.rxHead f 0 = .ok (h, x)) : ∃ bad own effect, s.request f = x.rxBody f h bad own effect := by
  cases hm : h.more with
  | false => exact ⟨_, _, _, request_of_whole hp hm⟩
  | true => exact ⟨_, _, _, request_of_first hp hm⟩

end

/-- Settles O25: a frame that is accepted passes checks 7 to 9, and its type's own checks are what the statement assumes. -/
theorem acceptedFramesTakeEffect : Obligations.AcceptedFramesTakeEffect := by
  unfold Obligations.AcceptedFramesTakeEffect
  refine ⟨?records, ?first, ?segment, ?credit, ?mailbox⟩
  case records =>
    intro f s x h top rs ha hm hx hi ht hrs
    obtain ⟨hf, hp, hj, hr, hl⟩ := accepts?_eq_some ha
    rw [exec_requestFrame hf, request_of_whole hp hm,
      rxBody_of_pass hr (by simp [hx, hi]) hj hl (by simp only [hrs, unsegLen_of_eq ht])]
    simp only [hrs]
  case first =>
    intro f s x h top ha hm hi hx ht hfree hz hroom
    obtain ⟨hf, hp, hj, hr, hl⟩ := accepts?_eq_some ha
    rw [exec_requestFrame hf, request_of_first hp hm, rxBody_of_pass hr (by simp [hi, hx, ht, hfree]) hj hl (by simp [hz, hroom])]
  case segment =>
    intro f s x h top y ha hy hi ht hlen
    obtain ⟨hf, hp, hj, hr, hl⟩ := accepts?_eq_some ha
    have whole : ¬(h.segIdx != y.nextSeg || h.tlen != y.tlen || decide (y.got + h.flen > y.tlen) ||
        (!h.more && decide (y.got + h.flen < y.tlen))) = true := by
      cases hm : h.more <;> simp only [hm, if_true, if_false, Bool.false_eq_true] at hlen <;> simp [hi, ht] <;> omega
    simp only [exec_dataSegment hf, State.segment, hp, hy]
    rw [rxBody_of_pass hr rfl hj hl rfl, if_neg whole]
  case credit =>
    intro f s x h top ha hm hi hx hfl ht
    obtain ⟨hf, hp, hj, hr, hl⟩ := accepts?_eq_some ha
    simp only [exec_creditQuery hf, State.creditQuery, hp]
    rw [rxBody_of_pass hr (by simp [hm, hi, hx]) hj hl (by simp [hfl, unsegLen, ht])]
  case mailbox =>
    intro f s x h top ha hc
    obtain ⟨hf, hp, hj, hr, hl⟩ := accepts?_eq_some ha
    simp only [exec_mailboxFrame hf, State.mailbox, hp]
    rw [rxBody_of_pass hr rfl hj hl hc]

/-- What the receive checks leave of a frame they discard: commands and what is sent stay as they were. -/
def Quiet (s x : State) : Prop := x.cmds = s.cmds ∧ x.tx = s.tx ∧ x.txq = s.txq

/-- Checks 1 to 3 count a frame they discard on its port, or note the PN of one they pass. -/
theorem rxLink_quiet {s : State} {f : RxFrame} :
    (∀ x, s.rxLink f = .error x → Quiet s x) ∧ ∀ sa x, s.rxLink f = .ok (sa, x) → Quiet s x := by
  unfold State.rxLink
  dsimp only
  repeat' split
  all_goals refine ⟨fun x hx => ?_, fun sa x hx => ?_⟩
  all_goals cases hx
  all_goals exact ⟨rfl, rfl, rfl⟩

/-- So do checks 4 to 6. -/
theorem rxHead_error_quiet {s x : State} {f : RxFrame} {ty : Nat} (hx : s.rxHead f ty = .error x) : Quiet s x := by
  unfold State.rxHead at hx
  split at hx
  · rename_i hy
    cases hx
    exact rxLink_quiet.1 _ hy
  · rename_i sa y hy
    have noted : Quiet s y := rxLink_quiet.2 sa y hy
    dsimp only at hx
    repeat' split at hx
    all_goals cases hx
    all_goals exact noted

/-- Settles O26: each way a request frame is turned away is a case of `State.rxBody`, or an error of the checks before it. -/
theorem turnedAwayFrames : Obligations.TurnedAwayFrames := by
  unfold Obligations.TurnedAwayFrames
  refine ⟨?duplicate, ?outside, ?reserved, ?length, ?discarded⟩
  case duplicate =>
    intro f s x h ha hr hm hx hi hj
    obtain ⟨hf, hp⟩ := hears?_eq_some ha
    rw [exec_requestFrame hf, request_of_whole hp hm, rxBody_of_duplicate hr (by simp [hx, hi]) hj]
  case outside =>
    intro f s x h ha hr hm hx hi hj
    obtain ⟨hf, hp⟩ := hears?_eq_some ha
    rw [exec_requestFrame hf, request_of_whole hp hm, rxBody_of_outside hr (by simp [hx, hi]) hj]
  case reserved =>
    intro f s x h ha hr
    obtain ⟨hf, hp⟩ := hears?_eq_some ha
    obtain ⟨bad, own, effect, he⟩ := request_is_judged hp
    rw [exec_requestFrame hf, he, rxBody_of_reserved hr]
  case length =>
    intro f s x h top e ha hr hm hx hi hj hl
    obtain ⟨hf, hp⟩ := hears?_eq_some ha
    rw [exec_requestFrame hf, request_of_whole hp hm, rxBody_of_status hr (by simp [hx, hi]) hj hl]
  case discarded =>
    intro f s x hf hx
    refine ⟨?_, rxHead_error_quiet hx⟩
    simp only [exec_requestFrame hf, State.request, hx]

end Sys2Proof.Machine
end

section
/-! What leaves the part by itself and what times out (R28 to R31, R79, R88, R104, R109, R181, R432, R516), and the pause of the ports (R55, R58, R89,
R90). -/

namespace Sys2Proof.Machine

/-- Settles O27: each row acts where the state is the one it waits for. -/
theorem repliesAndTimers : Obligations.RepliesAndTimers := by
  unfold Obligations.RepliesAndTimers
  refine ⟨?release, ?pending, ?padded, ?overrun, ?rngWait, ?event, ?gap, ?credit, ?toTenant, ?toManager⟩
  case release =>
    intro s i t c r hc hd hr
    simp only [exec, execReplyRelease, hc, hd, hr, if_true]
  case pending =>
    intro s i t c hc hl hd hp ht
    simp only [exec, execPending, hc, hl, hd, hp, ht, Bool.not_false, Bool.and_self, if_true]
  case padded =>
    intro s i t c hc hp hb hn hd
    simp only [exec, execPadExpiry, hc, hp, hb, hn, hd, Bool.not_true, Bool.or_self, Bool.false_eq_true, if_false, if_true]
  case overrun =>
    intro s i t c hc hp hb hn hd
    simp only [exec, execPadExpiry, hc, hp, hb, hn, hd, Bool.not_true, Bool.or_self, Bool.false_eq_true, if_false]
  case rngWait =>
    intro s i t k c hc hw
    simp only [exec, execRngWaitExpiry, hc, hw]
  case event =>
    intro s i hi
    simp only [exec, execEventSend, hi, if_true]
  case gap =>
    intro s i k x hx
    simp only [exec, execSegGapExpiry, hx, State.abortXfer]
  case credit =>
    intro s i hi hn
    simp only [exec, execCreditUpdateTimer, hi, bne_iff_ne.2 hn, Bool.and_self, if_true]
  case toTenant =>
    intro s k hk h0 hm hp
    simp [exec, execMboxDoorbellRepeat, hk, h0, hm, hp]
  case toManager =>
    intro s k hk h0 hm hp
    simp [exec, execMboxDoorbellRepeat, hk, h0, hm, hp]

/-- The part refreshes an XOFF for a priority where packets wait, or the occupancy has not fallen to half (R89). -/
theorem execPauseRefresh_of_full {s : State} {p k : Nat} (hp : s.pkg.pausing = false) (hx : (s.port p).xoff.getD k false = true)
    (hr : s.pkg.packets = [] → (s.ingressRoom p k).2 ≤ (s.ingressRoom p k).1 * 2) :
    execPauseRefresh p k s = .next { s with tx := s.tx ++ ((s.port p).pauses k).map fun q => .pause p q true } := by
  have full : ¬((s.pkg.packets.isEmpty && decide ((s.ingressRoom p k).1 * 2 < (s.ingressRoom p k).2)) = true) := by
    simp only [Bool.and_eq_true, List.isEmpty_iff, decide_eq_true_eq, not_and, not_lt]
    exact hr
  simp only [execPauseRefresh, hp, hx, Bool.false_and, Bool.false_eq_true, if_false, if_true, full]

/-- And lifts it where none wait and it has. -/
theorem execPauseRefresh_of_room {s : State} {p k : Nat} (hp : s.pkg.pausing = false) (hx : (s.port p).xoff.getD k false = true)
    (he : s.pkg.packets = []) (hr : (s.ingressRoom p k).1 * 2 < (s.ingressRoom p k).2) :
    execPauseRefresh p k s = .next
      { s.modPort p (fun x => { x with xoff := x.xoff.set k false }) with tx := s.tx ++ ((s.port p).pauses k).map fun q => .pause p q false } := by
  simp only [execPauseRefresh, hp, hx, he, hr, List.isEmpty_nil, decide_true, Bool.and_self, Bool.false_and, Bool.false_eq_true, if_false,
    if_true]

/-- Settles O28: a pause is set where the port is up; a refresh takes the branch of the whole port, of a full part or of one with room; the
room and the pauses of a port are those of its flow control. -/
theorem pauseRows : Obligations.PauseRows := by
  unfold Obligations.PauseRows
  refine ⟨?on, ?off, fun _ _ _ => rfl, ?port, fun _ _ _ => execPauseRefresh_of_full, fun _ _ _ => execPauseRefresh_of_room, ?flow⟩
  case on =>
    intro s p m hu
    simp only [exec, execPauseFrameRx, hu, if_true]
  case off =>
    intro s p m hu
    simp only [exec, execPauseFrameRx, hu, Bool.false_eq_true, if_false, if_true]
  case port =>
    intro s p k hp h2 hu
    simp only [exec, execPauseRefresh, hp, h2, hu, decide_true, Bool.and_self, if_true]
  case flow =>
    intro s p k
    refine ⟨fun h => ?_, fun h => ?_, fun h => ?_⟩ <;> simp only [State.ingressRoom, Port.pauses, h, and_self]

end Sys2Proof.Machine
end

section
/-! The queue and reset: the tie of the step to its rows, and what the machine is at reset. -/

namespace Sys2Proof.Machine

/-- Settles O1, by the definition of the step. -/
theorem stepRunsFrontCommand : Obligations.StepRunsFrontCommand := fun _ _ => rfl

theorem step_of_empty {s : State} (h : s.pending = []) : step s = s.tick := by
  unfold step
  rw [h]

theorem tick_of_due {s : State} {c : Instr} (h : s.due = some c) : s.tick = exec c s := by
  unfold State.tick
  rw [h]

theorem tick_of_idle {s : State} (hd : s.due = none) (hr : s.retryRow = none) : s.tick = .next s.passTime := by
  unfold State.tick
  simp only [hd, hr]

/-- Settles O2: on an empty queue the step is the tick, and the tick runs what is due. -/
theorem emptyQueueRunsWhatIsDue : Obligations.EmptyQueueRunsWhatIsDue := fun _ empty =>
  ⟨fun _ due => (step_of_empty empty).trans (tick_of_due due), fun idle retry => (step_of_empty empty).trans (tick_of_idle idle retry)⟩

/-- Settles O3, by evaluating the reset state. -/
theorem resetIsInert : Obligations.ResetIsInert := by
  unfold Obligations.ResetIsInert
  decide +kernel

/-- Settles O4, by evaluating the invariant at reset. -/
theorem resetIsSound : Obligations.ResetIsSound := by
  unfold Obligations.ResetIsSound State.Sound FieldSt.Sound Furrow.Sound Run.Sound
  decide +kernel

end Sys2Proof.Machine
end

section
/-! What an instruction stores (R338, R359), loads and stores of a word (R356), and the obligations about the two. -/

namespace Sys2Proof.Machine

/-! ### The store of an instruction -/

/-- A furrow after an update of one. -/
theorem furrow_modFurrow_other (s : State) {u v : FurrowRef} (h : v ≠ u) (g : Furrow → Furrow) : (s.modFurrow u g).furrow v = s.furrow v := by
  unfold State.furrow State.modFurrow
  rw [State.modField_read]
  split
  · rename_i hf
    have other : u.furrow ≠ v.furrow := fun he => h (by cases u; cases v; simp_all)
    simp only [List.getD_eq_getElem?_getD, List.getElem?_modify, other, if_false]
    cases (s.field v.field).furrows[v.furrow]? <;> rfl
  · rfl

/-- With no corrected word the store is the furrow's and the run's. -/
theorem store_of_none_fixed (s : State) (u : FurrowRef) {e : Env} (h : e.fixed = []) :
    s.store u e = (s.modFurrow u fun _ => e.u).modRun e.r.id fun _ => e.r := by
  unfold State.store State.logFixed
  simp only [h, List.isEmpty_nil, if_true]

/-- Settles O44: the store is an update of the furrow and of the run. -/
theorem furrowStoreFrame : Obligations.FurrowStoreFrame := by
  unfold Obligations.FurrowStoreFrame
  intro s u e none
  dsimp only
  rw [store_of_none_fixed s u none]
  refine ⟨rfl, s.modField_count _ _, fun f hf => s.modField_other (Ne.symm hf) _, fun hu => ?own, fun v hv => ?others, rfl⟩
  case own =>
    refine (s.modField_read u.field u.field _).trans ?_
    rw [if_pos ⟨rfl, hu⟩]
    rw [List.set_eq_modify]
  case others => exact furrow_modFurrow_other s hv _

/-! ### Run control -/

variable {i : SaivoFields} {e : Env}

theorem paired_iff : e.paired = true ↔ ¬(e.u.tally.toNat % 65536 ≠ passPair ∧ e.u.tally.toNat % 65536 ≠ failPair) := by
  simp only [Env.paired, Bool.or_eq_true, beq_iff_eq]
  tauto

theorem semTread_shown (hp : e.paired = true) (hs : e.u.tally.getLsbD 16 = false ∨ e.r.image.release = true) :
    semTread i e = .next (e.setS i.d e.u.tally) := by
  have pair := paired_iff.1 hp
  have seen : ¬(e.u.tally.getLsbD 16 = true ∧ e.r.image.release = false) := by
    rintro ⟨h, h'⟩
    rcases hs with hs | hs <;> simp_all
  simp only [semTread, Bool.and_eq_true, bne_iff_ne, Bool.not_eq_true', pair, seen, if_false]

theorem semTread_unpaired (hp : e.paired = false) : semTread i e = .quit .faultDetected := by
  have pair : e.u.tally.toNat % 65536 ≠ passPair ∧ e.u.tally.toNat % 65536 ≠ failPair := by
    by_contra h
    exact absurd (paired_iff.2 h) (by simp [hp])
  simp only [semTread, Bool.and_eq_true, bne_iff_ne, if_pos pair]

theorem semHalt_other_rank (h : e.u.rank ≠ 0) : semHalt e = .halt e := by
  simp only [semHalt, bne_iff_ne.2 h, Bool.true_or, if_true]

/-- HALT halts where the output length, the selection of sets and, for a VERDICT image, the pair pass R333. -/
theorem semHalt_checked (hl : (e.sreg 1).toNat ≤ e.r.outMax) (hk : (e.sreg 2).toNat % 16 < 2 ^ e.r.image.nkeyout)
    (hv : e.r.image.verdict = true → e.paired = true) : semHalt e = .halt e := by
  have values : ¬((e.sreg 1).toNat > e.r.outMax ∨ (e.sreg 2).toNat % 16 ≥ 2 ^ e.r.image.nkeyout) := by omega
  have pair : ¬((e.r.image.verdict = true ∧ e.u.tally.toNat % 65536 ≠ passPair) ∧ e.u.tally.toNat % 65536 ≠ failPair) :=
    fun h => paired_iff.1 (hv h.1.1) ⟨h.1.2, h.2⟩
  simp only [semHalt, Bool.or_eq_true, decide_eq_true_eq, Bool.and_eq_true, bne_iff_ne, values, pair, if_false, ite_self]

theorem semRetry_inside (hh : e.u.inHandler = true) (hr : e.r.restarts < 15) :
    semRetry e = .jump { e with u := { e.u with inHandler := false }, r := { e.r with restarts := e.r.restarts + 1 } } e.u.frec.pc := by
  simp [semRetry, hh, hr]

theorem semRetry_ends (h : e.u.inHandler = false ∨ 15 ≤ e.r.restarts) : semRetry e = .quit .programFault := by
  rcases h with h | h <;> simp [semRetry, h]

/-! ### The modulus register (R316) -/

theorem modulus_of_valid {q : Nat} (ho : q % 2 = 1) (hl : 3 ≤ q) (hh : q < 2 ^ 23) : Modulus.of q =
    { q := BitVec.ofNat 24 q, qinv := BitVec.ofNat 24 (montNeg q), mu := BitVec.ofNat 24 (2 ^ (2 * bitLen q) / q),
      r2 := BitVec.ofNat 24 (2 ^ 48 % q) } := by
  have : (q % 2 == 1 && 3 ≤ q && q < 2 ^ 23) = true := by simp only [ho, hl, hh, beq_self_eq_true, decide_true, Bool.and_self]
  simp only [Modulus.of, this, if_true]

theorem modulus_of_invalid {q : Nat} (h : ¬(q % 2 = 1 ∧ 3 ≤ q ∧ q < 2 ^ 23)) : Modulus.of q = {} := by
  have : (q % 2 == 1 && 3 ≤ q && q < 2 ^ 23) = false := by simpa [and_assoc] using h
  simp only [Modulus.of, this, Bool.false_eq_true, if_false]

/-- One step of Newton's iteration for the inverse doubles the bits that are right. -/
theorem newton_step {q x m : Int} (h : m ∣ q * x - 1) : m ^ 2 ∣ q * (x * (2 - q * x)) - 1 := by
  obtain ⟨c, hc⟩ := h
  exact ⟨-c ^ 2, by linear_combination (-(q * x - 1) - m * c) * hc⟩

theorem wrapTo_lt (w : Nat) (y : Int) : wrapTo w y < 2 ^ w := by
  have := Int.emod_lt_of_pos y (b := 2 ^ w) (by positivity)
  have := Int.emod_nonneg y (b := 2 ^ w) (by positivity)
  unfold wrapTo
  zify
  omega

/-- A step that is wrapped to 24 bits does so for the lower 24. -/
theorem newton_step_wrapped {q x k m : Nat} (h : (2 : Int) ^ k ∣ q * x - 1) (hk : m ≤ 2 * k) (hm : m ≤ 24) :
    (2 : Int) ^ m ∣ q * (wrapTo 24 (x * (2 - q * x)) : Nat) - 1 := by
  generalize hy : (x : Int) * (2 - q * x) = y
  have exact_step : (2 : Int) ^ m ∣ q * y - 1 :=
    dvd_trans ((pow_dvd_pow 2 (by omega)).trans (dvd_of_eq (pow_mul 2 k 2))) (hy ▸ newton_step h)
  have wrapped : ((wrapTo 24 y : Nat) : Int) = y - 2 ^ 24 * (y / 2 ^ 24) := by
    unfold wrapTo
    omega
  have rest : (2 : Int) ^ m ∣ q * (2 ^ 24 * (y / 2 ^ 24)) := Dvd.dvd.mul_left (Dvd.dvd.mul_right (pow_dvd_pow 2 hm) _) _
  rw [wrapped, show (q : Int) * (y - 2 ^ 24 * (y / 2 ^ 24)) - 1 = q * y - 1 - q * (2 ^ 24 * (y / 2 ^ 24)) by ring]
  exact dvd_sub exact_step rest

/-- An odd number is its own inverse modulo 8. -/
theorem odd_sq_mod_eight {q : Nat} (ho : q % 2 = 1) : (2 : Int) ^ 3 ∣ q * q - 1 := by
  obtain ⟨k, rfl⟩ : ∃ k, q = 2 * k + 1 := ⟨q / 2, by omega⟩
  obtain ⟨j, hj⟩ := Int.even_mul_succ_self (k : Int)
  exact ⟨j, by push_cast; linear_combination 4 * hj⟩

/-- QINV is −Q⁻¹ modulo 2^24. -/
theorem montNeg_spec {q : Nat} (ho : q % 2 = 1) : montNeg q < 2 ^ 24 ∧ (montNeg q * q + 1) % 2 ^ 24 = 0 := by
  have h1 := newton_step_wrapped (m := 6) (odd_sq_mod_eight ho) (by omega) (by omega)
  have h2 := newton_step_wrapped (m := 12) h1 (by omega) (by omega)
  have h3 := newton_step_wrapped (m := 24) h2 (by omega) (by omega)
  have h4 := newton_step_wrapped (m := 24) h3 (by omega) (by omega)
  have h5 := newton_step_wrapped (m := 24) h4 (by omega) (by omega)
  unfold montNeg
  dsimp only
  generalize hx : (List.range 5).foldl (fun (x : Nat) _ => wrapTo 24 ((x : Int) * (2 - (q : Int) * x))) q = x
  have inverse : (2 : Int) ^ 24 ∣ q * x - 1 := hx ▸ h5
  have small : x < 2 ^ 24 := by
    rw [← hx]
    exact wrapTo_lt _ _
  obtain ⟨c, hc⟩ := inverse
  have nonzero : x ≠ 0 := by
    rintro rfl
    omega
  rw [Nat.mod_eq_of_lt (by omega)]
  refine ⟨by omega, Nat.mod_eq_zero_of_dvd (Int.natCast_dvd_natCast.1 ⟨q - c, ?_⟩)⟩
  rw [Nat.cast_add, Nat.cast_mul, Nat.cast_sub small.le]
  push_cast
  linear_combination -hc

theorem bitLen_spec {q : Nat} (hq : q < 2 ^ 24) : q < 2 ^ bitLen q ∧ ∀ k < bitLen q, 2 ^ k ≤ q := by
  unfold bitLen
  cases hf : (List.range 25).find? fun k => decide (q < 2 ^ k) with
  | none => exact absurd (List.find?_eq_none.1 hf 24 (by simp)) (by simpa using hq)
  | some k =>
    obtain ⟨hk, -, below⟩ := List.find?_range_eq_some.1 hf
    exact ⟨of_decide_eq_true hk, fun j hj => by simpa using below j hj⟩

/-- The modulus is above the half of the power of two its length names, so MU fits 24 bits. -/
theorem mu_fits {q : Nat} (ho : q % 2 = 1) (hl : 3 ≤ q) (hh : q < 2 ^ 23) : 2 ^ (2 * bitLen q) / q < 2 ^ 24 := by
  obtain ⟨-, below⟩ := bitLen_spec (q := q) (by omega)
  have short : bitLen q ≤ 23 := by
    by_contra h
    exact absurd (below 23 (by omega)) (by omega)
  rcases Nat.eq_zero_or_pos (bitLen q) with h0 | hpos
  · rw [h0]
    exact lt_of_le_of_lt (Nat.div_le_self ..) (by norm_num)
  obtain ⟨L, hL⟩ : ∃ L, bitLen q = L + 1 := ⟨bitLen q - 1, by omega⟩
  have half : 2 ^ L < q := by
    refine lt_of_le_of_ne (below L (by omega)) fun he => ?_
    cases L with
    | zero => omega
    | succ L => omega
  rw [hL]
  refine Nat.div_lt_of_lt_mul ?_
  calc 2 ^ (2 * (L + 1)) = 2 ^ L * 2 ^ (L + 2) := by ring
    _ < q * 2 ^ (L + 2) := by gcongr
    _ ≤ q * 2 ^ 24 := by gcongr <;> omega

theorem exec_furrowWatchdog_of_running {s : State} {u : FurrowRef} {r : Run} (hh : (s.furrow u).halted = false)
    (hd : (s.furrow u).held = none) (hr : (s.furrow u).run.bind s.run? = some r) : exec (.furrowWatchdog u) s =
      .next ((s.modFurrow u fun f => { f with atBarrier := false, waitLeaf := false }).furrowFault u r 0
        { t := 0, l := 0, m := 0, d := 0, a := 0, b := 0, q := 0, f := 0, c := 0 } 0x05 0 0 none) := by
  simp only [exec, execFurrowWatchdog, hh, hd, Option.isSome_none, Bool.or_self, Bool.false_eq_true, if_false, hr]

/-- Settles O47: each instruction's meaning where its conditions hold, and R316's derived fields from Newton's iteration. -/
theorem runControl : Obligations.RunControl := by
  unfold Obligations.RunControl
  refine ⟨?frec, ?qld, ?valid, ?invalid, ?tread, ?treadNone, ?barrier, ?haltOther, ?haltZero, ?retry, ?retryEnds, ?abort, ?watchdog⟩
  case frec => exact leaves_of (fun _ _ _ => rfl) fun _ _ _ _ _ => rfl
  case qld => exact leaves_of (fun _ _ _ => rfl) fun _ _ _ _ _ => rfl
  case valid =>
    intro q ho hl hh
    obtain ⟨inverse_fits, inverse⟩ := montNeg_spec ho
    rw [modulus_of_valid ho hl hh]
    refine ⟨Nat.mod_eq_of_lt (by omega), ?_, Nat.mod_eq_of_lt ?_, Nat.mod_eq_of_lt (mu_fits ho hl hh)⟩
    · rw [BitVec.toNat_ofNat, Nat.mod_eq_of_lt inverse_fits]
      exact inverse
    · exact (Nat.mod_lt _ (by omega)).trans (by omega)
  case invalid => exact fun q _ h => modulus_of_invalid h
  case tread => exact leaves_of (sem := semTread) (fun _ _ _ => rfl) fun _ _ _ _ h => semTread_shown h.1 h.2
  case treadNone => exact gives_of (sem := semTread) (fun _ _ _ => rfl) fun _ _ _ _ _ h => by rw [semTread_unpaired h]; rfl
  case barrier => exact gives_of (sem := fun _ => .barrier) (fun _ _ _ => rfl) fun _ _ _ _ _ _ => rfl
  case haltOther => exact gives_of (sem := fun _ => semHalt) (fun _ _ _ => rfl) fun _ _ _ _ _ h => by rw [semHalt_other_rank h]; rfl
  case haltZero =>
    exact gives_of (sem := fun _ => semHalt) (fun _ _ _ => rfl) fun _ _ _ _ _ ⟨_, hl, hk, hv⟩ => by rw [semHalt_checked hl hk hv]; rfl
  case retry => exact gives_of (sem := fun _ => semRetry) (fun _ _ _ => rfl) fun _ _ _ _ _ h => by rw [semRetry_inside h.1 h.2]; rfl
  case retryEnds => exact gives_of (sem := fun _ => semRetry) (fun _ _ _ => rfl) fun _ _ _ _ _ h => by rw [semRetry_ends h]; rfl
  case abort => exact gives_of (sem := fun _ _ => .quit .programFault) (fun _ _ _ => rfl) fun _ _ _ _ _ _ => rfl
  case watchdog => exact fun _ _ _ => exec_furrowWatchdog_of_running

end Sys2Proof.Machine
end

section
/-! The accesses of an instruction (R321, R359): what marking changes, the access of one word, and the obligation about LD and ST. -/

namespace Sys2Proof.Machine

/-! ### Marking the words that a read found bad -/

/-- An environment that differs from another at most in the words marked poisoned and those corrected. -/
def SameBut (e e' : Env) : Prop :=
  ∃ (f p q : List Nat), e' = { e with fixed := f, u := { e.u with poison := p }, r := { e.r with poison := q } }

theorem SameBut.poison {e e' : Env} (h : SameBut e e') (a : Nat) : SameBut e (e'.poison a) := by
  obtain ⟨f, p, q, rfl⟩ := h
  unfold Env.poison
  split
  · exact ⟨f, _, q, rfl⟩
  · exact ⟨f, p, _, rfl⟩

theorem SameBut.poison_all {e : Env} (as : List Acc) {e' : Env} (h : SameBut e e') :
    SameBut e (as.foldl (fun e a => e.poison a.addr) e') := by
  induction as generalizing e' with
  | nil => exact h
  | cons a as ih => exact ih (h.poison a.addr)

/-- Marking changes nothing else (R321). -/
theorem readMarks_sameBut (e : Env) (as : List Acc) : SameBut e (e.readMarks as) :=
  SameBut.poison_all _ ⟨_, e.u.poison, e.r.poison, rfl⟩

@[simp] theorem readMarks_wordAddr (e : Env) (as : List Acc) (i : SaivoFields) (k : Nat) : (e.readMarks as).wordAddr i k = e.wordAddr i k := by
  obtain ⟨_, _, _, h⟩ := readMarks_sameBut e as
  rw [h]
  rfl

/-- Stores of whole words read nothing and so mark nothing. -/
theorem readMarks_of_writes (e : Env) {as : List Acc} (h : ∀ a ∈ as, a.write = true ∧ a.part = false) : e.readMarks as = e := by
  have none : as.filter (fun a => !a.write || a.part) = [] := List.filter_eq_nil_iff.2 fun a ha => by simp [h a ha]
  simp only [Env.readMarks, none, List.map_nil, List.filter_nil, List.eraseDups_nil, List.append_nil, List.foldl_nil]

/-! ### Faults of an access -/

theorem accFault_cases (e : Env) (a : Acc) : e.accFault a = none ∨ e.accFault a = some 0x01 ∨ e.accFault a = some 0x03 ∨
    e.accFault a = some 0x02 := by
  unfold Env.accFault
  split
  · simp
  split
  · simp
  split <;> simp

/-- A store of a whole word meets WINDOW alone. -/
theorem accFault_of_write {e : Env} {a : Nat} (h : e.accFault { idx := 0, addr := a, write := true } ≠ none) :
    e.accFault { idx := 0, addr := a, write := true } = some 0x01 := by
  revert h
  simp [Env.accFault]

theorem accFault_of_read (e : Env) (a : Nat) : e.accFault { idx := 0, addr := a } = if e.window a false = false then some 0x01
    else if e.u.seals.contains a then some 0x03 else if e.poisoned a then some 0x02 else none := by
  simp [Env.accFault]

theorem firstFault_single_of_none {e : Env} {a : Acc} (h : e.accFault a = none) : e.firstFault [a] = none := by
  simp [Env.firstFault, h]

theorem firstFault_single_of_some {e : Env} {a : Acc} {c : Nat} (h : e.accFault a = some c) : e.firstFault [a] = some (a, c) := by
  have causes := accFault_cases e a
  rw [h] at causes
  rcases causes with hc | hc | hc | hc <;> simp_all [Env.firstFault, List.findSome?]

theorem access_single_of_none {e : Env} {a : Acc} {b f n} (h0 : e.start = 0) (h : e.accFault a = none) :
    e.access [a] b f n = .next (f n (e.readMarks [a])) :=
  access_ok h0 (Option.isNone_iff_eq_none.2 (firstFault_single_of_none h))

theorem access_single_of_some {e : Env} {a : Acc} {f n} {c : Nat} (h0 : e.start = 0) (h : e.accFault a = some c) :
    e.access [a] false f n = .fault c a.idx (a.addr % 2 ^ 24) (e.readMarks [a]) none := by
  have all : [a].filter (fun b => b.idx ≥ e.start) = [a] := by simp only [h0, ge_iff_le, Nat.zero_le, decide_true, List.filter_cons_of_pos, List.filter_nil]
  have before : [a].takeWhile (fun b => (e.accFault b).isNone) = [] := by simp only [List.takeWhile_cons, h, Option.isNone_some, Bool.false_eq_true, if_false]
  unfold Env.access
  simp only [all, before, firstFault_single_of_some h, List.nil_append, Bool.false_eq_true, if_false]

/-! ### Words read and written -/

theorem wordAddr_lt (e : Env) (i : SaivoFields) (k : Nat) : e.wordAddr i k < 2 ^ 24 := wrapTo_lt 24 _

section
variable {e : Env} {a : Nat} (x : Word24)

theorem write_dmem (h : a < 0x8000) : e.write a x = { e with u := { e.u with
    dmem := e.u.dmem.write a x, poison := e.u.poison.filter (· != a), seals := e.u.seals.filter (· != a) } } := if_pos h

theorem write_a1 (h : 0x500000 ≤ a) (h' : a < 0x600000) :
    e.write a x = { e with r := { e.r with a1 := e.r.a1.write (e.a1At a) x, poison := e.r.poison.filter (· != e.mark a) } } :=
  (if_neg (by omega)).trans (if_pos h')

theorem write_a2 (h : 0x600000 ≤ a) :
    e.write a x = { e with r := { e.r with a2 := e.r.a2.write (a - 0x600000) x, poison := e.r.poison.filter (· != a) } } :=
  (if_neg (by omega)).trans (if_neg (by omega))

theorem read_dmem (h : a < 0x8000) : e.read a = e.u.dmem.read a := if_pos h

theorem read_a0 (h : 0x8000 ≤ a) (h' : a < 0x500000) : e.read a = wordOf e.r.input (a - 0x400000) := (if_neg (by omega)).trans (if_pos h')

theorem read_a1 (h : 0x500000 ≤ a) (h' : a < 0x600000) : e.read a = e.r.a1.read (e.a1At a) :=
  (if_neg (by omega)).trans ((if_neg (by omega)).trans (if_pos h'))

theorem read_a2 (h : 0x600000 ≤ a) : e.read a = e.r.a2.read (a - 0x600000) :=
  (if_neg (by omega)).trans ((if_neg (by omega)).trans (if_neg (by omega)))

/-- A word of the furrow's memory, A1 or A2 reads as what was last written there. -/
theorem read_write_self (hd : e.u.dmem.wf = true) (h1 : e.r.a1.wf = true) (h2 : e.r.a2.wf = true)
    (ha : a < 0x8000 ∨ 0x500000 ≤ a) : (e.write a x).read a = x := by
  rcases ha with ha | ha
  · exact (read_dmem ha).trans (by rw [write_dmem x ha, WMem.read_write_self hd])
  rcases Nat.lt_or_ge a 0x600000 with h | h
  · rw [write_a1 x ha h, read_a1 ha h]
    exact WMem.read_write_self h1 _ x
  · rw [write_a2 x h, read_a2 h]
    exact WMem.read_write_self h2 _ x

/-- Two environments read alike at an address where their memories do. -/
theorem read_congr {e e' : Env} {b : Nat} (hi : e'.r.input = e.r.input) (hk : e'.u.rank = e.u.rank)
    (hd : b < 0x8000 → e'.u.dmem.read b = e.u.dmem.read b)
    (h1 : 0x500000 ≤ b → b < 0x600000 → e'.r.a1.read (e.a1At b) = e.r.a1.read (e.a1At b))
    (h2 : 0x600000 ≤ b → e'.r.a2.read (b - 0x600000) = e.r.a2.read (b - 0x600000)) : e'.read b = e.read b := by
  rcases Nat.lt_or_ge b 0x8000 with h | h
  · rw [read_dmem h, read_dmem h, hd h]
  rcases Nat.lt_or_ge b 0x500000 with h' | h'
  · rw [read_a0 h h', read_a0 h h', hi]
  rcases Nat.lt_or_ge b 0x600000 with h6 | h6
  · rw [read_a1 h' h6, read_a1 h' h6, show e'.a1At b = e.a1At b from congrArg (· * 0x100000 + (b - 0x500000)) hk, h1 h' h6]
  · rw [read_a2 h6, read_a2 h6, h2 h6]

/-- A write leaves every other word: A1's addresses and A2's are taken apart by their windows. -/
theorem read_write_other {b : Nat} (h : b ≠ a) (ha : a < 0x8000 ∨ 0x500000 ≤ a) : (e.write a x).read b = e.read b := by
  rcases ha with ha | ha
  · rw [write_dmem x ha]
    exact read_congr rfl rfl (fun _ => WMem.read_write_other h x) (fun _ _ => rfl) fun _ => rfl
  rcases Nat.lt_or_ge a 0x600000 with ha' | ha'
  · rw [write_a1 x ha ha']
    exact read_congr rfl rfl (fun _ => rfl) (fun _ _ => WMem.read_write_other (by unfold Env.a1At; omega) x) fun _ => rfl
  · rw [write_a2 x ha']
    exact read_congr rfl rfl (fun _ => rfl) (fun _ _ => rfl) fun _ => WMem.read_write_other (by omega) x

end

theorem semLd_of_none {i : SaivoFields} {e : Env} (h0 : e.start = 0) (h : e.accFault { idx := 0, addr := e.wordAddr i i.a } = none) :
    semLd i e = .next ((e.readMarks [{ idx := 0, addr := e.wordAddr i i.a }]).setS i.d
      ((e.readMarks [{ idx := 0, addr := e.wordAddr i i.a }]).read (e.wordAddr i i.a))) := by
  unfold semLd
  exact access_single_of_none h0 h

theorem semLd_of_some {i : SaivoFields} {e : Env} {c : Nat} (h0 : e.start = 0)
    (h : e.accFault { idx := 0, addr := e.wordAddr i i.a } = some c) :
    semLd i e = .fault c 0 (e.wordAddr i i.a) (e.readMarks [{ idx := 0, addr := e.wordAddr i i.a }]) none := by
  unfold semLd
  dsimp only
  rw [access_single_of_some h0 h, Nat.mod_eq_of_lt (wordAddr_lt e i i.a)]

theorem semSt_of_none {i : SaivoFields} {e : Env} (h0 : e.start = 0)
    (h : e.accFault { idx := 0, addr := e.wordAddr i i.a, write := true } = none) :
    semSt i e = .next (e.write (e.wordAddr i i.a) (e.sreg i.b)) := by
  unfold semSt
  dsimp only
  rw [access_single_of_none h0 h, readMarks_of_writes e (by simp)]

theorem semSt_of_fault {i : SaivoFields} {e : Env} (h0 : e.start = 0)
    (h : e.accFault { idx := 0, addr := e.wordAddr i i.a, write := true } ≠ none) :
    semSt i e = .fault 0x01 0 (e.wordAddr i i.a) e none := by
  unfold semSt
  dsimp only
  rw [access_single_of_some h0 (accFault_of_write h), Nat.mod_eq_of_lt (wordAddr_lt e i i.a), readMarks_of_writes e (by simp)]

/-- Settles O49: the access of one word, and what memory reads after a write. -/
theorem loadStore : Obligations.LoadStore := by
  unfold Obligations.LoadStore
  refine ⟨?ld, ?st, ?ldFault, ?stFault, accFault_of_read, fun _ _ x hd h1 h2 => read_write_self x hd h1 h2,
    fun _ _ _ x _ _ _ h ha _ => read_write_other x h.symm ha⟩
  case ld =>
    refine leaves_of (sem := semLd) (fun _ _ _ => rfl) fun i e h0 _ h => ?_
    simp only [semLd_of_none h0 h, readMarks_wordAddr]
  case st => exact leaves_of (sem := semSt) (fun _ _ _ => rfl) fun _ _ h0 _ h => semSt_of_none h0 h
  case ldFault =>
    refine gives_of (sem := semLd) (fun _ _ _ => rfl) fun s u i e h0 h => ?_
    obtain ⟨c, hc⟩ := Option.ne_none_iff_exists'.1 h
    rw [semLd_of_some h0 hc, hc]
    rfl
  case stFault => exact gives_of (sem := semSt) (fun _ _ _ => rfl) fun _ _ _ _ h0 h => by rw [semSt_of_fault h0 h]; rfl

end Sys2Proof.Machine
end

section
/-! Vector instructions (R350 to R355): their meanings where R324 and R354 let them run, RND's modes, and the obligations about moves and
arithmetic, fixed point, modular arithmetic, and vector faults. -/

namespace Sys2Proof.Machine

variable {i : SaivoFields} {e : Env}

/-! ### Moves and arithmetic -/

theorem semVmov_copy (hf : i.f = 0) (hc : e.clear i.l [i.d, i.a] = true) :
    semVmov i e = .next (e.putLanes i i.l i.d fun k => (e.vec i.l i.a).getD k 0) := by
  simp only [semVmov, hf]
  exact unsealed_clear hc

theorem semVmov_short (hf : i.f = 1) (hc : e.clear 1 [i.a] = true) :
    semVmov i e = .next (e.putLanes i 0 i.d fun k => (e.vec 1 i.a).getD (8 * i.c + k) 0) := by
  simp only [semVmov, hf]
  exact unsealed_clear hc

theorem semVmov_long (hf : i.f = 2) (hc : e.clear 1 [i.d] = true) : semVmov i e = .next (e.putLanes i 1 i.d fun k =>
    if 8 * i.c ≤ k && k < 8 * i.c + 8 then (e.vec 0 i.a).getD (k - 8 * i.c) 0 else (e.vec 1 i.d).getD k 0) := by
  simp only [semVmov, hf]
  exact unsealed_clear hc

theorem semValu_elems (hf : i.f ≠ 15) (hc : e.clear i.l [i.d, i.a, i.b] = true) : semValu i e = .next (e.putElems i i.d fun k =>
    valuFn (elWidth i.t) i.f ((e.elems i i.a).getD k 0) ((e.elems i i.b).getD k 0)) := by
  simp only [semValu, beq_iff_eq, hf, if_false]
  exact unsealed_clear hc

theorem semValu_xch (hf : i.f = 15) (hc : e.clear i.l [i.d, i.a] = true) :
    semValu i e = .next (e.putLanes i i.l i.d fun k => (e.vec i.l i.a).getD (k ^^^ 2 ^ i.c) 0) := by
  simp only [semValu, hf, beq_self_eq_true, if_true]
  exact unsealed_clear hc

theorem semValui_elems (hf : i.f ≠ 15) (hc : e.clear i.l [i.d, i.a] = true) : semValui i e = .next (e.putElems i i.d fun k =>
    valuFn (elWidth i.t) i.f ((e.elems i i.a).getD k 0) (valuiB i k)) := by
  simp only [semValui, beq_iff_eq, hf, if_false]
  exact unsealed_clear hc

theorem semValui_xch (hf : i.f = 15) (hc : e.clear i.l [i.d, i.a] = true) :
    semValui i e = .next (e.putLanes i i.l i.d fun k => (e.vec i.l i.a).getD (k ^^^ 2 ^ i.c) 0) := by
  simp only [semValui, hf, beq_self_eq_true, if_true]
  exact unsealed_clear hc

/-- Settles O50: with no SEALED register named each meaning writes its destination. -/
theorem vectorMovesAndArithmetic : Obligations.VectorMovesAndArithmetic := by
  unfold Obligations.VectorMovesAndArithmetic
  refine ⟨?copy, ?short, ?long, ?bcast, ?ext, ?ins, ?valu, ?xch, ?valui, ?xchi⟩
  case copy => exact leaves_of (sem := semVmov) (fun _ _ _ => rfl) fun _ _ _ _ h => semVmov_copy h.1 h.2
  case short => exact leaves_of (sem := semVmov) (fun _ _ _ => rfl) fun _ _ _ _ h => semVmov_short h.1 h.2
  case long => exact leaves_of (sem := semVmov) (fun _ _ _ => rfl) fun _ _ _ _ h => semVmov_long h.1 h.2
  case bcast => exact leaves_of (sem := semVbcast) (fun _ _ _ => rfl) fun _ _ _ _ h => unsealed_clear h
  case ext => exact leaves_of (sem := semVext) (fun _ _ _ => rfl) fun _ _ _ _ h => unsealed_clear h
  case ins => exact leaves_of (sem := semVins) (fun _ _ _ => rfl) fun _ _ _ _ h => unsealed_clear h
  case valu => exact leaves_of (sem := semValu) (fun _ _ _ => rfl) fun _ _ _ _ h => semValu_elems h.1 h.2
  case xch => exact leaves_of (sem := semValu) (fun _ _ _ => rfl) fun _ _ _ _ h => semValu_xch h.1 h.2
  case valui => exact leaves_of (sem := semValui) (fun _ _ _ => rfl) fun _ _ _ _ h => semValui_elems h.1 h.2
  case xchi => exact leaves_of (sem := semValui) (fun _ _ _ => rfl) fun _ _ _ _ h => semValui_xch h.1 h.2

/-! ### Fixed point -/

theorem semFixed_clear {g : Int → Int → Nat → Int} (hc : e.clear i.l [i.d, i.a, i.b] = true) : semFixed i g e = .next (e.putElems i i.d fun k =>
    satTo (i.f % 2 == 1) (elWidth i.t) (g (fixRead i ((e.elems i i.a).getD k 0)) (fixRead i ((e.elems i i.b).getD k 0))
      ((e.elems i i.b).getD k 0))) := unsealed_clear hc

theorem semQrshr_register (hf : i.f / 8 % 2 = 1) (hc : e.clear i.l [i.d, i.a, i.b] = true) : semQrshr i e = .next (e.putElems i i.d fun k =>
    satTo (i.f % 2 == 1) (elWidth i.t) (rnd (fixRead i ((e.elems i i.a).getD k 0)) ((e.elems i i.b).getD k 0 % 32) (i.f / 2 % 4))) := by
  simp only [semQrshr, hf, beq_self_eq_true, if_true]
  exact semFixed_clear hc

theorem semQrshr_immediate (hf : i.f / 8 % 2 = 0) (hc : e.clear i.l [i.d, i.a] = true) : semQrshr i e = .next (e.putElems i i.d fun k =>
    satTo (i.f % 2 == 1) (elWidth i.t) (rnd (fixRead i ((e.elems i i.a).getD k 0)) (i.c % 32) (i.f / 2 % 4))) := by
  have imm : (i.f / 8 % 2 == 1) = false := by simp [hf]
  simp only [semQrshr, imm, Bool.false_eq_true, if_false]
  exact unsealed_clear hc

theorem rnd_zero (x : Int) (rm : Nat) : rnd x 0 rm = x := rfl

/-- RND's floor. -/
theorem rnd_floor (x : Int) {s : Nat} (hs : 0 < s) : rnd x s 0 = x / 2 ^ s := by
  simp only [rnd, beq_iff_eq, hs.ne', if_false]

theorem ediv_eq_of_remainder {x d q r : Int} (hx : x = d * q + r) (h0 : 0 ≤ r) (h1 : r < d) : x / d = q :=
  ((Int.ediv_emod_unique (by omega)).2 ⟨by omega, h0, h1⟩).1

/-- RND to the nearest, a half upward: the floor after half a unit is added. -/
theorem rnd_half_up (x : Int) {s : Nat} (hs : 0 < s) : rnd x s 1 = (x + 2 ^ (s - 1)) / 2 ^ s := by
  obtain ⟨t, rfl⟩ : ∃ t, s = t + 1 := ⟨s - 1, by omega⟩
  simp only [rnd, beq_iff_eq, hs.ne', if_false, Nat.add_sub_cancel, pow_succ]
  have pos : (0 : Int) < 2 ^ t := by positivity
  generalize (2 : Int) ^ t = h at pos ⊢
  have split_x := Int.mul_ediv_add_emod x (h * 2)
  have low := Int.emod_nonneg x (show h * 2 ≠ 0 by omega)
  have high := Int.emod_lt_of_pos x (show 0 < h * 2 by omega)
  have rest : x - x / (h * 2) * (h * 2) = x % (h * 2) := by linear_combination -split_x
  rw [rest]
  split
  · exact (ediv_eq_of_remainder (r := x % (h * 2) - h) (by linear_combination -split_x) (by omega) (by omega)).symm
  · exact (ediv_eq_of_remainder (r := x % (h * 2) + h) (by linear_combination -split_x) (by omega) (by omega)).symm

/-- RND toward zero. -/
theorem rnd_toward_zero (x : Int) {s : Nat} (hs : 0 < s) : rnd x s 3 = x.tdiv (2 ^ s) := by
  have rest : x - x / 2 ^ s * 2 ^ s = x % 2 ^ s := by linear_combination -Int.mul_ediv_add_emod x (2 ^ s)
  have up : (x < 0 ∧ x % 2 ^ s ≠ 0) ↔ ¬(0 ≤ x ∨ (2 : Int) ^ s ∣ x) := by
    rw [Int.dvd_iff_emod_eq_zero]
    omega
  simp only [rnd, beq_iff_eq, hs.ne', if_false, rest, Bool.and_eq_true, decide_eq_true_eq, bne_iff_ne, up, Int.tdiv_eq_ediv,
    Int.sign_eq_one_of_pos (show (0 : Int) < 2 ^ s by positivity)]
  split <;> simp_all

/-- RND to the nearest, a half to the even. -/
theorem rnd_half_even (x : Int) : rnd (2 * x) 1 2 = x ∧ rnd (2 * x + 1) 1 2 % 2 = 0 := by
  have half : (2 * x + 1) / 2 = x := by omega
  constructor
  · simp [rnd, mul_comm]
  · simp only [rnd, beq_iff_eq, one_ne_zero, if_false, pow_one, half, Nat.sub_self, pow_zero]
    split <;> simp_all <;> omega

/-- Settles O51: the meanings with no SEALED register named, and RND mode by mode. -/
theorem fixedPoint : Obligations.FixedPoint := by
  unfold Obligations.FixedPoint
  refine ⟨?qadd, ?qsub, ?qmulh, ?register, ?immediate, rnd_zero, fun x s hs => ⟨rnd_floor x hs, rnd_half_up x hs, rnd_toward_zero x hs⟩,
    rnd_half_even⟩
  case qadd => exact leaves_of (sem := fun i => semFixed i fun a b _ => a + b) (fun _ _ _ => rfl) fun _ _ _ _ h => semFixed_clear h
  case qsub => exact leaves_of (sem := fun i => semFixed i fun a b _ => a - b) (fun _ _ _ => rfl) fun _ _ _ _ h => semFixed_clear h
  case qmulh =>
    exact leaves_of (sem := fun i => semFixed i fun a b _ => rnd (a * b) (i.c % 64) (i.f / 2 % 4)) (fun _ _ _ => rfl) fun _ _ _ _ h =>
      semFixed_clear h
  case register => exact leaves_of (sem := semQrshr) (fun _ _ _ => rfl) fun _ _ _ _ h => semQrshr_register h.1 h.2
  case immediate => exact leaves_of (sem := semQrshr) (fun _ _ _ => rfl) fun _ _ _ _ h => semQrshr_immediate h.1 h.2

/-! ### Modular arithmetic -/

theorem semMod_ok {rs : List Nat} {g : Nat → Nat → Nat → Nat} (hq : e.modOk i = true) (hc : e.clear i.l rs = true) :
    semMod i rs g e = .next (e.putElems i i.d fun k => g (e.modulus i) ((e.elems i i.a).getD k 0) ((e.elems i i.b).getD k 0)) :=
  (withQ_ok hq).trans (unsealed_clear hc)

/-- The two outputs of a rounding, of the elements A had before. -/
theorem semRound_ok {g : Nat → Nat → Nat × Int} (hq : e.modOk i = true) (hc : e.clear i.l [i.d, i.a, i.b] = true) :
    semRound i g e = .next ((e.putElems i i.d fun k => (g (e.modulus i) ((e.elems i i.a).getD k 0 % e.modulus i)).1).putElems i i.b fun k =>
      wrapTo (elWidth i.t) (g (e.modulus i) ((e.elems i i.a).getD k 0 % e.modulus i)).2) :=
  (withQ_ok hq).trans (unsealed_clear hc)

theorem semDecompose_ok (hq : e.modOk i = true) (hd : (e.modulus i - 1) % decomposeDiv i.c = 0)
    (he : (e.modulus i - 1) / decomposeDiv i.c % 2 = 0) (hc : e.clear i.l [i.d, i.a, i.b] = true) : semDecompose i e =
    .next ((e.putElems i i.d fun k =>
        (decomposeFn ((e.modulus i - 1) / decomposeDiv i.c) (e.modulus i) ((e.elems i i.a).getD k 0 % e.modulus i)).1).putElems i i.b fun k =>
      wrapTo (elWidth i.t) (decomposeFn ((e.modulus i - 1) / decomposeDiv i.c) (e.modulus i) ((e.elems i i.a).getD k 0 % e.modulus i)).2) := by
  simp only [semDecompose, hd, he, bne_self_eq_false, Bool.or_self, Bool.and_false, Bool.false_eq_true, if_false]
  exact semRound_ok hq hc

/-- R⁻¹ is the inverse of R = 2^24: QINV makes 1 + QINV·Q a multiple of R. -/
theorem montInv_spec {q : Nat} (ho : q % 2 = 1) (hl : 3 ≤ q) : montInv q * 2 ^ 24 % q = 1 := by
  obtain ⟨c, hc⟩ := Nat.dvd_of_mod_eq_zero (montNeg_spec ho).2
  have quotient : (1 + montNeg q * q) / 2 ^ 24 = c := by omega
  unfold montInv
  rw [quotient, Nat.mod_mul_mod, mul_comm c, ← hc, Nat.mul_add_mod_self_right]
  exact Nat.mod_eq_of_lt (by omega)

/-- Settles O52: the meanings with a modulus that serves and no SEALED register named, and R's inverse from QINV. -/
theorem modularArithmetic : Obligations.ModularArithmetic := by
  unfold Obligations.ModularArithmetic
  refine ⟨?add, ?sub, ?plain, ?mont, fun q ho hl _ => montInv_spec ho hl, ?barrett, ?compress, ?decompress, ?p2round, ?decompose⟩
  case add => exact leaves_of (sem := fun i => semMod i [i.d, i.a, i.b] fun q a b => (a + b) % q) (fun _ _ _ => rfl) fun _ _ _ _ h => semMod_ok h.1 h.2
  case sub =>
    exact leaves_of (sem := fun i => semMod i [i.d, i.a, i.b] fun q a b => (((a : Int) - b) % q).toNat) (fun _ _ _ => rfl) fun _ _ _ _ h =>
      semMod_ok h.1 h.2
  case plain =>
    refine leaves_of (sem := fun i => semMod i [i.d, i.a, i.b] fun q a b => if i.f == 1 then a * b % q else a * b % q * montInv q % q)
      (fun _ _ _ => rfl) fun i e _ _ ⟨hq, hf, hc⟩ => ?_
    rw [semMod_ok hq hc]
    simp only [hf, beq_self_eq_true, if_true]
  case mont =>
    refine leaves_of (sem := fun i => semMod i [i.d, i.a, i.b] fun q a b => if i.f == 1 then a * b % q else a * b % q * montInv q % q)
      (fun _ _ _ => rfl) fun i e _ _ ⟨hq, hf, hc⟩ => ?_
    rw [semMod_ok hq hc]
    simp only [hf, beq_iff_eq, zero_ne_one, if_false]
  case barrett =>
    exact leaves_of (sem := fun i => semMod i [i.d, i.a] fun q a _ => barrettFn (elWidth i.t) i.f q a) (fun _ _ _ => rfl) fun _ _ _ _ h =>
      semMod_ok h.1 h.2
  case compress =>
    exact leaves_of (sem := fun i => semMod i [i.d, i.a] fun q a _ => (2 ^ (i.c + 1) * (a % q) + q) / (2 * q) % 2 ^ i.c) (fun _ _ _ => rfl)
      fun _ _ _ _ h => semMod_ok h.1 h.2
  case decompress =>
    exact leaves_of (sem := fun i => semMod i [i.d, i.a] fun q a _ => (2 * q * (a % 2 ^ i.c) + 2 ^ i.c) / 2 ^ (i.c + 1)) (fun _ _ _ => rfl)
      fun _ _ _ _ h => semMod_ok h.1 h.2
  case p2round =>
    exact leaves_of (sem := fun i => semRound i fun _ r => p2roundFn i.c r) (fun _ _ _ => rfl) fun _ _ _ _ h => semRound_ok h.1 h.2
  case decompose =>
    exact leaves_of (sem := semDecompose) (fun _ _ _ => rfl) fun _ _ _ _ ⟨hq, hd, he, hc⟩ => semDecompose_ok hq hd he hc

/-! ### Vector faults -/

theorem semValu_sealed (hf : i.f ≠ 15) (hc : e.clear i.l [i.d, i.a, i.b] = false) : semValu i e = .fault 0x03 0 0 e none := by
  simp only [semValu, beq_iff_eq, hf, if_false]
  exact sealed_not hc

theorem semMod_sealed {rs : List Nat} {g : Nat → Nat → Nat → Nat} (hq : e.modOk i = true) (hc : e.clear i.l rs = false) :
    semMod i rs g e = .fault 0x03 0 0 e none := (withQ_ok hq).trans (sealed_not hc)

theorem semShmask_modulus (hb : isBool i = false) (hq : e.modOk i = false) : semShmask i e = .fault 0x04 0 0 e none := by
  simp only [semShmask, Env.kind, hb, Bool.false_eq_true, if_false]
  exact withQ_no hq

theorem semRecomb_sealed (hb : isBool i = true) (hs : e.sealedSet i.a = true) (hr : e.r.image.release = false) :
    semRecomb i e = .fault 0x03 0 0 e none := by
  simp only [semRecomb, Env.kind, hb, hs, hr, Bool.not_false, Bool.and_self, if_true]

theorem furrow_modFurrow_same (s : State) {u : FurrowRef} (g : Furrow → Furrow) (hf : u.field < s.fields.length)
    (hu : u.furrow < (s.field u.field).furrows.length) : (s.modFurrow u g).furrow u = g (s.furrow u) := by
  unfold State.furrow State.modFurrow
  rw [s.modField_read, if_pos ⟨rfl, hf⟩]
  simp [List.getD_eq_getElem?_getD, hu]

theorem modFurrow_modFurrow (s : State) (u : FurrowRef) (f g : Furrow → Furrow) :
    (s.modFurrow u f).modFurrow u g = s.modFurrow u fun x => g (f x) := by
  unfold State.modFurrow State.modField
  simp only [List.modify_modify_eq, Function.comp_def]

/-- A fault the handler may take (R337, R338): it is recorded and control passes to HANDLER. -/
theorem furrowFault_enters {s : State} {u : FurrowRef} {r : Run} {op : Nat} {cause idx addr h : Nat} (hs : cause ≠ 0x03) (hi : cause ≠ 0x07)
    (hx : idx < 256) (ht : r.test = false) (hn : (s.furrow u).inHandler = false) (hh : r.image.handler = some h) :
    s.furrowFault u r op i cause idx addr none = s.modFurrow u fun f => { f with
      pc := h
      inHandler := true
      frec := { mode := false, retry := min 15 r.restarts, addr := addr, pc := (s.furrow u).pc, cause := cause, idx := idx } } := by
  unfold State.furrowFault
  simp only [ht, hx, hn, hh, beq_eq_false_iff_ne.2 hs, beq_eq_false_iff_ne.2 hi, Bool.false_and, if_true, Option.isNone_some, Bool.or_self,
    Bool.false_eq_true, if_false, Option.getD_some, modFurrow_modFurrow]

/-- Settles O53: the faulting meanings, and the handler's entry. -/
theorem vectorFaults : Obligations.VectorFaults := by
  unfold Obligations.VectorFaults
  refine ⟨?valu, ?vext, ?vcmp, ?qadd, ?modadd, ?modmul, ?compress, ?vld, ?shmask, ?recomb, ?handler⟩
  case valu => exact faults_of (sem := semValu) (fun _ _ _ => rfl) fun _ _ h => semValu_sealed h.1 h.2
  case vext => exact faults_of (sem := semVext) (fun _ _ _ => rfl) fun _ _ h => sealed_not h
  case vcmp => exact faults_of (sem := semVcmp) (fun _ _ _ => rfl) fun _ _ h => sealed_not h
  case qadd => exact faults_of (sem := fun i => semFixed i fun a b _ => a + b) (fun _ _ _ => rfl) fun _ _ h => sealed_not h
  case modadd => exact faults_of (sem := fun i => semMod i [i.d, i.a, i.b] fun q a b => (a + b) % q) (fun _ _ _ => rfl) fun _ _ h => withQ_no h
  case modmul =>
    exact faults_of (sem := fun i => semMod i [i.d, i.a, i.b] fun q a b => if i.f == 1 then a * b % q else a * b % q * montInv q % q)
      (fun _ _ _ => rfl) fun _ _ h => semMod_sealed h.1 h.2
  case compress =>
    exact faults_of (sem := fun i => semMod i [i.d, i.a] fun q a _ => (2 ^ (i.c + 1) * (a % q) + q) / (2 * q) % 2 ^ i.c) (fun _ _ _ => rfl)
      fun _ _ h => withQ_no h
  case vld => exact faults_of (sem := semVld) (fun _ _ _ => rfl) fun _ _ h => sealed_not h
  case shmask => exact faults_of (sem := semShmask) (fun _ _ _ => rfl) fun _ _ h => semShmask_modulus h.1 h.2
  case recomb => exact faults_of (sem := semRecomb) (fun _ _ _ => rfl) fun _ _ ⟨hb, hs, hr⟩ => semRecomb_sealed hb hs hr
  case handler =>
    intro s u r op i cause idx addr h hs hi hx ht hn hh hf hu
    rw [furrowFault_enters hs hi hx ht hn hh, furrow_modFurrow_same s _ hf hu]

end Sys2Proof.Machine
end

section
/-! Vector memory (R356, R357, R360, R361): what a store may change, the meanings where no access faults, the shuffled order as a permutation,
and the obligation about the instructions. -/

namespace Sys2Proof.Machine

variable {i : SaivoFields} {e : Env}

/-! ### What marking leaves -/

section
variable (e : Env) (as : List Acc) (i : SaivoFields)

@[simp] theorem readMarks_start : (e.readMarks as).start = e.start := by
  obtain ⟨_, _, _, h⟩ := readMarks_sameBut e as
  rw [h]

@[simp] theorem readMarks_order (k : Nat) : (e.readMarks as).order i k = e.order i k := by
  obtain ⟨_, _, _, h⟩ := readMarks_sameBut e as
  rw [h]
  rfl

@[simp] theorem readMarks_actives : (e.readMarks as).actives i = e.actives i := by
  obtain ⟨_, _, _, h⟩ := readMarks_sameBut e as
  rw [h]
  rfl

@[simp] theorem readMarks_elems (k : Nat) : (e.readMarks as).elems i k = e.elems i k := by
  obtain ⟨_, _, _, h⟩ := readMarks_sameBut e as
  rw [h]
  rfl

@[simp] theorem readMarks_fieldAddr (n k f : Nat) : (e.readMarks as).fieldAddr i n k f = e.fieldAddr i n k f := by
  obtain ⟨_, _, _, h⟩ := readMarks_sameBut e as
  rw [h]
  rfl

@[simp] theorem readMarks_indexAddr (k : Nat) : (e.readMarks as).indexAddr i k = e.indexAddr i k := by
  simp only [Env.indexAddr, readMarks_wordAddr, readMarks_elems]

end

/-! ### What a store may change -/

/-- An environment that differs from another in memory alone: its words, poison, seals and corrections. -/
def SameRegs (e e' : Env) : Prop :=
  ∃ (r : Run) (f p q : List Nat) (d : WMem), e' = { e with r := r, fixed := f, u := { e.u with dmem := d, poison := p, seals := q } }

theorem SameRegs.write {e' : Env} (h : SameRegs e e') (a : Nat) (x : Word24) : SameRegs e (e'.write a x) := by
  obtain ⟨r, f, p, q, d, rfl⟩ := h
  unfold Env.write
  split
  · exact ⟨r, f, _, _, _, rfl⟩
  split
  · exact ⟨_, f, p, q, d, rfl⟩
  · exact ⟨_, f, p, q, d, rfl⟩

theorem SameRegs.writeElem {e' : Env} (h : SameRegs e e') (t ea x : Nat) : SameRegs e (e'.writeElem t ea x) := by
  unfold Env.writeElem
  split
  · exact h.write _ _
  obtain ⟨r, f, p, q, d, rfl⟩ := h
  dsimp only
  split
  · exact ⟨r, f, p, q, _, rfl⟩
  split
  · exact ⟨_, f, p, q, d, rfl⟩
  · exact ⟨_, f, p, q, d, rfl⟩

/-- An environment that differs from another in its own local memory alone, and there at the words that P picks (R320). -/
def StoresAt (P : Nat → Prop) (e e' : Env) : Prop :=
  ∃ (f p q rp : List Nat) (d : WMem), e' = { e with fixed := f, r := { e.r with poison := rp }, u := { e.u with dmem := d, poison := p, seals := q } } ∧
    ∀ a, ¬P a → d.read a = e.u.dmem.read a

section
variable {P : Nat → Prop} {e' : Env}

theorem SameBut.storesAt (h : SameBut e e') : StoresAt P e e' := by
  obtain ⟨f, p, q, rfl⟩ := h
  exact ⟨f, p, e.u.seals, q, e.u.dmem, rfl, fun _ _ => rfl⟩

theorem StoresAt.write (h : StoresAt P e e') {a : Nat} (x : Word24) (hp : P a) (ha : a < 0x8000) : StoresAt P e (e'.write a x) := by
  obtain ⟨f, p, q, rp, d, rfl, hd⟩ := h
  rw [write_dmem x ha]
  exact ⟨f, _, _, rp, _, rfl, fun b hb => (WMem.read_write_other (by rintro rfl; exact hb hp) x).trans (hd b hb)⟩

theorem StoresAt.sealWord (h : StoresAt P e e') (a : Nat) : StoresAt P e (e'.sealWord a) := by
  obtain ⟨f, p, q, rp, d, rfl, hd⟩ := h
  exact ⟨f, p, _, rp, d, rfl, hd⟩

theorem StoresAt.writeElem (h : StoresAt P e e') {t ea : Nat} (x : Nat) (hp : P (ea / elPer t)) (ha : ea / elPer t < 0x8000) :
    StoresAt P e (e'.writeElem t ea x) := by
  unfold Env.writeElem
  split
  · exact h.write _ hp ha
  obtain ⟨f, p, q, rp, d, rfl, hd⟩ := h
  simp only [ha, if_true]
  exact ⟨f, p, q, rp, _, rfl, fun b hb => (WMem.read_write_other (by rintro rfl; exact hb hp) _).trans (hd b hb)⟩

/-- Every other word is as before. -/
theorem StoresAt.read (h : StoresAt P e e') {a : Nat} (ha : ¬P a) : e'.read a = e.read a := by
  obtain ⟨f, p, q, rp, d, rfl, hd⟩ := h
  exact read_congr rfl rfl (fun _ => hd a ha) (fun _ _ => rfl) fun _ => rfl

end

/-! ### Accesses that reach -/

/-- None of an instruction's accesses faults. -/
theorem accFault_of_reaches {as : List Acc} (h : e.reaches as = true) {a : Acc} (ha : a ∈ as) : e.accFault a = none := by
  by_contra hf
  obtain ⟨c, hc⟩ := Option.ne_none_iff_exists'.1 hf
  unfold Env.reaches Env.firstFault at h
  cases hb : as.find? fun a => (e.accFault a).isSome with
  | none => exact absurd (List.find?_eq_none.1 hb a ha) (by simp [hc])
  | some b =>
    obtain ⟨c', hc'⟩ := Option.isSome_iff_exists.1 (List.find?_some (p := fun a => (e.accFault a).isSome) hb)
    have mem := List.mem_of_find?_eq_some hb
    simp only [hb, Option.bind_some, Option.isNone_iff_eq_none, List.findSome?_eq_none_iff, Option.map_eq_none_iff, List.find?_eq_none,
      Bool.and_eq_true, beq_iff_eq, not_and, List.forall_mem_cons] at h
    obtain ⟨window, sealing, poison, -⟩ := h
    rcases accFault_cases e b with hn | h1 | h3 | h2
    · exact absurd hc' (by simp [hn])
    · exact window b mem rfl h1
    · exact sealing b mem rfl h3
    · exact poison b mem rfl h2

/-- An access that only local memory is open to lies there. -/
theorem local_of_accFault {a : Acc} (h : e.accFault a = none) (hl : a.locl = true) : a.addr < 0x8000 := by
  by_contra hge
  have above : a.addr ≥ 0x8000 := by omega
  simp [Env.accFault, hl, above] at h

/-! ### The meanings -/

/-- The accesses of VLD. -/
def loadAccs (i : SaivoFields) (e : Env) : List Acc := (e.lanes i).map fun l => { idx := elPer i.t * l, addr := e.wordAddr i i.a + e.order i l }

theorem semVld_ok (h0 : e.start = 0) (hc : e.clear i.l [i.d] = true)
    (hr : e.reaches (loadAccs i e) = true) : semVld i e = .next
    ((e.readMarks (loadAccs i e)).putLanes i i.l i.d fun l => (e.readMarks (loadAccs i e)).read (e.wordAddr i i.a + e.order i l)) := by
  refine (unsealed_clear hc).trans ((access_ok h0 hr).trans ?_)
  simp only [readMarks_order]

theorem semVst_ok (h0 : e.start = 0) (hc : e.clear i.l [i.b] = true)
    (hr : e.reaches ((e.lanes i).map fun l => { idx := elPer i.t * l, addr := e.wordAddr i i.a + e.order i l, write := true }) = true) :
    semVst i e = .next ((e.lanes i).foldl (fun x l => x.write (e.wordAddr i i.a + e.order i l) ((e.vec i.l i.b).getD l 0)) e) := by
  refine (unsealed_clear hc).trans ((access_ok h0 hr).trans ?_)
  rw [readMarks_of_writes e (by simp)]

theorem semLdk_ok (n : Nat) (h0 : e.start = 0) (hc : e.clear i.l ((List.range n).map (i.d + ·)) = true)
    (hr : e.reaches (e.structAccs i n false) = true) : semLdk n i e = .next ((List.range n).foldl (fun x f =>
      x.putElems i (i.d + f) fun j => if j < elCount i.t i.l then
          (e.readMarks (e.structAccs i n false)).readElem i.t (e.fieldAddr i n j f)
        else (x.elems i (i.d + f)).getD j 0) (e.readMarks (e.structAccs i n false))) := by
  refine (unsealed_clear hc).trans ((access_ok h0 hr).trans ?_)
  simp only [readMarks_start, h0, Nat.zero_le, decide_true, Bool.true_and, decide_eq_true_eq, readMarks_fieldAddr, elAt]

/-- The active elements are all below the element count. -/
theorem actives_below (e : Env) (i : SaivoFields) : (e.actives i).filter (fun k => 0 ≤ k && k < elCount i.t i.l) = e.actives i := by
  refine List.filter_eq_self.2 fun k hk => ?_
  simpa using List.mem_range.1 (List.mem_of_mem_filter hk)

/-- What STn leaves: the active positions' fields stored in order. -/
def storedFields (n : Nat) (i : SaivoFields) (e : Env) : Env :=
  (e.actives i).foldl (fun x k => (List.range n).foldl (fun x f =>
    x.writeElem i.t (e.fieldAddr i n k f) ((e.elems i (i.b + f)).getD k 0)) x) e

theorem semStk_ok (n : Nat) (h0 : e.start = 0) (hc : e.clear i.l ((List.range n).map (i.b + ·)) = true)
    (hr : e.reaches (e.structAccs i n true) = true) : semStk n i e = .next (storedFields n i (e.readMarks (e.structAccs i n true))) := by
  refine (unsealed_clear hc).trans ((access_ok h0 hr).trans ?_)
  simp only [readMarks_start, h0, actives_below]
  rfl

theorem storedFields_sameRegs (n : Nat) (i : SaivoFields) (e : Env) : SameRegs e (storedFields n i e) :=
  List.foldlRecOn (motive := SameRegs e) _ _ ⟨_, e.fixed, e.u.poison, e.u.seals, e.u.dmem, rfl⟩ fun _ h _ _ =>
    List.foldlRecOn (motive := SameRegs e) _ _ h fun _ h _ _ => h.writeElem _ _ _

theorem semGather_ok (h0 : e.start = 0) (hc : e.clear i.l [i.d, i.b] = true) (hr : e.reaches (e.indexAccs i false) = true) :
    semGather i e = .next ((e.readMarks (e.indexAccs i false)).putElems i i.d fun k =>
      if k < elCount i.t i.l then (e.readMarks (e.indexAccs i false)).readElem i.t (e.indexAddr i k)
      else ((e.readMarks (e.indexAccs i false)).elems i i.d).getD k 0) := by
  refine (unsealed_clear hc).trans ((access_ok h0 hr).trans ?_)
  simp only [readMarks_start, h0, Nat.zero_le, decide_true, Bool.true_and, decide_eq_true_eq, readMarks_indexAddr, elAt]

/-- What SCATTER leaves: the active elements stored in order. -/
def scattered (i : SaivoFields) (e : Env) : Env :=
  (e.actives i).foldl (fun x k => x.writeElem i.t (e.indexAddr i k) ((e.elems i i.d).getD k 0)) e

theorem semScatter_ok (h0 : e.start = 0) (hc : e.clear i.l [i.d, i.b] = true) (hr : e.reaches (e.indexAccs i true) = true) :
    semScatter i e = .next (scattered i (e.readMarks (e.indexAccs i true))) := by
  refine (unsealed_clear hc).trans ((access_ok h0 hr).trans ?_)
  simp only [readMarks_start, h0, actives_below]
  rfl

/-- SCATTER stores at the words it addresses, all in local memory, and nowhere else. -/
theorem scattered_storesAt (hr : e.reaches (e.indexAccs i true) = true) :
    StoresAt (fun a => ∃ k ∈ e.actives i, a = e.indexAddr i k / elPer i.t) e (scattered i (e.readMarks (e.indexAccs i true))) := by
  unfold scattered
  simp only [readMarks_actives, readMarks_indexAddr, readMarks_elems]
  refine List.foldlRecOn (motive := StoresAt _ e) _ _ (readMarks_sameBut e _).storesAt fun _ h k hk => ?_
  have mem : _ ∈ e.indexAccs i true := List.mem_map.2 ⟨k, hk, rfl⟩
  exact h.writeElem _ ⟨k, hk, rfl⟩ (local_of_accFault (accFault_of_reaches hr mem) rfl)

/-! ### The shuffled order -/

/-- Where a butterfly stage takes the lane of a position from. -/
def crossed (h : Nat) (bitAt : Nat → Bool) (p : Nat) : Nat := if bitAt (p / (2 * h) * h + p % h) then p ^^^ h else p

theorem butterfly_eq_map (h : Nat) (bitAt : Nat → Bool) (π : List Nat) :
    butterfly h bitAt π = ((List.range π.length).map (crossed h bitAt)).map fun p => π.getD p 0 := by
  refine List.ext_getElem (by simp [butterfly]) fun p hp _ => ?_
  have hp' : p < π.length := by simpa [butterfly] using hp
  simp only [butterfly, List.getElem_map, List.getElem_zipIdx, List.getElem_range, Nat.zero_add, crossed]
  split
  · rfl
  · simp [List.getD_eq_getElem?_getD, hp']

/-- Two lanes that a stage joins lie below 64, h apart, at one switch. -/
theorem stage_pairs : ∀ j < 6, ∀ p < 64, p ^^^ 2 ^ j < 64 ∧ (p ^^^ 2 ^ j) / (2 * 2 ^ j) * 2 ^ j + (p ^^^ 2 ^ j) % 2 ^ j = p / (2 * 2 ^ j) * 2 ^ j + p % 2 ^ j := by
  decide

theorem crossed_lt {j : Nat} (hj : j < 6) (bitAt : Nat → Bool) {p : Nat} (hp : p < 64) : crossed (2 ^ j) bitAt p < 64 := by
  unfold crossed
  split
  · exact (stage_pairs j hj p hp).1
  · exact hp

/-- A stage is its own inverse. -/
theorem crossed_crossed {j : Nat} (hj : j < 6) (bitAt : Nat → Bool) {p : Nat} (hp : p < 64) :
    crossed (2 ^ j) bitAt (crossed (2 ^ j) bitAt p) = p := by
  unfold crossed
  by_cases hb : bitAt (p / (2 * 2 ^ j) * 2 ^ j + p % 2 ^ j) = true
  · simp only [hb, if_true, (stage_pairs j hj p hp).2, Nat.xor_xor_cancel_right]
  · simp only [hb, if_false, Bool.false_eq_true]

theorem perm_map_of_involutive {n : Nat} {σ : Nat → Nat} (hl : ∀ p < n, σ p < n) (hi : ∀ p < n, σ (σ p) = p) :
    ((List.range n).map σ).Perm (List.range n) := by
  refine (List.perm_ext_iff_of_nodup ?_ List.nodup_range).2 fun p => ?_
  · refine List.Nodup.map_on (fun a ha b hb h => ?_) List.nodup_range
    rw [← hi a (List.mem_range.1 ha), h, hi b (List.mem_range.1 hb)]
  · simp only [List.mem_map, List.mem_range]
    exact ⟨fun ⟨a, ha, h⟩ => h ▸ hl a ha, fun hp => ⟨σ p, hl p hp, hi p hp⟩⟩

theorem map_getD_range (π : List Nat) : (List.range π.length).map (fun p => π.getD p 0) = π :=
  List.ext_getElem (by simp) fun p hp hp' => by simp [List.getD_eq_getElem?_getD, hp']

/-- A stage permutes 64 lanes. -/
theorem butterfly_perm {j : Nat} (hj : j < 6) (bitAt : Nat → Bool) {π : List Nat} (hπ : π.length = 64) : (butterfly (2 ^ j) bitAt π).Perm π := by
  rw [butterfly_eq_map, hπ]
  have whole : (List.range 64).map (fun p => π.getD p 0) = π := hπ ▸ map_getD_range π
  have permuted := (perm_map_of_involutive (fun _ => crossed_lt hj bitAt) fun _ => crossed_crossed hj bitAt).map fun p => π.getD p 0
  exact whole ▸ permuted

/-- So do the six stages of a long register (R360). -/
theorem shuffle_perm (draw : Nat → Bool) : (shuffle 6 32 draw).Perm (List.range 64) :=
  List.foldlRecOn (motive := fun π : List Nat => π.Perm (List.range 64)) _ _ (List.Perm.refl _) fun _ hπ _ hj =>
    (butterfly_perm (List.mem_range.1 hj) _ (by simpa using hπ.length_eq)).trans hπ

theorem exec_ld2Ld4 {k : Nat} (h2 : 2 ≤ k) (h4 : k ≤ 4) (u : FurrowRef) (i : SaivoFields) (s : State) :
    exec (.ld2Ld4 u k i) s = .next (s.issue u (0x40 + k) i (semLdk k i)) := by
  simp only [exec, execLd2Ld4, h2, h4, decide_true, Bool.and_self, if_true]

theorem exec_st2St4 {k : Nat} (h2 : 2 ≤ k) (h4 : k ≤ 4) (u : FurrowRef) (i : SaivoFields) (s : State) :
    exec (.st2St4 u k i) s = .next (s.issue u (0x43 + k) i (semStk k i)) := by
  simp only [exec, execSt2St4, h2, h4, decide_true, Bool.and_self, if_true]

theorem st2St4_leaves {k : Nat} (h2 : 2 ≤ k) (h4 : k ≤ 4) : Leaves (0x43 + k) (fun u i => .st2St4 u k i)
    (fun i e => e.clear i.l ((List.range k).map (i.b + ·)) = true ∧ e.reaches (e.structAccs i k true) = true)
    fun i e => storedFields k i (e.readMarks (e.structAccs i k true)) :=
  leaves_of (sem := semStk k) (exec_st2St4 h2 h4) fun _ _ h0 _ h => semStk_ok k h0 h.1 h.2

theorem scatter_leaves : Leaves 0x49 .scatter (fun i e => e.clear i.l [i.d, i.b] = true ∧ e.reaches (e.indexAccs i true) = true)
    fun i e => scattered i (e.readMarks (e.indexAccs i true)) :=
  leaves_of (sem := semScatter) (fun _ _ _ => rfl) fun _ _ h0 _ h => semScatter_ok h0 h.1 h.2

theorem semShuf_identity (hf : i.f % 2 = 1) : semShuf i e = .next (if i.l == 1 then { e with u := { e.u with o64 := List.range 64 } }
    else { e with u := { e.u with o8 := List.range 8 } }) := by
  simp only [semShuf, hf, beq_self_eq_true, if_true]
  split <;> rfl

theorem semShuf_drawn (hf : i.f % 2 = 0) (hl : i.l = 1) : semShuf i e = .next { e with u := { e.u with o64 := shuffle 6 32 e.leafBit } } := by
  have drawn : (i.f % 2 == 1) = false := by simp [hf]
  simp only [semShuf, hl, drawn, beq_self_eq_true, if_true, Bool.false_eq_true, if_false]

/-- Settles O54: the meanings where nothing faults, and what the stores leave unchanged. -/
theorem vectorMemory : Obligations.VectorMemory := by
  unfold Obligations.VectorMemory
  refine ⟨?vld, ?vst, ?ldn, ?stnRegs, ?stn, ?gather, ?scatterFrame, ?scatter, ?identity, ?drawn⟩
  case vld => exact leaves_of (sem := semVld) (fun _ _ _ => rfl) fun _ _ h0 _ h => semVld_ok h0 h.1 h.2
  case vst => exact leaves_of (sem := semVst) (fun _ _ _ => rfl) fun _ _ h0 _ h => semVst_ok h0 h.1 h.2
  case ldn =>
    exact fun k h2 h4 => leaves_of (sem := semLdk k) (exec_ld2Ld4 h2 h4) fun _ _ h0 _ h => semLdk_ok k h0 h.1 h.2
  case stnRegs =>
    intro k h2 h4 s x u i e hi hc hr
    obtain ⟨_, _, _, _, _, regs⟩ := storedFields_sameRegs k i (e.readMarks (e.structAccs i k true))
    obtain ⟨_, _, _, marks⟩ := readMarks_sameBut e (e.structAccs i k true)
    refine ⟨storedFields k i (e.readMarks (e.structAccs i k true)), st2St4_leaves h2 h4 s x u i e hi ⟨hc, hr⟩, ?_⟩
    rw [regs, marks]
    exact ⟨rfl, rfl, rfl, rfl, rfl⟩
  case stn => exact fun k h2 h4 => st2St4_leaves h2 h4
  case gather => exact leaves_of (sem := semGather) (fun _ _ _ => rfl) fun _ _ h0 _ h => semGather_ok h0 h.1 h.2
  case scatterFrame =>
    intro s x u i e hi hc hr
    have stores := scattered_storesAt hr
    refine ⟨scattered i (e.readMarks (e.indexAccs i true)), scatter_leaves s x u i e hi ⟨hc, hr⟩, ?_⟩
    have others : ∀ a, (∀ k ∈ e.actives i, a ≠ e.indexAddr i k / elPer i.t) → (scattered i (e.readMarks (e.indexAccs i true))).read a = e.read a :=
      fun a ha => stores.read fun ⟨k, hk, he⟩ => ha k hk he
    obtain ⟨_, _, _, _, _, same, -⟩ := stores
    exact ⟨by rw [same], by rw [same], by rw [same], by rw [same], by rw [same], others⟩
  case scatter => exact scatter_leaves
  case identity => exact leaves_of (sem := semShuf) (fun _ _ _ => rfl) fun _ _ _ _ h => semShuf_identity h
  case drawn =>
    intro s x u i e hi hf hl
    have leaves := leaves_of (row := .shuf) (sem := semShuf) (ok := fun i _ => i.f % 2 = 0 ∧ i.l = 1) (fun _ _ _ => rfl) fun _ _ _ _ h =>
      semShuf_drawn h.1 h.2
    exact ⟨_, leaves s x u i e hi ⟨hf, hl⟩, shuffle_perm _⟩

end Sys2Proof.Machine
end

section
/-! Masked shares (R323, R358, R362 to R365): the meanings where the modulus serves and nothing SEALED is named, and the obligation about them. -/

namespace Sys2Proof.Machine

variable {i : SaivoFields} {e : Env}

/-! ### From sets to a set -/

theorem semShmask_ok (hq : isBool i = true ∨ e.modOk i = true) (hc : e.clear 1 [i.a] = true) :
    semShmask i e = .next (e.putShares i i.d fun k => e.freshShares (isBool i) (elWidth i.t) (if isBool i then 1 else e.modulus i) (4 * k)
      (if isBool i then (toElems i.t (e.vec 1 i.a)).getD k 0
        else (toElems i.t (e.vec 1 i.a)).getD k 0 % (if isBool i then 1 else e.modulus i))) :=
  (kind_ok hq).trans (unsealed_clear hc)

theorem semShare_two {g : Env → Nat → Nat → List Nat → List Nat → List Nat} {bool : Bool} (hq : bool = true ∨ e.modOk i = true) :
    semShare i bool true g e = .next ((e.putShares i i.d fun k => g e (if bool then 1 else e.modulus i) k (e.sharesAt i i.a k)
      (e.sharesAt i i.b k)).sealSet i.d (e.sealedSet i.a || e.sealedSet i.b)) := kind_ok hq

theorem semShare_one {g : Env → Nat → Nat → List Nat → List Nat → List Nat} {bool : Bool} (hq : bool = true ∨ e.modOk i = true) :
    semShare i bool false g e = .next ((e.putShares i i.d fun k => g e (if bool then 1 else e.modulus i) k (e.sharesAt i i.a k)
      (e.sharesAt i i.b k)).sealSet i.d (e.sealedSet i.a)) := by
  have h : semShare i bool false g e = _ := kind_ok hq
  rw [h, Bool.false_and, Bool.or_false]

theorem semShpub_ok (hq : isBool i = true ∨ e.modOk i = true) (hf : i.f % 8 ≠ 7) (hc : i.f % 8 ≤ 4 → e.clear 1 [i.b] = true) :
    semShpub i e = .next ((e.putShares i i.d fun k => shpubFn i (if isBool i then 1 else e.modulus i) (e.sharesAt i i.a k)
      ((toElems i.t (e.vec 1 i.b)).getD k 0)).sealSet i.d (e.sealedSet i.a)) := by
  have clear : e.clear 1 (if i.f % 8 ≤ 4 then [i.b] else []) = true := by
    split
    · rename_i h
      exact hc h
    · rfl
  refine (kind_ok hq).trans ?_
  simp only [beq_iff_eq, hf, if_false]
  exact unsealed_clear clear

/-! ### Tally -/

theorem semScmp_ok (hq : isBool i = true ∨ e.modOk i = true) (hf : i.f / 8 % 2 = 0) : semScmp i e =
    .next { e with u := { e.u with tally := BitVec.ofNat 24 ((e.sealedSet i.a || e.sealedSet i.b).toNat * 2 ^ 16 +
      if (e.actives i).all fun k => shareVal (isBool i) (if isBool i then 1 else e.modulus i) (e.sharesAt i i.a k) ==
        shareVal (isBool i) (if isBool i then 1 else e.modulus i) (e.sharesAt i i.b k) then 0x5AA5 else 0x3CC3) } } := by
  have secret : (i.f / 8 % 2 == 1) = false := by simp [hf]
  refine (kind_ok hq).trans ?_
  simp only [secret, Bool.false_eq_true, if_false, Bool.not_false, Bool.true_and]
  exact unsealed_clear rfl

theorem semSsel_paired (hp : e.paired = true) (hq : isBool i = true ∨ e.modOk i = true) : semSsel i e =
    .next ((e.putShares i i.d fun k => e.refresh (isBool i) (elWidth i.t) (if isBool i then 1 else e.modulus i) k
      (if e.u.tally.toNat % 65536 == 0x5AA5 then e.sharesAt i i.a k else e.sharesAt i i.b k)).sealSet i.d
      (e.sealedSet i.a || e.sealedSet i.b)) := by
  simp only [semSsel, Bool.and_eq_true, bne_iff_ne, paired_iff.1 hp, if_false]
  exact semShare_two hq

theorem semSsel_unpaired (hp : e.paired = false) : semSsel i e = .quit .faultDetected := by
  have pair : e.u.tally.toNat % 65536 ≠ passPair ∧ e.u.tally.toNat % 65536 ≠ failPair := by
    by_contra h
    exact absurd (paired_iff.2 h) (by simp [hp])
  simp only [semSsel, Bool.and_eq_true, bne_iff_ne, if_pos pair]

theorem semRecomb_ok (hq : isBool i = true ∨ e.modOk i = true) (hs : e.sealedSet i.a = false ∨ e.r.image.release = true)
    (hc : e.clear 1 [i.d] = true) : semRecomb i e =
    .next (e.putElems i i.d fun k => shareVal (isBool i) (if isBool i then 1 else e.modulus i) (e.sharesAt i i.a k)) := by
  have released : (e.sealedSet i.a && !e.r.image.release) = false := by rcases hs with h | h <;> simp [h]
  refine (kind_ok hq).trans ?_
  simp only [released, Bool.false_eq_true, if_false]
  exact unsealed_clear hc

/-! ### Sets in memory -/

/-- What SHST leaves: the set's words stored lane by lane, sealed where the set is. -/
def storedSet (i : SaivoFields) (e : Env) : Env :=
  (e.lanes i).foldl (fun x l => (List.range (e.d + 1)).foldl (fun y j =>
    if e.sealedSet i.a then (y.write (e.wordAddr i i.b + 64 * j + e.order i l) ((e.vec 1 (4 * i.a + j)).getD l 0)).sealWord
        (e.wordAddr i i.b + 64 * j + e.order i l)
      else y.write (e.wordAddr i i.b + 64 * j + e.order i l) ((e.vec 1 (4 * i.a + j)).getD l 0)) x) e

theorem semShst_ok (h0 : e.start = 0) (hr : e.reaches (e.shareAccs i (e.wordAddr i i.b) true) = true) : semShst i e = .next (storedSet i e) := by
  unfold semShst
  refine (access_ok h0 hr).trans ?_
  rw [readMarks_of_writes e fun a ha => ?_]
  · rfl
  · simp only [Env.shareAccs, List.mem_flatMap, List.mem_map] at ha
    obtain ⟨_, _, _, _, rfl⟩ := ha
    exact ⟨rfl, rfl⟩

/-- The words of a set in memory. -/
def SetWord (i : SaivoFields) (e : Env) (a : Nat) : Prop := ∃ l ∈ e.lanes i, ∃ j ≤ e.d, a = e.wordAddr i i.b + 64 * j + e.order i l

theorem storedSet_storesAt (hr : e.reaches (e.shareAccs i (e.wordAddr i i.b) true) = true) : StoresAt (SetWord i e) e (storedSet i e) := by
  refine List.foldlRecOn (motive := StoresAt _ e) _ _ ⟨_, _, _, _, _, rfl, fun _ _ => rfl⟩ fun _ h l hl => ?_
  refine List.foldlRecOn (motive := StoresAt _ e) _ _ h fun _ h j hj => ?_
  have hj' : j ≤ e.d := by simpa [Nat.lt_succ_iff] using hj
  have mem : _ ∈ e.shareAccs i (e.wordAddr i i.b) true := List.mem_flatMap.2 ⟨l, hl, List.mem_map.2 ⟨j, hj, rfl⟩⟩
  have near := local_of_accFault (accFault_of_reaches hr mem) rfl
  have stored := h.write ((e.vec 1 (4 * i.a + j)).getD l 0) ⟨l, hl, j, hj', rfl⟩ near
  split
  · exact stored.sealWord _
  · exact stored

/-- What SHLD leaves: the set's registers read, SEALED where a word is. -/
def loadedSet (i : SaivoFields) (e : Env) (as : List Acc) : Env :=
  ((List.range (e.d + 1)).foldl (fun x j => x.putLanes i 1 (4 * i.d + j) fun l => e.read (e.wordAddr i i.a + 64 * j + e.order i l)) e).sealSet
    i.d (as.any fun a => e.u.seals.contains a.addr)

theorem semShld_ok (h0 : e.start = 0) (hr : e.reaches (e.shareAccs i (e.wordAddr i i.a) false) = true) :
    semShld i e = .next (loadedSet i (e.readMarks (e.shareAccs i (e.wordAddr i i.a) false)) (e.shareAccs i (e.wordAddr i i.a) false)) := by
  unfold semShld
  refine (access_ok h0 hr).trans ?_
  simp only [loadedSet, readMarks_wordAddr]

/-- Writing long registers changes those alone. -/
theorem putLanes_long_fold (js : List Nat) (x : Env) (d : Nat → Nat) (g : Nat → Nat → Word24) :
    ∃ w, js.foldl (fun x j => x.putLanes i 1 (d j) (g j)) x = { x with u := { x.u with w := w } } := by
  induction js generalizing x with
  | nil => exact ⟨_, rfl⟩
  | cons j js ih =>
    obtain ⟨w, h⟩ := ih (x.putLanes i 1 (d j) (g j))
    exact ⟨w, h⟩

/-- SHLD leaves the other register files and memory, and its set SEALED where it was or a word is. -/
theorem loadedSet_leaves (i : SaivoFields) (e : Env) (as : List Acc) :
    (loadedSet i e as).u.s = e.u.s ∧ (loadedSet i e as).u.v = e.u.v ∧ (loadedSet i e as).u.dmem = e.u.dmem ∧
      (i.d < e.u.sealedSets.length → (loadedSet i e as).u.sealedSets.getD i.d false = (e.sealedSet i.d || as.any fun a => e.u.seals.contains a.addr)) := by
  obtain ⟨w, h⟩ := putLanes_long_fold (i := i) (List.range (e.d + 1)) e (4 * i.d + ·) fun j l => e.read (e.wordAddr i i.a + 64 * j + e.order i l)
  unfold loadedSet
  rw [h]
  unfold Env.sealSet Env.sealedSet
  cases as.any fun a => e.u.seals.contains a.addr
  · simp
  · refine ⟨rfl, rfl, rfl, fun hd => ?_⟩
    simp [List.getD_eq_getElem?_getD, hd]

theorem shst_leaves : Leaves 0x5B .shst (fun i e => e.reaches (e.shareAccs i (e.wordAddr i i.b) true) = true) storedSet :=
  leaves_of (sem := semShst) (fun _ _ _ => rfl) fun _ _ h0 _ h => semShst_ok h0 h

theorem shld_leaves : Leaves 0x5C .shld (fun i e => e.reaches (e.shareAccs i (e.wordAddr i i.a) false) = true) fun i e =>
    loadedSet i (e.readMarks (e.shareAccs i (e.wordAddr i i.a) false)) (e.shareAccs i (e.wordAddr i i.a) false) :=
  leaves_of (sem := semShld) (fun _ _ _ => rfl) fun _ _ h0 _ h => semShld_ok h0 h

/-- Settles O55: the meanings of the rules, and what storing and loading a set leave unchanged. -/
theorem shareInstructions : Obligations.ShareInstructions := by
  unfold Obligations.ShareInstructions
  refine ⟨?shmask, ?shadd, ?shsub, ?shpub, ?shmul, ?srefresh, ?sa2b, ?sb2a, ?scmp, ?ssel, ?sselNone, ?recomb, ?shstFrame, shst_leaves, ?shld, ?shldFrame⟩
  case shmask => exact leaves_of (sem := semShmask) (fun _ _ _ => rfl) fun _ _ _ _ h => semShmask_ok h.1 h.2
  case shadd =>
    exact leaves_of (sem := fun i => semShare i (isBool i) true fun _ q _ xs ys => xs.zipWith (gAdd (isBool i) q) ys) (fun _ _ _ => rfl)
      fun _ _ _ _ h => semShare_two h
  case shsub =>
    exact leaves_of (sem := fun i => semShare i false true fun _ q _ xs ys => xs.zipWith (gSub false q) ys) (fun _ _ _ => rfl)
      fun _ _ _ _ h => semShare_two (.inr h)
  case shpub => exact leaves_of (sem := semShpub) (fun _ _ _ => rfl) fun _ _ _ _ ⟨hq, hf, hc⟩ => semShpub_ok hq hf hc
  case shmul =>
    exact leaves_of (sem := fun i => semShare i (isBool i) true fun e q k xs ys => e.isw (isBool i) (elWidth i.t) q k xs ys) (fun _ _ _ => rfl)
      fun _ _ _ _ h => semShare_two h
  case srefresh =>
    exact leaves_of (sem := fun i => semShare i (isBool i) false fun e q k xs _ => e.refresh (isBool i) (elWidth i.t) q k xs) (fun _ _ _ => rfl)
      fun _ _ _ _ h => semShare_one h
  case sa2b =>
    exact leaves_of (sem := fun i => semShare i false false fun e q k xs _ => e.freshShares true (elWidth i.t) q (4 * k) (shareVal false q xs))
      (fun _ _ _ => rfl) fun _ _ _ _ h => semShare_one (.inr h)
  case sb2a =>
    exact leaves_of (sem := fun i => semShare i false false fun e q k xs _ => e.freshShares false (elWidth i.t) q (4 * k) (shareVal true q xs % q))
      (fun _ _ _ => rfl) fun _ _ _ _ h => semShare_one (.inr h)
  case scmp => exact leaves_of (sem := semScmp) (fun _ _ _ => rfl) fun _ _ _ _ h => semScmp_ok h.1 h.2
  case ssel => exact leaves_of (sem := semSsel) (fun _ _ _ => rfl) fun _ _ _ _ h => semSsel_paired h.1 h.2
  case sselNone => exact gives_of (sem := semSsel) (fun _ _ _ => rfl) fun _ _ _ _ _ h => by rw [semSsel_unpaired h]; rfl
  case recomb => exact leaves_of (sem := semRecomb) (fun _ _ _ => rfl) fun _ _ _ _ ⟨hq, hs, hc⟩ => semRecomb_ok hq hs hc
  case shstFrame =>
    intro s x u i e hi hr
    have stores := storedSet_storesAt hr
    have others : ∀ a, (∀ l ∈ e.lanes i, ∀ j ≤ e.d, a ≠ e.wordAddr i i.b + 64 * j + e.order i l) → (storedSet i e).read a = e.read a :=
      fun a ha => stores.read fun ⟨l, hl, j, hj, he⟩ => ha l hl j hj he
    refine ⟨storedSet i e, shst_leaves s x u i e hi hr, ?_⟩
    obtain ⟨_, _, _, _, _, same, -⟩ := stores
    exact ⟨by rw [same], by rw [same], by rw [same], others⟩
  case shld =>
    intro s x u i e hi hr
    have leaves := shld_leaves s x u i e hi hr
    simp only [loadedSet, readMarks_wordAddr] at leaves
    exact leaves
  case shldFrame =>
    intro s x u i e hi hr
    obtain ⟨hs, hv, hd, sealing⟩ := loadedSet_leaves i (e.readMarks (e.shareAccs i (e.wordAddr i i.a) false)) (e.shareAccs i (e.wordAddr i i.a) false)
    obtain ⟨_, _, _, marks⟩ := readMarks_sameBut e (e.shareAccs i (e.wordAddr i i.a) false)
    refine ⟨_, shld_leaves s x u i e hi hr, hs.trans (by rw [marks]), hv.trans (by rw [marks]), hd.trans (by rw [marks]), fun h8 hl => ?_⟩
    have sets : (e.readMarks (e.shareAccs i (e.wordAddr i i.a) false)).u.sealedSets = e.u.sealedSets := by rw [marks]
    refine (sealing (by rw [sets]; omega)).trans ?_
    rw [marks]
    rfl

end Sys2Proof.Machine
end

section
/-! Microwords (R366 to R371): each row is the word it names, and the obligation about what they leave. -/

namespace Sys2Proof.Machine

/-- A row that is a microword does its part and comes to the boundary (R368). -/
theorem exec_of_micro {row : ThreadRef → Micro → Instr} {n : Nat} {g : Micro → State → Cmd → Thread → State} {s x : State} {t : ThreadRef}
    {w : Micro} {c : Cmd} {h : Thread} (hx : exec (row t w) s = .next (s.word t n w (g w))) (hm : s.micro? t n w = some (x, c, h)) :
    exec (row t w) s = .next ((g w x c h).boundary t c) := by
  rw [hx, micro_of hm]

section
variable {s : State} {t : ThreadRef} {c e : Cmd}

theorem boundary_in_atom (h : (s.thread t).atom = true) : s.boundary t c = s := by
  simp only [State.boundary, h, Bool.not_true, Bool.false_and, Bool.false_eq_true, if_false]

theorem boundary_of_untouched (hc : s.cmd? c.inst c.tag = some e) (hr : e.reset = false) : s.boundary t c = s := by
  simp only [State.boundary, hc, Option.any_some, hr, Bool.false_and, Bool.and_false, Bool.false_eq_true, if_false]

theorem boundary_gives_up (ha : (s.thread t).atom = false) (hc : s.cmd? c.inst c.tag = some e) (hr : e.reset = true) (hd : e.isDone = false) :
    s.boundary t c = s.setDone c.inst c.tag { status := .instanceReset } := by
  simp only [State.boundary, ha, hc, Option.any_some, hr, hd, Bool.not_false, Bool.and_self, if_true]

end

/-- Settles O56, row by row. -/
theorem microwordRows : Obligations.MicrowordRows := by
  unfold Obligations.MicrowordRows
  refine ⟨?next, ?jump, ?branch, ?yield, ?wait, ?dispatch, ?trap, fun _ _ _ => boundary_in_atom, fun _ _ _ _ => boundary_of_untouched,
    fun _ _ _ _ => boundary_gives_up, ?idle⟩
  case next => exact fun _ _ _ _ _ _ => exec_of_micro (row := .nextWord) (g := fun _ s _ h => s.goto _ h.following) rfl
  case jump => exact fun _ _ _ _ _ _ => exec_of_micro (row := .jumpWord) (g := fun w s _ _ => s.goto _ w.addr) rfl
  case branch =>
    exact fun _ _ _ _ _ _ => exec_of_micro (row := .branchWord) (g := fun w s _ h => s.goto _ (if h.cond w.cond then w.addr else h.following)) rfl
  case yield =>
    exact fun _ _ _ _ _ _ => exec_of_micro (row := .yieldWord)
      (g := fun _ s _ h => (s.goto _ h.following).modThread _ fun h => { h with resting := true }) rfl
  case wait => exact fun _ _ _ _ _ _ => exec_of_micro (row := .waitWord) (g := fun _ s _ h => s.goto _ h.following) rfl
  case dispatch =>
    intro s x t w c h e hm he
    have row : exec (.dispatchWord t w) s = .next (s.word t 8 w _) := rfl
    rw [row, micro_of hm]
    simp only [he]
  case trap => exact fun _ _ _ _ _ _ => exec_of_micro (row := .trapWord) (g := fun _ s c _ => s.complete c.inst c.tag { status := .internalError }) rfl
  case idle =>
    intro h w p hx
    unfold Thread.alu
    simp only [hx]

end Sys2Proof.Machine
end

section
/-! Call gates (R250, R284, R376, R377, R381): each gate where its checks pass, and the obligation about them. -/

namespace Sys2Proof.Machine

variable {s : State} {t : ThreadRef} {c : Cmd} {h : Thread}

/-! ### What a gate waits for -/

theorem gateRandom_there {needs up : Bool} {go : State} (hr : s.random c needs up = .there) : s.gateRandom c needs up go = go := by
  simp only [State.gateRandom, hr]

theorem gateWhisk_turn {k : Nat} {go : State} (hu : s.whiskUp t.field = true) (ht : (s.field t.field).whiskTurn c.inst c.tag k = true) :
    s.gateWhisk t c k go = (go.modField t.field fun x => x.offWhisk c.inst c.tag).modCmd c.inst c.tag fun e =>
      { e with stage := match e.stage with | .waitWhisk => .running | .waitLeaf => .running | x => x } := by
  simp only [State.gateWhisk, hu, ht, Bool.not_true, Bool.false_eq_true, if_false] <;> rfl

theorem handle_of_key? {i k : Nat} {key : Key} (hk : s.key? i k = some key) : key.handle = k := by
  unfold State.key? at hk
  have found := (Option.filter_eq_some_iff.1 hk).2
  simp only [Bool.and_eq_true, beq_iff_eq] at found
  exact found.1.1.1.1

/-! ### KEY -/

/-- KEY's load where every blob is clean: the slots, the command's entry and the slot reference. -/
theorem gateLoad_clean {key : Key} {cold : List Key} {hs : List (Nat × List Resident)} (hh : (customerDesc c.op).homes s c = some hs)
    (hb : ((cold ++ [key].filter fun x => tPublic x.type).all fun x => x.pages.all fun p => s.clean (hHome x.handle) p) = true) :
    s.gateLoad t .none c [key] cold = ((hs.foldl (fun s p => s.modField p.1 fun x => x.reseat p.2) s).modCmd c.inst c.tag fun e =>
      { e with keys := c.keys, stage := .running, keyLoaded := e.keyLoaded || !cold.isEmpty }).modThread t
        fun g => ({ g with slots := g.slots ++ [key.handle] }.result g.slots.length).gateReturn .ok := by
  have noHit : (Hit.none == Hit.blob) = false := rfl
  simp only [State.gateLoad, hh, State.loadKeys_clean c _ hb, noHit, Bool.false_and, Bool.false_eq_true, if_false, List.map_cons,
    List.map_nil]

/-- The command as KEY's checks read it, with the key among its own. -/
def withKey (c : Cmd) (k : Nat) (key : Key) : Cmd := { c with keys := c.keys.filter (fun x => x.handle != k) ++ [key] }

/-- The command's secret keys that are not resident. -/
def coldKeys (s : State) (c : Cmd) : List Key := c.keys.filter fun x => !tPublic x.type && c.coldKey s x

/-- KEY where its checks pass and its draw need not wait comes to its load. -/
theorem gateKey_loads {key : Key} {k : Nat} (ha : num c.params (h.arg 1) 6 = k) (hk : (s.readDesc c k).key? c.inst k = some key)
    (hf : firstFail ((s.readDesc c k).keyChecks (withKey c k key) [k] ++ (s.readDesc c k).commonChecks (withKey c k key) [key] ++
      [((key.attr &&& (h.arg 2 % 2 ^ 12)) != h.arg 2 % 2 ^ 12, .usageDenied)]) = none)
    (hr : (s.readDesc c k).random (withKey c k key) (!(coldKeys (s.readDesc c k) (withKey c k key)).isEmpty)
      ((s.readDesc c k).streamsUp (withKey c k key) false (!(coldKeys (s.readDesc c k) (withKey c k key)).isEmpty)) = .there) :
    s.gateKey t .none c h = if (coldKeys (s.readDesc c k) (withKey c k key)).isEmpty then
        (s.readDesc c k).gateLoad t .none (withKey c k key) [key] (coldKeys (s.readDesc c k) (withKey c k key))
      else (s.readDesc c k).gateWhisk t (withKey c k key) 1
        ((s.readDesc c k).gateLoad t .none (withKey c k key) [key] (coldKeys (s.readDesc c k) (withKey c k key))) := by
  unfold State.gateKey Thread.handleAt
  simp only [ha, spoilDesc_none, hk, Option.toList_some, List.any_cons, List.any_nil, Bool.or_false]
  exact (gateChecks_ok hf).trans (gateRandom_there hr)

/-- What KEY leaves of the command and the thread (R377). -/
def keySeated (s : State) (t : ThreadRef) (c : Cmd) (key : Key) (cold : List Key) (hs : List (Nat × List Resident)) : State :=
  ((hs.foldl (fun s p => s.modField p.1 fun x => x.reseat p.2) s).modCmd c.inst c.tag fun e =>
    { e with keys := c.keys, stage := .running, keyLoaded := e.keyLoaded || !cold.isEmpty }).modThread t
      fun g => ({ g with slots := g.slots ++ [key.handle] }.result g.slots.length).gateReturn .ok

/-- KEY where its checks pass, its draw need not wait, Whisk serves it and its blobs are clean. -/
theorem gateKey_seats {key : Key} {k : Nat} {y : State} {hs : List (Nat × List Resident)} (ha : num c.params (h.arg 1) 6 = k)
    (hy : s.readDesc c k = y) (hk : y.key? c.inst k = some key)
    (hf : firstFail (y.keyChecks (withKey c k key) [k] ++ y.commonChecks (withKey c k key) [key] ++
      [((key.attr &&& (h.arg 2 % 2 ^ 12)) != h.arg 2 % 2 ^ 12, .usageDenied)]) = none)
    (hr : y.random (withKey c k key) (!(coldKeys y (withKey c k key)).isEmpty)
      (y.streamsUp (withKey c k key) false (!(coldKeys y (withKey c k key)).isEmpty)) = .there)
    (hw : coldKeys y (withKey c k key) = [] ∨ y.whiskUp t.field = true ∧ (y.field t.field).whiskTurn c.inst c.tag 1 = true)
    (hh : (customerDesc c.op).homes y (withKey c k key) = some hs)
    (hb : ((coldKeys y (withKey c k key) ++ [key].filter fun x => tPublic x.type).all fun x =>
      x.pages.all fun p => y.clean (hHome x.handle) p) = true) :
    s.gateKey t .none c h = if (coldKeys y (withKey c k key)).isEmpty then keySeated y t (withKey c k key) key (coldKeys y (withKey c k key)) hs
      else ((keySeated y t (withKey c k key) key (coldKeys y (withKey c k key)) hs).modField t.field fun x => x.offWhisk c.inst c.tag).modCmd
        c.inst c.tag fun e => { e with stage := match e.stage with | .waitWhisk => .running | .waitLeaf => .running | x => x } := by
  subst hy
  rw [gateKey_loads ha hk hf hr]
  split
  · exact gateLoad_clean hh hb
  · rename_i cold
    obtain ⟨up, turn⟩ := hw.resolve_left fun none => cold (by rw [none]; rfl)
    exact (gateWhisk_turn (c := withKey c k key) up turn).trans (by rw [gateLoad_clean hh hb] <;> rfl)

/-! ### The other gates -/

theorem thread_modField (s : State) (t : ThreadRef) {f : Nat} {g : FieldSt → FieldSt} (hg : ∀ x, (g x).threads = x.threads) :
    (s.modField f g).thread t = s.thread t := by
  unfold State.thread
  rw [s.modField_read]
  split
  · rw [hg]
  · rfl

/-- A thread's change is the change of the thread that the state holds. -/
theorem modThread_congr (s : State) (t : ThreadRef) {f g : Thread → Thread} (h : f (s.thread t) = g (s.thread t)) :
    s.modThread t f = s.modThread t g := by
  unfold State.modThread State.modField
  congr 1
  refine List.ext_getElem? fun k => ?_
  simp only [List.getElem?_modify]
  by_cases hk : t.field = k
  · subst hk
    cases hx : s.fields[t.field]? with
    | none => rfl
    | some x =>
      simp only [if_true, Option.map_eq_map, Option.map_some, Option.some.injEq]
      have same : x.threads.modify t.thread f = x.threads.modify t.thread g := by
        refine List.ext_getElem? fun j => ?_
        simp only [List.getElem?_modify]
        by_cases hj : t.thread = j
        · subst hj
          cases hy : x.threads[t.thread]? with
          | none => rfl
          | some y =>
            have thread : s.thread t = y := by
              simp [State.thread, State.field, List.getD_eq_getElem?_getD, hx, hy]
            simp only [if_true, Option.map_eq_map, Option.map_some, ← thread, h]
        · simp only [hj, if_false]
      rw [same]
  · simp only [hk, if_false]

@[simp] theorem thread_hashServed (s : State) (c : Cmd) (t : ThreadRef) : (s.hashServed c).thread t = s.thread t :=
  List.foldlRecOn (motive := fun x : State => x.thread t = s.thread t) _ _ rfl fun x h _ _ =>
    (thread_modField x t (g := fun y => y.leaveQueue c.inst c.tag) fun _ => rfl).trans h

theorem gateQuota_eq : s.gateQuota t c h = s.modThread t fun g => g.gateReturn (if s.noRoom c (h.arg 1) (h.arg 2) then .shareExhausted else .ok) := by
  unfold State.gateQuota
  cases hr : s.noRoom c (h.arg 1) (h.arg 2)
  · rw [gateChecks_ok rfl]
    rfl
  · rfl

/-- DRAW where its draw need not wait keeps its bytes; of none it takes none. -/
theorem gateDraw_draws (hd : h.drawMade = false) (hn : h.arg 1 ≤ byteAt (s.opEntry c) 11)
    (hr : s.random c (h.arg 1 != 0) (s.streamsUp c (s.maskedOp c) (c.twinWrap (h.arg 1 != 0))) = .there)
    (hs : h.arg 1 ≠ 0 → s.steepStalls t.field false 1 c.queued = false) :
    s.gateDraw t c h = ((if h.arg 1 = 0 then (([] : Bytes), s) else s.steep t.field (h.arg 1)).2.modCmd c.inst c.tag fun c =>
      { c with stage := .running, queued := 0 }).modThread t fun g =>
        { g with drawMade := true, drawBuf := (if h.arg 1 = 0 then (([] : Bytes), s) else s.steep t.field (h.arg 1)).1 }.gateReturn .ok := by
  have stalls : (h.arg 1 != 0 && s.steepStalls t.field false 1 c.queued) = false := by
    by_cases h0 : h.arg 1 = 0
    · simp [h0]
    · simp [hs h0]
  unfold State.gateDraw
  simp only [hd, hn.not_gt, decide_false, Bool.or_self, Bool.false_eq_true, if_false, gateRandom_there hr, stalls, beq_iff_eq]

theorem gateDraw_again (hd : h.drawMade = true) : s.gateDraw t c h = s.complete c.inst c.tag { status := .programFault } := by
  simp only [State.gateDraw, hd, Bool.true_or, if_true]

theorem gateProgram_undrawn (hd : h.drawMade = false) : s.gateProgram t c h = s.complete c.inst c.tag { status := .programFault } := by
  simp only [State.gateProgram, hd, Bool.not_false, if_true]

theorem gateNewkey_undrawn (hd : h.drawMade = false) : s.gateNewkey t c h = s.complete c.inst c.tag { status := .programFault } := by
  simp only [State.gateNewkey, hd, Bool.not_false, if_true]

theorem gateDigest_ok (hh : s.thread t = h) {fn : HashFn} (hf : hashFn? (h.arg 3) = some fn) (ho : fn.out ≠ 0) (hw : h.arg 1 + h.arg 2 ≤ c.params.length)
    (hc : s.noContext c = false) : s.gateDigest t c h = ((s.hashServed c).modCmd c.inst c.tag fun c => { c with stage := .running }).modThread t
      fun g => ({ g with buf := digestOf (h.arg 3) fn.out (slice c.params (h.arg 1) (h.arg 2)) }.result fn.out).gateReturn .ok := by
  unfold State.gateDigest
  rw [gateChecks_ok (by simp [firstFail, hf, ho, within, hw])]
  simp only [hf, Option.getD_some, hc, Bool.false_eq_true, if_false]
  refine modThread_congr _ t ?_
  have thread : ((s.hashServed c).modCmd c.inst c.tag fun c => { c with stage := .running }).thread t = h := (thread_hashServed s c t).trans hh
  simp only [thread]

theorem gateTally_ok (hb : h.arg 1 + h.arg 3 ≤ h.buf.length) (hp : h.arg 2 + h.arg 3 ≤ c.params.length) : s.gateTally t c h =
    s.modThread t fun g => { g with verdict := if slice g.buf (g.arg 1) (g.arg 3) == slice c.params (g.arg 2) (g.arg 3) then .pass
      else .fail }.gateReturn .ok :=
  gateChecks_ok (by simp [firstFail, within, hb, hp])

/-- RESULT of the parameters or the buffer: no handle is placed. -/
theorem gateResult_ok {src : Bytes} (hs : h.arg 1 = 0 ∧ src = c.params ∨ h.arg 1 = 1 ∧ src = h.buf) (hw : h.arg 2 + h.arg 3 ≤ src.length) :
    s.gateResult t c h = (s.modCmd c.inst c.tag fun e => { e with made := e.made ++ [] }).modThread t fun g =>
      { g with results := g.results ++ slice src (g.arg 2) (g.arg 3) }.gateReturn .ok := by
  have source : h.source c = some src := by
    rcases hs with ⟨ha, rfl⟩ | ⟨ha, rfl⟩ <;> simp only [Thread.source, ha]
  have notHandles : (h.arg 1 == 2) = false := by rcases hs with ⟨ha, _⟩ | ⟨ha, _⟩ <;> simp [ha]
  unfold State.gateResult
  rw [gateChecks_ok (by simp [firstFail, source, within, hw])]
  have none : h.made.zipIdx.filterMap (fun p =>
      if h.arg 1 == 2 && h.arg 2 ≤ 6 * p.2 && 6 * p.2 + 6 ≤ h.arg 2 + h.arg 3 then some (h.results.length + 6 * p.2 - h.arg 2, p.1)
      else none) = [] := List.filterMap_eq_nil_iff.2 fun _ _ => by simp [notHandles]
  simp only [source, Option.getD_some, none]

/-- PROGRAM where the checks of its block pass (R335). -/
theorem gateProgram_runs (hd : h.drawMade = true) {b : Cmd} {m : Image} {refs : List (Option Nat)} {ks : List Key} (eb : h.block c = b)
    (em : s.prog b = m) (er : h.refs m.nkeyin = refs) (ek : refs.map (fun r => c.key (r.getD 0)) = ks)
    (hl : 40 ≤ b.len) (hb : b.len = 40 + b.p 37 3) (hz : b.p 33 1 = 0) (ho : b.p 34 3 ≤ 262144) (hi : b.p 37 3 ≤ 1048575)
    (hm : (s.image? c.inst (b.p 0 6)).isSome) (hr : refs.all (·.isSome) = true) (ha : outAttrOk m (b.p 30 3) = true)
    (hk : (ks.all fun k => tClass k.type == 0 && !tPublic k.type && k.body.length ≤ 128 && bit k.attr aDerive) = true)
    (hn : m.nkeyout = 0 ∨ attrBounded (b.p 30 3) ks = true) (ht : bit (byteAt m.header 10) (c.raised ks 0) = true)
    (hs : blockSram m b ≤ acreSram) : s.gateProgram t c h =
      s.beginRun { programRun m b t.field (c.raised ks 0) ks h.drawBuf with thread := some t.thread } := by
  have length : (decide (b.len < 40) || b.len != 40 + b.p 37 3) = false := by
    simp only [hl.not_gt, decide_false, ← hb, bne_self_eq_false, Bool.or_self]
  have fields : (b.p 33 1 != 0 || decide (b.p 34 3 > 262144) || decide (b.p 37 3 > 1048575)) = false := by simp [hz, ho, hi]
  have image : (s.image? c.inst (b.p 0 6)).isNone = false := by simpa using hm
  have found : refs.any (·.isNone) = false := by
    simp only [List.all_eq_true, List.any_eq_false] at hr ⊢
    exact fun r h => by simpa [← Option.isSome_iff_ne_none] using hr r h
  have usable : (ks.any fun k => tClass k.type != 0 || tPublic k.type || decide (k.body.length > 128) || !bit k.attr aDerive) = false := by
    simp only [List.all_eq_true, List.any_eq_false] at hk ⊢
    intro k h
    have := hk k h
    simp_all [not_lt]
  have bounded : (m.nkeyout != 0 && !attrBounded (b.p 30 3) ks) = false := by rcases hn with hn | hn <;> simp [hn]
  unfold State.gateProgram
  simp only [hd, Bool.not_true, Bool.false_eq_true, if_false, eb, em, er, ek]
  exact gateChecks_ok (by simp only [firstFail, length, fields, image, found, ha, usable, bounded, ht, hs.not_gt, Bool.or_self, Bool.not_true,
    decide_false, List.find?_cons, List.find?_nil, Option.map_none])

/-- NEWKEY where its checks pass and Whisk serves it. -/
theorem gateNewkey_makes (hd : h.drawMade = true) {ty size : Nat} {body : Bytes} (et : h.arg 2 / 65536 % 256 = ty)
    (es : (if ty = 4 then h.arg 2 % 65536 else 0) = size) (eb : (h.sets.getD (h.arg 1) []).take ((secretLen ty size).getD 0) = body)
    (hty : ty ≤ 4) (hs : sizeOk ty (h.arg 2 % 65536) = true) (ha : attrOk ty (h.arg 3) = true) (hp : bit (h.arg 3) aPersistent = false)
    (hset : h.sets.getD (h.arg 1) [] ≠ []) (hb : attrBounded (h.arg 3) c.keys = true) (hr : s.noRoom c 1 (secretBlob body.length) = false)
    (hu : s.whiskUp t.field = true) (ht : (s.field t.field).whiskTurn c.inst c.tag 2 = true) {p : Nat × State}
    (ep : s.addKey c t.field none { type := ty, attr := h.arg 3, origin := 4, size := size, body := body } = p) : s.gateNewkey t c h =
      ((p.2.modThread t fun g => ({ g with made := g.made ++ [p.1] }.result g.made.length).gateReturn .ok).modField t.field fun x =>
        x.offWhisk c.inst c.tag).modCmd c.inst c.tag fun e =>
          { e with stage := match e.stage with | .waitWhisk => .running | .waitLeaf => .running | x => x } := by
  have form : (decide (ty > 4) || !sizeOk ty (h.arg 2 % 65536) || !attrOk ty (h.arg 3) || bit (h.arg 3) aPersistent ||
      h.sets.getD (h.arg 1) [] == []) = false := by
    simp only [hty.not_gt, decide_false, hs, ha, hp, Bool.not_true, Bool.or_self, beq_eq_false_iff_ne.2 hset]
  have es' : (if (ty == 4) = true then h.arg 2 % 65536 else 0) = size := by simpa using es
  unfold State.gateNewkey
  simp only [hd, Bool.not_true, Bool.false_eq_true, if_false, Thread.newType, Thread.newSize, et, es', eb, ep]
  refine (gateChecks_ok ?_).trans (gateWhisk_turn hu ht)
  simp only [firstFail, form, hb, hr, Bool.not_true, List.find?_cons, List.find?_nil, Option.map_none]

theorem gateReturn_gateOk (h : Thread) (st : Status) : (h.gateReturn st).gateOk = decide (st.cls = 0) := by
  simp only [Thread.gateReturn, beq_eq_decide]

/-- The status stands in x0[15:0] (R376). -/
theorem gateReturn_x0 (h : Thread) (st : Status) (hx : h.x.length ≠ 0) : ((h.gateReturn st).x.getD 0 0).toNat % 65536 = st.code := by
  have code : st.code < 65536 := by cases st <;> decide
  have top := (h.x.getD 0 0).isLt
  have pos : 0 < h.x.length := by omega
  simp only [Thread.gateReturn, List.getD_eq_getElem?_getD, List.getElem?_set, pos, if_true, Option.getD_some, BitVec.toNat_ofNat] at top ⊢
  omega

theorem exec_of_gate {row : Instr} {n : Nat} {g : Cmd → Thread → State} (hx : exec row s = .next (s.gate t n g)) (hh : s.atGate? t n = some (c, h)) :
    exec row s = .next (g c h) := by
  rw [hx, gate_of hh]

/-- Settles O59, gate by gate. -/
theorem callGates : Obligations.CallGates := by
  unfold Obligations.CallGates
  refine ⟨?key, ?quota, ?draw, ?drawAgain, ?undrawn, ?program, ?digest, ?tally, ?newkey, ?newkeyUndrawn, ?result,
    fun h st => ⟨gateReturn_gateOk h st, rfl, gateReturn_x0 h st⟩⟩
  case key =>
    intro s t c h key hs hh
    dsimp only
    intro hk hf hr hw hhomes hb
    have seats := gateKey_seats rfl rfl hk hf hr hw hhomes hb
    rw [keySeated, handle_of_key? hk] at seats
    exact (exec_of_gate (g := s.gateKey t .none) rfl hh).trans (congrArg _ seats)
  case quota => exact fun _ _ _ _ hh => (exec_of_gate rfl hh).trans (congrArg _ gateQuota_eq)
  case draw => exact fun _ _ _ _ hh hd hn hr hs => (exec_of_gate rfl hh).trans (congrArg _ (gateDraw_draws hd hn hr hs))
  case drawAgain => exact fun _ _ _ _ hh hd => (exec_of_gate rfl hh).trans (congrArg _ (gateDraw_again hd))
  case undrawn => exact fun _ _ _ _ hh hd => (exec_of_gate rfl hh).trans (congrArg _ (gateProgram_undrawn hd))
  case program =>
    exact fun _ _ _ _ hh hd hl hb hz ho hi hm hr ha hk hn ht hs =>
      (exec_of_gate rfl hh).trans (congrArg _ (gateProgram_runs hd rfl rfl rfl rfl hl hb hz ho hi hm hr ha hk hn ht hs))
  case digest => exact fun _ _ _ _ _ hh hf ho hw hc => (exec_of_gate rfl hh).trans (congrArg _ (gateDigest_ok (gate_thread hh) hf ho hw hc))
  case tally => exact fun _ _ _ _ hh hb hp => (exec_of_gate rfl hh).trans (congrArg _ (gateTally_ok hb hp))
  case newkey =>
    exact fun _ _ _ _ hh hd hty hs ha hp hset hb hr hu ht =>
      (exec_of_gate rfl hh).trans (congrArg _ (gateNewkey_makes hd rfl rfl rfl hty hs ha hp hset hb hr hu ht rfl))
  case newkeyUndrawn => exact fun _ _ _ _ hh hd => (exec_of_gate rfl hh).trans (congrArg _ (gateNewkey_undrawn hd))
  case result => exact fun _ _ _ _ _ hh hs hw => (exec_of_gate rfl hh).trans (congrArg _ (gateResult_ok hs hw))

end Sys2Proof.Machine
end

section
/-! Power, resets, links, clocks, JTAG, tamper and temperature (R476, R489 to R512): each row where its conditions hold, and the obligations about
those rows. -/

namespace Sys2Proof.Machine

/-! ### Power and resets -/

theorem exec_selfTestComplete {s : State} (bad : List Nat) (hr : s.running = true) (hi : s.pkg.run = .inert) :
    exec (.selfTestComplete bad) s = .next (s.endSelfTest bad) := by
  simp only [exec, execSelfTestComplete, State.inStartUp, hr, hi, beq_self_eq_true, Bool.and_self, if_true]

theorem exec_selfTestTimeout {s : State} (f : Nat) (hr : s.running = true) (hi : s.pkg.run = .inert) :
    exec (.selfTestTimeout f) s = .next (s.modField f fun x => { x with testFailed := true }) := by
  simp only [exec, execSelfTestTimeout, State.inStartUp, hr, hi, beq_self_eq_true, Bool.and_self, if_true]

/-- Settles O29: each row's own condition decides it; what a cleared state holds is its definition. -/
theorem resetRows : Obligations.ResetRows := by
  unfold Obligations.ResetRows
  refine ⟨?powerUp, ?downReset, ?downRunning, ?assert, ?release, ?reset, ?cleared, fun _ bad => exec_selfTestComplete bad,
    fun _ f => exec_selfTestTimeout f⟩
  case powerUp =>
    intro s b h
    simp only [exec, execPowerUp, h, Bool.false_eq_true, if_false]
  case downReset =>
    intro s h hn
    simp only [exec, execPowerDown, h, hn, Bool.false_eq_true, if_true, if_false]
  case downRunning =>
    intro s h hn
    simp only [exec, execPowerDown, h, hn, if_true]
  case assert =>
    intro s h
    simp only [exec, execResetNAssert, h, Bool.and_self, if_true]
  case release =>
    intro s h hn
    simp only [exec, execResetNRelease, h, hn, Bool.not_false, Bool.and_self, if_true]
  case reset =>
    intro s h
    simp only [exec, execResetExecute, h, if_true]
  case cleared =>
    exact fun s keep => ⟨rfl, rfl, rfl, rfl, rfl, rfl, rfl, List.length_map _, fun x hx => ⟨List.mem_map_of_mem hx, rfl⟩⟩

/-! ### Links and clocks -/

theorem exec_bootstrapLinkUp {s : State} {p : Nat} (hf : (List.range 2).find? (fun p => (s.port p).bootstrap && !(s.port p).up) = some p)
    (hr : s.running = true) (hi : s.pkg.run ≠ .inert) (hs : s.pkg.refSd = true) (hl : s.laneAlive p = true) :
    exec .bootstrapLinkUp s = .next (s.modPort p fun x => { x with up := true }).flushTx := by
  simp only [exec, execBootstrapLinkUp, hf, hr, bne_iff_ne.2 hi, hs, hl, Bool.and_self, if_true]

theorem exec_hostLinkUp {s : State} {p : Nat} {fs : List EthForm} {g : EthForm} (hr : s.running = true) (hi : s.pkg.run ≠ .inert)
    (hs : s.pkg.refSd = true) (hb : (s.port p).bootstrap = false) (hu : (s.port p).up = false) (hl : s.laneAlive p = true)
    (hf : (s.port p).form = some g) (hg : g ∈ fs) :
    exec (.hostLinkUp p fs) s = .next (s.modPort p fun x => { x with up := true }).flushTx := by
  simp only [exec, execHostLinkUp, hr, bne_iff_ne.2 hi, hs, hb, hu, hl, hf, Option.any_some, List.contains_iff_mem.2 hg, Bool.not_false,
    Bool.and_self, if_true]

theorem exec_hostLinkUp_no_form {s : State} {p : Nat} {fs : List EthForm} (h : ∀ g, (s.port p).form = some g → g ∉ fs) :
    exec (.hostLinkUp p fs) s = .next s := by
  have none : ((s.port p).form.any fun f => fs.contains f) = false := by
    cases hf : (s.port p).form with
    | none => rfl
    | some g => simpa using h g hf
  simp only [exec, execHostLinkUp, none, Bool.and_false, Bool.false_eq_true, if_false]

theorem exec_linkUp_no_clock {s : State} (p : Nat) (fs : List EthForm) (h : s.pkg.refSd = false) :
    exec (.hostLinkUp p fs) s = .next s ∧ exec .bootstrapLinkUp s = .next s := by
  constructor
  · simp only [exec, execHostLinkUp, h, Bool.and_false, Bool.false_and, Bool.false_eq_true, if_false]
  · simp only [exec, execBootstrapLinkUp, h, Bool.and_false, Bool.false_and, Bool.false_eq_true, if_false]
    split <;> rfl

/-- Settles O31. -/
theorem linkAndClockRows : Obligations.LinkAndClockRows :=
  ⟨fun _ _ => exec_bootstrapLinkUp, fun _ _ _ _ => exec_hostLinkUp, fun _ _ _ => exec_hostLinkUp_no_form, fun _ => exec_linkUp_no_clock,
    fun _ _ => rfl, fun _ => rfl, fun _ => rfl, fun _ => rfl, fun _ => rfl⟩

/-! ### JTAG -/

/-- A read of the state shifts out what debug opens, and nothing else (R476). -/
theorem jtag_of_debug (s : State) (b : Bytes) : (if s.jtagOpen then s.modPkg fun p => { p with jtag := b } else s.modPkg fun p => { p with jtag := [] }) =
    { s with pkg := { s.pkg with jtag := if s.debugBit then b else [] } } := by
  unfold State.jtagOpen
  split <;> rfl

/-- Settles O32: each access by its case of the TAP. -/
theorem jtagAnswersOnlyWhatIsOpen : Obligations.JtagAnswersOnlyWhatIsOpen :=
  ⟨fun _ => ⟨_, rfl, rfl⟩, fun _ => rfl, fun s _ _ => congrArg _ (jtag_of_debug s _), fun s _ _ => congrArg _ (jtag_of_debug s _),
    fun s _ _ => congrArg _ (jtag_of_debug s _), fun s _ => congrArg _ (jtag_of_debug s _), fun _ _ => rfl⟩

/-! ### Alarm line, tamper and temperature -/

theorem exec_alarmLineReceived_due {s : State} {f g : Nat} (h : (f, g) ∈ s.pkg.alarmLine) : exec (.alarmLineReceived f g) s =
    .next ((s.modPkg fun p => { p with alarmLine := p.alarmLine.filter (· != (f, g)) }).alarmField f 8 59 0 g).syncAlert := by
  simp only [exec, execAlarmLineReceived, List.contains_iff_mem.2 h, if_true]

theorem exec_alarmLineReceived_not_due {s : State} {f g : Nat} (h : (f, g) ∉ s.pkg.alarmLine) : exec (.alarmLineReceived f g) s = .next s := by
  have absent : s.pkg.alarmLine.contains (f, g) = false := by simpa using h
  simp only [exec, execAlarmLineReceived, absent, Bool.false_eq_true, if_false]

theorem exec_tamperMismatch_armed {s : State} {k : Nat} (hr : s.running = true) (ha : s.pkg.tamperArmed = true) (hk : k < 2) :
    exec (.tamperMismatch k) s = .next (s.alarm s.pkg.headland 6 59 k) := by
  simp only [exec, execTamperMismatch, hr, ha, hk, decide_true, Bool.and_self, if_true]

theorem exec_tamperMismatch_disarmed {s : State} {k : Nat} (h : s.pkg.tamperArmed = false) : exec (.tamperMismatch k) s = .next s := by
  simp only [exec, execTamperMismatch, h, Bool.and_false, Bool.false_and, Bool.false_eq_true, if_false]

section
variable {s : State} {f k : Nat} {c : Int} (hr : s.running = true) (hf : f < s.n) (hk : k < 8) (hl : (s.field f).lost = false)
include hr hf hk hl

theorem exec_tempSensorReading_within (h0 : -55 ≤ c) (h1 : c ≤ 140) : exec (.tempSensorReading f k c) s = .next (s.modField f fun x =>
    { x with temps := x.temps.set k (tempBand c), outside := x.outside.set k false }).syncAlert := by
  have within : ¬(c < -55 ∨ 140 < c) := by omega
  simp only [exec, execTempSensorReading, hr, hf, hk, hl, within, decide_true, decide_false, Bool.not_false, Bool.and_self, Bool.false_and, if_true,
    Bool.false_eq_true, if_false]

theorem exec_tempSensorReading_first (h : c < -55 ∨ 140 < c) (ho : (s.field f).outside.getD k false = false) :
    exec (.tempSensorReading f k c) s = .next (s.modField f fun x =>
      { x with temps := x.temps.set k (tempBand c), outside := x.outside.set k true }).syncAlert := by
  simp only [exec, execTempSensorReading, hr, hf, hk, hl, h, ho, decide_true, Bool.not_false, Bool.and_self, Bool.and_false, if_true,
    Bool.false_eq_true, if_false]

theorem exec_tempSensorReading_second (h : c < -55 ∨ 140 < c) (ho : (s.field f).outside.getD k false = true) :
    exec (.tempSensorReading f k c) s = .next ((s.modField f fun x =>
      { x with temps := x.temps.set k (tempBand c), outside := x.outside.set k false }).syncAlert.alarm f 3 59 k) := by
  simp only [exec, execTempSensorReading, hr, hf, hk, hl, h, ho, decide_true, Bool.not_false, Bool.not_true, Bool.and_self, Bool.and_false, if_true]

end

/-- Settles O35. -/
theorem alarmRows : Obligations.AlarmRows :=
  ⟨fun _ _ _ => exec_alarmLineReceived_due, fun _ _ _ => exec_alarmLineReceived_not_due, fun _ _ => exec_tamperMismatch_armed,
    fun _ _ => exec_tamperMismatch_disarmed, fun _ _ _ _ => exec_tempSensorReading_within, fun _ _ _ _ => exec_tempSensorReading_first,
    fun _ _ _ _ => exec_tempSensorReading_second⟩

end Sys2Proof.Machine
end

section
/-! The power ceiling (R544 to R546), pauses while throttling (R55) and POWER_GOOD (R536): each row where its conditions hold, and the
obligation about them. -/

namespace Sys2Proof.Machine

/-! ### The pause while throttling -/

theorem settlePause_settled {s : State} (h : s.mustPause = s.pkg.pausing) : s.settlePause = s := by
  simp only [State.settlePause, h, beq_self_eq_true, if_true]

theorem settlePause_changed {s : State} (h : s.mustPause ≠ s.pkg.pausing) : s.settlePause =
    { s.modPkg fun p => { p with pausing := s.mustPause } with
        tx := s.tx ++ (List.range 2).flatMap fun p => if (s.port p).up then (s.port p).allPauses.map fun q => Sent.pause p q s.mustPause else [] } := by
  simp only [State.settlePause, beq_eq_false_iff_ne.2 h, Bool.false_eq_true, if_false]

/-- Settling the pause sends pause frames and changes nothing that the ceiling's steps read. -/
theorem settlePause_frame (s : State) : s.settlePause.fields = s.fields ∧ s.settlePause.fuses = s.fuses ∧ s.settlePause.modeWord = s.modeWord := by
  by_cases h : s.mustPause = s.pkg.pausing
  · rw [settlePause_settled h]
    exact ⟨rfl, rfl, rfl⟩
  · rw [settlePause_changed h]
    exact ⟨rfl, rfl, rfl⟩

theorem mustPause_throttled {s : State} (hi : s.mode .inline = true) (hc : s.mode .capped = true) (ht : s.power.throttle = true) :
    s.mustPause = true := by
  simp only [State.mustPause, hi, hc, ht, Bool.and_self, Bool.true_or]

theorem mustPause_no_inline {s : State} (h : s.mode .inline = false) : s.mustPause = false := by
  simp only [State.mustPause, State.partsFull, h, Bool.false_and, Bool.or_self]

/-- A pause that begins or ends is sent by a port that has 802.3x. -/
theorem pause_sent {s : State} {p : Nat} (h : s.mustPause ≠ s.pkg.pausing) (hp : p < 2) (hu : (s.port p).up = true)
    (hf : (s.port p).flow = .pause) : .pause p 8 s.mustPause ∈ s.settlePause.tx := by
  rw [settlePause_changed h]
  refine List.mem_append_right _ (List.mem_flatMap.2 ⟨p, List.mem_range.2 hp, ?_⟩)
  simp [hu, Port.allPauses, hf]

/-! ### The window -/

/-- The state once a window's average is taken. -/
def windowed (s : State) (m : PowerReading) (above : Bool) : State := { s with power := { s.power with average := m.average, throttle := above } }

theorem exec_powerWindow_below {s : State} {m : PowerReading} (h : ∀ c, s.ceiling = some c → m.average ≤ c) :
    exec (.powerWindow m) s = .next (windowed s m false).drainPackets.settlePause := by
  have below : s.ceiling.any (fun c => decide (m.average > c)) = false := by
    cases hc : s.ceiling with
    | none => rfl
    | some c => simpa using h c hc
  simp only [exec, execPowerWindow, below, Bool.not_false, Bool.false_eq_true, if_true, if_false] <;> rfl

/-- Above the ceiling the window throttles, and takes the next of R545's steps. -/
theorem exec_powerWindow_above {s : State} {m : PowerReading} {c : Nat} (hc : s.ceiling = some c) (h : c < m.average) :
    exec (.powerWindow m) s = .next (if !s.allScaled then (windowed s m true).settlePause.scaleDown
      else if s.mode .capped && !s.fields.any (·.gating) then (windowed s m true).settlePause.gateNext
      else (windowed s m true).settlePause) := by
  have above : s.ceiling.any (fun c => decide (m.average > c)) = true := by simp [hc, h]
  obtain ⟨fields, fuses, modeWord⟩ := settlePause_frame (windowed s m true)
  have scaled : (windowed s m true).settlePause.allScaled = s.allScaled := by
    simp only [State.allScaled, State.fieldNums, State.n, State.dispatchable, State.field, fields, fuses] <;> rfl
  have capped : (windowed s m true).settlePause.mode .capped = s.mode .capped := by
    simp only [State.mode, modeWord] <;> rfl
  have gating : (windowed s m true).settlePause.fields = s.fields := fields
  rw [← scaled, ← capped, ← gating]
  simp only [exec, execPowerWindow, above, Bool.not_true, Bool.false_eq_true, if_true, if_false] <;> rfl

/-! ### Gating and reversal -/

theorem exec_cappedGateDrained_done {s : State} {f : Nat} (hg : (s.field f).gating = true)
    (hc : (s.migrate f).cmds.any ((s.migrate f).runsOn f) = false) (hl : (s.migrate f).liveService f = false) : exec (.cappedGateDrained f) s =
    .next ((s.migrate f).modField f fun x => { x with gating := false, gated := true, run := .fallow }) := by
  simp only [exec, execCappedGateDrained, hg, hc, hl, Bool.not_true, Bool.or_self, Bool.false_eq_true, if_false]

section
variable {s : State} {m : PowerReading}

theorem exec_powerReversalStep_no_room (h : s.underCeiling m.average = false) : exec (.powerReversalStep m) s = .next s := by
  simp only [exec, execPowerReversalStep, h, Bool.not_false, if_true]

theorem exec_powerReversalStep_ungates {f : Nat} (h : s.underCeiling m.average = true) (hu : s.underCeiling m.ungateEstimate = true)
    (hf : (s.fieldNums.find? fun f => (s.field f).gated) = some f) : exec (.powerReversalStep m) s = .next (s.ungate f) := by
  simp only [exec, execPowerReversalStep, h, hu, hf, Bool.not_true, Bool.false_eq_true, if_false]

theorem exec_powerReversalStep_raises {p : Nat} (h : s.underCeiling m.average = true)
    (hf : (s.fieldNums.all fun f => !(s.field f).gated) = true) (hp : s.raiseTo m.raiseEstimates = some p) :
    exec (.powerReversalStep m) s = .next (s.raisePoints p) := by
  have none : s.fieldNums.find? (fun f => (s.field f).gated) = none := by
    simpa [List.find?_eq_none] using hf
  simp only [exec, execPowerReversalStep, h, none, hp, Bool.not_true, Bool.false_eq_true, if_false]

end

theorem exec_vppFuseVoltageOutsideTest {s : State} {f : Nat} (h : s.lc ≠ .test) :
    exec (.vppFuseVoltageOutsideTest f) s = .next (s.log f 63 12 0xFF []) := by
  simp only [exec, execVppFuseVoltageOutsideTest, beq_eq_false_iff_ne.2 h, Bool.false_eq_true, if_false]

/-! ### POWER_GOOD -/

/-- A pin has one function: the byte of the setting that names it. -/
theorem mfPin_byte {s : State} {code k : Nat} (h : s.mfPin code = some k) : s.setting 0x19 / 256 ^ k % 256 = code := by
  unfold State.mfPin at h
  split at h
  · exact eq_of_beq (List.find?_some (p := fun k => s.setting 0x19 / 256 ^ k % 256 == code) h)
  · cases h

theorem mfLevel_powerGood {s : State} {k : Nat} (h : s.mfPin 3 = some k) : s.mfLevel k = some s.powerGood := by
  have other : (s.mfPin 2 == some k) = false := beq_eq_false_iff_ne.2 fun h2 => by
    have := mfPin_byte h2
    have := mfPin_byte h
    omega
  simp only [State.mfLevel, other, h, beq_self_eq_true, Bool.false_eq_true, if_true, if_false]

theorem powerGood_iff (s : State) : s.powerGood = true ↔ (s.pkg.run = .operational ∨ s.pkg.run = .fallow) ∧
    ∀ x ∈ s.fields, x.entered = true → x.lost = false ∧ (x.run = .operational ∨ x.run = .fallow) := by
  simp only [State.powerGood, Bool.and_eq_true, Bool.or_eq_true, beq_iff_eq, List.all_eq_true, Bool.not_eq_true']
  refine and_congr_right fun _ => forall₂_congr fun x _ => ?_
  cases x.entered <;> simp

/-- Settles O36, row by row. -/
theorem powerRows : Obligations.PowerRows := by
  unfold Obligations.PowerRows
  refine ⟨fun _ => rfl, fun _ => rfl, fun _ => rfl, fun _ _ => exec_powerWindow_below, ?scale, ?gate, fun _ => mustPause_throttled,
    fun _ => mustPause_no_inline, fun _ => settlePause_settled, fun _ _ => pause_sent, fun _ _ => exec_cappedGateDrained_done,
    fun _ _ => exec_powerReversalStep_no_room, fun _ _ _ => exec_powerReversalStep_ungates, fun _ _ _ => exec_powerReversalStep_raises,
    fun _ _ => rfl, fun _ _ => exec_vppFuseVoltageOutsideTest, fun s k h => ⟨s.powerGood, mfLevel_powerGood h, powerGood_iff s⟩⟩
  case scale =>
    intro s m c hc h hs
    rw [exec_powerWindow_above hc h, hs]
    rfl
  case gate =>
    intro s m c hc h hs hm hg
    rw [exec_powerWindow_above hc h, hs, hm, hg]
    rfl

end Sys2Proof.Machine
end

section
/-! GDDR6 (R447 to R454): each row where its conditions hold, and the obligation about them. -/

namespace Sys2Proof.Machine

variable {s : State} {f p k : Nat}

theorem exec_gddr6Refresh {c : Nat} (hm : s.memoryUp f = true) (hc : c < 2) : exec (.gddr6Refresh f c) s =
    .next (s.modField f fun x => { x with refreshes := x.refreshes.modify c (· + 1) }) := by
  simp only [exec, execGddr6Refresh, hm, hc, decide_true, Bool.and_self, if_true]

theorem exec_gddr6TemperatureRead {c : Int} (hm : s.memoryUp f = true) : exec (.gddr6TemperatureRead f c) s = .next (s.modField f fun x =>
    { x with refreshDoubled := if c > 85 then true else if c ≤ 80 then false else x.refreshDoubled }) := by
  simp only [exec, execGddr6TemperatureRead, hm, if_true]

theorem exec_retrainDue_now (hm : s.memoryUp f = true) : exec (.retrainDue f false) s = .next (s.retrain f) := by
  simp only [exec, execRetrainDue, hm, Bool.not_true, Bool.false_eq_true, if_false]

theorem exec_retrainDue_queued (hm : s.memoryUp f = true) : exec (.retrainDue f true) s =
    .next (s.modField f fun x => { x with retrainDeferred := true }) := by
  simp only [exec, execRetrainDue, hm, Bool.not_true, Bool.false_eq_true, if_true, if_false]

theorem exec_retrainDeferLimit (hm : s.memoryUp f = true) (hd : (s.field f).retrainDeferred = true) :
    exec (.retrainDeferLimit f) s = .next (s.retrain f) := by
  simp only [exec, execRetrainDeferLimit, hm, hd, Bool.and_self, if_true]

/-! ### Link errors -/

section
variable {e : EdcFault} (hm : s.memoryUp e.field = true) (hc : e.channel < 2) (hp : e.page < 983040)
include hm hc hp

theorem exec_edcFailure_mended {n : Nat} (ho : e.outcome = .retried n) : exec (.edcFailure e) s =
    .next (s.log e.field 45 8 e.inst (toBE 1 e.channel ++ toBE 1 n)) := by
  simp only [exec, execEdcFailure, hm, hc.not_ge, hp.not_ge, ho, Bool.not_true, decide_false, Bool.or_self, Bool.false_eq_true, if_false]

theorem exec_edcFailure_final (ho : e.outcome = .final) (hw : e.write = false) : exec (.edcFailure e) s =
    .next ((((s.log e.field 45 8 e.inst (toBE 1 e.channel ++ toBE 1 4)).retrain e.field).raise 0 0x0401
      (toBE 1 e.field ++ toBE 1 e.channel ++ toBE 4 e.page)).complete e.inst e.tag { status := .sourcePoisoned }) := by
  simp only [exec, execEdcFailure, hm, hc.not_ge, hp.not_ge, ho, hw, Bool.not_true, decide_false, Bool.or_self, Bool.false_eq_true, if_false]

end

/-! ### Harrow and retirement -/

/-- Harrow's visit of a clean page changes the place of its sweep alone. -/
theorem exec_harrowVisit_clean (hr : s.harrowRuns f = true) (hc : s.clean f (s.field f).sweepAt = true)
    (hn : (s.pageOf f (s.field f).sweepAt).retry = false) (hp : (s.field f).sweepAt < 983040) :
    exec (.harrowVisit f 0 false) s = .next (s.modField f FieldSt.advanceSweep) := by
  have page : (s.field f).pageAt (s.field f).sweepAt = some (s.field f).sweepAt := if_pos hp
  simp only [exec, execHarrowVisit, hr, page, hn, State.degrade, beq_self_eq_true, State.readPage_clean hc, Bool.not_true, Bool.false_eq_true, if_true,
    if_false]

theorem exec_pageRetirement_badSpare (hm : s.memoryUp f = true) (hp : p < 983040) (hd : (s.pageOf f p).due = true)
    (hs : (s.field f).spare = some k) : exec (.pageRetirement f p true false) s =
      .next (s.modField f fun x => { x with deadSpares := x.deadSpares ++ [k] }) := by
  simp only [exec, execPageRetirement, hm, dataPages, hp.not_ge, hd, hs, Bool.not_true, decide_false, Bool.or_self, Bool.false_eq_true, if_true, if_false]

/-- The part once a page is moved to a spare (R452, R453). -/
def movedPage (s : State) (f p k : Nat) : State :=
  (s.modGran fun g => { g with retired := g.retired.filter (fun r => !(r.1 == f && r.2.1 == p)) ++ [(f, p, k)] }).modField f fun x =>
    { x.putPage { s.pageOf f p with due := false, errors := 0, badNumber := false } with
      remap := x.remap.filter (fun r => r.1 != p) ++ [(p, k)]
      deadSpares := x.deadSpares ++ ((s.field f).remap.filter fun r => r.1 == p).map (·.2) }

theorem exec_pageRetirement_good (hm : s.memoryUp f = true) (hp : p < 983040) (hd : (s.pageOf f p).due = true) (hs : (s.field f).spare = some k) :
    exec (.pageRetirement f p false false) s = .next ((movedPage s f p k).raise 0 0x0402 (toBE 1 f ++ [0] ++ toBE 4 p ++ toBE 2 k)) := by
  simp only [exec, execPageRetirement, hm, dataPages, hp.not_ge, hd, hs, Bool.not_true, decide_false, Bool.or_self, Bool.false_eq_true, if_false] <;> rfl

theorem movedPage_field (hf : f < s.fields.length) : (movedPage s f p k).field f =
    { (s.field f).putPage { s.pageOf f p with due := false, errors := 0, badNumber := false } with
      remap := (s.field f).remap.filter (fun r => r.1 != p) ++ [(p, k)]
      deadSpares := (s.field f).deadSpares ++ ((s.field f).remap.filter fun r => r.1 == p).map (·.2) } := by
  unfold movedPage
  rw [State.modField_read, if_pos ⟨rfl, hf⟩]
  rfl

theorem page_pageOf (s : State) (f p : Nat) : (s.pageOf f p).page = p := by
  unfold State.pageOf
  cases h : (s.field f).pages.find? (·.page == p) with
  | none => rfl
  | some pg => simpa using List.find?_some (p := fun x : Page => x.page == p) h

/-- A list of pairs whose key p is taken out answers the one put at its end. -/
theorem lookup_filter_append {l : List (Nat × Nat)} (p k : Nat) : (l.filter (fun r => r.1 != p) ++ [(p, k)]).lookup p = some k := by
  induction l with
  | nil => simp
  | cons r l ih =>
    obtain ⟨a, b⟩ := r
    by_cases h : a = p
    · simpa [h] using ih
    · have other : (p == a) = false := by simpa using Ne.symm h
      simpa [h, List.lookup_cons, other] using ih

/-- The page's new frame, its record, and the page no longer due. -/
theorem movedPage_moved (hf : f < s.fields.length) : ((movedPage s f p k).field f).remap.lookup p = some k ∧
    (f, p, k) ∈ (movedPage s f p k).gran.retired ∧ ((movedPage s f p k).pageOf f p).due = false := by
  refine ⟨?_, List.mem_append_right _ (List.mem_singleton.2 rfl), ?_⟩
  · rw [movedPage_field hf]
    exact lookup_filter_append p k
  · unfold State.pageOf
    rw [movedPage_field hf]
    simp only [FieldSt.putPage, List.find?_cons, page_pageOf, beq_self_eq_true, Option.getD_some]

theorem exec_mergeIdleTimer_of_found {m : Merge} (h : ((s.field f).merge.find? fun m => m.page == p) = some m) :
    exec (.mergeIdleTimer f p) s = .next (s.commitMerge f m) := by
  simp only [exec, execMergeIdleTimer, h]

/-- Settles O37, row by row. -/
theorem memoryRows : Obligations.MemoryRows := by
  unfold Obligations.MemoryRows
  refine ⟨fun _ _ _ => exec_gddr6Refresh, fun _ _ _ => exec_gddr6TemperatureRead, fun _ _ => exec_retrainDue_now, fun _ _ => exec_retrainDue_queued,
    fun _ _ => exec_retrainDeferLimit, fun _ _ _ hm hc hp => exec_edcFailure_mended hm hc hp, fun _ _ => exec_edcFailure_final, fun _ _ => exec_harrowVisit_clean,
    fun _ _ _ _ => exec_pageRetirement_badSpare, ?moved, fun _ _ _ _ => exec_mergeIdleTimer_of_found⟩
  case moved => exact fun s f p k hm hp hd hs hf => ⟨_, exec_pageRetirement_good hm hp hd hs, movedPage_moved hf⟩

end Sys2Proof.Machine
end

section
/-! Waits (R136, R197, R201, R209, R250 to R253, R284, R330, R366, R388, R416) and drains (R47, R48, R280, R393, R469): each row where its
conditions hold, and the obligations about them. -/

namespace Sys2Proof.Machine

variable {s : State} {f h k : Nat} {c : Cmd} {w : WCtx}

/-! ### Leaves and their cache -/

theorem exec_leafReservationDone_good (hr : (s.entryOf h).leaves.reserving = true) : exec (.leafReservationDone h true) s =
    .next (((s.recordLeaf h (s.entryOf h).leaves.nextHwm).modLeaf h fun l => { l with reserving := false }).wakeSigners h) := by
  simp only [exec, execLeafReservationDone, hr, Bool.not_true, Bool.false_eq_true, if_true, if_false]

/-- A leaf record that fails while reserved leaves are left is logged; no signature ends. -/
theorem exec_leafReservationDone_torn (hr : (s.entryOf h).leaves.reserving = true)
    (hl : (s.entryOf h).leaves.next < (s.entryOf h).leaves.hwm) : ∃ b, exec (.leafReservationDone h false) s = .next
      (((((s.fresh 3).2.tearLeaf h).modLeaf h fun l => { l with reserving := false }).log (hHome h) 48 13 (hInst h) b).wakeSigners h) := by
  refine ⟨(s.fresh 3).1, ?_⟩
  simp only [exec, execLeafReservationDone, hr, hl, Bool.not_true, Bool.false_eq_true, if_true, if_false]

theorem exec_cacheRebuildDone_turn (hn : s.rebuildNow (hHome h) = some h) (ht : s.rebuildTurn h = true) :
    ∃ t, exec (.cacheRebuildDone h) s = .next t ∧ t.keys = (s.modLeaf h fun l => { l with cacheReady := true, midBuilt := l.next }).keys := by
  refine ⟨_, rfl, ?_⟩
  rw [if_neg (by simp [hn, ht])]
  rfl

/-! ### Winnow contexts -/

/-- A context whose image is written is free for the next user. -/
theorem exec_contextSaveDone_written {t : State} (hw : ((s.field f).ctxs.find? fun w => w.id == k && w.state == 2) = some w)
    (ha : w.again = false) (hi : s.imageServed f w = true)
    (hp : ((s.modField f fun x => x.servedImage w).modField f fun x => { x.modCtx k (fun w => { w with state := 3, again := false }) with
      saves := sat48 (x.saves + 1) }).pageWrite w.inst w.tag f w.page w.image.length = (true, t)) :
    exec (.contextSaveDone f k) s = .next (t.serveCtx f) := by
  simp only [exec, execContextSaveDone, hw, hi, hp, ha, Bool.not_true, Bool.false_eq_true, if_true, if_false]

/-- Noting that an image is served leaves its page as clean as it was. -/
theorem clean_servedImage (hc : s.clean f w.page = true) : (s.modField f fun x => x.servedImage w).clean f w.page = true := by
  have page : (s.modField f fun x => x.servedImage w).pageOf f w.page = s.pageOf f w.page := by
    have pages : ((s.modField f fun x => x.servedImage w).field f).pages = (s.field f).pages := by
      rw [State.modField_read]
      split <;> rfl
    unfold State.pageOf State.regionAt
    rw [pages]
    rfl
  unfold State.clean
  rw [page]
  exact hc

section
variable (hw : ((s.field f).ctxs.find? fun w => w.id == k && w.state == 4) = some w) (hc : s.clean f w.page = true)
  (hi : s.imageServed f w = true)
include hw hc hi

theorem exec_contextRestoreDone_wrapped :
    let y := ((s.modField f fun x => x.servedImage w).modField f fun x => { x with restores := sat48 (x.restores + 1) }).modField f fun x =>
      x.modCtx k fun w => { w with state := 0 }
    exec (.contextRestoreDone f k true) s = .next
      (State.modCmd (match y.cmd? w.inst w.tag with
        | some c => y.ctxSegment f c
        | none => y) w.inst w.tag fun (c : Cmd) => if c.stage == Stage.waitCtx then { c with stage := Stage.dispatched } else c) := by
  have good : ((PageRead.clean == .uncorrectable) || (PageRead.clean == .poisoned)) = false := rfl
  simp only [exec, execContextRestoreDone, hw, hi, State.readPage_clean (clean_servedImage hc), good, Bool.not_true, Bool.and_false, Bool.false_eq_true,
    if_false] <;> rfl

theorem exec_contextRestoreDone_torn (hk : w.keyed = true) : exec (.contextRestoreDone f k false) s = .next
    (((s.modField f fun x => x.servedImage w).modField f fun x => { x with restores := sat48 (x.restores + 1) }).complete w.inst w.tag
      { status := .faultDetected }) := by
  have good : ((PageRead.clean == .uncorrectable) || (PageRead.clean == .poisoned)) = false := rfl
  simp only [exec, execContextRestoreDone, hw, hi, State.readPage_clean (clean_servedImage hc), good, hk, Bool.not_true, Bool.not_false,
    Bool.and_self, Bool.false_eq_true, if_true, if_false]

end

/-! ### Threads and acres -/

theorem exec_caddyThreadFree_waiting (hu : s.threadsUsed f < 64)
    (hc : (s.cmds.find? fun c => c.stage == .waitThread && (c.field == some f || c.field2 == some f)) = some c) :
    exec (.caddyThreadFree f) s = .next (s.modCmd c.inst c.tag fun c => { c with stage := .dispatched }) := by
  simp only [exec, execCaddyThreadFree, ge_iff_le, hu.not_ge, if_false, hc]

theorem exec_acreFreeRunStart_turn {a : Nat} {r : Run} (ha : a < 4) (hf : f < s.n) (hr : s.nextRun f a = some r) :
    exec (.acreFreeRunStart f a) s = .next (s.startRun r.id a) := by
  simp only [exec, execAcreFreeRunStart, ha, hf, decide_true, Bool.and_self, if_true, hr]

/-- Settles O40, row by row. -/
theorem waitsEnd : Obligations.WaitsEnd := by
  unfold Obligations.WaitsEnd
  refine ⟨fun _ _ => rfl, fun _ _ => exec_leafReservationDone_good, fun _ _ => exec_leafReservationDone_torn,
    fun _ _ => exec_cacheRebuildDone_turn, fun _ _ _ _ hw ha hi _ => exec_contextSaveDone_written hw ha hi,
    fun _ _ _ _ => exec_contextRestoreDone_wrapped, fun _ _ _ _ => exec_contextRestoreDone_torn, fun _ _ => rfl,
    fun _ _ _ => exec_caddyThreadFree_waiting, fun _ => rfl, fun _ _ => rfl, fun _ _ _ _ => exec_acreFreeRunStart_turn⟩

/-! ### Drains and idle limits -/

theorem exec_fallowDrainDone (hc : s.inProgress 0x0005 = some c) : exec .fallowDrainDone s =
    .next (if s.othersDone c then s.complete c.inst c.tag { status := .ok } else s) := by
  simp only [exec, execFallowDrainDone, hc]

theorem exec_recoverDrainTimeout_left (hc : s.inProgress 0x0007 = some c) (hr : s.pkg.run ≠ .operational) :
    exec .recoverDrainTimeout s = .next (s.complete c.inst c.tag { status := .stateForbids }) := by
  simp only [exec, execRecoverDrainTimeout, hc, bne_iff_ne, if_pos hr]

theorem exec_recoverDrainTimeout_operational (hc : s.inProgress 0x0007 = some c) (hr : s.pkg.run = .operational) :
    exec .recoverDrainTimeout s =
      .next ((s.endAll (s.cmds.filter fun d => !d.isDone && !(d.inst == c.inst && d.tag == c.tag)) .machineCheck).toRecovery.complete
        c.inst c.tag { status := .ok }) := by
  simp only [exec, execRecoverDrainTimeout, hc, hr, bne_self_eq_false, Bool.false_eq_true, if_false]

/-- At LC_ADVANCE's limit the life cycle goes on, in Production with a new DNONCE. -/
theorem exec_lcAdvanceDrainTimeout (hc : s.inProgress 0x0C10 = some c) :
    let y := s.endAll (s.cmds.filter fun d => !d.isDone && !(d.inst == c.inst && d.tag == c.tag)) .machineCheck
    exec .lcAdvanceDrainTimeout s =
      .next ((if y.lc == .production then y.newNonce else y).advance.complete c.inst c.tag { status := .ok }) := by
  simp only [exec, execLcAdvanceDrainTimeout, hc]

theorem exec_tkIdleExpiry (b : Bool) (hb : (s.ikes.any fun k => k.handle == h && k.state < 5) = b) : exec (.tkIdleExpiry h) s =
    .next (if b then (s.dropIke h).raise (hInst h) 0x0305 (toBE 6 h) else s) := by
  simp only [exec, execTkIdleExpiry, hb]

/-- Settles O41, row by row. -/
theorem drainRows : Obligations.DrainRows := by
  unfold Obligations.DrainRows
  refine ⟨?done, ?notDone, fun _ _ => exec_recoverDrainTimeout_left, fun _ _ => exec_recoverDrainTimeout_operational, ?advance, ?production,
    fun _ _ => exec_tkIdleExpiry true, fun _ _ => exec_tkIdleExpiry false, ?scan⟩
  case done =>
    intro s c hc ho
    rw [exec_fallowDrainDone hc, if_pos ho]
  case notDone =>
    intro s c hc ho
    rw [exec_fallowDrainDone hc, ho]
    rfl
  case advance =>
    intro s c hc y hy
    rw [exec_lcAdvanceDrainTimeout hc, if_neg (beq_iff_eq.not.2 hy)]
  case production =>
    intro s c hc y hy
    rw [exec_lcAdvanceDrainTimeout hc, if_pos (beq_iff_eq.2 hy)]
  case scan =>
    intro s ht
    simp only [exec, execSaLifetimeScan, ht, if_true]

end Sys2Proof.Machine
end

section
/-! The time base (R514, R515, R536) and INLINE traffic (R276 to R282, R545): each row where its conditions hold, and the obligations about
them. -/

namespace Sys2Proof.Machine

variable {s : State}

/-! ### The time base -/

/-- Locking again leaves the clock locked and outside holdover, and nothing else of it changes. -/
theorem relock_clock (s : State) : s.relock.clock = { s.clock with holdover := false, locked := true } := by
  unfold State.relock
  dsimp only
  split <;> rfl

theorem holdover_clock_running (h : s.clock.holdover = false) : s.holdover =
    State.raise { s with clock := { s.clock with holdover := true, locked := false } } 0 0x0106 (toBEInt 8 s.clock.offset) := by
  unfold State.holdover
  rw [h]
  rfl

/-- Holdover changes of the clock the two flags alone. -/
theorem holdover_clock (s : State) : s.holdover.clock = { s.clock with holdover := true, locked := s.clock.locked && s.clock.holdover } := by
  unfold State.holdover
  split
  · rename_i h
    rw [h, Bool.and_true, ← h]
  · rename_i h
    rw [Bool.eq_false_of_not_eq_true h, Bool.and_false]
    rfl

theorem correct_clock (s : State) (d : Int) : (s.correct d).clock =
    if d > 1000000 then { s.clock with time := s.clock.time + d.toNat, offset := d, slew := 0 } else { s.clock with offset := d, slew := d } := rfl

theorem correct_time_ge (s : State) (d : Int) : s.clock.time ≤ (s.correct d).clock.time := by
  rw [correct_clock]
  split
  · exact Nat.le_add_right _ _
  · exact Nat.le_refl _

/-- A correction by a step moves the time, one by a slew sets the slew; both note the offset. -/
theorem correct_applied (s : State) (d : Int) : (s.correct d).clock.offset = d ∧
    (d > 1000000 → ((s.correct d).clock.time : Int) = s.clock.time + d ∧ (s.correct d).clock.slew = 0) ∧
    (d ≤ 1000000 → (s.correct d).clock.time = s.clock.time ∧ (s.correct d).clock.slew = d) := by
  rw [correct_clock]
  refine ⟨by split <;> rfl, fun h => ?_, fun h => ?_⟩
  · rw [if_pos h]
    exact ⟨by simp only [Nat.cast_add]; omega, rfl⟩
  · rw [if_neg (by omega)]
    exact ⟨rfl, rfl⟩

theorem exec_ptpSyncRx {p : Nat} {d : Int} (hs : s.clock.source = 1) (hp : s.clock.port = p) (hu : (s.port p).up = true) :
    exec (.ptpSyncRx p d) s = .next (s.correct d).relock := by
  simp only [exec, execPtpSyncRx, hs, hp, hu, beq_self_eq_true, Bool.and_self, if_true]

theorem relock_of_holdover (h : s.clock.holdover = true) : s.relock =
    State.raise { s with clock := { s.clock with holdover := false, locked := true } } 0 0x0107 (toBEInt 8 s.clock.offset) := by
  unfold State.relock
  rw [h]
  rfl

theorem correct_holdover (s : State) (d : Int) : (s.correct d).clock.holdover = s.clock.holdover := by
  rw [correct_clock]
  split <;> rfl

/-- An edge counts one second and corrects the time to it. -/
theorem exec_ppsInEdge (hs : s.clock.source = 2) (hp : s.ppsIn = true) : exec .ppsInEdge s = .next
    ((s.modClock fun c => { c with base := c.base + second }).correct ((s.clock.base : Int) - (s.clock.time : Int))).relock := by
  simp only [exec, execPpsInEdge, hs, hp, beq_self_eq_true, Bool.and_self, if_true]

theorem correct_base (s : State) (d : Int) : (s.correct d).clock.base = s.clock.base := by
  rw [correct_clock]
  split <;> rfl

theorem passTime_time_ge (s : State) : s.clock.time ≤ s.passTime.clock.time := by
  have counted : s.passTime.clock.time = s.clock.time ∨ s.passTime.clock.time = s.clock.time + 1 ∨ s.passTime.clock.time = s.clock.time + 2 := by
    unfold State.passTime
    dsimp only
    split_ifs <;> simp
  omega

/-- Settles O42, row by row. -/
theorem timeBaseRows : Obligations.TimeBaseRows := by
  unfold Obligations.TimeBaseRows
  refine ⟨?sync, ?lost, ?regained, ?edge, ?missed, ?pulse, ?noPin, passTime_time_ge⟩
  case sync =>
    intro s p d hs hp hu
    refine ⟨_, exec_ptpSyncRx hs hp hu, ?_⟩
    rw [relock_clock]
    exact ⟨rfl, rfl, correct_applied s d⟩
  case lost =>
    intro s hs hh
    simp only [exec, execPtpSyncTimeout, hs, beq_self_eq_true, if_true, holdover_clock_running hh]
  case regained =>
    intro s p d hs hp hu hh
    rw [exec_ptpSyncRx hs hp hu, relock_of_holdover ((correct_holdover s d).trans hh), (correct_applied s d).1]
  case edge =>
    intro s hs hp
    refine ⟨_, exec_ppsInEdge hs hp, ?_⟩
    rw [relock_clock]
    exact ⟨correct_time_ge (s.modClock fun c => { c with base := c.base + second }) _, correct_base _ _, rfl⟩
  case missed =>
    intro s hs
    refine ⟨(s.modClock fun c => { c with base := c.base + 3 * second }).holdover, ?_, ?_⟩
    · simp only [exec, execPpsInMissed, hs, beq_self_eq_true, if_true]
    · rw [holdover_clock]
      exact ⟨rfl, rfl, rfl⟩
  case pulse =>
    intro s k hk
    simp only [exec, execPpsOutSecond, hk]
  case noPin =>
    intro s hk
    simp only [exec, execPpsOutSecond, hk]

/-! ### INLINE traffic -/

section
variable {f : RxFrame} {a : Sa}

/-- An SA that is expired or homed on a dead field drops the packet. -/
theorem withSa_dead {p : Nat} (g : State → State) (h : s.saLive a = false) : s.withSa p a g = s.drop p fun d => { d with sa := d.sa + 1 } := by
  unfold State.withSa
  rw [h]
  rfl

/-- An SA that serves packets does so once its key is cached. -/
theorem withSa_serves {p : Nat} (g : State → State) (h : s.saServes a = true) : s.withSa p a g = g (s.cacheSa a) := by
  unfold State.saServes at h
  obtain ⟨live, ready⟩ := Bool.and_eq_true_iff.1 h
  unfold State.withSa State.cacheSa
  simp only [live, Bool.not_true, Bool.false_eq_true, if_false]
  cases hc : ((s.field a.field).cachedOn (saSlot a.handle)).isSome with
  | true => rfl
  | false =>
    rw [hc, Bool.false_or] at ready
    obtain ⟨key, clean⟩ := Bool.and_eq_true_iff.1 ready
    have some : (s.field a.field).saKey.isNone = false := by rw [← Option.not_isSome, key]; rfl
    simp only [some, State.readPage_clean clean, Bool.false_eq_true, if_false]

/-- The host port's row, of a frame that names that port. -/
theorem execHostPortInlineFrame_port (hp : f.port = 0) : execHostPortInlineFrame f s = .next (
    if !s.mode .inline || !(s.port 0).up then s
    else if f.ethertype == s.settingF 0x01 then s.drillFrame f
    else if !f.fcsOk || f.len > 9216 then s.drop 0 fun d => { d with mac := d.mac + 1 }
    else s.takePacket f) := by
  cases f
  subst hp
  rfl

/-- The line port's row, of a frame that names that port. -/
theorem execLinePortFrame_port (hp : f.port = 1) : execLinePortFrame f s = .next (
    if !s.mode .inline || !(s.port 1).up then s
    else if !f.fcsOk || f.len > 9216 then s.drop 1 fun d => { d with mac := d.mac + 1 }
    else if f.sec.isNone && f.ethertype == s.settingF 0x01 then s.drop 1 fun d => { d with line := d.line + 1 }
    else s.takePacket f) := by
  cases f
  subst hp
  rfl

section
variable (hm : s.mode .inline = true) (hu : (s.port 0).up = true) (hp : f.port = 0)
include hm hu hp

theorem exec_hostPortInlineFrame_drill (he : f.ethertype = s.settingF 0x01) : exec (.hostPortInlineFrame f) s = .next (s.drillFrame f) := by
  simp only [exec, execHostPortInlineFrame_port hp, hm, hu, he, beq_self_eq_true, Bool.not_true, Bool.or_self, Bool.false_eq_true, if_true, if_false]

theorem exec_hostPortInlineFrame_packet (he : f.ethertype ≠ s.settingF 0x01) (hf : f.fcsOk = true) (hl : f.len ≤ 9216) :
    exec (.hostPortInlineFrame f) s = .next (s.takePacket f) := by
  simp only [exec, execHostPortInlineFrame_port hp, hm, hu, beq_eq_false_iff_ne.2 he, hf, hl.not_gt, Bool.not_true, decide_false, Bool.or_self,
    Bool.false_eq_true, if_false]

end

section
variable (hm : s.mode .inline = true) (hu : (s.port 1).up = true) (hp : f.port = 1) (hf : f.fcsOk = true) (hl : f.len ≤ 9216)
include hm hu hp hf hl

theorem exec_linePortFrame_drill (hs : f.sec = none) (he : f.ethertype = s.settingF 0x01) :
    exec (.linePortFrame f) s = .next (s.drop 1 fun d => { d with line := d.line + 1 }) := by
  simp only [exec, execLinePortFrame_port hp, hm, hu, hf, hl.not_gt, hs, he, beq_self_eq_true, Option.isNone_none, Bool.not_true, decide_false,
    Bool.or_self, Bool.and_self, Bool.false_eq_true, if_true, if_false]

theorem exec_linePortFrame_packet (h : f.sec.isSome = true ∨ f.ethertype ≠ s.settingF 0x01) :
    exec (.linePortFrame f) s = .next (s.takePacket f) := by
  have other : (f.sec.isNone && f.ethertype == s.settingF 0x01) = false := by
    rcases h with some | ne
    · rw [← Option.not_isSome, some]; rfl
    · rw [beq_eq_false_iff_ne.2 ne, Bool.and_false]
  simp only [exec, execLinePortFrame_port hp, hm, hu, hf, hl.not_gt, other, Bool.not_true, decide_false, Bool.or_self, Bool.false_eq_true, if_false]

end

/-- A packet that waits for the power ceiling. -/
theorem takePacket_throttled (h : s.power.throttle = true) : s.takePacket f = s.holdPacket f := if_pos h

theorem takePacket_host (h : s.power.throttle = false) (hp : f.port = 0) : s.takePacket f = s.hostPacket f := by
  simp only [State.takePacket, State.passPacket, h, hp, beq_self_eq_true, Bool.false_eq_true, if_true, if_false]

theorem takePacket_line (h : s.power.throttle = false) (hp : f.port = 1) : s.takePacket f = s.linePacket f := by
  have other : ((1 : Nat) == 0) = false := rfl
  simp only [State.takePacket, State.passPacket, h, hp, other, Bool.false_eq_true, if_false]

theorem hostPacket_none (h : s.saForVid f = none) : s.hostPacket f = s.inlineMiss f := by
  simp only [State.hostPacket, h]

theorem hostPacket_some (h : s.saForVid f = some a) :
    s.hostPacket f = s.withSa 0 a fun s => if a.kind == 1 then s.espOut f a else s.macsecOut f a := by
  simp only [State.hostPacket, h]

theorem linePacket_esp {spi dst : Nat} {v6 : Bool} {esp : Bytes} (hs : f.sec = none) (he : espIn f = some (spi, dst, v6, esp))
    (ha : (s.sas.find? fun a => a.kind == 2 && a.spi == spi && a.outerV6 == v6 && a.outerDst == dst) = some a) :
    s.linePacket f = s.withSa 1 a fun s => s.espAccept a esp := by
  simp only [State.linePacket, State.lineSa, hs, he, ha]

theorem linePacket_macsec {t : SecTag} (hs : f.sec = some t)
    (ha : (s.sas.find? fun a => a.kind == 4 && a.sci == t.sci && a.an == t.an) = some a) :
    s.linePacket f = s.withSa 1 a fun s => s.macsecAccept a f t := by
  simp only [State.linePacket, State.lineSa, hs, ha]

end

/-- Settles O43, row by row. -/
theorem inlineRows : Obligations.InlineRows := by
  unfold Obligations.InlineRows
  refine ⟨fun s f hm hu hp he => exec_hostPortInlineFrame_drill hm hu hp he, ?out, ?dead, ?miss, ?hold, ?esp, ?macsec, ?holdLine,
    fun s f hm hu hp hf hl hs he => exec_linePortFrame_drill hm hu hp hf hl hs he⟩
  case out =>
    intro s f a hm hu ht hp he hf hl ha hs
    rw [exec_hostPortInlineFrame_packet hm hu hp he hf hl, takePacket_host ht hp, hostPacket_some ha, withSa_serves _ hs]
  case dead =>
    intro s f a hm hu ht hp he hf hl ha hd
    rw [exec_hostPortInlineFrame_packet hm hu hp he hf hl, takePacket_host ht hp, hostPacket_some ha, withSa_dead _ hd]
  case miss =>
    intro s f hm hu ht hp he hf hl ha
    rw [exec_hostPortInlineFrame_packet hm hu hp he hf hl, takePacket_host ht hp, hostPacket_none ha]
  case hold =>
    intro s f hm hu ht hp he hf hl
    rw [exec_hostPortInlineFrame_packet hm hu hp he hf hl, takePacket_throttled ht]
  case esp =>
    intro s f a spi dst v6 esp hm hu ht hp hf hl hs he hi ha hv
    rw [exec_linePortFrame_packet hm hu hp hf hl (.inr he), takePacket_line ht hp, linePacket_esp hs hi ha, withSa_serves _ hv]
  case macsec =>
    intro s f t a hm hu ht hp hf hl hs ha hv
    rw [exec_linePortFrame_packet hm hu hp hf hl (.inl (by rw [hs]; rfl)), takePacket_line ht hp, linePacket_macsec hs ha, withSa_serves _ hv]
  case holdLine =>
    intro s f hm hu ht hp hf hl h
    rw [exec_linePortFrame_packet hm hu hp hf hl h, takePacket_throttled ht]

end Sys2Proof.Machine
end

section
/-! What staging a reply changes (R30, R107, R151, R416): of a field, of the rest of the state, and part by part of what it may change. -/

namespace Sys2Proof.Machine

/-! ### Pages given back -/

/-- What of a field the freeing of pages leaves. -/
def FieldSt.butPages (x : FieldSt) : FieldSt := { x with pages := [], merge := [], withdrawn := [], sparesEvent := false, draining := [] }

/-- A field whose pages, and merge images, are at most those it had. -/
def FieldSt.Freed (x y : FieldSt) : Prop := y.butPages = x.butPages ∧ (∀ p ∈ y.pages, p ∈ x.pages) ∧ ∀ m ∈ y.merge, m ∈ x.merge

theorem FieldSt.Freed.refl (x : FieldSt) : x.Freed x := ⟨rfl, fun _ => id, fun _ => id⟩

theorem FieldSt.Freed.trans {x y z : FieldSt} (h : x.Freed y) (h' : y.Freed z) : x.Freed z :=
  ⟨h'.1.trans h.1, fun p hp => h.2.1 p (h'.2.1 p hp), fun m hm => h.2.2 m (h'.2.2 m hm)⟩

/-- No page of any field is to be withdrawn when freed (R454). -/
def State.NoDrop (s : State) : Prop := ∀ f, ∀ p ∈ (s.field f).pages, p.drop = false

/-- What of a state the freeing of pages leaves. -/
def State.butFields (s : State) : State := { s with insts := [], fields := [] }

/-- A state whose fields have at most the pages they had, and whose instances have an event more only where a page was withdrawn. -/
def State.Frees (s t : State) : Prop :=
  t.butFields = s.butFields ∧ t.fields.length = s.fields.length ∧ (∀ f, (s.field f).Freed (t.field f)) ∧ (s.NoDrop → t.insts = s.insts)

theorem State.Frees.refl (s : State) : s.Frees s := ⟨rfl, rfl, fun _ => .refl _, fun _ => rfl⟩

theorem State.Frees.noDrop {s t : State} (h : s.Frees t) (hs : s.NoDrop) : t.NoDrop := fun f p hp => hs f p ((h.2.2.1 f).2.1 p hp)

theorem State.Frees.trans {s t u : State} (h : s.Frees t) (h' : t.Frees u) : s.Frees u :=
  ⟨h'.1.trans h.1, h'.2.1.trans h.2.1, fun f => (h.2.2.1 f).trans (h'.2.2.1 f), fun hs => (h'.2.2.2 (h.noDrop hs)).trans (h.2.2.2 hs)⟩

theorem frees_modField (s : State) {f : Nat} {g : FieldSt → FieldSt} (hg : ∀ x : FieldSt, x.Freed (g x)) : s.Frees (s.modField f g) := by
  refine ⟨rfl, s.modField_count f g, fun k => ?_, fun _ => rfl⟩
  rw [s.modField_read]
  split
  · exact hg _
  · exact .refl _

theorem frees_foldl {α : Type} {g : State → α → State} (hg : ∀ (s : State) (a : α), s.Frees (g s a)) (l : List α) (s : State) :
    s.Frees (l.foldl g s) :=
  List.foldlRecOn (motive := s.Frees) l g (.refl s) fun _ h _ _ => h.trans (hg _ _)

theorem raise_frees {s t : State} (h : s.Frees t) (hs : ¬s.NoDrop) (i code : Nat) (b : Bytes) : s.Frees (t.raise i code b) :=
  ⟨h.1, h.2.1, h.2.2.1, fun hd => absurd hd hs⟩

theorem withdraw_frees {s t : State} {f : Nat} {ps : List Nat} (h : s.Frees t) (hs : ps ≠ [] → ¬s.NoDrop) : s.Frees (t.withdraw f ps) := by
  unfold State.withdraw
  split
  · exact h
  · rename_i some
    have dropped := hs fun none => some (by rw [none]; rfl)
    have marked : s.Frees (t.modField f fun x => { x with withdrawn := x.withdrawn ++ ps, sparesEvent := true }) :=
      h.trans (frees_modField t fun x => ⟨rfl, fun _ => id, fun _ => id⟩)
    dsimp only
    split
    · exact raise_frees marked dropped _ _ _
    · exact marked

theorem freePages_frees (s : State) (f : Nat) (ps : List Nat) : s.Frees (s.freePages f ps) := by
  refine withdraw_frees (frees_modField s fun x => ⟨rfl, fun p hp => List.mem_of_mem_filter hp, fun _ => id⟩) fun some none => some ?_
  refine List.map_eq_nil_iff.2 (List.filter_eq_nil_iff.2 fun p hp => ?_)
  simp [none f p hp]

theorem freeImages_frees (s : State) (c : Cmd) : s.Frees (s.freeImages c) := frees_foldl (fun _ _ => freePages_frees _ _ _) _ _

theorem freeDrained_frees (s : State) : s.Frees s.freeDrained := by
  have one (f : Nat) (s : State) (e : Nat × List Nat) :
      s.Frees ((s.freePages f e.2).modField f fun x => { x with draining := x.draining.filter (· != e) }) :=
    (freePages_frees s f e.2).trans (frees_modField _ fun x => ⟨rfl, fun _ => id, fun _ => id⟩)
  exact frees_foldl (fun _ f => frees_foldl (one f) _ _) _ s

theorem freeStage_frees (s : State) : s.Frees s.freeStage := by
  refine frees_foldl (fun s f => (freePages_frees s f _).trans (frees_modField _ fun x => ?_)) _ _
  exact ⟨rfl, fun _ => id, fun _ hm => List.mem_of_mem_filter hm⟩

/-! ### What of a field a command's end may change -/

/-- What of a field the end of a command leaves. -/
def FieldSt.butWork (x : FieldSt) : FieldSt :=
  { x.butPages with furrows := [], threads := [], ctxs := [], ctxWait := [], whisk := [], ops := 0, setPoint := 0, fullPoint := 0, slots := [] }

/-- A field after the end of a command: engines, counts and set points may change, pages, merge images and keys only be given back. -/
def FieldSt.Eased (x y : FieldSt) : Prop :=
  y.butWork = x.butWork ∧ (∀ p ∈ y.pages, p ∈ x.pages) ∧ (∀ m ∈ y.merge, m ∈ x.merge) ∧ (x.slots = [] → y.slots = [])

theorem FieldSt.Eased.refl (x : FieldSt) : x.Eased x := ⟨rfl, fun _ => id, fun _ => id, id⟩

theorem FieldSt.Eased.trans {x y z : FieldSt} (h : x.Eased y) (h' : y.Eased z) : x.Eased z :=
  ⟨h'.1.trans h.1, fun p hp => h.2.1 p (h'.2.1 p hp), fun m hm => h.2.2.1 m (h'.2.2.1 m hm), fun hs => h'.2.2.2 (h.2.2.2 hs)⟩

theorem FieldSt.Freed.eased {x y : FieldSt} (h : x.Freed y) : x.Eased y :=
  have work : y.butPages.butWork = x.butPages.butWork := congrArg FieldSt.butWork h.1
  have slots : y.butPages.slots = x.butPages.slots := congrArg FieldSt.slots h.1
  ⟨work, h.2.1, h.2.2, slots.trans⟩

/-- What of a state the end of a command leaves: all but instances, commands, transfers, runs, IKE SAs and fields, and what has stopped
admission. -/
def State.butWork (s : State) : State :=
  { s with pkg := { s.pkg with stops := [] }, insts := [], cmds := [], xfers := [], ikes := [], runs := [], fields := [] }

/-- A state after the end of commands. -/
def State.Eases (s t : State) : Prop := t.butWork = s.butWork ∧ t.fields.length = s.fields.length ∧ ∀ f, (s.field f).Eased (t.field f)

theorem State.Eases.refl (s : State) : s.Eases s := ⟨rfl, rfl, fun _ => .refl _⟩

theorem State.Eases.trans {s t u : State} (h : s.Eases t) (h' : t.Eases u) : s.Eases u :=
  ⟨h'.1.trans h.1, h'.2.1.trans h.2.1, fun f => (h.2.2 f).trans (h'.2.2 f)⟩

theorem State.Frees.eases {s t : State} (h : s.Frees t) : s.Eases t :=
  have work : t.butFields.butWork = s.butFields.butWork := congrArg State.butWork h.1
  ⟨work, h.2.1, fun f => (h.2.2.1 f).eased⟩

theorem eases_modField (s : State) {f : Nat} {g : FieldSt → FieldSt} (hg : ∀ x : FieldSt, x.Eased (g x)) : s.Eases (s.modField f g) := by
  refine ⟨rfl, s.modField_count f g, fun k => ?_⟩
  rw [s.modField_read]
  split
  · exact hg _
  · exact .refl _

/-- A state whose fields are mapped, each with its number. -/
theorem eases_mapFields {s t : State} {g : FieldSt × Nat → FieldSt} (hw : t.butWork = s.butWork) (ht : t.fields = s.fields.zipIdx.map g)
    (hg : ∀ (x : FieldSt) (k : Nat), x.Eased (g (x, k))) : s.Eases t := by
  refine ⟨hw, by simp [ht], fun f => ?_⟩
  simp only [State.field, ht, List.getD_eq_getElem?_getD, List.getElem?_map, List.getElem?_zipIdx, Nat.zero_add]
  cases s.fields[f]? with
  | none => exact .refl _
  | some x => exact hg x f

theorem eases_modFields (s : State) {g : FieldSt → FieldSt} (hg : ∀ x : FieldSt, x.Eased (g x)) : s.Eases (s.modFields g) := by
  refine eases_mapFields (g := fun p => g p.1) rfl ?_ fun x _ => hg x
  refine List.ext_getElem (by simp) fun k _ _ => by simp [State.modFields]

theorem eases_foldl {α : Type} {g : State → α → State} (hg : ∀ (s : State) (a : α), s.Eases (g s a)) (l : List α) (s : State) :
    s.Eases (l.foldl g s) :=
  List.foldlRecOn (motive := s.Eases) l g (.refl s) fun _ h _ _ => h.trans (hg _ _)

/-! ### The parts of a command's end -/

theorem limitPoints_eases (s : State) : s.Eases s.limitPoints := by
  refine eases_mapFields rfl rfl fun x k => ?_
  dsimp only
  split
  · exact ⟨rfl, fun _ => id, fun _ => id, id⟩
  · exact .refl _

theorem charged_eases (l : List Run) (s : State) : s.Eases (l.foldl State.chargeRun s) :=
  eases_foldl (g := State.chargeRun) (fun _ _ => ⟨rfl, rfl, fun _ => .refl _⟩) l s

/-- A furrow stops where its run is one of a list. -/
def Furrow.stopIn (ids : List Nat) (u : Furrow) : Furrow := if (u.run.map fun k => ids.contains k).getD false then u.stop else u

/-- The runs of a set are gone, and the furrows they had stop. -/
def State.dropRuns (s : State) (mine : Run → Bool) (ids : List Nat) : State :=
  { s with runs := s.runs.filter fun r => !mine r, fields := s.fields.map fun x => { x with furrows := x.furrows.map (Furrow.stopIn ids) } }

theorem endRuns_eq (s : State) (i t : Nat) : s.endRuns i t =
    ((s.runs.filter fun r => r.inst == i && r.tag == t).foldl State.chargeRun s |>.dropRuns (fun r => r.inst == i && r.tag == t)
      ((s.runs.filter fun r => r.inst == i && r.tag == t).map (·.id))).limitPoints := rfl

theorem dropRuns_eases (s : State) (mine : Run → Bool) (ids : List Nat) : s.Eases (s.dropRuns mine ids) := by
  refine eases_mapFields (g := fun p => { p.1 with furrows := p.1.furrows.map (Furrow.stopIn ids) }) rfl ?_
    fun x k => ⟨rfl, fun _ => id, fun _ => id, id⟩
  exact List.ext_getElem (by simp [State.dropRuns]) fun k _ _ => by simp [State.dropRuns]

theorem endRuns_eases (s : State) (i t : Nat) : s.Eases (s.endRuns i t) := by
  rw [endRuns_eq]
  exact (charged_eases _ s).trans ((dropRuns_eases _ _ _).trans (limitPoints_eases _))

theorem freeEngines_eases (s : State) (i t : Nat) : s.Eases (s.freeEngines i t) :=
  eases_modFields s fun _ => ⟨rfl, fun _ => id, fun _ => id, id⟩

theorem touchIke_eases (s : State) (c : Cmd) : s.Eases (s.touchIke c) := by
  unfold State.touchIke
  split <;> exact ⟨rfl, rfl, fun _ => .refl _⟩

theorem unblock_eases (s : State) (c : Cmd) (st : Status) : s.Eases (s.unblock c st) := by
  unfold State.unblock
  split
  · exact .refl s
  split <;> exact ⟨rfl, rfl, fun _ => .refl _⟩

theorem wakeBehind_eases (s : State) (c : Cmd) : s.Eases (s.wakeBehind c) := by
  unfold State.wakeBehind
  split <;> exact ⟨rfl, rfl, fun _ => .refl _⟩

theorem modCmd_eases (s : State) (i t : Nat) (g : Cmd → Cmd) : s.Eases (s.modCmd i t g) := ⟨rfl, rfl, fun _ => .refl _⟩

theorem freeDead_eases (s : State) : s.Eases s.freeDead :=
  eases_modFields s fun x => ⟨rfl, fun _ => id, fun _ => id, fun hs => by simp [hs]⟩

/-- The engines, the transfer and the field's count of a command that ends. -/
def State.quit (s : State) (i t : Nat) (c : Cmd) : State :=
  let s := (s.endRuns i t).freeEngines i t
  let s := { s with xfers := s.xfers.filter (fun x => !(x.inst == i && x.tag == t)) }
  match c.field with
  | none => s
  | some f => s.modField f fun x => { x with ops := x.ops + 1 }

theorem quit_eases (s : State) (i t : Nat) (c : Cmd) : s.Eases (s.quit i t c) := by
  refine (endRuns_eases s i t).trans ((freeEngines_eases _ i t).trans ?_)
  unfold State.quit
  dsimp only
  split
  · exact ⟨rfl, rfl, fun _ => .refl _⟩
  · exact eases_modField { State.freeEngines (s.endRuns i t) i t with xfers := _ } fun _ => ⟨rfl, fun _ => id, fun _ => id, id⟩

/-- What a reply ends, and the commands it wakes. -/
def State.ceased (s : State) (i t : Nat) (c : Cmd) (st : Status) : State := (((s.quit i t c).touchIke c).unblock c st).wakeBehind c

theorem ceased_eases (s : State) (i t : Nat) (c : Cmd) (st : Status) : s.Eases (s.ceased i t c st) :=
  (quit_eases s i t c).trans ((touchIke_eases _ c).trans ((unblock_eases _ c st).trans (wakeBehind_eases _ c)))

/-- The reply a command is left with: under an INSTANCE_RESET that has come to it, what R117 makes of its reply. -/
def State.finalReply (s : State) (c : Cmd) (r : Reply) : Reply := if c.reset then s.resetReply c r else r

/-- A command with its reply staged, before what it held is given back. -/
def State.staged (s : State) (i t : Nat) (c : Cmd) (r : Reply) : State :=
  (s.ceased i t c (s.finalReply c r).status).modCmd i t fun e => { e with stage := .done (s.finalReply c r), drawn := [] }

theorem staged_eases (s : State) (i t : Nat) (c : Cmd) (r : Reply) : s.Eases (s.staged i t c r) :=
  (ceased_eases s i t c _).trans (modCmd_eases _ i t _)

/-- What a command held, given back. -/
def State.givenBack (s : State) (c : Cmd) : State := (s.freeImages c).freeDrained.freeDead.freeStage

theorem givenBack_eases (s : State) (c : Cmd) : s.Eases (s.givenBack c) :=
  ((freeImages_frees s c).trans (freeDrained_frees _)).eases.trans ((freeDead_eases _).trans (freeStage_frees _).eases)

theorem finalReply_eq {s t : State} (hk : t.keys = s.keys) (ha : t.sas = s.sas) (c : Cmd) (r : Reply) : t.finalReply c r = s.finalReply c r := by
  simp only [State.finalReply, State.resetReply, State.nullHandles, hk, ha]

/-- What staging a reply does to a command that has none. -/
theorem setDone_of {s : State} {i t : Nat} {c : Cmd} (r : Reply) (hc : s.cmd? i t = some c) (hd : c.isDone = false) :
    s.setDone i t r = (s.staged i t c r).givenBack c := by
  have work : ((s.quit i t c).touchIke c).butWork = s.butWork := ((quit_eases s i t c).trans (touchIke_eases _ c)).1
  have reply : ((s.quit i t c).touchIke c).finalReply c r = s.finalReply c r :=
    finalReply_eq (congrArg (·.keys) work) (congrArg (·.sas) work) c r
  unfold State.staged State.ceased
  rw [← reply]
  simp only [State.setDone, hc, hd, Bool.false_eq_true, if_false]
  rfl

theorem setDone_eases (s : State) (i t : Nat) (r : Reply) : s.Eases (s.setDone i t r) := by
  cases hc : s.cmd? i t with
  | none =>
    simp only [State.setDone, hc]
    exact .refl s
  | some c =>
    cases hd : c.isDone with
    | true =>
      simp only [State.setDone, hc, hd, if_true]
      exact .refl s
    | false =>
      rw [setDone_of r hc hd]
      exact (staged_eases s i t c r).trans (givenBack_eases _ c)

theorem endAll_eases (s : State) (cs : List Cmd) (st : Status) : s.Eases (s.endAll cs st) :=
  eases_foldl (g := fun s (c : Cmd) => s.setDone c.inst c.tag { status := st }) (fun _ _ => setDone_eases _ _ _ _) cs s

end Sys2Proof.Machine
end

section
/-! O7 fails: where an INSTANCE_RESET has come to a RECOVER, the reply that is staged is the reset's, and admission goes on. -/

namespace Sys2Proof.Machine

/-- A RECOVER past its commit point to which an INSTANCE_RESET has come (R117). -/
def resetRecover : Cmd := { inst := 0, tag := 1, op := 0x0007, ctx := default, stage := .running, reset := true }

/-- The part while that RECOVER has stopped admission (R48). -/
def recovering : State := { State.reset with pkg := { stops := [.recover] }, cmds := [resetRecover] }

/-- The reset's reply ends the stop, though the command's own reply had status OK. -/
theorem recovering_settled_stops : (settled 0 1 (recovering, some { status := .ok })).pkg.stops = [] := by decide +kernel

/-- Refutes O7: a reply with status OK does not leave the package record where an INSTANCE_RESET has come to a RECOVER that drains: what is
staged is the reset's reply, and `State.unblock` starts admission again. -/
theorem not_stagingFrame : ¬ Obligations.StagingFrame := by
  unfold Obligations.StagingFrame
  intro h
  obtain ⟨_, _, _, pkg, _⟩ := h recovering 0 1 resetRecover { status := .ok } rfl rfl (by decide +kernel) (by decide) (by decide)
  have stops := congrArg Pkg.stops (pkg rfl)
  rw [recovering_settled_stops] at stops
  exact absurd stops (by decide)

end Sys2Proof.Machine
end

section
/-! What comes before a command's commit point (R101, R107, R126, R136, R137, R250, R284, R301, R442), and O6. -/

namespace Sys2Proof.Machine

variable {i k f : Nat} {s t u : State} {c : Cmd} {d : Desc}

/-! ### Commands -/

/-- A map of the commands that keeps their names maps the command found. -/
theorem cmd?_of_map {g : Cmd → Cmd} (hg : ∀ d : Cmd, (g d).inst = d.inst ∧ (g d).tag = d.tag) (h : t.cmds = s.cmds.map g) (i k : Nat) :
    t.cmd? i k = (s.cmd? i k).map g := by
  have same : ((fun d : Cmd => d.inst == i && d.tag == k) ∘ g) = fun d => d.inst == i && d.tag == k := by
    funext d
    simp only [Function.comp, (hg d).1, (hg d).2]
  rw [State.cmd?, h, List.find?_map, same]
  rfl

theorem cmd?_named (h : s.cmd? i k = some c) : c.inst = i ∧ c.tag = k := by
  simpa using List.find?_some (p := fun d : Cmd => d.inst == i && d.tag == k) h

/-- An update of a command's entry is what the part then knows of it. -/
theorem cmd?_modCmd {g : Cmd → Cmd} (hg : ∀ d : Cmd, (g d).inst = d.inst ∧ (g d).tag = d.tag) (s : State) (i k : Nat) :
    (s.modCmd i k g).cmd? i k = (s.cmd? i k).map g := by
  rw [cmd?_of_map (g := fun d => if d.inst == i && d.tag == k then g d else d) _ (State.modCmd_cmds ..)]
  · cases hc : s.cmd? i k with
    | none => rfl
    | some d =>
      obtain ⟨rfl, rfl⟩ := cmd?_named hc
      simp only [Option.map_some, beq_self_eq_true, Bool.and_self, if_true]
  · intro d
    split
    · exact hg d
    · exact ⟨rfl, rfl⟩

/-! ### What the steps before a commit point leave -/

/-- What of a field the steps before a command's commit point leave. -/
def FieldSt.butPrep (x : FieldSt) : FieldSt :=
  { x with slots := [], nextUse := 0, whisk := [], ctxWait := [], descCache := [], seed := {}, pages := [] }

/-- What of a state they leave. -/
def State.butPrep (s : State) : State := { s with cmds := [], fields := [], free := 0 }

/-- A state as the steps before the commit point of one command leave it: the opcode of its entry is the same, and so are the entries of the
others. -/
structure State.Prepares (i k : Nat) (s t : State) : Prop where
  rest : t.butPrep = s.butPrep
  count : t.fields.length = s.fields.length
  field (f : Nat) : (t.field f).butPrep = (s.field f).butPrep
  other {j l : Nat} : ¬(j = i ∧ l = k) → t.cmd? j l = s.cmd? j l
  own : (t.cmd? i k).map Cmd.op = (s.cmd? i k).map Cmd.op

theorem State.Prepares.refl (i k : Nat) (s : State) : s.Prepares i k s := ⟨rfl, rfl, fun _ => rfl, fun _ => rfl, rfl⟩

theorem State.Prepares.trans (h : s.Prepares i k t) (h' : t.Prepares i k u) : s.Prepares i k u :=
  ⟨h'.rest.trans h.rest, h'.count.trans h.count, fun f => (h'.field f).trans (h.field f), fun n => (h'.other n).trans (h.other n),
    h'.own.trans h.own⟩

theorem prepares_modField (i k : Nat) (s : State) (f : Nat) {g : FieldSt → FieldSt} (hg : ∀ x : FieldSt, (g x).butPrep = x.butPrep) :
    s.Prepares i k (s.modField f g) := by
  refine ⟨rfl, s.modField_count f g, fun j => ?_, fun _ => rfl, rfl⟩
  rw [s.modField_read]
  split
  · exact hg _
  · rfl

theorem prepares_foldl {α : Type} (i k : Nat) {g : State → α → State} (hg : ∀ (s : State) (a : α), s.Prepares i k (g s a)) (l : List α)
    (s : State) : s.Prepares i k (l.foldl g s) :=
  List.foldlRecOn (motive := s.Prepares i k) l g (.refl i k s) fun _ h _ _ => h.trans (hg _ _)

/-- An update of the command's own entry that keeps its name and opcode. -/
theorem prepares_modCmd (s : State) {g : Cmd → Cmd} (hg : ∀ c : Cmd, (g c).inst = c.inst ∧ (g c).tag = c.tag ∧ (g c).op = c.op) :
    s.Prepares i k (s.modCmd i k g) := by
  refine ⟨rfl, rfl, fun _ => rfl, fun n => State.modCmd_other s n g fun c => ⟨(hg c).1, (hg c).2.1⟩, ?_⟩
  rw [cmd?_modCmd fun c => ⟨(hg c).1, (hg c).2.1⟩, Option.map_map]
  exact congrArg (Option.map · _) (funext fun c => (hg c).2.2)

theorem State.Prepares.xfers_eq (h : s.Prepares i k t) : t.xfers = s.xfers :=
  have eq : t.butPrep.xfers = s.butPrep.xfers := congrArg State.xfers h.rest
  eq

/-! ### Descriptors -/

/-- A descriptor that is cached, or lies on a clean page, is read with no change but to the cache. -/
theorem readDesc_cached (hc : (s.field (c.reader s)).descCache.contains k = true) {h : Nat} (hk : hIndex h = k) : s.readDesc c h = s := by
  subst hk
  unfold State.readDesc
  simp only [hc, Bool.true_or, if_true]
  split <;> rfl

theorem readDesc_clean {h : Nat} {y : Key} (hk : s.keyAt h = some y) (hc : s.clean (hHome h) y.descPage = true) :
    s.readDesc c h = s ∨ s.readDesc c h = s.modField (c.reader s) fun x => x.cacheDesc (hIndex h) := by
  unfold State.readDesc
  simp only [hk, State.readPage_clean hc]
  split
  · exact .inl rfl
  · exact .inr rfl

/-- The descriptor cache does not bear on a page. -/
theorem clean_cacheDesc (s : State) (g n f p : Nat) : (s.modField g fun x => x.cacheDesc n).clean f p = s.clean f p := by
  have pages : ((s.modField g fun x => x.cacheDesc n).field f).pages = (s.field f).pages := by
    rw [State.modField_read]
    split <;> rfl
  unfold State.clean State.pageOf State.regionAt
  rw [pages]
  rfl

/-- No key at a place stays so where keys are mapped to keys of the same handle. -/
theorem keyAt_none_of_map {g : Key → Key} (hg : ∀ y : Key, (g y).handle = y.handle) (ht : t.keys = s.keys.map g) {h : Nat}
    (hn : s.keyAt h = none) : t.keyAt h = none := by
  have same : ((fun y : Key => hIndex y.handle == hIndex h) ∘ g) = fun y => hIndex y.handle == hIndex h := by
    funext y
    simp only [Function.comp, hg]
  rw [State.keyAt, ht, List.find?_map, same]
  rw [State.keyAt] at hn
  rw [hn]
  rfl

theorem restoreKey_keys (s : State) (y : Key) : ∃ g : Key → Key, (∀ z : Key, (g z).handle = z.handle) ∧ (s.restoreKey y).keys = s.keys.map g := by
  have keys : ((s.allocPages (hHome y.handle) (pagesFor y.blobLen + 1) 1 (hInst y.handle)).2.freePages (hHome y.handle) y.pages).keys = s.keys := by
    have freed := (freePages_frees (s.allocPages (hHome y.handle) (pagesFor y.blobLen + 1) 1 (hInst y.handle)).2 (hHome y.handle) y.pages).1
    have eq : State.keys (State.butFields _) = State.keys (State.butFields _) := congrArg State.keys freed
    exact eq
  refine ⟨_, fun z => ?_, congrArg (List.map _) keys⟩
  dsimp only
  split <;> rfl

/-- Reading a descriptor, whatever its page holds, puts no key at a place that has none. -/
theorem readDesc_keyAt_none (c : Cmd) (y : Nat) {h : Nat} (hn : s.keyAt h = none) : (s.readDesc c y).keyAt h = none := by
  have read (f p : Nat) : (s.readPage f p).2.keys = s.keys := by
    unfold State.readPage
    dsimp only
    split <;> rfl
  have after (f p : Nat) : ∃ r t, s.readPage f p = (r, t) ∧ t.keyAt h = none :=
    ⟨_, _, rfl, (congrArg (List.find? _) (read f p)).trans hn⟩
  unfold State.readDesc
  split
  · split
    · exact hn
    · obtain ⟨r, t, hr, none⟩ := after (hHome y) (descPageOf y)
      rw [hr]
      cases r <;> exact none
  · rename_i z _
    split
    · exact hn
    · obtain ⟨r, t, hr, none⟩ := after (hHome y) z.descPage
      have restored : ((t.restoreKey z).modCmd c.inst c.tag fun c => { c with corrected := true }).keyAt h = Option.none := by
        obtain ⟨g, hg, keys⟩ := restoreKey_keys t z
        exact keyAt_none_of_map hg keys none
      have quarantined : (t.quarantine z.handle).keyAt h = Option.none := by
        refine keyAt_none_of_map (g := fun x => if x.handle == z.handle then _ else x) (fun x => ?_) rfl none
        dsimp only
        split <;> rfl
      rw [hr]
      cases r with
      | clean => exact none
      | correctable => exact none
      | poisoned => dsimp only; split; exacts [restored, quarantined]
      | uncorrectable => dsimp only; split; exacts [restored, quarantined]

theorem readState_keyAt_none (c : Cmd) {h : Nat} (l : List Nat) (hn : s.keyAt h = none) : (l.foldl (fun s k => s.readDesc c k) s).keyAt h = none :=
  List.foldlRecOn (motive := fun t : State => t.keyAt h = none) l _ hn fun _ ht _ _ => readDesc_keyAt_none c _ ht

/-- Descriptors that are all cached are all read with no change. -/
theorem readState_cached {l : List Nat} (h : ∀ y ∈ l, (s.field (c.reader s)).descCache.contains (hIndex y) = true) :
    l.foldl (fun s k => s.readDesc c k) s = s := by
  induction l with
  | nil => rfl
  | cons y l ih =>
    rw [List.foldl_cons, readDesc_cached (h y (List.mem_cons_self ..)) rfl]
    exact ih fun z hz => h z (List.mem_cons_of_mem _ hz)

/-- Descriptors on clean pages are read with no change but to the cache. -/
theorem readState_clean (i k : Nat) {l : List Nat} (h : ∀ y ∈ l, ∃ z, s.keyAt y = some z ∧ s.clean (hHome y) z.descPage = true) :
    s.Prepares i k (l.foldl (fun s k => s.readDesc c k) s) := by
  induction l generalizing s with
  | nil => exact .refl i k s
  | cons y l ih =>
    obtain ⟨z, hz, clean⟩ := h y (List.mem_cons_self ..)
    have later (w : Nat) (hw : w ∈ l) := h w (List.mem_cons_of_mem _ hw)
    rw [List.foldl_cons]
    rcases readDesc_clean (c := c) hz clean with same | cached
    · rw [same]
      exact ih later
    · rw [cached]
      refine (prepares_modField i k s _ (g := fun x => x.cacheDesc (hIndex y)) fun _ => rfl).trans (ih fun w hw => ?_)
      obtain ⟨x, hx, cx⟩ := later w hw
      exact ⟨x, hx, by rw [clean_cacheDesc]; exact cx⟩

/-! ### Steps 7 to 12 -/

/-- A list of checks none of which fails. -/
theorem firstFail_isNone {α : Type} {l : List (Bool × α)} : (firstFail l).isNone = true ↔ ∀ p ∈ l, p.1 = false := by
  simp [firstFail]

/-- Each key a command names that passes its checks is there. -/
theorem key_of_passes (hp : d.passes s c = true) {h : Nat} (hh : h ∈ d.keys s c) : ∃ z, s.keyAt h = some z := by
  refine Option.ne_none_iff_exists'.1 fun hn => ?_
  have none : (d.readState s c).key? c.inst h = none := by
    unfold State.key?
    rw [show (d.readState s c).keyAt h = Option.none from readState_keyAt_none c _ hn]
    rfl
  have later := firstFail_isNone.1 (Bool.and_eq_true_iff.1 hp).2
  have here : (((d.readState s c).key? (d.readCmd s c).inst h).isNone, Status.keyNotFound) ∈ d.later s c := by
    unfold Desc.later State.keyChecks
    simp only [List.mem_append, List.mem_flatMap]
    refine .inl (.inl (.inl (.inr ⟨h, hh, ?_⟩)))
    simp
  have missing := later _ here
  rw [show (d.readCmd s c).inst = c.inst from rfl, none] at missing
  exact absurd missing (by decide)

/-- Step 9 of a command that passes its checks, with its descriptors all cached or all on clean pages. -/
theorem readState_prepares (hp : d.passes s c = true) (i k : Nat)
    (h : (∀ h ∈ d.keys s c, (s.field (c.reader s)).descCache.contains (hIndex h) = true) ∨
      ∀ h ∈ d.keys s c, ∀ k, s.keyAt h = some k → s.clean (hHome h) k.descPage = true) : s.Prepares i k (d.readState s c) := by
  rcases h with cached | clean
  · rw [Desc.readState, readState_cached cached]
    exact .refl i k s
  · refine readState_clean i k fun y hy => ?_
    obtain ⟨z, hz⟩ := key_of_passes hp hy
    exact ⟨z, hz, clean y hy z hz⟩

theorem absorbSegment_of_whole (i k : Nat) (h : s.xfers.any (fun y => y.inst == i && y.tag == k) = false) : s.absorbSegment i k = s := by
  unfold State.absorbSegment
  split
  · rfl
  · rw [h, Bool.not_false, Bool.or_true, if_pos rfl]

/-- A command that hashes none of its segments absorbs none. -/
theorem absorbSegment_of_unhashed (h : ∀ e, s.cmd? i k = some e → e.hashBlock = 0) : s.absorbSegment i k = s := by
  unfold State.absorbSegment
  split
  · rfl
  · rename_i e he
    rw [h e he, beq_self_eq_true, Bool.or_true, Bool.true_or, if_pos rfl]

/-- A description whose passed checks do at most place the message on Thresher pipelines (R260). -/
def Desc.Places (d : Desc) : Prop :=
  ∀ (y : State) (e : Cmd), d.onPass y e = y ∨ ∃ ps, d.onPass y e = y.modCmd e.inst e.tag fun o => { o with pipes := ps }

/-- The state with the command that has passed steps 7 to 12, before what it absorbs of a segment. -/
def Desc.passedState (d : Desc) (s : State) (c : Cmd) : State :=
  let c' := d.readCmd s c
  d.onPass ((d.readState s c).modCmd c.inst c.tag fun e =>
    { e with keys := c'.keys, order := (d.readState s c).orderOf c', checked := true, started := true,
             twinned := e.twinned || c'.headTwin c'.keys, twinLocal := e.twinLocal || c'.headTwin c'.keys,
             hashAt := (d.head c').getD 0, hashBlock := d.absorbs c' }) c'

theorem judgedState_eq (d : Desc) (s : State) (c : Cmd) : d.judgedState s c = (d.passedState s c).absorbSegment c.inst c.tag := rfl

theorem passedState_prepares (hd : d.Places) (hr : s.Prepares c.inst c.tag (d.readState s c)) : s.Prepares c.inst c.tag (d.passedState s c) := by
  have passed (y : State) (e : Cmd) (hi : e.inst = c.inst) (ht : e.tag = c.tag) : y.Prepares c.inst c.tag (d.onPass y e) := by
    rcases hd y e with same | ⟨ps, placed⟩
    · rw [same]
      exact .refl _ _ y
    · rw [placed, hi, ht]
      exact prepares_modCmd y fun _ => ⟨rfl, rfl, rfl⟩
  refine (hr.trans ?_).trans (passed _ (d.readCmd s c) rfl rfl)
  exact prepares_modCmd _ fun _ => ⟨rfl, rfl, rfl⟩

theorem judgedState_prepares (hd : d.Places) (hr : s.Prepares c.inst c.tag (d.readState s c))
    (hx : s.xfers.any (fun y => y.inst == c.inst && y.tag == c.tag) = false) : s.Prepares c.inst c.tag (d.judgedState s c) := by
  have passed := passedState_prepares hd hr
  rw [judgedState_eq, absorbSegment_of_whole]
  · exact passed
  · exact (congrArg (List.any · _) passed.xfers_eq).trans hx

/-! ### From step 13 to the commit point -/

theorem queueWhisk_prepares (s : State) (c : Cmd) (l : List (Nat × Nat)) : s.Prepares c.inst c.tag (s.queueWhisk c l) := by
  unfold State.queueWhisk
  refine (prepares_foldl _ _ (fun s f => prepares_modField _ _ s f fun x => ?_) _ s).trans (prepares_modCmd _ fun _ => ⟨rfl, rfl, rfl⟩)
  split
  · rfl
  · split <;> rfl

theorem servedState_prepares (s : State) (c : Cmd) : s.Prepares c.inst c.tag (s.afterServed c) :=
  (queueWhisk_prepares s c []).trans (prepares_modCmd _ fun _ => ⟨rfl, rfl, rfl⟩)

theorem begunState_prepares (d : Desc) (s : State) (c : Cmd) (hs : List (Nat × List Resident)) : s.Prepares c.inst c.tag (d.begunState s c hs) :=
  (prepares_foldl _ _ (g := fun (s : State) (p : Nat × List Resident) => s.modField p.1 fun x => x.beginOn c.inst c.tag p.2)
    (fun s p => prepares_modField _ _ s p.1 fun _ => rfl) hs s).trans (prepares_modCmd _ fun _ => ⟨rfl, rfl, rfl⟩)

theorem hashServed_prepares (s : State) (c : Cmd) : s.Prepares c.inst c.tag (s.hashServed c) :=
  prepares_foldl _ _ (g := fun s f => s.modField f fun x => x.leaveQueue c.inst c.tag) (fun s f => prepares_modField _ _ s f fun _ => rfl) _ s

theorem steep_prepares (i k : Nat) (s : State) (f n m : Nat) : s.Prepares i k (s.steep f n m).2 :=
  (prepares_modField i k s f (g := fun x => { x with seed := m.repeat Seedbed.serve x.seed }) fun _ => rfl).trans
    ⟨rfl, rfl, fun _ => rfl, fun _ => rfl, rfl⟩

theorem drawn_prepares (d : Desc) (s : State) (c : Cmd) : s.Prepares c.inst c.tag (d.drawn s c).2 := by
  have reseeded (f : Nat) : s.Prepares c.inst c.tag (if d.reseed s c then s.modField f fun x => { x with seed := x.seed.reseed } else s) := by
    split
    · exact prepares_modField _ _ s f fun _ => rfl
    · exact .refl _ _ s
  unfold Desc.drawn
  dsimp only
  split
  · exact reseeded _
  · split
    · exact reseeded _
    · exact (reseeded _).trans (steep_prepares _ _ _ _ _ _)

theorem drawnState_prepares (d : Desc) (s : State) (c : Cmd) : s.Prepares c.inst c.tag (d.drawnState s c) :=
  (drawn_prepares d s c).trans ((prepares_modCmd (g := fun e : Cmd => { e with
    drawn := (d.drawn s c).1, stage := .running, crossed := (d.drawn s c).2.crossing c (d.drawn s c).1 }) _ fun _ => ⟨rfl, rfl, rfl⟩).trans
    (prepares_modCmd (g := fun c : Cmd => { c with twinPassed := c.twinned }) _ fun _ => ⟨rfl, rfl, rfl⟩))

theorem writePages_prepares (i k : Nat) (s : State) (ps : List (Nat × Nat)) : s.Prepares i k (s.writePages ps) := by
  refine prepares_foldl i k (fun s w => ?_) ps s
  exact prepares_modField i k s w.1 fun _ => rfl

/-! ### The commit point -/

/-- What coming to the commit point says of the command and the state it came from. -/
theorem effectAt_some {r : CmdRec} {x : State} {c : Cmd} (hx : d.effectAt? r s = some (x, c)) : ∃ e hs,
    s.cmd? r.inst r.tag = some e ∧ basicOp e.op = d.op ∧ d.passes s e = true ∧
    let y := (d.startedState (d.servedState s e) (d.judgedCmd s e) hs).hashServed (d.judgedCmd s e)
    x = (d.drawnState y (d.judgedCmd s e)).writePages (d.written y (d.judgedCmd s e)) ∧
    c = { d.judgedCmd s e with drawn := (d.drawn y (d.judgedCmd s e)).1, stage := .running, twinPassed := (d.judgedCmd s e).twinned } ∧
    (((d.startedState (d.servedState s e) (d.judgedCmd s e) hs).cmd? c.inst c.tag).any (!·.isDone)) = true := by
  unfold Desc.effectAt? Desc.at? at hx
  split at hx
  · rename_i e he
    split at hx
    · rename_i fresh
      unfold Desc.commitPoint at hx
      dsimp only at hx
      split at hx
      · cases hx
      · rename_i hs _
        split at hx
        · rename_i goes
          obtain ⟨rfl, rfl⟩ := Prod.mk.inj (Option.some.inj hx)
          simp only [Desc.fresh, Desc.unwaiting, Bool.and_eq_true, beq_iff_eq] at fresh goes
          refine ⟨e, hs, he, by tauto, by tauto, rfl, rfl, by tauto⟩
        · cases hx
    · cases hx
  · cases hx

/-- From the checked command to its commit point. -/
theorem atCommit_prepares (hd : ∀ (y : State) (e : Cmd), d.onStart y e = y) (s : State) (c : Cmd) (hs : List (Nat × List Resident)) :
    let y := (d.startedState (s.afterServed c) c hs).hashServed c
    s.Prepares c.inst c.tag ((d.drawnState y c).writePages (d.written y c)) := by
  intro y
  have started : s.Prepares c.inst c.tag (d.startedState (s.afterServed c) c hs) := by
    rw [Desc.startedState, hd]
    exact (servedState_prepares s c).trans (begunState_prepares d _ c hs)
  exact started.trans ((hashServed_prepares _ c).trans ((drawnState_prepares d y c).trans (writePages_prepares _ _ _ _)))

/-- A field as the steps before the commit point leave it. -/
theorem eq_of_butPrep {x y : FieldSt} (h : y.butPrep = x.butPrep) : y = { x with
    slots := y.slots, nextUse := y.nextUse, whisk := y.whisk, ctxWait := y.ctxWait, descCache := y.descCache, seed := y.seed, pages := y.pages } := by
  cases x
  cases y
  simp only [FieldSt.butPrep, FieldSt.mk.injEq] at h
  simp only [FieldSt.mk.injEq, true_and]
  tauto

/-- A state as they leave it. -/
theorem eq_of_butPrep_state (h : t.butPrep = s.butPrep) : t = { s with cmds := t.cmds, fields := t.fields, free := t.free } := by
  cases s
  cases t
  simp only [State.butPrep, State.mk.injEq] at h
  simp only [State.mk.injEq, true_and]
  tauto

/-- Settles O6, step by step from the descriptors to the draw. -/
theorem commitPointFrame : Obligations.CommitPointFrame := by
  unfold Obligations.CommitPointFrame
  intro d r s x c hx hpass hstart hxfer hdesc
  obtain ⟨e, hs, he, _, passes, rfl, rfl, _⟩ := effectAt_some hx
  obtain ⟨hi, ht⟩ := cmd?_named he
  rw [← hi, ← ht] at hxfer ⊢
  have judged := judgedState_prepares hpass (readState_prepares passes e.inst e.tag (hdesc e he)) hxfer
  have all := judged.trans (atCommit_prepares hstart (d.judgedState s e) (d.judgedCmd s e) hs)
  exact ⟨rfl, rfl, rfl, eq_of_butPrep_state all.rest, fun _ _ => all.other, all.count, fun f => eq_of_butPrep (all.field f)⟩

end Sys2Proof.Machine
end

section
/-! The commands once a reply is staged (R30, R107), and O10. -/

namespace Sys2Proof.Machine

variable {s t : State} {i j k l : Nat} {c e : Cmd} {r : Reply}

/-! ### What of the rest of the state a staged reply leaves -/

/-- Parts of the state outside instances and fields. -/
theorem parts_of_butFields (h : t.butFields = s.butFields) : t.pkg = s.pkg ∧ t.cmds = s.cmds ∧ t.runs = s.runs := by
  simp only [State.butFields, State.mk.injEq] at h
  tauto

theorem givenBack_parts (s : State) (c : Cmd) :
    (s.givenBack c).pkg = s.pkg ∧ (s.givenBack c).cmds = s.cmds ∧ (s.givenBack c).runs = s.runs :=
  parts_of_butFields ((freeStage_frees _).1.trans ((freeImages_frees s c).trans (freeDrained_frees _)).1)

theorem chargedRuns_rest (l : List Run) (s : State) : ∃ is, l.foldl State.chargeRun s = { s with insts := is } :=
  List.foldlRecOn (motive := fun t : State => ∃ is, t = { s with insts := is }) l State.chargeRun ⟨s.insts, rfl⟩ fun t h a _ => by
    obtain ⟨is, rfl⟩ := h
    exact ⟨_, rfl⟩

/-- What the end of a command's own work leaves. -/
theorem quit_parts (s : State) (i k : Nat) (c : Cmd) : (s.quit i k c).pkg = s.pkg ∧ (s.quit i k c).cmds = s.cmds ∧
    (s.quit i k c).runs = s.runs.filter fun x => !(x.inst == i && x.tag == k) := by
  obtain ⟨is, h⟩ := chargedRuns_rest (s.runs.filter fun r => r.inst == i && r.tag == k) s
  unfold State.quit
  rw [endRuns_eq, h]
  cases c.field <;> exact ⟨rfl, rfl, rfl⟩

theorem touchIke_rest (s : State) (c : Cmd) : ∃ ks, s.touchIke c = { s with ikes := ks } := by
  unfold State.touchIke
  split
  · exact ⟨s.ikes, rfl⟩
  · exact ⟨_, rfl⟩

theorem unblock_rest (s : State) (c : Cmd) (st : Status) : ∃ p, s.unblock c st = { s with pkg := p } := by
  unfold State.unblock
  split
  · exact ⟨s.pkg, rfl⟩
  split
  · exact ⟨_, rfl⟩
  · exact ⟨_, rfl⟩
  · exact ⟨s.pkg, rfl⟩

theorem unblock_ok (s : State) (c : Cmd) : s.unblock c .ok = s := by
  unfold State.unblock
  rw [beq_self_eq_true, Bool.true_or, if_pos rfl]

/-- What another command becomes where it waits for a signature of its key. -/
def Cmd.wokenBehind (c d : Cmd) : Cmd :=
  if basicOp c.op == 0x0802 && (d.stage == .waitCache && d.keys.any (fun k => k.handle == num c.params 0 6)) then { d with stage := .dispatched } else d

theorem wokenBehind_key (c d : Cmd) :
    (c.wokenBehind d).inst = d.inst ∧ (c.wokenBehind d).tag = d.tag ∧ (c.wokenBehind d).field = d.field := by
  unfold Cmd.wokenBehind
  split <;> exact ⟨rfl, rfl, rfl⟩

theorem wokenBehind_isDone (c d : Cmd) (h : d.isDone = true) : (c.wokenBehind d).isDone = true := by
  unfold Cmd.wokenBehind
  split
  · rename_i waits
    have stage : d.stage = .waitCache := by simp only [Bool.and_eq_true, beq_iff_eq] at waits; exact waits.2.1
    rw [Cmd.isDone, stage] at h
    exact absurd h (by decide)
  · exact h

theorem wokenBehind_of_other (h : basicOp c.op ≠ 0x0802) (d : Cmd) : c.wokenBehind d = d := by
  unfold Cmd.wokenBehind
  rw [beq_eq_false_iff_ne.2 h, Bool.false_and, if_neg Bool.false_ne_true]

theorem wakeBehind_eq (s : State) (c : Cmd) : s.wakeBehind c = { s with cmds := s.cmds.map c.wokenBehind } := by
  unfold State.wakeBehind
  split
  · rename_i other
    rw [funext (f := c.wokenBehind) (g := id) (wokenBehind_of_other (bne_iff_ne.1 other)), List.map_id]
  · rename_i signs
    have op : (basicOp c.op == 0x0802) = true := by simpa using signs
    unfold Cmd.wokenBehind
    simp only [op, Bool.true_and]

theorem ceased_parts (s : State) (i k : Nat) (c : Cmd) (st : Status) : (s.ceased i k c st).cmds = s.cmds.map c.wokenBehind ∧
    (s.ceased i k c st).runs = s.runs.filter (fun x => !(x.inst == i && x.tag == k)) ∧ (st = .ok → (s.ceased i k c st).pkg = s.pkg) := by
  obtain ⟨pkg, cmds, runs⟩ := quit_parts s i k c
  obtain ⟨ks, hi⟩ := touchIke_rest (s.quit i k c) c
  obtain ⟨p, hp⟩ := unblock_rest { s.quit i k c with ikes := ks } c st
  unfold State.ceased
  rw [wakeBehind_eq, hi]
  refine ⟨?_, ?_, fun ok => ?_⟩
  · rw [hp]
    exact congrArg _ cmds
  · rw [hp]
    exact runs
  · rw [ok, unblock_ok]
    exact pkg

/-- What a command's entry becomes where the reply of one is staged. -/
def Cmd.stagedBy (c : Cmd) (i k : Nat) (r : Reply) (d : Cmd) : Cmd :=
  if (c.wokenBehind d).inst == i && (c.wokenBehind d).tag == k then { c.wokenBehind d with stage := .done r, drawn := [] } else c.wokenBehind d

theorem stagedBy_key (c : Cmd) (i k : Nat) (r : Reply) (d : Cmd) :
    (c.stagedBy i k r d).inst = d.inst ∧ (c.stagedBy i k r d).tag = d.tag ∧ (c.stagedBy i k r d).field = d.field := by
  unfold Cmd.stagedBy
  split <;> exact wokenBehind_key c d

/-- A staged reply stays staged. -/
theorem stagedBy_isDone (c : Cmd) (i k : Nat) (r : Reply) {d : Cmd} (h : d.isDone = true ∨ (d.inst = i ∧ d.tag = k)) :
    (c.stagedBy i k r d).isDone = true := by
  obtain ⟨hi, ht, _⟩ := wokenBehind_key c d
  unfold Cmd.stagedBy
  split
  · rfl
  · rename_i other
    rcases h with done | ⟨rfl, rfl⟩
    · exact wokenBehind_isDone c d done
    · exact absurd (by simp [hi, ht]) other

theorem setDone_parts (r : Reply) (hc : s.cmd? i k = some c) (hd : c.isDone = false) :
    (s.setDone i k r).cmds = s.cmds.map (c.stagedBy i k (s.finalReply c r)) ∧
    (s.setDone i k r).runs = s.runs.filter (fun x => !(x.inst == i && x.tag == k)) ∧
    ((s.finalReply c r).status = .ok → (s.setDone i k r).pkg = s.pkg) := by
  obtain ⟨pkg, cmds, runs⟩ := givenBack_parts (s.staged i k c r) c
  obtain ⟨woken, left, kept⟩ := ceased_parts s i k c (s.finalReply c r).status
  rw [setDone_of r hc hd, cmds, runs, pkg]
  refine ⟨?_, left, kept⟩
  rw [State.staged, State.modCmd_cmds, woken, List.map_map]
  rfl

/-! ### A reply with status OK, and RESET's -/

/-- No merge image of the command's is flushed where there is none. -/
theorem flushMerges_of_unmerged (h : s.unmerged i k = true) : s.flushMerges i k = s := by
  unfold State.flushMerges
  refine List.foldlRecOn (motive := fun t : State => t = s) _ _ rfl fun t ht f hf => ?_
  subst ht
  have none : ((t.field f).merge.filter fun m => m.writers.contains (i, k)) = [] := by
    refine List.filter_eq_nil_iff.2 fun m hm => ?_
    simpa using List.all_eq_true.1 (List.all_eq_true.1 h f hf) m hm
  rw [none]
  rfl

theorem complete_of (hs : r.status ≠ .internalError) (hf : r.status ≠ .faultDetected) (hc : s.cmd? i k = some c) (hd : c.isDone = false) :
    s.complete i k r = s.setDone i k r := by
  simp only [State.complete, hc, hd, beq_eq_false_iff_ne.2 hs, bne_iff_ne, ne_eq, hf, not_false_eq_true, Bool.false_eq_true, if_true, if_false]

/-- A command with no reset come to it, and that is no signature of a stateful key, is left with its own reply; the package record stays. -/
theorem settled_ok (hu : s.unmerged i k = true) (hc : s.cmd? i k = some c) (hd : c.isDone = false) (hr : c.reset = false)
    (ho : basicOp c.op ≠ 0x0802) {b : Bytes} : (settled i k (s, some { status := .ok, results := b })).cmd? i k =
      some { c with stage := .done { status := .ok, results := b }, drawn := [] } ∧
    (settled i k (s, some { status := .ok, results := b })).pkg = s.pkg := by
  have final : s.finalReply c { status := .ok, results := b } = { status := .ok, results := b } := by
    unfold State.finalReply
    rw [hr]
    rfl
  obtain ⟨cmds, _, pkg⟩ := setDone_parts { status := .ok, results := b } hc hd
  have done : settled i k (s, some { status := .ok, results := b }) = s.setDone i k { status := .ok, results := b } := by
    rw [settled, flushMerges_of_unmerged hu, complete_of Status.noConfusion Status.noConfusion hc hd]
  rw [final] at cmds pkg
  rw [done]
  refine ⟨?_, pkg rfl⟩
  obtain ⟨rfl, rfl⟩ := cmd?_named hc
  rw [cmd?_of_map (fun d => ⟨(stagedBy_key ..).1, (stagedBy_key ..).2.1⟩) cmds, hc, Option.map_some, Cmd.stagedBy, wokenBehind_of_other ho,
    beq_self_eq_true, beq_self_eq_true, Bool.and_self, if_pos rfl]

theorem packageReset_cmds (s : State) (n : Nat) : (s.packageReset n).cmds = s.cmds :=
  List.foldlRecOn (motive := fun t : State => t.cmds = s.cmds) _ _ rfl fun _ h _ _ => h

/-- Once RESET's reply is released its entry is gone and the reset is due. -/
theorem release_reset (s : State) (ho : basicOp e.op = 0x0003) :
    (s.release e { status := .ok }).cmd? e.inst e.tag = none ∧ (s.release e { status := .ok }).pkg.resetPending = true := by
  unfold State.release State.afterReply
  simp only [ho, beq_self_eq_true, if_true]
  refine ⟨?_, rfl⟩
  unfold State.cmd? State.modPkg
  rw [packageReset_cmds]
  refine List.find?_eq_none.2 fun d hd => ?_
  simpa [imp_iff_not_or] using (List.mem_filter.1 hd).2

theorem writePages_cmds (s : State) (ps : List (Nat × Nat)) : (s.writePages ps).cmds = s.cmds :=
  List.foldlRecOn (motive := fun t : State => t.cmds = s.cmds) _ _ rfl fun _ h _ _ => h

/-- The entry of a command whose draw is taken is that of one that runs. -/
theorem drawnState_running {d : Desc} {ps : List (Nat × Nat)} (h : ((d.drawnState s c).writePages ps).cmd? c.inst c.tag = some e) :
    e.stage = .running := by
  unfold State.cmd? at h
  rw [writePages_cmds] at h
  have taken : ((d.drawnState s c).cmd? c.inst c.tag) = some e := h
  unfold Desc.drawnState State.markTwin at taken
  dsimp only at taken
  rw [cmd?_modCmd, cmd?_modCmd, Option.map_map] at taken
  · obtain ⟨b, _, rfl⟩ := Option.map_eq_some_iff.1 taken
    rfl
  all_goals exact fun _ => ⟨rfl, rfl⟩

/-- What the part knows of a RESET that comes to its commit point. -/
theorem reset_entry {r : CmdRec} {x : State} (hx : resetDesc.effectAt? r s = some (x, c)) : c.inst = r.inst ∧ c.tag = r.tag ∧
    ∃ e, x.cmd? c.inst c.tag = some e ∧ basicOp e.op = 0x0003 ∧ e.stage = .running := by
  obtain ⟨e, hs, he, op, _, rfl, rfl, _⟩ := effectAt_some hx
  obtain ⟨hi, ht⟩ := cmd?_named he
  have whole : resetDesc.judgedState s e = resetDesc.passedState s e := by
    refine absorbSegment_of_unhashed fun y hy => ?_
    unfold Desc.passedState resetDesc at hy
    dsimp only at hy
    rw [cmd?_modCmd] at hy
    · obtain ⟨_, _, rfl⟩ := Option.map_eq_some_iff.1 hy
      rfl
    · exact fun _ => ⟨rfl, rfl⟩
  have checked : s.Prepares e.inst e.tag (resetDesc.judgedState s e) :=
    whole ▸ passedState_prepares (fun _ _ => .inl rfl) (.refl _ _ s)
  have all := checked.trans (atCommit_prepares (d := resetDesc) (fun _ _ => rfl) (resetDesc.judgedState s e) (resetDesc.judgedCmd s e) hs)
  have found : (s.cmd? e.inst e.tag).map Cmd.op = some e.op := by rw [hi, ht, he]; rfl
  obtain ⟨y, hy, ho⟩ := Option.map_eq_some_iff.1 (all.own.trans found)
  exact ⟨hi, ht, y, hy, by rw [ho, op]; rfl, drawnState_running hy⟩

/-- Settles O10: RESET's body stops admission, its reply is its own, and the row releases it at once. -/
theorem resetReleasesItsReply : Obligations.ResetReleasesItsReply := by
  unfold Obligations.ResetReleasesItsReply
  intro r s x c hx hu hr y
  obtain ⟨hi, ht, e, he, op, stage⟩ := reset_entry hx
  have running : e.isDone = false := by rw [Cmd.isDone, stage]
  have plain : e.reset = false := by
    rw [he] at hr
    simpa using hr
  have other : basicOp e.op ≠ 0x0802 := by rw [op]; decide
  obtain ⟨entry, pkg⟩ := settled_ok (s := x.stopAdmission .reset) (b := []) hu he running plain other
  have name : y.cmd? r.inst r.tag = some { e with stage := .done { status := .ok }, drawn := [] } := by
    rw [← hi, ← ht]
    exact entry
  have releases : exec (.reset r) s = .next (y.release { e with stage := .done { status := .ok }, drawn := [] } { status := .ok }) := by
    simp only [exec, execReset, runCommand_effectAt hx]
    have body : settled c.inst c.tag (resetDesc.body x c) = y := rfl
    rw [body, State.releaseReset, name]
    simp only [op, beq_self_eq_true, Bool.and_self, if_true]
  obtain ⟨gone, due⟩ := release_reset (e := { e with stage := .done { status := .ok }, drawn := [] }) y op
  obtain ⟨ei, et⟩ := cmd?_named he
  refine ⟨_, name, rfl, ?_, releases, ?_, due⟩
  · rw [pkg]
    rfl
  · rw [← hi, ← ht, ← ei, ← et]
    exact gone

end Sys2Proof.Machine
end

section
/-! Keys that are erased stay erased, and a field in LOCKDOWN stays there (R32 to R42, R489 to R497, R506); O30, O33 and O34. -/

namespace Sys2Proof.Machine

/-! ### What the steps of a field's end leave -/

/-- A field after an erasure elsewhere or its own: what is erased stays erased, LOCKDOWN and loss stay, and so does the alarm cause. -/
structure FieldSt.Shuts (x y : FieldSt) : Prop where
  run : x.run = .lockdown → y.run = .lockdown
  slots : x.slots = [] → y.slots = []
  kek : x.kek = [] → y.kek = []
  merge : x.merge = [] → y.merge = []
  lost : y.lost = x.lost
  alarm : y.alarm = x.alarm

theorem FieldSt.Shuts.refl (x : FieldSt) : x.Shuts x := ⟨id, id, id, id, rfl, rfl⟩

theorem FieldSt.Shuts.trans {x y z : FieldSt} (h : x.Shuts y) (h' : y.Shuts z) : x.Shuts z :=
  ⟨h'.run ∘ h.run, h'.slots ∘ h.slots, h'.kek ∘ h.kek, h'.merge ∘ h.merge, h'.lost.trans h.lost, h'.alarm.trans h.alarm⟩

theorem FieldSt.Eased.shuts {x y : FieldSt} (h : x.Eased y) : x.Shuts y := by
  obtain ⟨rest, _, merge, slots⟩ := h
  have run : y.butWork.run = x.butWork.run := congrArg FieldSt.run rest
  have kek : y.butWork.kek = x.butWork.kek := congrArg FieldSt.kek rest
  have lost : y.butWork.lost = x.butWork.lost := congrArg FieldSt.lost rest
  have alarm : y.butWork.alarm = x.butWork.alarm := congrArg FieldSt.alarm rest
  refine ⟨run.trans, slots, kek.trans, fun none => List.eq_nil_iff_forall_not_mem.2 fun m hm => ?_, lost, alarm⟩
  have old := merge m hm
  rw [none] at old
  exact List.not_mem_nil old

/-- The same of every field of a state. -/
structure State.Shuts (s t : State) : Prop where
  fuses : t.fuses = s.fuses
  count : t.fields.length = s.fields.length
  field (f : Nat) : (s.field f).Shuts (t.field f)

variable {s t u : State} {f k : Nat}

theorem State.Shuts.refl (s : State) : s.Shuts s := ⟨rfl, rfl, fun _ => .refl _⟩

theorem State.Shuts.trans (h : s.Shuts t) (h' : t.Shuts u) : s.Shuts u :=
  ⟨h'.fuses.trans h.fuses, h'.count.trans h.count, fun f => (h.field f).trans (h'.field f)⟩

/-- A state with the same fields. -/
theorem shuts_of_fields (hu : t.fuses = s.fuses) (hf : t.fields = s.fields) : s.Shuts t :=
  ⟨hu, congrArg List.length hf, fun f => by rw [State.field, State.field, hf]; exact .refl _⟩

theorem shuts_modField (s : State) (f : Nat) {g : FieldSt → FieldSt} (hg : ∀ x : FieldSt, x.Shuts (g x)) : s.Shuts (s.modField f g) := by
  refine ⟨rfl, s.modField_count f g, fun k => ?_⟩
  rw [s.modField_read]
  split
  · exact hg _
  · exact .refl _

theorem shuts_foldl {α : Type} {g : State → α → State} (hg : ∀ (s : State) (a : α), s.Shuts (g s a)) (l : List α) (s : State) :
    s.Shuts (l.foldl g s) :=
  List.foldlRecOn (motive := s.Shuts) l g (.refl s) fun _ h _ _ => h.trans (hg _ _)

theorem State.Eases.shuts (h : s.Eases t) : s.Shuts t :=
  have fuses : t.butWork.fuses = s.butWork.fuses := congrArg State.fuses h.1
  ⟨fuses, h.2.1, fun f => (h.2.2 f).shuts⟩

/-! ### Each step -/

/-- What the erasure of a field makes of it. -/
theorem zeroise_field (h : f < s.fields.length) : ((s.zeroise f).field f).run = .lockdown ∧ ((s.zeroise f).field f).slots = [] ∧
    ((s.zeroise f).field f).kek = [] ∧ ((s.zeroise f).field f).merge = [] := by
  unfold State.zeroise
  rw [State.modField_read, if_pos ⟨rfl, h⟩]
  exact ⟨rfl, rfl, rfl, rfl⟩

theorem zeroise_shuts (s : State) (f : Nat) : s.Shuts (s.zeroise f) := by
  have held : s.Shuts ((s.zeroSecy f).dropHeld f) := shuts_of_fields rfl rfl
  refine held.trans ?_
  exact shuts_modField _ f fun _ => ⟨fun _ => rfl, fun _ => rfl, fun _ => rfl, fun _ => rfl, rfl, rfl⟩

/-- The live fields of a list are erased. -/
theorem zeroiseLive_shuts (l : List Nat) (s : State) : s.Shuts (l.foldl (fun s f => if (s.field f).lost then s else s.zeroise f) s) := by
  refine shuts_foldl (fun s f => ?_) l s
  split
  · exact .refl s
  · exact zeroise_shuts s f

theorem dropPackets_rest (s : State) : s.dropPackets.fuses = s.fuses ∧ s.dropPackets.fields = s.fields ∧ s.dropPackets.pkg.run = s.pkg.run :=
  List.foldlRecOn (motive := fun t : State => t.fuses = s.fuses ∧ t.fields = s.fields ∧ t.pkg.run = s.pkg.run) _ _ ⟨rfl, rfl, rfl⟩
    fun _ h _ _ => h

/-- The part once no field serves as Headland, its fields erased: no port, no command, no run. -/
def State.shutDown (s : State) : State :=
  let dead := fun (p : Port) => { p with form := none, bootstrap := false }
  let s := (((s.portDown 0).portDown 1).modPort 0 dead).modPort 1 dead
  ({ s with cmds := [], xfers := [], runs := [], txq := [] }.modPkg fun p =>
    { p.leaveService with run := .lockdown, failover := false, buffered := [], pausing := false, resetPending := false }).syncAlert

theorem noHeadland_eq (s : State) :
    s.noHeadland = (s.fieldNums.foldl (fun s f => if (s.field f).lost then s else s.zeroise f) s.dropPackets).shutDown := rfl

theorem syncAlert_fields (s : State) : s.syncAlert.fuses = s.fuses ∧ s.syncAlert.fields = s.fields := ⟨rfl, rfl⟩

theorem portDown_fields (s : State) (p : Nat) : (s.portDown p).fuses = s.fuses ∧ (s.portDown p).fields = s.fields := ⟨rfl, rfl⟩

theorem shutDown_shuts (s : State) : s.Shuts s.shutDown := by
  refine shuts_of_fields ?_ ?_
  · simp only [State.shutDown, syncAlert_fields, portDown_fields, State.modPkg_fuses, State.modPort_fuses]
  · simp only [State.shutDown, syncAlert_fields, portDown_fields, State.modPkg_fields, State.modPort_fields]

theorem noHeadland_shuts (s : State) : s.Shuts s.noHeadland := by
  obtain ⟨fuses, fields, _⟩ := dropPackets_rest s
  rw [noHeadland_eq]
  exact (shuts_of_fields fuses fields).trans ((zeroiseLive_shuts s.fieldNums s.dropPackets).trans (shutDown_shuts _))

theorem headlandGone_shuts (s : State) : s.Shuts s.headlandGone := by
  unfold State.headlandGone
  split
  · exact noHeadland_shuts s
  · exact shuts_of_fields rfl rfl

theorem dropLanes_shuts (s : State) (f : Nat) : s.Shuts (s.dropLanes f) := by
  unfold State.dropLanes
  dsimp only
  split
  · exact .refl s
  · split <;> exact shuts_of_fields rfl rfl

theorem endAll_shuts (s : State) (cs : List Cmd) (st : Status) : s.Shuts (s.endAll cs st) := (endAll_eases s cs st).shuts

theorem isolate_shuts (s : State) (f : Nat) : s.Shuts (s.isolate f) := by
  have cut : s.Shuts ((s.zeroise f).modField f fun x => { x with cut := true }) :=
    (zeroise_shuts s f).trans (shuts_modField _ f fun _ => ⟨id, id, id, id, rfl, rfl⟩)
  have ended (cs : List Cmd) := cut.trans (endAll_shuts _ cs .machineCheck)
  unfold State.isolate
  split
  · exact .refl s
  dsimp only
  split
  · exact (ended _).trans (noHeadland_shuts _)
  · exact (ended _).trans ((dropLanes_shuts _ f).trans (shuts_of_fields rfl rfl))

theorem isolateCut_shuts (s : State) : s.Shuts s.isolateCut := by
  unfold State.isolateCut
  split
  · exact noHeadland_shuts s
  · exact shuts_foldl isolate_shuts _ s

/-- Headland's part in a field's end: field 0 is replaced, or none is left to serve. -/
theorem headlandPart_shuts (s : State) (f : Nat) : s.Shuts (if f == s.pkg.headland && f == 0 then s.headlandGone
    else if f == s.pkg.headland || (f == 1 && s.pkg.failover) then s.noHeadland else s) := by
  split
  · exact headlandGone_shuts s
  · split
    · exact noHeadland_shuts s
    · exact .refl s

theorem fieldGone_shuts (s : State) (f : Nat) (b : Bool) : s.Shuts (s.fieldGone f b) := by
  have told : s.Shuts (if b && f != (s.dropLanes f).pkg.headland then (s.dropLanes f).raise 0 0x0103 (toBE 1 f ++ toBE 1 (s.dropLanes f).noStandby.toNat)
      else s.dropLanes f) := by
    refine (dropLanes_shuts s f).trans ?_
    split
    · exact shuts_of_fields rfl rfl
    · exact .refl _
  unfold State.fieldGone
  exact (told.trans (headlandPart_shuts _ f)).trans ((isolateCut_shuts _).trans (shuts_of_fields rfl rfl))

/-! ### The loss of a field -/

/-- A field at its loss, before what that ends. -/
def State.markLost (s : State) (f : Nat) : State :=
  (s.dropHeld f).modField f fun x => { x.zeroKeys.zeroRest with lost := true, mcheck := false, gating := false, gated := false }

theorem loseField_of_live (hn : f < s.n) (hl : (s.field f).lost = false) :
    ∃ cs, s.loseField f = ((s.markLost f).endAll cs .machineCheck).fieldGone f true := by
  unfold State.loseField
  rw [hl, decide_eq_false hn.not_ge, Bool.or_self, if_neg Bool.false_ne_true]
  exact ⟨_, rfl⟩

/-- A field that is lost is without keys, KEK and merge image. -/
theorem loseField_field (hn : f < s.n) (hf : f < s.fields.length) (hl : (s.field f).lost = false) : ((s.loseField f).field f).lost = true ∧
    ((s.loseField f).field f).slots = [] ∧ ((s.loseField f).field f).kek = [] ∧ ((s.loseField f).field f).merge = [] := by
  have marked : (s.markLost f).field f =
      { (s.field f).zeroKeys.zeroRest with lost := true, mcheck := false, gating := false, gated := false } := by
    unfold State.markLost
    rw [State.modField_read, if_pos ⟨rfl, hf⟩]
    rfl
  obtain ⟨cs, lose⟩ := loseField_of_live hn hl
  have after := ((endAll_shuts (s.markLost f) cs .machineCheck).trans (fieldGone_shuts _ f true)).field f
  rw [marked] at after
  rw [lose]
  exact ⟨after.lost, after.slots rfl, after.kek rfl, after.merge rfl⟩

theorem sat_eq_min (m v : Nat) : sat m v = min m v := by
  unfold sat
  split <;> omega

theorem exec_plolysCrcFail {p : Nat} (hp : s.portInUse f p = true) (hu : s.linkUp f p = true) : ∃ b, exec (.plolysCrcFail f p) s =
    .next ((s.modLink f p fun l => { l with retries := min (2 ^ 32 - 1) (l.retries + 1) }).log f (49 + p) 7 0xFF b) := by
  simp only [exec, execPlolysCrcFail, hp, hu, Bool.and_self, if_true, sat_eq_min]
  exact ⟨_, rfl⟩

theorem exec_plolysLinkDown {p : Nat} (hp : s.portInUse f p = true) (hu : s.linkUp f p = true) :
    let down := fun (l : Link) => { l with state := .down, downs := min (2 ^ 32 - 1) (l.downs + 1) }
    ∃ b, exec (.plolysLinkDown f p) s = .next (((s.modLink f p down).modLink (f ^^^ 2 ^ p) p down).log f (49 + p) 7 0xFF b).isolateCut := by
  simp only [exec, execPlolysLinkDown, hp, hu, Bool.and_self, if_true, sat_eq_min]
  exact ⟨_, rfl⟩

theorem exec_thermalShutdown (hn : f < s.n) (hl : (s.field f).lost = false) : exec (.thermalShutdown f) s =
    .next ((s.modField f fun x => { x with thermal := true }).loseField f).syncAlert := by
  simp only [exec, execThermalShutdown, hn, hl, decide_true, Bool.not_false, Bool.and_self, if_true]

/-- Settles O33: what a field loses stays lost through all that follows its loss. -/
theorem fieldLossRows : Obligations.FieldLossRows := by
  unfold Obligations.FieldLossRows
  refine ⟨fun _ _ => rfl, ?lost, ?failover, fun _ _ _ => exec_plolysCrcFail, fun _ _ _ => exec_plolysLinkDown, fun _ _ => exec_thermalShutdown⟩
  case lost => exact fun s f hn sound hl => ⟨_, rfl, loseField_field hn (hn.trans_eq sound.1.symm) hl⟩
  case failover =>
    intro s h
    simp only [exec, execHeadlandFailover, h, if_true]

/-! ### Alarms -/

theorem settlePause_rest (s : State) : s.settlePause.fuses = s.fuses ∧ s.settlePause.fields = s.fields ∧ s.settlePause.pkg.run = s.pkg.run ∧
    s.settlePause.pkg.modes = s.pkg.modes := by
  unfold State.settlePause
  dsimp only
  split <;> exact ⟨rfl, rfl, rfl, rfl⟩

theorem packageLock_shuts (s : State) : s.Shuts s.packageLock := by
  unfold State.packageLock
  split
  · exact .refl s
  · obtain ⟨fuses, fields, _⟩ := dropPackets_rest s
    obtain ⟨fuses', fields', _⟩ := settlePause_rest (s.dropPackets.modPkg fun p => { p.leaveService with run := .lockdown })
    exact shuts_of_fields (fuses'.trans fuses) (fields'.trans fields)

/-- Past INERT the package enters LOCKDOWN, with the mode word 0. -/
theorem packageLock_pkg (h : s.pkg.run ≠ .inert) : s.packageLock.pkg.run = .lockdown ∧ s.packageLock.pkg.modes = 0 := by
  unfold State.packageLock
  rw [beq_eq_false_iff_ne.2 h, if_neg Bool.false_ne_true]
  obtain ⟨_, _, run, modes⟩ := settlePause_rest (s.dropPackets.modPkg fun p => { p.leaveService with run := .lockdown })
  exact ⟨run, modes⟩

/-- The alarm cause is latched in a register that holds none. -/
def State.latchAlarm (s : State) (f : Nat) (w : BitVec 32) : State :=
  if !(s.field f).alarm.getLsbD 31 then s.modField f fun x => { x with alarm := w } else s.log f 59 11 0xFF (toBE 4 w.toNat)

theorem latchAlarm_field (h : f < s.fields.length) (w : BitVec 32) : ((s.latchAlarm f w).field f).run = (s.field f).run ∧
    ((s.latchAlarm f w).field f).lost = (s.field f).lost ∧
    ((s.field f).alarm.getLsbD 31 = false → ((s.latchAlarm f w).field f).alarm = w) := by
  unfold State.latchAlarm State.log
  split
  · rw [State.modField_read, if_pos ⟨rfl, h⟩]
    exact ⟨rfl, rfl, fun _ => rfl⟩
  · rename_i first
    rw [State.modField_read, if_pos ⟨rfl, h⟩]
    exact ⟨rfl, rfl, fun none => absurd (by rw [none]; rfl) first⟩

theorem latchAlarm_rest (s : State) (f : Nat) (w : BitVec 32) : (s.latchAlarm f w).pkg = s.pkg ∧ (s.latchAlarm f w).fields.length = s.fields.length := by
  unfold State.latchAlarm
  split <;> exact ⟨rfl, s.modField_count f _⟩

/-- An alarm past INERT on a field that is neither locked nor lost erases it. -/
theorem alarmField_of_live {cls island detail source : Nat} (hf : f < s.fields.length) (hi : s.pkg.run ≠ .inert)
    (hr : (s.field f).run ≠ .lockdown) (hl : (s.field f).lost = false) : ∃ cs b, s.alarmField f cls island detail source =
      (((s.latchAlarm f (alarmWord cls island detail source)).zeroise f).endAll cs .alarmErased).raise 0 0x0104 b := by
  obtain ⟨run, lost, _⟩ := latchAlarm_field hf (alarmWord cls island detail source)
  obtain ⟨pkg, _⟩ := latchAlarm_rest s f (alarmWord cls island detail source)
  have eq : s.alarmField f cls island detail source =
      let s := s.latchAlarm f (alarmWord cls island detail source)
      if (s.field f).run == .lockdown || (s.field f).lost then s
      else if s.pkg.run == .inert then s.modField f fun x => { x with testFailed := true }
      else ((s.zeroise f).endAll (s.onField f ++ s.stagesOn f) .alarmErased).raise 0 0x0104 (toBE 4 ((s.field f).alarm).toNat) := rfl
  rw [eq]
  dsimp only
  rw [run, lost, pkg, hl, beq_eq_false_iff_ne.2 hr, beq_eq_false_iff_ne.2 hi, Bool.or_self, if_neg Bool.false_ne_true, if_neg Bool.false_ne_true]
  exact ⟨_, _, rfl⟩

/-- What follows a field's alarm: past INERT it reaches every field, or ends its own. -/
def State.spread (s : State) (wide : Bool) (f : Nat) : State :=
  if s.pkg.run == .inert then s
  else if wide then
    let others := s.fieldNums.filter fun g => g != f && !(s.field g).lost
    (s.packageLock.modPkg fun p => { p with alarmLine := others.map fun g => (g, f) }).syncAlert
  else s.fieldGone f false

theorem alarm_eq (s : State) (f cls island detail : Nat) :
    s.alarm f cls island detail = (s.alarmField f cls island detail f).spread (cls == 6 || s.setting 0x06 == 0) f := rfl

theorem lineAlarm_shuts (s : State) (l : List (Nat × Nat)) : s.Shuts (s.modPkg fun p => { p with alarmLine := l }).syncAlert :=
  ⟨rfl, rfl, fun _ => .refl _⟩

theorem spread_shuts (s : State) (wide : Bool) (f : Nat) : s.Shuts (s.spread wide f) := by
  unfold State.spread
  split
  · exact .refl s
  · split
    · exact (packageLock_shuts s).trans (lineAlarm_shuts s.packageLock _)
    · exact fieldGone_shuts s f false

/-- An alarm that reaches every field locks the package. -/
theorem spread_pkg (h : s.pkg.run ≠ .inert) (f : Nat) : (s.spread true f).pkg.run = .lockdown ∧ (s.spread true f).pkg.modes = 0 := by
  obtain ⟨run, modes⟩ := packageLock_pkg h
  unfold State.spread
  rw [beq_eq_false_iff_ne.2 h, if_neg Bool.false_ne_true, if_pos rfl]
  exact ⟨run, modes⟩

/-- A field on which an alarm has struck. -/
theorem alarmField_live {cls island detail source : Nat} (hf : f < s.fields.length) (hi : s.pkg.run ≠ .inert) (hr : (s.field f).run ≠ .lockdown)
    (hl : (s.field f).lost = false) : (s.alarmField f cls island detail source).pkg.run = s.pkg.run ∧
    ((s.alarmField f cls island detail source).field f).run = .lockdown ∧ ((s.alarmField f cls island detail source).field f).slots = [] ∧
    ((s.alarmField f cls island detail source).field f).kek = [] ∧
    ((s.field f).alarm.getLsbD 31 = false → ((s.alarmField f cls island detail source).field f).alarm = alarmWord cls island detail source) := by
  obtain ⟨cs, b, alarmed⟩ := alarmField_of_live (cls := cls) (island := island) (detail := detail) (source := source) hf hi hr hl
  rw [alarmed]
  obtain ⟨_, _, latched⟩ := latchAlarm_field hf (alarmWord cls island detail source)
  obtain ⟨pkg, count⟩ := latchAlarm_rest s f (alarmWord cls island detail source)
  generalize s.latchAlarm f (alarmWord cls island detail source) = y at latched pkg count ⊢
  obtain ⟨run, slots, kek, _⟩ := zeroise_field (hf.trans_eq count.symm)
  have ended := endAll_eases (y.zeroise f) cs .alarmErased
  have state : ((y.zeroise f).endAll cs .alarmErased).butWork.pkg.run = (y.zeroise f).butWork.pkg.run := congrArg (fun t : State => t.pkg.run) ended.1
  have after := ended.shuts.field f
  have kept : y.pkg.run = s.pkg.run := congrArg Pkg.run pkg
  exact ⟨state.trans kept, after.run run, after.slots slots, after.kek kek,
    fun none => after.alarm.trans (((zeroise_shuts y f).field f).alarm.trans (latched none))⟩

theorem exec_sensorTrip {cls island : Nat} (detail : Nat) (h : s.armed f cls island = true) : exec (.sensorTrip f cls island detail) s =
    .next (s.alarm f cls (if cls = 2 then island else 59) detail) := by
  simp only [exec, execSensorTrip, h, beq_iff_eq, if_true]

/-- Settles O34: the alarm latches its cause and erases the field; what follows leaves both. -/
theorem sensorTripLocksField : Obligations.SensorTripLocksField := by
  unfold Obligations.SensorTripLocksField
  intro s f cls island detail sound ha hi hr
  obtain ⟨hn, hl⟩ : f < s.n ∧ (s.field f).lost = false := by
    simp only [State.armed, Bool.and_eq_true, decide_eq_true_eq, Bool.not_eq_true'] at ha
    tauto
  refine ⟨_, exec_sensorTrip detail ha, ?_⟩
  generalize (if cls = 2 then island else 59) = place
  obtain ⟨past, run, slots, kek, cause⟩ := alarmField_live (cls := cls) (island := place) (detail := detail) (source := f)
    (hn.trans_eq sound.1.symm) hi hr hl
  rw [alarm_eq]
  have after := (spread_shuts (s.alarmField f cls place detail f) (cls == 6 || s.setting 0x06 == 0) f).field f
  refine ⟨after.run run, after.slots slots, after.kek kek, fun none => after.alarm.trans (cause none), fun scope => ?_⟩
  rw [scope, beq_self_eq_true, Bool.or_true]
  exact spread_pkg (by rw [past]; exact hi) f

/-! ### The end of self-test -/

/-- The live fields of a list that erases each of them are locked, and the lost are lost. -/
theorem zeroiseLive_field {l : List Nat} (h : f ∈ l) (hf : f < s.fields.length) (hl : (s.field f).lost = false) :
    ((l.foldl (fun s f => if (s.field f).lost then s else s.zeroise f) s).field f).run = .lockdown := by
  induction l generalizing s with
  | nil => exact absurd h List.not_mem_nil
  | cons g l ih =>
    have one : s.Shuts (if (s.field g).lost then s else s.zeroise g) := zeroiseLive_shuts [g] s
    rw [List.foldl_cons]
    rcases List.mem_cons.1 h with rfl | later
    · rw [hl, if_neg Bool.false_ne_true]
      exact ((zeroiseLive_shuts l _).field f).run (zeroise_field hf).1
    · exact ih later (hf.trans_eq one.count.symm) ((one.field f).lost.trans hl)

/-- The part as self-test ends: outputs released, Headland on field 0, the strapped lane ready. -/
def State.tested (s : State) : State := (s.modPkg fun p => { p with outputs := true, headland := 0 }).bootLane

/-- What a field that passed enters (R506). -/
def State.enters (s : State) (f : Nat) (x : FieldSt) : FieldSt :=
  { x with run := if f < 2 then .bootstrap else .recovery, trainedAt := s.clock.time,
           kek := if s.lc == .blank then [] else List.replicate 2 (s.kekValue f) }

/-- Self-test that fails on field 0 or 1 erases every live field. -/
theorem endSelfTest_failed {bad : List Nat} (h : 0 ∈ bad ∨ 1 ∈ bad) (hn : 2 ≤ s.n) : s.endSelfTest bad =
    ((s.tested.fieldNums.foldl (fun s f => if (s.field f).lost then s else s.zeroise f) s.tested).modPkg fun p => { p with run := .lockdown }).syncAlert := by
  have failed : ((s.fieldNums.filter fun f => bad.contains f || (s.field f).testFailed).contains 0 ||
      (s.fieldNums.filter fun f => bad.contains f || (s.field f).testFailed).contains 1) = true := by
    simp only [State.fieldNums, Bool.or_eq_true, List.contains_iff_mem, List.mem_filter, List.mem_range]
    rcases h with zero | one
    · exact .inl ⟨by omega, .inl zero⟩
    · exact .inr ⟨by omega, .inl one⟩
  unfold State.endSelfTest
  simp only [failed, Bool.true_or, if_true]
  rfl

theorem newNonce_rest (s : State) : s.newNonce.pkg.run = s.pkg.run ∧ s.newNonce.ports = s.ports ∧ ∀ f, (s.newNonce.field f).run = (s.field f).run := by
  unfold State.newNonce
  dsimp only
  split
  · split
    · exact ⟨rfl, rfl, fun _ => rfl⟩
    · refine ⟨rfl, rfl, fun f => ?_⟩
      have read := s.modField_read s.pkg.headland f fun x => { x with seed := Nat.repeat Seedbed.serve 1 x.seed }
      exact (congrArg FieldSt.run read).trans (by split <;> rfl)
  · exact ⟨rfl, rfl, fun _ => rfl⟩
  · exact ⟨rfl, rfl, fun _ => rfl⟩

/-- The part as it enters BOOTSTRAP (R45). -/
def State.brought (s : State) : State :=
  { s.tested with fields := s.fields.zipIdx.map fun (p : FieldSt × Nat) => s.enters p.2 p.1 }.modPkg fun p => { p with run := .bootstrap }

theorem brought_port {p : Nat} (h : p < 2) :
    (s.brought.port p).up = false ∧ (s.brought.port p).bootstrap = decide (p = s.pkg.straps.toNat % 4 / 2) := by
  have port : s.brought.port p = if p == s.pkg.straps.toNat % 4 / 2 then
      { form := some (bootForm s.pkg.straps), firstLane := s.pkg.straps.toNat % 4, forced := s.pkg.straps.toNat / 8 % 2 == 1, bootstrap := true }
      else {} := by
    unfold State.port
    rw [List.getD_eq_getElem _ _ h]
    refine (List.getElem_map _).trans ?_
    rw [List.getElem_range]
    rfl
  rw [port]
  by_cases lane : p = s.pkg.straps.toNat % 4 / 2
  · rw [if_pos (beq_iff_eq.2 lane), decide_eq_true lane]
    exact ⟨rfl, rfl⟩
  · rw [if_neg (mt beq_iff_eq.1 lane), decide_eq_false lane]
    exact ⟨rfl, rfl⟩

theorem brought_run (h : f < s.fields.length) : (s.brought.field f).run = if f < 2 then .bootstrap else .recovery := by
  have field : s.brought.field f = s.enters f (s.field f) := by
    simp [State.brought, State.field, State.modPkg, h, List.getD_eq_getElem?_getD]
  rw [field]
  rfl

/-- Self-test that fails on no field brings the part up. -/
theorem endSelfTest_passed (ht : ∀ x ∈ s.fields, x.testFailed = false ∧ x.lost = false) (hs : s.Sound) (hn : 2 ≤ s.n) :
    s.endSelfTest [] = s.brought.newNonce.syncAlert := by
  have at_ (f : Nat) (hf : f < s.n) : (s.field f).testFailed = false ∧ (s.field f).lost = false := by
    have len : f < s.fields.length := hf.trans_eq hs.1.symm
    rw [State.field, List.getD_eq_getElem _ _ len]
    exact ht _ (List.getElem_mem len)
  have none : (s.fieldNums.filter fun f => ([] : List Nat).contains f || (s.field f).testFailed) = [] := by
    refine List.filter_eq_nil_iff.2 fun f hf => ?_
    simp [(at_ f (List.mem_range.1 hf)).1]
  have live : (s.tested.field 0).lost = false ∧ (s.tested.field 1).lost = false := ⟨(at_ 0 (by omega)).2, (at_ 1 (by omega)).2⟩
  unfold State.endSelfTest
  rw [none]
  refine (if_neg ?_).trans rfl
  have fine : (([] : List Nat).contains 0 || ([] : List Nat).contains 1 || (s.tested.field 0).lost || (s.tested.field 1).lost) = false := by
    rw [live.1, live.2]
    rfl
  exact Bool.eq_false_iff.1 fine

/-- Settles O30: self-test that passes gives each field its run state; one that fails on field 0 or 1 erases them all. -/
theorem selfTestLeavesInert : Obligations.SelfTestLeavesInert := by
  unfold Obligations.SelfTestLeavesInert
  refine ⟨fun s hr hi ht sound hn => ?_, fun s bad hr hi hb sound hn => ?_⟩
  · refine ⟨_, exec_selfTestComplete [] hr hi, ?_⟩
    rw [endSelfTest_passed ht sound hn]
    obtain ⟨run, ports, fields⟩ := newNonce_rest s.brought
    have port (p : Nat) : s.brought.newNonce.syncAlert.port p = s.brought.port p := congrArg (fun l : List Port => l.getD p {}) ports
    refine ⟨run, congrArg List.length ports, fun p hp => ?_, fun f hf => (fields f).trans (brought_run (hf.trans_eq sound.1.symm))⟩
    rw [port]
    exact brought_port hp
  · have hf (f : Nat) (h : f < s.n) : f < s.tested.fields.length := h.trans_eq sound.1.symm
    refine ⟨_, exec_selfTestComplete bad hr hi, ?_⟩
    rw [endSelfTest_failed hb hn]
    exact ⟨rfl, fun f h hl => zeroiseLive_field (List.mem_range.2 h) (hf f h) hl⟩

end Sys2Proof.Machine
end

section
/-! The entropy source (R297 to R308) and the control store (R372 to R374, R486): each row where its conditions hold, and the obligations about
them. -/

namespace Sys2Proof.Machine

variable {s t u : State} {f k a p : Nat} {c : Cmd} {r : Reply}

/-! ### What a command's end leaves of the entropy source -/

theorem FieldSt.Eased.seed_eq {x y : FieldSt} (h : x.Eased y) : y.seed = x.seed ∧ y.leaf = x.leaf ∧ y.mcheck = x.mcheck := by
  have work := h.1
  have seed : y.butWork.seed = x.butWork.seed := congrArg FieldSt.seed work
  have leaf : y.butWork.leaf = x.butWork.leaf := congrArg FieldSt.leaf work
  have mcheck : y.butWork.mcheck = x.butWork.mcheck := congrArg FieldSt.mcheck work
  exact ⟨seed, leaf, mcheck⟩

theorem State.Eases.clock_eq (h : s.Eases t) : t.clock = s.clock :=
  have clock : t.butWork.clock = s.butWork.clock := congrArg State.clock h.1
  clock

theorem complete_eases (hs : r.status ≠ .internalError) (hf : r.status ≠ .faultDetected) (i k : Nat) : s.Eases (s.complete i k r) := by
  cases hc : s.cmd? i k with
  | none =>
    simp only [State.complete, hc]
    exact .refl s
  | some c =>
    cases hd : c.isDone with
    | true =>
      simp only [State.complete, hc, hd, if_true]
      exact .refl s
    | false =>
      rw [complete_of hs hf hc hd]
      exact setDone_eases s i k r

/-- The end of RNG_CONFIG is at most that of commands. -/
theorem finishRngConfig_eases (s : State) : s.Eases s.finishRngConfig := by
  refine eases_foldl (fun s c => ?_) _ s
  unfold State.rngDone
  dsimp only
  split
  · exact .refl s
  · rename_i r hr
    split at hr
    · cases hr
    · obtain rfl := Option.some.inj hr
      refine complete_eases ?_ ?_ _ _ <;> · dsimp only; split <;> decide

/-- A new DNONCE draws from the generator, which goes on. -/
theorem newNonce_seed (s : State) (f : Nat) : ((s.newNonce.field f).seed.state = (s.field f).seed.state ∧
    (s.newNonce.field f).seed.seeded = (s.field f).seed.seeded) ∧ (s.newNonce.field f).leaf = (s.field f).leaf := by
  have serve (x : Seedbed) : (Seedbed.serve x).state = x.state ∧ (Seedbed.serve x).seeded = x.seeded := by
    unfold Seedbed.serve
    dsimp only
    split <;> exact ⟨rfl, rfl⟩
  unfold State.newNonce
  dsimp only
  split
  · split
    · exact ⟨⟨rfl, rfl⟩, rfl⟩
    · have read := s.modField_read s.pkg.headland f fun x => { x with seed := Nat.repeat Seedbed.serve 1 x.seed }
      have drawn : (((s.steep s.pkg.headland 32).2.modPkg fun p => { p with dnonce := (s.steep s.pkg.headland 32).1, dnonceDue := false }).field f) =
        (s.modField s.pkg.headland fun x => { x with seed := Nat.repeat Seedbed.serve 1 x.seed }).field f := rfl
      rw [drawn, read]
      split
      · rename_i here
        rw [← here.1]
        exact ⟨serve _, rfl⟩
      · exact ⟨⟨rfl, rfl⟩, rfl⟩
  · exact ⟨⟨rfl, rfl⟩, rfl⟩
  · exact ⟨⟨rfl, rfl⟩, rfl⟩

/-! ### Start-up and health -/

/-- A field whose start-up is finished (R299). -/
def FieldSt.startedUp (x : FieldSt) (pids : Bytes) : FieldSt :=
  let y := ({ x with seed := { x.seed with sources := x.seed.sources.map Source.filled } }).instantiate
  { y with seed := { y.seed with state := .ready, fixed := x.seed.fixed || x.seed.prior.isSome, prior := none, pids := pids } }

theorem exec_seedbedStartupDone (ht : s.seedTests f = true) (hr : (s.field f).seed.state ≠ .ready) (hf : f < s.fields.length) :
    ∃ t, exec (.seedbedStartupDone f) s = .next t ∧ (t.field f).seed.state = .ready ∧ (t.field f).seed.seeded = true ∧
      ∀ g ∈ (t.field f).leaf, g.running = true := by
  have row : exec (.seedbedStartupDone f) s = .next
      (let y := s.modField f fun x => x.startedUp (toBE 8 s.fuses.deviceId ++ toBE 1 f ++ toBE 4 x.seed.starts)
       (if f == y.pkg.headland && y.pkg.dnonceDue && y.pkg.run != .inert then y.newNonce else y).finishRngConfig) := by
    simp only [exec, execSeedbedStartupDone, ht, beq_eq_false_iff_ne.2 hr, Bool.not_true, Bool.or_self, Bool.false_eq_true, if_false]
    rfl
  refine ⟨_, row, ?_⟩
  have started := s.modField_read f f fun x => x.startedUp (toBE 8 s.fuses.deviceId ++ toBE 1 f ++ toBE 4 x.seed.starts)
  rw [if_pos ⟨rfl, hf⟩] at started
  generalize s.modField f (fun x => x.startedUp (toBE 8 s.fuses.deviceId ++ toBE 1 f ++ toBE 4 x.seed.starts)) = y at started
  have ready : (y.field f).seed.state = .ready ∧ (y.field f).seed.seeded = true ∧ ∀ g ∈ (y.field f).leaf, g.running = true := by
    rw [started]
    refine ⟨rfl, rfl, fun g hg => ?_⟩
    obtain ⟨_, _, rfl⟩ := List.mem_map.1 hg
    rfl
  have named (b : Bool) : ((if b then y.newNonce else y).field f).seed.state = .ready ∧ ((if b then y.newNonce else y).field f).seed.seeded = true ∧
      ∀ g ∈ ((if b then y.newNonce else y).field f).leaf, g.running = true := by
    split
    · obtain ⟨⟨state, seeded⟩, leaf⟩ := newNonce_seed y f
      rw [state, seeded, leaf]
      exact ready
    · exact ready
  obtain ⟨seed, leaf, _⟩ := ((finishRngConfig_eases _).2.2 f).seed_eq
  dsimp only
  rw [seed, leaf]
  exact named _

/-- A field whose source has failed a health test (R306). -/
def FieldSt.failed (x : FieldSt) (k : Nat) (apt : Bool) (now : Nat) (set : SeedLimits) (fails : List Nat) : FieldSt :=
  { x with seed := { ({ x.seed with sources := x.seed.sources.modify k fun n =>
    if apt then { n with aptFail := n.aptFail + 1 } else { n with rctFail := n.rctFail + 1 } }).restart now set with fails := fails } }

/-- A health failure before the latch: the start-up begins again, and what waits for Steep ends. -/
def State.afterFailure (s : State) (f k : Nat) (apt : Bool) : State :=
  (((s.modField f fun x => x.failed k apt s.clock.time s.seedLimits (s.recentFails f ++ [s.clock.time])).log f 44 9 0xFF
    (toBE 1 k ++ toBE 1 (if apt then 2 else 1))).endAll (s.awaitSteep f) .rngFault).raise 0 0x0201 (toBE 1 f ++ toBE 1 k)

/-- The third health failure within 3,600 s latches the Seedbed. -/
theorem exec_healthFailure {apt : Bool} (ht : s.seedTests f = true) (hk : k < 2) : exec (.healthFailure f k apt) s =
    .next (if ((s.afterFailure f k apt).recentFails f).length ≥ 3 then (s.afterFailure f k apt).latchSeed f else s.afterFailure f k apt) := by
  simp only [exec, execHealthFailure, ht, hk.not_ge, Bool.not_true, decide_false, Bool.or_self, Bool.false_eq_true, if_false] <;> rfl

/-- Sources that start again hold no bits. -/
theorem pool_again {l : List Source} {x : Seedbed} (h : x.sources = l.map Source.again) : x.pool = 0 := by
  have none : (x.sources.map (·.pooled)) = l.map fun _ => 0 := by
    rw [h, List.map_map]
    rfl
  rw [Seedbed.pool, none]
  simp

theorem afterFailure_seed {apt : Bool} (hf : f < s.fields.length) : ((s.afterFailure f k apt).field f).seed =
    ((s.field f).failed k apt s.clock.time s.seedLimits (s.recentFails f ++ [s.clock.time])).seed := by
  have failed := s.modField_read f f fun x => x.failed k apt s.clock.time s.seedLimits (s.recentFails f ++ [s.clock.time])
  rw [if_pos ⟨rfl, hf⟩] at failed
  have hf' : f < (s.modField f fun x => x.failed k apt s.clock.time s.seedLimits (s.recentFails f ++ [s.clock.time])).fields.length :=
    hf.trans_eq (s.modField_count f _).symm
  refine (((endAll_eases _ (s.awaitSteep f) .rngFault).2.2 f).seed_eq.1).trans ?_
  rw [State.log, State.modField_read, if_pos ⟨rfl, hf'⟩, failed]

/-- A failure counts with those of the last 3,600 s. -/
theorem afterFailure_recentFails {apt : Bool} (hf : f < s.fields.length) :
    ((s.afterFailure f k apt).recentFails f).length = (s.recentFails f).length + 1 := by
  have clock : (s.afterFailure f k apt).clock = s.clock := (endAll_eases _ (s.awaitSteep f) .rngFault).clock_eq
  have fails : ((s.afterFailure f k apt).field f).seed.fails = s.recentFails f ++ [s.clock.time] := by rw [afterFailure_seed hf]; rfl
  have recent : (s.afterFailure f k apt).recentFails f = s.recentFails f ++ [s.clock.time] := by
    rw [State.recentFails, fails, clock]
    refine List.filter_eq_self.2 fun n hn => ?_
    rcases List.mem_append.1 hn with old | new
    · exact (List.mem_filter.1 old).2
    · rw [List.mem_singleton.1 new]
      exact decide_eq_true (by unfold latchWindow; omega)
  rw [recent, List.length_append]
  rfl

/-- The latch stops the generator for good. -/
theorem latchSeed_seed (hf : f < s.fields.length) : ((s.latchSeed f).field f).seed.state = .latched ∧
    ((s.latchSeed f).field f).seed.seeded = false ∧ ((s.latchSeed f).field f).seed.pool = 0 := by
  have read := s.modField_read f f fun x =>
    { x with seed := { x.seed.stop with state := .latched, lim := x.seed.prior.getD x.seed.lim, prior := none } }
  rw [if_pos ⟨rfl, hf⟩] at read
  have seed : ((s.latchSeed f).field f).seed =
      { (s.field f).seed.stop with state := .latched, lim := (s.field f).seed.prior.getD (s.field f).seed.lim, prior := none } := by
    unfold State.latchSeed
    refine (((finishRngConfig_eases _).2.2 f).seed_eq.1).trans ?_
    have ended (y : State) := ((endAll_eases y (y.suspendedOn f none) .rngFault).2.2 f).seed_eq.1
    dsimp only
    split <;> exact (ended _).trans (congrArg FieldSt.seed read)
  rw [seed]
  exact ⟨rfl, rfl, pool_again (l := (s.field f).seed.sources) rfl⟩

/-- What a health failure leaves of the Seedbed. -/
theorem healthFailure_seed {apt : Bool} (ht : s.seedTests f = true) (hk : k < 2) (hf : f < s.fields.length) :
    ∃ t, exec (.healthFailure f k apt) s = .next t ∧ (t.field f).seed.seeded = false ∧ (t.field f).seed.pool = 0 ∧
      (2 ≤ (s.recentFails f).length → (t.field f).seed.state = .latched) ∧
      ((s.recentFails f).length < 2 → (t.field f).seed.state ≠ .ready ∧ (t.field f).seed.state ≠ .latched) := by
  refine ⟨_, exec_healthFailure ht hk, ?_⟩
  have seed := afterFailure_seed (k := k) (apt := apt) hf
  have count := afterFailure_recentFails (k := k) (apt := apt) hf
  by_cases third : 2 ≤ (s.recentFails f).length
  · have len : f < (s.afterFailure f k apt).fields.length := by
      have ended := (endAll_eases ((s.modField f fun x => x.failed k apt s.clock.time s.seedLimits (s.recentFails f ++ [s.clock.time])).log f 44 9 0xFF
        (toBE 1 k ++ toBE 1 (if apt then 2 else 1))) (s.awaitSteep f) .rngFault).2.1
      exact (hf.trans_eq ((State.modField_count _ f _).trans (s.modField_count f _)).symm).trans_eq ended.symm
    obtain ⟨state, seeded, pool⟩ := latchSeed_seed len
    rw [if_pos (by omega)]
    exact ⟨seeded, pool, fun _ => state, fun few => absurd few (by omega)⟩
  · rw [if_neg (by omega), seed]
    exact ⟨rfl, pool_again rfl, fun many => absurd many third, fun _ => ⟨SeedState.noConfusion, SeedState.noConfusion⟩⟩

/-! ### The health window -/

theorem map_getD_range_four {l : List Int} (h : l.length = 4) : ((List.range 4).map fun k => l.getD k 0) = l := by
  refine List.ext_getElem (by simp [h]) fun k _ hk => ?_
  simp [hk]

theorem exec_seedbedHealthWindow {ones : Nat} {ac : List Int} (ht : s.seedTests f = true) (hk : k < 2) (ho : ones ≤ 4096) (ha : ac.length = 4) :
    let lim := (s.field f).seed.lim
    let far := decide (lim.bias ≤ (ones - 2048) + (2048 - ones)) || ac.any fun a => decide (lim.ac ≤ a.natAbs)
    let y := s.modField f fun x => { x with seed := { x.seed with sources := x.seed.sources.modify k fun n =>
      { n with samples := n.samples + (4096 - n.tests.seen), ones := ones, ac := ac, drift := n.drift + far.toNat, tests := n.tests.nextWindow } } }
    exec (.seedbedHealthWindow f k ones ac) s = .next
      (if far then y.raise 0 0x0203 (toBE 1 f ++ toBE 1 k ++ toBE 2 ones ++ (ac.map (toBEInt 2)).flatten) else y) := by
  intro lim far y
  have counted (n : Nat) : (if far then n + 1 else n) = n + far.toNat := by cases far <;> rfl
  have row : exec (.seedbedHealthWindow f k ones ac) s = .next
      (let y := s.modField f fun x => { x with seed := { x.seed with sources := x.seed.sources.modify k fun n =>
        { n with samples := n.samples + (4096 - n.tests.seen), ones := ones, ac := ac, drift := if far then n.drift + 1 else n.drift,
                 tests := n.tests.nextWindow } } }
       if far then y.raise 0 0x0203 (toBE 1 f ++ toBE 1 k ++ toBE 2 ones ++ (ac.map (toBEInt 2)).flatten) else y) := by
    simp only [exec, execSeedbedHealthWindow, ht, hk.not_ge, ho.not_gt, map_getD_range_four ha, Bool.not_true, decide_false, Bool.or_self,
      Bool.false_eq_true, if_false] <;> rfl
  rw [row]
  simp only [counted] <;> rfl

/-! ### Reseeds and the leaf generators -/

/-- The state in which the pool is served: with a reseed of Steep where one is due. -/
def State.reseedDue (s : State) (f : Nat) : State :=
  if (s.field f).seed.reqs < 4096 then s else s.modField f fun x => { x with seed := x.seed.reseed }

theorem reseedDue_rest (s : State) (f : Nat) : (s.reseedDue f).cmds = s.cmds ∧ (s.reseedDue f).pkg = s.pkg ∧
    (s.reseedDue f).fields.length = s.fields.length ∧ ((s.reseedDue f).field f).leaf = (s.field f).leaf := by
  unfold State.reseedDue
  split
  · exact ⟨rfl, rfl, rfl, rfl⟩
  · refine ⟨rfl, rfl, s.modField_count f _, ?_⟩
    rw [State.modField_read]
    split <;> rfl

theorem reseedDue_poolPlaces (s : State) (f : Nat) : (s.reseedDue f).poolPlaces f = s.poolPlaces f := by
  obtain ⟨cmds, pkg, _, leaf⟩ := reseedDue_rest s f
  simp only [State.poolPlaces, cmds, pkg, leaf]

theorem exec_steepReseed (hr : (s.field f).seed.state = .ready) (hh : (s.field f).seed.holds 512 = true)
    (hq : 4096 ≤ (s.field f).seed.reqs ∨ s.poolQueue f = true)
    (hd : s.poolQueue f = true ∨ s.pkg.dnonceDue = false ∨ f ≠ s.pkg.headland) :
    exec (.steepReseed f) s = .next ((s.reseedDue f).servePool f) := by
  obtain ⟨_, pkg, _, _⟩ := reseedDue_rest s f
  have runs : ((s.field f).seed.state != .ready || ((decide ((s.field f).seed.reqs < 4096)) && !s.poolQueue f) || !(s.field f).seed.holds 512) = false := by
    rcases hq with many | queue
    · simp [hr, hh, many]
    · simp [hr, hh, queue]
  have queue : (s.reseedDue f).poolQueue f = s.poolQueue f := by rw [State.poolQueue, reseedDue_poolPlaces]; rfl
  have kept : (f == (s.reseedDue f).pkg.headland && (s.reseedDue f).pkg.dnonceDue && !(s.reseedDue f).poolQueue f) = false := by
    rw [queue, pkg]
    rcases hd with some | none | other
    · simp [some]
    · simp [none]
    · simp [other]
  have row : exec (.steepReseed f) s = .next (
      if (s.field f).seed.state != .ready || ((decide ((s.field f).seed.reqs < 4096)) && !s.poolQueue f) || !(s.field f).seed.holds 512 then s
      else (if f == (s.reseedDue f).pkg.headland && (s.reseedDue f).pkg.dnonceDue && !(s.reseedDue f).poolQueue f then (s.reseedDue f).newNonce
        else s.reseedDue f).servePool f) := rfl
  rw [row, runs, kept]
  rfl

theorem exec_steepReseed_idle (hr : (s.field f).seed.state = .ready) (hq : 4096 ≤ (s.field f).seed.reqs) (hh : (s.field f).seed.holds 512 = true)
    (hp : s.poolQueue f = false) (hd : s.pkg.dnonceDue = false ∨ f ≠ s.pkg.headland) : exec (.steepReseed f) s = .next (s.modField f fun x =>
      { x with seed := { x.seed with reqs := 0, reseeds := x.seed.reseeds + 1,
                                     sources := x.seed.sources.map fun n => { n with pooled := n.pooled - 512 } } }) := by
  have empty : s.poolPlaces f = [] := by simpa [State.poolQueue] using hp
  have due : s.reseedDue f = s.modField f fun x => { x with seed := x.seed.reseed } := if_neg hq.not_gt
  rw [exec_steepReseed hr hh (.inl hq) (.inr hd), State.servePool, reseedDue_poolPlaces, empty, due]
  rfl

/-- The queue for Steep's pool holds no place 0. -/
theorem poolPlaces_pos (h : p ∈ s.poolPlaces f) : p ≠ 0 := by
  unfold State.poolPlaces at h
  rcases List.mem_append.1 h with cmd | leaf
  · obtain ⟨c, hc, rfl⟩ := List.mem_map.1 cmd
    have := (List.mem_filter.1 hc).2
    simp only [Bool.and_eq_true, bne_iff_ne] at this
    exact this.1.1
  · simpa using (List.mem_filter.1 leaf).2

theorem poolQueue_of_min (h : (s.poolPlaces f).min? = some p) : s.poolQueue f = true := by
  unfold State.poolQueue
  cases hl : s.poolPlaces f with
  | nil => rw [hl] at h; cases h
  | cons => rfl

theorem exec_steepReseed_command (hr : (s.field f).seed.state = .ready) (hh : (s.field f).seed.holds 512 = true)
    (hp : (s.poolPlaces f).min? = some p) (hl : ((s.field f).leaf.any fun g => g.asked == p) = false) : ∃ t, exec (.steepReseed f) s = .next t ∧
      t.cmds = s.cmds.map fun c => if c.queued == p && c.stage == .waitPool then { c with stage := .dispatched } else c := by
  have queue := poolQueue_of_min hp
  obtain ⟨cmds, _, _, leaf⟩ := reseedDue_rest s f
  refine ⟨_, exec_steepReseed hr hh (.inr queue) (.inl queue), ?_⟩
  simp only [State.servePool, reseedDue_poolPlaces, hp, leaf, hl, Bool.false_eq_true, if_false, cmds]

/-- A draw leaves the leaf generators. -/
theorem steep_leaf (s : State) (f n : Nat) : ((s.steep f n).2.field f).leaf = (s.field f).leaf ∧ (s.steep f n).2.fields.length = s.fields.length := by
  have read := s.modField_read f f fun x => { x with seed := Nat.repeat Seedbed.serve 1 x.seed }
  refine ⟨(congrArg FieldSt.leaf read).trans ?_, s.modField_count f _⟩
  split <;> rfl

theorem exec_steepReseed_leaf (hr : (s.field f).seed.state = .ready) (hh : (s.field f).seed.holds 512 = true) (hf : f < s.fields.length)
    (hp : (s.poolPlaces f).min? = some p) (ha : ((List.range 4).find? fun a => ((s.field f).leaf.getD a {}).asked == p) = some a) :
    ∃ t, exec (.steepReseed f) s = .next t ∧ (t.field f).leaf = (s.field f).leaf.modify a LeafGen.serve := by
  have queue := poolQueue_of_min hp
  obtain ⟨_, _, count, leaf⟩ := reseedDue_rest s f
  have asked : ((s.field f).leaf.any fun g => g.asked == p) = true := by
    have here := List.find?_some (p := fun a => ((s.field f).leaf.getD a {}).asked == p) ha
    by_cases len : a < (s.field f).leaf.length
    · rw [List.getD_eq_getElem _ _ len] at here
      exact List.any_eq_true.2 ⟨_, List.getElem_mem len, here⟩
    · rw [List.getD_eq_default _ _ (by omega)] at here
      exact absurd (beq_iff_eq.1 here).symm (poolPlaces_pos (List.min?_mem hp))
  refine ⟨_, exec_steepReseed hr hh (.inr queue) (.inl queue), ?_⟩
  simp only [State.servePool, reseedDue_poolPlaces, hp, leaf, asked, if_true, State.serveLeaf, ha]
  obtain ⟨drawn, len⟩ := steep_leaf (s.reseedDue f) f 64
  rw [State.modField_read, if_pos ⟨rfl, hf.trans_eq (len.trans count).symm⟩]
  exact congrArg (List.modify · a LeafGen.serve) (drawn.trans leaf)

/-- A leaf generator stops. -/
def State.stopLeaf (s : State) (f a : Nat) : State :=
  s.modField f fun x => { x with leaf := x.leaf.modify a fun g => { g with running := false, nextSeed := false } }

/-- A generator that runs is one of the field's. -/
theorem leaf_length_of_running (h : ((s.field f).leaf.getD a {}).running = true) : a < (s.field f).leaf.length := by
  by_contra none
  rw [List.getD_eq_default _ _ (Nat.not_lt.1 none)] at h
  cases h

/-- A generator of the field after an update of it. -/
theorem leaf_modify (g : LeafGen → LeafGen) (h : a < (s.field f).leaf.length) :
    ((s.field f).leaf.modify a g).getD a {} = g ((s.field f).leaf.getD a {}) := by
  rw [List.getD_eq_getElem _ _ (by simpa using h), List.getD_eq_getElem _ _ h, List.getElem_modify, if_pos rfl]

section
variable (hl : ((s.field f).leaf.getD a {}).running = true)
include hl

theorem exec_leafSeedRequest_waits (hr : (s.field f).seed.state = .ready) (hs : s.steepStalls f false = true) :
    exec (.leafSeedRequest f a) s =
      .next ((s.modPkg fun p => { p with arrivals := p.arrivals + 1 }).modField f fun x => { x with leaf := x.leaf.modify a fun g =>
        { g with asked := if g.asked == 0 then s.pkg.arrivals + 1 else g.asked } }) := by
  simp only [exec, execLeafSeedRequest, hr, hl, hs, bne_self_eq_false, Bool.not_true, Bool.or_self, Bool.false_eq_true, if_true, if_false] <;> rfl

theorem exec_leafSeedRequest_served (hr : (s.field f).seed.state = .ready) (hf : f < s.fields.length) (hs : s.steepStalls f false = false) :
    ∃ t, exec (.leafSeedRequest f a) s = .next t ∧ ((t.field f).leaf.getD a {}).nextSeed = true ∧ t.free = s.free + 1 := by
  obtain ⟨drawn, len⟩ := steep_leaf s f 64
  refine ⟨(s.steep f 64).2.modField f fun x => { x with leaf := x.leaf.modify a fun g => { g with nextSeed := true } }, ?_, ?_, rfl⟩
  · simp only [exec, execLeafSeedRequest, hr, hl, hs, bne_self_eq_false, Bool.not_true, Bool.or_self, Bool.false_eq_true, if_false]
  · rw [State.modField_read, if_pos ⟨rfl, hf.trans_eq len.symm⟩]
    dsimp only
    rw [drawn, leaf_modify _ (leaf_length_of_running hl)]

theorem exec_leafSwitchPoint_seeded (hn : ((s.field f).leaf.getD a {}).nextSeed = true) (hs : (s.field f).seed.state ≠ .latched) :
    exec (.leafSwitchPoint f a) s = .next (s.modField f fun x => { x with leaf := x.leaf.modify a fun g =>
      { running := true, nextSeed := false, asked := 0, seeded := true, reseeds := g.reseeds + g.seeded.toNat } }) := by
  simp only [exec, execLeafSwitchPoint, hl, hn, bne_iff_ne.2 hs, Bool.not_true, Bool.and_self, Bool.false_eq_true, if_true, if_false] <;> rfl

theorem exec_leafSwitchPoint_stops (hn : ((s.field f).leaf.getD a {}).nextSeed = false) (hs : (s.field f).seed.state ≠ .latched) :
    exec (.leafSwitchPoint f a) s = .next (s.stopLeaf f a) := by
  have state : ((s.stopLeaf f a).field f).seed = (s.field f).seed := by
    unfold State.stopLeaf
    rw [State.modField_read]
    split <;> rfl
  unfold State.stopLeaf at state ⊢
  simp only [exec, execLeafSwitchPoint, hl, hn, state, beq_eq_false_iff_ne.2 hs, Bool.not_true, Bool.false_and, Bool.false_eq_true, if_false]

/-- In a latched field the generator stops, and what is suspended on it ends. -/
theorem exec_leafSwitchPoint_latched (hs : (s.field f).seed.state = .latched) (hf : f < s.fields.length) :
    ∃ t, exec (.leafSwitchPoint f a) s = .next t ∧ ((t.field f).leaf.getD a {}).running = false ∧
      ((t.field f).leaf.getD a {}).reseeds = ((s.field f).leaf.getD a {}).reseeds := by
  have read : (s.stopLeaf f a).field f = { s.field f with leaf := (s.field f).leaf.modify a fun g => { g with running := false, nextSeed := false } } := by
    unfold State.stopLeaf
    rw [State.modField_read, if_pos ⟨rfl, hf⟩]
  have latched : ((s.stopLeaf f a).field f).seed.state = .latched := by
    rw [read]
    exact hs
  have kept : ((s.field f).seed.state != .latched) = false := by rw [hs]; rfl
  refine ⟨(s.stopLeaf f a).endAll ((s.stopLeaf f a).suspendedOn f (some a)) .rngFault, ?_, ?_⟩
  · unfold State.stopLeaf at latched ⊢
    simp only [exec, execLeafSwitchPoint, hl, kept, latched, beq_self_eq_true, Bool.not_true, Bool.and_false, Bool.false_eq_true, if_true, if_false]
  · have leaf := ((endAll_eases (s.stopLeaf f a) ((s.stopLeaf f a).suspendedOn f (some a)) .rngFault).2.2 f).seed_eq.2.1
    rw [leaf, read]
    dsimp only
    rw [leaf_modify _ (leaf_length_of_running hl)]
    exact ⟨rfl, rfl⟩

end

/-- Settles O38, row by row. -/
theorem seedbedRows : Obligations.SeedbedRows := by
  unfold Obligations.SeedbedRows
  exact ⟨fun _ _ => exec_seedbedStartupDone, fun _ _ _ _ => healthFailure_seed, fun _ _ _ _ _ => exec_seedbedHealthWindow,
    fun _ _ => exec_steepReseed_idle, fun _ _ _ => exec_steepReseed_command, fun _ _ _ _ => exec_steepReseed_leaf,
    fun _ _ _ hr hl => exec_leafSeedRequest_waits hl hr, fun _ _ _ hr hl => exec_leafSeedRequest_served hl hr,
    fun _ _ _ => exec_leafSwitchPoint_seeded, fun _ _ _ => exec_leafSwitchPoint_stops, fun _ _ _ => exec_leafSwitchPoint_latched⟩

end Sys2Proof.Machine
end

section
/-! The control store (R372 to R374, R486): what a parity error ends, and O39. -/

namespace Sys2Proof.Machine

variable {s t u : State} {f i k : Nat} {c : Cmd}

/-! ### What a dropped object leaves -/

/-- A state with the commands, the runs and the machine checks of another. -/
structure State.Sheds (s t : State) : Prop where
  cmds : t.cmds = s.cmds
  runs : t.runs = s.runs
  mcheck (f : Nat) : (t.field f).mcheck = (s.field f).mcheck

theorem State.Sheds.refl (s : State) : s.Sheds s := ⟨rfl, rfl, fun _ => rfl⟩

theorem State.Sheds.trans (h : s.Sheds t) (h' : t.Sheds u) : s.Sheds u :=
  ⟨h'.cmds.trans h.cmds, h'.runs.trans h.runs, fun f => (h'.mcheck f).trans (h.mcheck f)⟩

theorem State.Frees.sheds (h : s.Frees t) : s.Sheds t := by
  obtain ⟨_, cmds, runs⟩ := parts_of_butFields h.1
  exact ⟨cmds, runs, fun f => (h.2.2.1 f).eased.seed_eq.2.2⟩

theorem sheds_foldl {α : Type} {g : State → α → State} (hg : ∀ (s : State) (a : α), s.Sheds (g s a)) (l : List α) (s : State) :
    s.Sheds (l.foldl g s) :=
  List.foldlRecOn (motive := s.Sheds) l g (.refl s) fun _ h _ _ => h.trans (hg _ _)

theorem sheds_modField (s : State) (f : Nat) {g : FieldSt → FieldSt} (hg : ∀ x : FieldSt, (g x).mcheck = x.mcheck) : s.Sheds (s.modField f g) := by
  refine ⟨rfl, rfl, fun j => ?_⟩
  rw [s.modField_read]
  split
  · exact hg _
  · rfl

/-- A state whose fields are mapped, each with its number. -/
theorem sheds_mapFields {g : FieldSt × Nat → FieldSt} (hc : t.cmds = s.cmds) (hr : t.runs = s.runs) (ht : t.fields = s.fields.zipIdx.map g)
    (hg : ∀ (x : FieldSt) (j : Nat), (g (x, j)).mcheck = x.mcheck) : s.Sheds t := by
  refine ⟨hc, hr, fun f => ?_⟩
  simp only [State.field, ht, List.getD_eq_getElem?_getD, List.getElem?_map, List.getElem?_zipIdx, Nat.zero_add]
  cases s.fields[f]? with
  | none => rfl
  | some x => exact hg x f

theorem sheds_map (s : State) {g : FieldSt → FieldSt} (hg : ∀ x : FieldSt, (g x).mcheck = x.mcheck) : s.Sheds { s with fields := s.fields.map g } := by
  refine sheds_mapFields (g := fun p => g p.1) rfl rfl ?_ fun x _ => hg x
  exact List.ext_getElem (by simp) fun k _ _ => by simp

theorem dropSa_sheds (s : State) (h : Nat) : s.Sheds (s.dropSa h) := by
  have cached : s.Sheds { s with fields := s.fields.map fun x => { x with keyCache := x.keyCache.map fun (q : List Nat) => q.filter (· != saSlot h) } } :=
    sheds_map s fun _ => rfl
  unfold State.dropSa State.syncScan
  split <;> exact ⟨cached.cmds, cached.runs, cached.mcheck⟩

theorem unseat_sheds (s : State) (n : Nat) : s.Sheds (s.unseat n) := sheds_mapFields rfl rfl rfl fun _ _ => rfl

theorem destroyKey_sheds (s : State) (h : Nat) : s.Sheds (s.destroyKey h) := by
  unfold State.destroyKey
  split
  · exact .refl s
  · rename_i k _
    have blob : s.Sheds (s.freeBlob k) := by
      unfold State.freeBlob
      split
      · exact sheds_modField s _ fun _ => rfl
      · exact (freePages_frees s _ _).sheds
    have freed : s.Sheds ((s.freeBlob k).freeCache k) := blob.trans (freePages_frees _ _ _).sheds
    refine freed.trans (State.Sheds.trans ?_ (unseat_sheds _ _))
    refine State.Sheds.trans ?_ (sheds_map _ fun _ => rfl)
    exact ⟨rfl, rfl, fun _ => rfl⟩

theorem dropIke_sheds (s : State) (h : Nat) : s.Sheds (s.dropIke h) := by
  have half (b : Bool) (s : State) (h : Nat) : s.Sheds (State.dropHalf b s h) := by
    unfold State.dropHalf
    split
    · exact .refl s
    · split
      · exact dropSa_sheds s h
      · exact destroyKey_sheds s h
  unfold State.dropIke
  split
  · exact .refl s
  · rename_i k _
    have children : s.Sheds (k.children.foldl (State.dropChild (k.flag 0)) s) :=
      sheds_foldl (fun s (x : Child) => (half (k.flag 0) s x.hIn).trans (half (k.flag 0) _ x.hOut)) k.children s
    have freed := children.trans (freePages_frees _ k.field k.pages).sheds
    exact ⟨freed.cmds, freed.runs, freed.mcheck⟩

theorem dropMade_sheds (s : State) (x : Nat × Nat) : s.Sheds (s.dropMade x) := by
  unfold State.dropMade
  split
  · exact dropSa_sheds s _
  · exact dropIke_sheds s _
  · exact ⟨rfl, rfl, fun _ => rfl⟩
  · exact destroyKey_sheds s _

/-! ### Commands that end together -/

/-- Each entry is the one the part knows by its name. -/
def State.Named (s : State) : Prop := ∀ c ∈ s.cmds, s.cmd? c.inst c.tag = some c

/-- Commands that go on: each entry keeps its name and its field, and a staged reply stays staged. -/
def State.GoOn (s t : State) : Prop := ∃ g : Cmd → Cmd, t.cmds = s.cmds.map g ∧
  ∀ d : Cmd, ((g d).inst = d.inst ∧ (g d).tag = d.tag ∧ (g d).field = d.field) ∧ (d.isDone = true → (g d).isDone = true)

theorem State.GoOn.refl (s : State) : s.GoOn s := ⟨id, (List.map_id _).symm, fun _ => ⟨⟨rfl, rfl, rfl⟩, id⟩⟩

theorem State.GoOn.trans (h : s.GoOn t) (h' : t.GoOn u) : s.GoOn u := by
  obtain ⟨g, hg, keys⟩ := h
  obtain ⟨g', hg', keys'⟩ := h'
  refine ⟨g' ∘ g, by rw [hg', hg, List.map_map], fun d => ?_⟩
  obtain ⟨⟨i, k, f⟩, done⟩ := keys d
  obtain ⟨⟨i', k', f'⟩, done'⟩ := keys' (g d)
  exact ⟨⟨i'.trans i, k'.trans k, f'.trans f⟩, done' ∘ done⟩

theorem State.GoOn.named (h : s.GoOn t) (hs : s.Named) : t.Named := by
  obtain ⟨g, hg, keys⟩ := h
  intro d hd
  rw [hg] at hd
  obtain ⟨c, hc, rfl⟩ := List.mem_map.1 hd
  rw [cmd?_of_map (fun d => ⟨(keys d).1.1, (keys d).1.2.1⟩) hg, (keys c).1.1, (keys c).1.2.1, hs c hc]
  rfl

theorem setDone_goOn (s : State) (i k : Nat) (r : Reply) : s.GoOn (s.setDone i k r) := by
  cases hc : s.cmd? i k with
  | none =>
    simp only [State.setDone, hc]
    exact .refl s
  | some c =>
    cases hd : c.isDone with
    | true =>
      simp only [State.setDone, hc, hd, if_true]
      exact .refl s
    | false => exact ⟨_, (setDone_parts r hc hd).1, fun d => ⟨stagedBy_key .., fun done => stagedBy_isDone c i k _ (.inl done)⟩⟩

/-- An entry whose reply is staged is one with a reply. -/
theorem setDone_done (hs : s.Named) (r : Reply) {d : Cmd} (hd : d ∈ (s.setDone i k r).cmds) (hi : d.inst = i) (ht : d.tag = k) : d.isDone = true := by
  cases hc : s.cmd? i k with
  | none =>
    simp only [State.setDone, hc] at hd
    have := hs d hd
    rw [hi, ht, hc] at this
    cases this
  | some c =>
    cases done : c.isDone with
    | true =>
      simp only [State.setDone, hc, done, if_true] at hd
      have := hs d hd
      rw [hi, ht, hc] at this
      exact Option.some.inj this ▸ done
    | false =>
      rw [(setDone_parts r hc done).1] at hd
      obtain ⟨e, _, rfl⟩ := List.mem_map.1 hd
      obtain ⟨ei, et, _⟩ := stagedBy_key c i k (s.finalReply c r) e
      exact stagedBy_isDone c i k _ (.inr ⟨ei.symm.trans hi, et.symm.trans ht⟩)

theorem endAll_goOn (s : State) (cs : List Cmd) (st : Status) : s.GoOn (s.endAll cs st) :=
  List.foldlRecOn (motive := s.GoOn) cs _ (.refl s) fun _ h _ _ => h.trans (setDone_goOn ..)

/-- Every command of a list that is ended has its reply. -/
theorem endAll_done (cs : List Cmd) (st : Status) (hs : s.Named) {d c : Cmd} (hd : d ∈ (s.endAll cs st).cmds) (hc : c ∈ cs)
    (hi : d.inst = c.inst) (ht : d.tag = c.tag) : d.isDone = true := by
  induction cs generalizing s with
  | nil => exact absurd hc List.not_mem_nil
  | cons b cs ih =>
    have one := setDone_goOn s b.inst b.tag { status := st }
    rcases List.mem_cons.1 hc with rfl | later
    · obtain ⟨g, hg, keys⟩ := endAll_goOn (s.setDone c.inst c.tag { status := st }) cs st
      have : d ∈ ((s.setDone c.inst c.tag { status := st }).endAll cs st).cmds := hd
      rw [hg] at this
      obtain ⟨e, he, rfl⟩ := List.mem_map.1 this
      exact (keys e).2 (setDone_done hs _ he ((keys e).1.1.symm.trans hi) ((keys e).1.2.1.symm.trans ht))
    · exact ih (one.named hs) hd later

/-! ### A parity error -/

/-- A field enters machine check (R372). -/
def State.enterCheck (s : State) (f : Nat) : State :=
  s.modField f fun x => { x with mcheck := true, faults := (x.faults.filter fun t => s.clock.time < t + 60000000000) ++ [s.clock.time] }

/-- The commands that a field's machine check ends. -/
def State.liveOn (s : State) (f : Nat) : List Cmd := s.cmds.filter fun c => !c.isDone && (c.field == some f || c.field2 == some f)

/-- The part once those commands have ended and the field's runs are gone. -/
def State.clearedOn (s : State) (f : Nat) : State :=
  let z := (s.enterCheck f).endAll (s.liveOn f) .machineCheck
  { z with runs := z.runs.filter fun r => r.field != f }

theorem machineCheck_sheds (s : State) (f : Nat) : (s.clearedOn f).Sheds (s.machineCheck f) := by
  have stopped : (s.clearedOn f).Sheds ((s.clearedOn f).modField f fun x => { x with furrows := x.furrows.map Furrow.stop }) :=
    sheds_modField _ f fun _ => rfl
  have eq : s.machineCheck f = ((s.liveOn f).flatMap (s.madeBy f)).foldl State.dropMade
      ((s.clearedOn f).modField f fun x => { x with furrows := x.furrows.map Furrow.stop }) := rfl
  rw [eq]
  exact stopped.trans (sheds_foldl dropMade_sheds _ _)

theorem machineCheck_ends (hf : f < s.fields.length) (hs : s.Named) : ((s.machineCheck f).field f).mcheck = true ∧
    (∀ r ∈ (s.machineCheck f).runs, r.field ≠ f) ∧ ∀ c ∈ (s.machineCheck f).cmds, c.field = some f → c.isDone = true := by
  have shed := machineCheck_sheds s f
  have checked : ((s.enterCheck f).field f).mcheck = true := by
    rw [State.enterCheck, State.modField_read, if_pos ⟨rfl, hf⟩]
  have named : (s.enterCheck f).Named := hs
  have ended := ((endAll_eases (s.enterCheck f) (s.liveOn f) .machineCheck).2.2 f).seed_eq.2.2
  refine ⟨(shed.mcheck f).trans (ended.trans checked), fun r hr => ?_, fun d hd on => ?_⟩
  · rw [shed.runs] at hr
    simpa using (List.mem_filter.1 hr).2
  · rw [shed.cmds] at hd
    obtain ⟨g, hg, keys⟩ := endAll_goOn (s.enterCheck f) (s.liveOn f) .machineCheck
    have image : d ∈ ((s.enterCheck f).endAll (s.liveOn f) .machineCheck).cmds := hd
    rw [hg] at image
    obtain ⟨c, hc, rfl⟩ := List.mem_map.1 image
    obtain ⟨⟨i, k, place⟩, done⟩ := keys c
    cases hdone : c.isDone with
    | true => exact done hdone
    | false =>
      have listed : c ∈ s.liveOn f := List.mem_filter.2 ⟨hc, by rw [hdone, ← place, on]; simp⟩
      exact endAll_done (s.liveOn f) .machineCheck named hd listed i k

theorem exec_parityError {w : Nat} (hr : s.caddyRuns f = true) (hw : w < 16384) : exec (.parityError f w) s = .next (s.machineCheck f) := by
  simp only [exec, execParityError, hr, hw, decide_true, Bool.and_self, if_true]

theorem exec_controlStoreReloadDone (hm : (s.field f).mcheck = true) : exec (.controlStoreReloadDone f) s =
    .next (if s.faultCount f ≥ 4 then s.alarm f 7 59 (min 255 (s.faultCount f)) else
      ((s.reloadStore f).modField f fun x => { x with mcheck := false }).raise 0 0x0105 (toBE 1 f ++ toBE 1 (s.faultCount f))) := by
  simp only [exec, execControlStoreReloadDone, hm, Bool.not_true, Bool.false_eq_true, if_false]

theorem exec_controlStoreScrub (b : Bool) (hn : f < s.n) (hl : (s.field f).lost = false) (hr : (s.field f).run ≠ .lockdown) :
    exec (.controlStoreScrub f b) s = .next (State.modField
      (if b then (s.repairWord f (s.field f).scrubAt).log f 32 6 0xFF (toBE 2 (s.field f).scrubAt) else s) f fun x =>
      { x with scrubAt := (x.scrubAt + 1) % 16384 }) := by
  simp only [exec, execControlStoreScrub, hn.not_ge, hl, beq_eq_false_iff_ne.2 hr, decide_false, Bool.or_self, Bool.false_eq_true, if_false]

/-- Settles O39: a parity error's machine check ends what runs on the field, and the other rows are their definitions' branches. -/
theorem controlStoreRows : Obligations.ControlStoreRows := by
  unfold Obligations.ControlStoreRows
  refine ⟨fun s f w hr hw hf hs => ⟨_, exec_parityError hr hw, machineCheck_ends hf hs⟩, fun s f hm hn => ?_, fun s f hm hn => ?_,
    fun _ _ => exec_controlStoreScrub false, fun _ _ => exec_controlStoreScrub true⟩
  · rw [exec_controlStoreReloadDone hm, if_neg (by omega)]
  · rw [exec_controlStoreReloadDone hm, if_pos hn]

end Sys2Proof.Machine
end
